-- ==== Sys2Proof/Word.lean ====
section
/-!
DEFINITION. Word.lean: the plain word types of the model.
Registers, descriptors, records and table lines are bit vectors (R4, R5); counts, numbers of devices and addresses
are natural numbers.
-/

namespace Sys2Proof

/-- One byte. -/
abbrev Byte := BitVec 8

/-- A 16-bit word. -/
abbrev W16 := BitVec 16

/-- A BAR0 register (R6). -/
abbrev W32 := BitVec 32

/-- A 64-bit word. -/
abbrev W64 := BitVec 64

/-- A ring descriptor or an event entry: 64 bytes (R445). -/
abbrev Desc := BitVec 512

/-- A 128-byte HBM unit: a flow record, a tag pair, a key slot or an audit record (R31, R46, R343, R491). -/
abbrev Unit128 := BitVec 1024

end Sys2Proof
end

