-- ==== Sys2Proof/Syntax.lean ====
section
/-!
DEFINITION. Syntax.lean: the commands the block takes from outside (host accesses, ring commands, frames, pins) and
the events it takes by itself, one constructor for each row of the opcode table. A ring command names its ring and
its slot; an event names the device it happens to and carries what the physical world decides (a frame's bytes, a
temperature, the outcome of a test).
-/

namespace Sys2Proof

/-- Where a PCIe access lands: the PF's BAR0, or a function's BAR2 (0 the PF, 1 to 64 a VF; R442, R443). -/
inductive Space where
  | bar0
  | bar2 (fn : Fin 65)
deriving DecidableEq, Repr

/-- What the line did to a frame (R385, R388, R390, R396): uncorrectable codewords in it, a control or error character or
a bad start in it, the link lost within it; and what FEC put right: codewords, and symbols by lane, from the port's first. -/
structure LineErr where
  codewords : Nat := 0
  rxError   : Bool := false
  linkLost  : Bool := false
  corrected : Nat := 0
  symErrs   : List Nat := []
deriving DecidableEq, Repr

/-- What a lane lost (R388). -/
inductive LaneLoss where
  | signal | lock | alignment
deriving DecidableEq, Repr

/-- A technology of Clause 73 (R383, R387): the mode whose rate and lanes it has, and its medium, backplane or copper cable. -/
structure Tech where
  mode   : Nat
  copper : Bool
deriving DecidableEq, Repr

/-- A port that has negotiated, and what its partner has advertised (R387). -/
structure Partner where
  port  : Fin 128
  techs : List Tech
deriving DecidableEq, Repr

/-- The stamps of one marker of a lane (R402), in units of 2^-16 ns of the time clock: at the pins, and as it leaves the PCS. -/
structure Marker where
  pins : Nat
  exit : Nat
deriving DecidableEq, Repr

/-- An error that a stack reports (R377): a read of an address that its on-die ECC cannot correct, or a command-parity or
write-data-parity error that has failed a second time. -/
structure MemError where
  addr   : Nat
  parity : Bool := false
deriving DecidableEq, Repr

/-- A fault of the link that appears or ends (R386, R388). -/
inductive FaultKind where
  | localFault | remoteFault | localEnd | remoteEnd
deriving DecidableEq, Repr

/-- An upset of a checked memory of the die: what radiation or wear has done to its content since it was last read. The event that
carries it is one that reads such memories. -/
inductive Upset where
  /-- A line of a table's exact-match memory, of a trie with the prefix that the line covers, or of the next hops (R242). -/
  | exactLine (pipe : Fin 8) (line : Nat)
  | trieLine (pipe : Fin 8) (v6 : Bool) (prefx : BitVec 128) (len line : Nat)
  | nexthopLine (pipe : Fin 8) (line : Nat)
  /-- An action line, or a unit, of a TCAM bank (R260, R261). -/
  | tcamLine (pipe : Fin 8) (bank : Fin 16) (line : Nat)
  | tcamUnit (pipe : Fin 8) (bank : Fin 16) (unit : Fin 4096)
  /-- A physical microword: one bit, or more (R186). -/
  | microword (cluster : Fin 8) (word : Fin 32768) (double : Bool)
  /-- A cell of the packet buffer (R266). -/
  | cell (cell : Nat)
  /-- An entry of the key cache: one bit, or more (R344, R345). -/
  | keyEntry (key : BitVec 22) (double : Bool)
  /-- A keel entry (R514). -/
  | keel (entry : Fin 4096)
  /-- A byte of Hallmark's own firmware (R479). -/
  | firmware (byte : Nat)
  /-- A line of a slice's hot cache (R54). -/
  | hotLine (slice : Fin 16) (line : Nat)
deriving DecidableEq, Repr

/-- What an event that reads checked memories names, and the upsets that have come up before it. -/
structure Struck (α : Type) where
  it     : α
  upsets : List Upset := []
deriving DecidableEq, Repr

/-- The source of a lookup at a slice's order point, the upsets before it, and the places of the hot tags and stash entries in which a double-bit error has
come up before it (R56). -/
structure SliceRead where
  source : Fin 8
  tags   : List Nat := []
  stash  : List Nat := []
  upsets : List Upset := []
deriving DecidableEq, Repr

/-- A transaction on the SMBus (R557, R558): its address, whether it is a Block Read, its command code, and the bytes that it writes
beyond the code. -/
structure SmbusXfer where
  address   : BitVec 7
  blockRead : Bool := true
  code      : Byte
  beyond    : List Byte := []
deriving DecidableEq, Repr

/-- A JTAG instruction (R490, R559): boundary scan of IEEE 1149.1 or 1149.6, or one beyond it. -/
inductive JtagInstr where
  | bypass | idcode | boundaryScan | beyond
deriving DecidableEq, Repr


/-- The commands of the block: one constructor for each row of `spec/opcode_table.json`. -/
inductive Instr where
  /-- FLOW_LOOKUP (R90): Host command 0x20 finds a record by its canonical key and writes it to the buffer. -/
  | flowLookup (ring : Fin 1024) (slot : Nat)
  /-- FLOW_READ (R90): Host command 0x21 writes the record named by a handle to the buffer. -/
  | flowRead (ring : Fin 1024) (slot : Nat)
  /-- FLOW_INSTALL (R92): Host command 0x22 creates a record from a 128-byte image, allocating index and NAT port as a setup does. -/
  | flowInstall (ring : Fin 1024) (slot : Nat)
  /-- FLOW_MODIFY (R93): Host command 0x23 writes the record fields that MODIFY_MASK selects. -/
  | flowModify (ring : Fin 1024) (slot : Nat)
  /-- FLOW_DELETE (R105): Host command 0x24 deletes a record by handle or by key, with cause HOST_DELETE. -/
  | flowDelete (ring : Fin 1024) (slot : Nat)
  /-- FLOW_TEMPLATE_WRITE (R85): Host command 0x25 writes a setup template, which reaches all slices within 1 us. -/
  | flowTemplateWrite (ring : Fin 1024) (slot : Nat)
  /-- FILIGREE_LOAD (R89): Host command 0x26 writes a Filigree image into the named slices. -/
  | filigreeLoad (ring : Fin 1024) (slot : Nat)
  /-- FILIGREE_SWITCH (R89): Host command 0x27 makes the loaded bank active in DUAL mode. -/
  | filigreeSwitch (ring : Fin 1024) (slot : Nat)
  /-- EXPORT_PROFILE_WRITE (R123): Host command 0x28 writes an export profile. -/
  | exportProfileWrite (ring : Fin 1024) (slot : Nat)
  /-- INDIRECTION_WRITE (R149): Host command 0x40 loads an indirection table and ROT, swapped in by each named pipeline. -/
  | indirectionWrite (ring : Fin 1024) (slot : Nat)
  /-- INDIRECTION_READ (R148): Host command 0x41 writes an indirection table to the buffer. -/
  | indirectionRead (ring : Fin 1024) (slot : Nat)
  /-- TABLE_WRITE (R237): Host command 0x44 applies exact, LPM or next-hop entries to the named pipelines. -/
  | tableWrite (ring : Fin 1024) (slot : Nat)
  /-- TABLE_READ (R239): Host command 0x45 reads table entries from a cursor. -/
  | tableRead (ring : Fin 1024) (slot : Nat)
  /-- TCAM_WRITE (R259): Host command 0x46 inserts, deletes or changes the action of TCAM entries. -/
  | tcamWrite (ring : Fin 1024) (slot : Nat)
  /-- TCAM_READ (R258): Host command 0x47 reads TCAM entries from a cursor. -/
  | tcamRead (ring : Fin 1024) (slot : Nat)
  /-- TCAM_COUNTER_READ (R258): Host command 0x48 reads TCAM counter pairs, clearing them under CLASP. -/
  | tcamCounterRead (ring : Fin 1024) (slot : Nat)
  /-- GRAPH_TEMPLATE_WRITE (R164): Host command 0x50 checks and loads an operation-graph template into the named clusters. -/
  | graphTemplateWrite (ring : Fin 1024) (slot : Nat)
  /-- GRAPH_TEMPLATE_READ (R180): Host command 0x51 writes the active image of a template to the buffer. -/
  | graphTemplateRead (ring : Fin 1024) (slot : Nat)
  /-- MCS_PATCH_LOAD (R211): Host command 0x52 verifies a signed patch image and stages it in the named clusters. -/
  | mcsPatchLoad (ring : Fin 1024) (slot : Nat)
  /-- MCS_PATCH_SWITCH (R212): Host command 0x53 makes the staged page map active, or discards it with DISCARD = 1. -/
  | mcsPatchSwitch (ring : Fin 1024) (slot : Nat)
  /-- MCAST_GROUP_WRITE (R294): Host command 0x70 writes multicast group entries. -/
  | mcastGroupWrite (ring : Fin 1024) (slot : Nat)
  /-- MCAST_GROUP_READ (R294): Host command 0x71 reads multicast group entries. -/
  | mcastGroupRead (ring : Fin 1024) (slot : Nat)
  /-- REWRITE_TEMPLATE_WRITE (R280): Host command 0x72 loads a rewrite template, swapped in between two frames. -/
  | rewriteTemplateWrite (ring : Fin 1024) (slot : Nat)
  /-- PORT_FLUSH (R288): Host command 0x73 removes the copies queued on selected class queues of a port. -/
  | portFlush (ring : Fin 1024) (slot : Nat)
  /-- BLOCK_RELEASE (R292): Host command 0x74 returns a block's quarantined cells to pool 0. -/
  | blockRelease (ring : Fin 1024) (slot : Nat)
  /-- TM_NODE_WRITE (R317): Host command 0x78 writes traffic-manager node entries. -/
  | tmNodeWrite (ring : Fin 1024) (slot : Nat)
  /-- TM_NODE_READ (R334): Host command 0x79 reads traffic-manager node entries. -/
  | tmNodeRead (ring : Fin 1024) (slot : Nat)
  /-- POLICER_PROFILE_WRITE (R323): Host command 0x7A writes policer profiles to all slices. -/
  | policerProfileWrite (ring : Fin 1024) (slot : Nat)
  /-- GATE_LIST_WRITE (R328): Host command 0x7B writes a gate list into the non-operative bank of a port. -/
  | gateListWrite (ring : Fin 1024) (slot : Nat)
  /-- GATE_LIST_ARM (R329): A written gate list is armed with its change time, late base detected. -/
  | gateListArm (port : Fin 128)
  /-- GATE_LIST_READ (R334): Host command 0x7C reads the operative or armed gate list. -/
  | gateListRead (ring : Fin 1024) (slot : Nat)
  /-- KEY_WRITE (R348): Host command 0x80 installs or rewrites a key slot from a sealed import blob. -/
  | keyWrite (ring : Fin 1024) (slot : Nat)
  /-- KEY_ERASE (R353): Host command 0x81 makes a slot ERASING and aborts its unaccepted requests. -/
  | keyErase (ring : Fin 1024) (slot : Nat)
  /-- KEY_ERASE_COMPLETE (R353): Once accepted requests drain, the slot is zeroised, its generation increments and it becomes IDLE. -/
  | keyEraseComplete (key : BitVec 22)
  /-- KEY_STATE_READ (R347): Host command 0x82 writes a slot's state, never its key material. -/
  | keyStateRead (ring : Fin 1024) (slot : Nat)
  /-- KEY_PIN (R347): Host command 0x83 pins or unpins a key slot. -/
  | keyPin (ring : Fin 1024) (slot : Nat)
  /-- MEM_SLOT_TABLE_WRITE (R369): Host command 0x90 writes the shadow slot table of the named stacks. -/
  | memSlotTableWrite (ring : Fin 1024) (slot : Nat)
  /-- PORT_MODE_WRITE (R393): Host command 0x98 sets the modes of an octet's quads, creating and removing ports. -/
  | portModeWrite (ring : Fin 1024) (slot : Nat)
  /-- PORT_ADMIN (R394): Host command 0x99 takes a port down or starts it. -/
  | portAdmin (ring : Fin 1024) (slot : Nat)
  /-- LANE_EYE_READ (R401): Host command 0x9A makes a lane's Loupe scan its eye and write the map. -/
  | laneEyeRead (ring : Fin 1024) (slot : Nat) (map : List W16)
  /-- TIME_OFFSET (R431): Host command 0xA0 feeds an offset to the servo, or refuses it over the jump threshold. -/
  | timeOffset (ring : Fin 1024) (slot : Nat)
  /-- TIME_STEP (R434): Host command 0xA1 steps device time absolutely or relatively. -/
  | timeStep (ring : Fin 1024) (slot : Nat)
  /-- TIME_FREQ (R433): Host command 0xA2 sets FREQ and the servo integral. -/
  | timeFreq (ring : Fin 1024) (slot : Nat)
  /-- BOOT_IMAGE_LOAD (R475): Host command 0xB0 verifies and loads the device image and enters RUN. -/
  | bootImageLoad (ring : Fin 1024) (slot : Nat)
  /-- IDENT_CERT_READ (R480): Host command 0xB1 writes the identity certificate. -/
  | identCertRead (ring : Fin 1024) (slot : Nat)
  /-- ATTEST (R482): Host command 0xB2 writes signed attestation evidence over the verifier's nonce. -/
  | attest (ring : Fin 1024) (slot : Nat)
  /-- ROLE_CHALLENGE (R486): Host command 0xB3 draws a challenge nonce for the ring. -/
  | roleChallenge (ring : Fin 1024) (slot : Nat)
  /-- ROLE_AUTH (R487): Host command 0xB4 opens a role session from a signed token. -/
  | roleAuth (ring : Fin 1024) (slot : Nat)
  /-- ROLE_CLOSE (R487): Host command 0xB5 closes the ring's session. -/
  | roleClose (ring : Fin 1024) (slot : Nat)
  /-- TICKET_EXEC (R488): Host command 0xB6 performs one ticket action authorised by a token. -/
  | ticketExec (ring : Fin 1024) (slot : Nat)
  /-- CODE_KEY_LOAD (R490): Host command 0xB7 presents a code key's modulus for patch verification. -/
  | codeKeyLoad (ring : Fin 1024) (slot : Nat)
  /-- AUDIT_READ (R494): Host command 0xB8 reads audit records from a SEQ. -/
  | auditRead (ring : Fin 1024) (slot : Nat)
  /-- AUDIT_RELEASE (R494): Host command 0xB9 frees audit records up to a SEQ. -/
  | auditRelease (ring : Fin 1024) (slot : Nat)
  /-- AUDIT_SEAL (R494): Host command 0xBA writes the signed head of the audit chain. -/
  | auditSeal (ring : Fin 1024) (slot : Nat)
  /-- INJECT (R460): An INJECT descriptor 0xC0 admits and stores a host frame into a pipeline or directly onto a queue. -/
  | inject (ring : Fin 1024) (slot : Nat)
  /-- POWER_SET (R501): Host command 0xD0 takes the named domains to ON, RETAIN or OFF, or shuts the device down. -/
  | powerSet (ring : Fin 1024) (slot : Nat)
  /-- POWER_TRANSITION_DONE (R503): A domain transition completes after its transition time. -/
  | powerTransitionDone (domain : Fin 64)
  /-- SOLITAIRE_ENTER (R511): Host command 0xD1, or any other cause, puts the device into Solitaire mode. -/
  | solitaireEnter (cause : Fin 4) (ring : Fin 1024) (slot : Nat)
  /-- SOLITAIRE_EXIT (R517): Host command 0xD2 returns the device from Solitaire mode where every cause has cleared. -/
  | solitaireExit (ring : Fin 1024) (slot : Nat)
  /-- KEEL_WRITE (R516): Host command 0xD3 writes keel entries into all pipeline copies. -/
  | keelWrite (ring : Fin 1024) (slot : Nat)
  /-- KEEL_READ (R521): Host command 0xD4 reads keel entries. -/
  | keelRead (ring : Fin 1024) (slot : Nat)
  /-- HEALTH_RECORD_READ (R509): Host command 0xD5 writes the current health record. -/
  | healthRecordRead (ring : Fin 1024) (slot : Nat)
  /-- HEALTH_RECORD_LOAD (R509): Host command 0xD6 verifies a health record and applies its repairs and quarantines. -/
  | healthRecordLoad (ring : Fin 1024) (slot : Nat)
  /-- BIST_RUN (R507): Host command 0xD7 runs BIST on domains in RETAIN and returns the health record. -/
  | bistRun (ring : Fin 1024) (slot : Nat) (domainFails : BitVec 64) (macroFails : List (Nat × Nat))
  /-- REGISTER_WRITE (R9): A BAR0 write to a register without its own row, checked for size, mapping, seal and reserved encodings. -/
  | registerWrite (space : Space) (addr : Nat) (size : Nat) (value : W64)
  /-- LATCHED_READ (R7): A read of the lowest word of a wide value latches its higher words. -/
  | latchedRead (space : Space) (addr : Nat) (size : Nat)
  /-- RC_READ (R11): A read of a read-clear field returns its value and clears it. -/
  | rcRead (addr : Nat) (size : Nat)
  /-- SETUP_SEAL (R538): A keyed write of HLT_SETUP_SEAL seals every RWS register. -/
  | setupSeal (value : W32)
  /-- GLB_RESET (R534): A keyed write of GLB_RESET starts a device reset. -/
  | glbReset (value : W32)
  /-- FLW_ENABLE (R57): A write of FLW_CTRL.ENABLE = 1 fixes the hash key and starts slice initialisation once stacks are trained. -/
  | flwEnable (value : W32)
  /-- FLW_INIT_START (R543): Slice initialisation starts once every stack is trained. -/
  | flwInitStart
  /-- SLICE_READY (R57): A slice finishes writing its tag pairs empty and sets READY. -/
  | sliceReady (slice : Fin 16)
  /-- FILIGREE_MODE_WRITE (R89): A write of FLW_FILIGREE_CTRL that changes DUAL empties both banks of every slice. -/
  | filigreeModeWrite (value : W32)
  /-- NAT_POOL_VALID (R111): A write of FLW_NAT_CFG_n setting VALID checks and enables a NAT pool. -/
  | natPoolValid (pool : Fin 16) (value : W32)
  /-- SWEEP_ENABLE (R96): A write of FLW_AGE_CTRL.ENABLE starts or pauses the sweepers. -/
  | sweepEnable (value : W32)
  /-- BUF_ENABLE (R271): A write of SWC_BUF_CTRL.ENABLE = 1 checks allowances and pools and puts the buffer in service. -/
  | bufEnable (value : W32)
  /-- TCM_BANK_CFG_WRITE (R246): A write of TCM_BANK_CFG changes the width of empty banks. -/
  | tcmBankCfgWrite (pipe : Fin 8) (value : W32)
  /-- MEM_REQ_CFG_WRITE (R368): A write of a requester's PRIORITY, TARGET_NS or BURST_LIMIT applies from the next arbitration decision. -/
  | memReqCfgWrite (stack : Fin 4) (requester : Fin 32) (value : W64)
  /-- CLK_SRC_WRITE (R421): A write of TMU_CLK_CTRL.SRC changes the time-clock reference and relocks the PLL. -/
  | clkSrcWrite (value : W32)
  /-- PLL_RELOCK (R421): The time PLL relocks to its reference and sets LOCK. -/
  | pllRelock
  /-- SPARE_ENABLE_WRITE (R414): A write of HLT_SPARE_CTRL.ENABLE starts the test slices, or lets them stop after the macro in hand. -/
  | spareEnableWrite (value : W32)
  /-- PERF_SEL_WRITE (R467): A write of HIF_PERF_SEL_i zeroes counter i and starts its new selection. -/
  | perfSelWrite (counter : Fin 512) (value : W32)
  /-- STORM_CLEAR (R327): A W1C write of a STORM bit ends the ignoring of received PFC for that priority. -/
  | stormClear (port : Fin 128) (value : W32)
  /-- INT_STATUS_CLEAR (R520): A W1C write of an interrupt status group, which sends a further message where its OR stays 1. -/
  | intStatusClear (group : Fin 16) (value : W32)
  /-- RING_ENABLE (R446): A write of HIF_RING_CTRL.ENABLE = 1 checks a ring and starts it at index 0. -/
  | ringEnable (ring : Fin 1024)
  /-- RING_DISABLE (R449): A write of ENABLE = 0 stops fetch and winds down a ring's outstanding work. -/
  | ringDisable (ring : Fin 1024)
  /-- RING_IDLE (R449): A disabled ring's outstanding work has drained and IDLE is set. -/
  | ringIdle (ring : Fin 1024)
  /-- DOORBELL_UPDATE (R447): A doorbell write with UPDATE moves the host's tail or head of a ring. -/
  | doorbellUpdate (fn : Fin 65) (page : Fin 1024) (value : W32)
  /-- DOORBELL_ARM (R464): A doorbell write with ARM re-arms the ring's vector, sending at once where due. -/
  | doorbellArm (fn : Fin 65) (page : Fin 1024) (value : W32)
  /-- DESCRIPTOR_FETCH (R451): HIF fetches posted descriptors of an enabled ring. -/
  | descriptorFetch (ring : Fin 1024)
  /-- FETCH_ERROR (R453): A failed or timed-out descriptor fetch puts the ring into ERROR. -/
  | fetchError (ring : Fin 1024) (cause : Fin 4)
  /-- COMMAND_ACCEPT (R563): A fetched command is checked and accepted when its target can take it. -/
  | commandAccept (ring : Fin 1024)
  /-- COMMAND_STAGE (R451): HIF stages a command's buffer in pool buffers, waiting for an allocation it may charge. -/
  | commandStage (ring : Fin 1024) (slot : Nat) (dmaFail : Bool)
  /-- COMPLETION_WRITE (R451): The device writes a command's RESULT and header with DONE. -/
  | completionWrite (ring : Fin 1024) (slot : Nat)
  /-- PUNT_WRITE (R458): A host-port queue's head frame is written to posted PUNT buffers once enough are posted. -/
  | puntWrite (queue : Fin 32)
  /-- EXPORT_MESSAGE_CLOSE (R124): An IPFIX message closes on size or 1 ms and is written to an export buffer. -/
  | exportMessageClose (profile : Fin 4096)
  /-- VECTOR_TIMEOUT (R463): A vector's moderation time expires and its MSI-X message is sent. -/
  | vectorTimeout (vector : Fin 64)
  /-- PERF_SNAPSHOT (R468): HIF writes a performance-counter snapshot every PERIOD_US. -/
  | perfSnapshot
  /-- PERF_OVERFLOW (R467): A performance counter wraps at 2^48 and raises PERF_OVERFLOW. -/
  | perfOverflow (counter : Fin 512)
  /-- FUNCTION_LEVEL_RESET (R444): A PCIe function-level reset disables the function's rings and vectors. -/
  | functionLevelReset (fn : Fin 65)
  /-- BUS_MASTER_DISABLE (R444): Clearing Bus Master Enable puts the function's rings into ERROR. -/
  | busMasterDisable (fn : Fin 65)
  /-- PCIE_HOT_RESET (R533): A hot reset or PCIe link loss acts as a function-level reset on every function. -/
  | pcieHotReset
  /-- PWR_GOOD_ASSERT (R552): A PWR_GOOD input asserts in stage order. -/
  | pwrGoodAssert (input : Fin 5)
  /-- PWR_GOOD_DROP (R552): A PWR_GOOD dropping while running starts a power-on reset. -/
  | pwrGoodDrop (input : Fin 5)
  /-- PERST_N_ASSERT (R555): PERST_N low starts a device reset. -/
  | perstNAssert
  /-- PERST_N_RELEASE (R474): PERST_N released ends reset and starts the boot ROM and HBM training. -/
  | perstNRelease
  /-- BOOT_ROM_DONE (R474): The boot ROM finishes self-test and key derivation and enters BOOT or HALT. -/
  | bootRomDone (pass : Bool)
  /-- HBM_TRAINED (R543): A stack's initial training completes and TRAINED is set. -/
  | hbmTrained (stack : Fin 4)
  /-- LOCKET_READY (R342): The Locket finishes writing every slot IDLE and sets CIP_STATUS.READY. -/
  | locketReady
  /-- RNG_HEALTH_FAIL (R473): The entropy source fails a health test and commands needing randomness are refused. -/
  | rngHealthFail
  /-- FRAME_RECEIVE (R390): A frame arrives on a port in UP and is filtered, staged and admitted at its first cell. -/
  | frameReceive (port : Fin 128) (bytes : List Byte) (line : LineErr)
  /-- PFC_XOFF_REPEAT (R325): Half the quanta time passes with the count above XON and XOFF is sent again. -/
  | pfcXoffRepeat (port : Fin 128) (prio : Fin 8)
  /-- PFC_RECEIVE (R326): A received PFC frame pauses or unpauses the port's queues of its priority. -/
  | pfcReceive (port : Fin 128) (enable : BitVec 16) (timers : List W16)
  /-- PFC_PAUSE_EXPIRE (R326): A received PFC pause timer expires and the queues resume. -/
  | pfcPauseExpire (port : Fin 128) (prio : Fin 8)
  /-- PFC_STORM (R327): A queue stays paused for WATCHDOG_US and a storm is flagged. -/
  | pfcStorm (port : Fin 128) (prio : Fin 8)
  /-- PARSE_DECISION (R134): The header window is complete and the parser classes the frame and picks its path. -/
  | parseDecision (frame : Struck Nat)
  /-- LEARN_HOLDOFF_EXPIRE (R231): A learn-filter key's hold-off ends and it leaves the filter. -/
  | learnHoldoffExpire (pipe : Fin 8) (key : BitVec 96)
  /-- FRAME_TAIL (R276): A frame's tail arrives and tail errors mark or drop its copies. -/
  | frameTail (frame : Nat)
  /-- ENGINE_QUEUE_ACCEPT (R153): A stateful frame enters an engine queue and takes a window place once room exists. -/
  | engineQueueAccept (frame : Nat)
  /-- PACKET_START (R155): The dispatcher starts a packet on a free context of its engine. -/
  | packetStart (cluster : Fin 8) (pkt : Nat)
  /-- OP_ISSUE (R165): A ready operation of a packet's graph is evaluated and issued. -/
  | opIssue (cluster : Fin 8) (pkt : Nat) (op : Fin 16)
  /-- SLICE_LOOKUP (R70): A flow lookup at the slice order point hits, or misses and opens an in-flight entry. -/
  | sliceLookup (slice : Fin 16) (source : SliceRead)
  /-- TAG_PAIR_READ_DONE (R72): A tag-pair read returns and fingerprints are compared. -/
  | tagPairReadDone (slice : Fin 16) (entry : Nat)
  /-- RECORD_READ_DONE (R72): A record read returns, is checked and filled, and its in-flight entry closes. -/
  | recordReadDone (slice : Fin 16) (entry : Nat)
  /-- SETUP_QUEUE_ENTER (R79): A walk result enters the setup queue, waiting where HOLD meets a full queue. -/
  | setupQueueEnter (slice : Fin 16) (entry : Nat)
  /-- SETUP_DONE (R83): The setup unit builds a new record and enters its tag entries. -/
  | setupDone (slice : Fin 16)
  /-- WRITE_BACK_DONE (R73): An evicted line's write-back to HBM completes. -/
  | writeBackDone (slice : Fin 16) (index : Nat)
  /-- SWEEP_VISIT (R98): The sweeper visits the next index every INTERVAL cycles and may expire it. -/
  | sweepVisit (slice : Fin 16)
  /-- MICROWORD_ISSUE (R188): A context issues one microword of its routine. -/
  | microwordIssue (cluster : Fin 8) (pkt : Nat) (op : Struck (Fin 17))
  /-- UPDATE (R103): A staged UPDATE writes counters, TCP state and APP_STATE at the slice. -/
  | update (slice : Fin 16) (source : Fin 8)
  /-- PACKET_ABORT (R203): An abort is taken at the packet's engine within 4 cycles of its cause. -/
  | packetAbort (cluster : Fin 8) (pkt : Nat)
  /-- PACKET_RESUME (R156): An awaited response arrives and a parked packet joins its engine's resume queue. -/
  | packetResume (cluster : Fin 8) (pkt : Nat)
  /-- TABLE_LOOKUP_RESULT (R228): An exact, LPM or TCAM graph lookup returns its result. -/
  | tableLookupResult (cluster : Fin 8) (pkt : Nat) (op : Struck (Fin 16))
  /-- CLASP_LOCK (R240): A locked command takes its table's lock, aborting holders of results. -/
  | claspLock (pipe : Fin 8) (table : Fin 3) (ring : Fin 1024) (slot : Nat)
  /-- TCAM_COPY_STEP (R254): One copy step of an ordered TCAM insertion completes. -/
  | tcamCopyStep (pipe : Fin 8)
  /-- TCAM_SCRUB (R261): The scrubber checks one TCAM unit per bank every 16 cycles. -/
  | tcamScrub (pipe : Fin 8) (bank : Fin 16) (unit : Struck (Fin 4096))
  /-- CIPHER_ACCEPT (R338): A cipher request is assigned a free core and its slot is checked and snapshotted. -/
  | cipherAccept (core : Fin 32) (upsets : List Upset)
  /-- KEY_FETCH_DONE (R345): A key-slot fetch from HBM completes, or fails the slot. -/
  | keyFetchDone (key : BitVec 22)
  /-- CIPHER_COMPLETE (R352): A cipher core completes a request and returns its result. -/
  | cipherComplete (core : Fin 32)
  /-- PACKET_RELEASE (R174): A done packet leaves the window once its domain's earlier packets have left. -/
  | packetRelease (cluster : Fin 8) (pkt : Nat)
  /-- BUFFER_ALLOCATE (R301): A requester allocates a buffer, falling back or lending across pools. -/
  | bufferAllocate (requester : Fin 32) (pool : Fin 16)
  /-- BUFFER_FREE (R305): A requester frees a buffer, checked for range, alignment, double free and owner. -/
  | bufferFree (requester : Fin 32) (handle : BitVec 24) (owner : Fin 8)
  /-- CROSSBAR_MATCH (R273): Each cell time the crossbar matches ingress to egress fabric ports. -/
  | crossbarMatch
  /-- ENQUEUE (R270): A copy is admitted to its egress port and class queue or dropped. -/
  | enqueue (frame : Nat) (port : Fin 140)
  /-- SPILL_WRITE (R283): A copy to a queue in spill state is written to HBM after its tail. -/
  | spillWrite (queue : Nat)
  /-- SPILL_REFILL (R284): The spill engine reads a spilled frame back on die. -/
  | spillRefill (queue : Nat)
  /-- TRANSMIT_START (R319): A port selects its next copy, which begins on the wire with rewrite, PTP correction and timestamp. -/
  | transmitStart (port : Fin 140)
  /-- GATE_ENTRY_CHANGE (R330): A gate-list entry's interval ends and the next applies. -/
  | gateEntryChange (port : Fin 128)
  /-- GATE_LIST_CHANGE (R329): An armed gate list becomes operative at its change time. -/
  | gateListChange (port : Fin 128)
  /-- QUEUE_SAMPLE_PASS (R332): The sampler starts a pass every PERIOD_US. -/
  | queueSamplePass
  /-- TXTS_EVENT_WRITE (R429): A transmit timestamp entry leaves its queue once the ring has room. -/
  | txtsEventWrite (port : Fin 128)
  /-- AN_COMPLETE (R386): Auto-negotiation completes and the port moves to TRAINING. -/
  | anComplete (partner : Partner)
  /-- AN_FAIL (R387): A negotiation or training attempt fails and back-off starts. -/
  | anFail (port : Fin 128)
  /-- AN_BACKOFF_EXPIRE (R387): The back-off ends and the port retries. -/
  | anBackoffExpire (port : Fin 128)
  /-- TRAINING_COMPLETE (R386): Link training completes on every lane and the port moves to ALIGN. -/
  | trainingComplete (port : Fin 128)
  /-- PORT_ALIGNED (R386): Lanes lock and align without fault and the port enters HOLD. -/
  | portAligned (port : Fin 128)
  /-- LINK_UP (R389): UP_HOLD_MS of clean link pass with every lane's delay published and the port enters UP. -/
  | linkUp (port : Fin 128)
  /-- LINK_DOWN (R388): A lane loses signal or lock, or alignment is lost, and the port leaves UP. -/
  | linkDown (lane : Fin 128) (cause : LaneLoss)
  /-- LINK_FAULT (R388): A local or received remote fault takes the port back to ALIGN. -/
  | linkFault (port : Fin 128) (fault : FaultKind)
  /-- REFCLK_LOSS (R554): A lane-group reference fails and its octets' ports go down. -/
  | refclkLoss (octet : Fin 16)
  /-- LOUPE_DWELL (R400): A margin dwell ends and low margin is flagged. -/
  | loupeDwell (lane : Fin 128) (eye : Fin 3) (corner : Fin 4) (count : Nat)
  /-- RX_DELAY_PUBLISH (R403): Every 128 us a lane publishes its receive delay. -/
  | rxDelayPublish (lane : Fin 128) (marks : List Marker)
  /-- ARBITER_SLOT (R366): A slot begins and the pseudo-channel arbiter grants by owner, priority or rotation. -/
  | arbiterSlot (stack : Fin 4) (channel : Fin 32)
  /-- BURST_LIMIT_EXPIRE (R367): A holder's BURST_LIMIT expires and its grant ends. -/
  | burstLimitExpire (stack : Fin 4) (channel : Fin 32)
  /-- SLOT_TABLE_SWITCH (R369): At the table wrap the stack switches to the written slot table. -/
  | slotTableSwitch (stack : Fin 4)
  /-- REFRESH_DUE (R373): A bank's per-bank refresh falls due. -/
  | refreshDue (stack : Fin 4) (channel : Fin 32) (bank : Nat)
  /-- RANK_POWER_DOWN (R376): A SID idle for IDLE_CYCLES enters power-down. -/
  | rankPowerDown (stack : Fin 4) (channel : Fin 32) (sid : Fin 2)
  /-- MEM_UNCORRECTABLE (R377): A read returns uncorrectable and is handed back as failed. -/
  | memUncorrectable (stack : Fin 4) (error : MemError)
  /-- RETRAIN_DUE (R407): A pseudo-channel's retraining interval expires, or HOT changes. -/
  | retrainDue (stack : Fin 4) (channel : Fin 32)
  /-- RETRAIN_STEP (R408): One retraining step runs in a RETRAIN slot. -/
  | retrainStep (stack : Fin 4) (channel : Fin 32) (found : Option W32)
  /-- RETRAIN_DONE (R409): A retraining succeeds or fails after its steps. -/
  | retrainDone (stack : Fin 4) (channel : Fin 32)
  /-- SPARE_MACRO_START (R411): Every MACRO_INTERVAL_US a test slice starts copying a live macro to its spare. -/
  | spareMacroStart (group : Fin 224)
  /-- SPARE_SWAP (R411): The copy ends and the spare takes traffic while the freed macro is marched. -/
  | spareSwap (group : Fin 224)
  /-- SPARE_MARCH_DONE (R412): March C- ends, retiring a failed macro or starting copy back. -/
  | spareMarchDone (group : Fin 224) (ok : Bool)
  /-- SPARE_SWAP_BACK (R413): Copy back ends and the tested macro returns to service, completing a group pass. -/
  | spareSwapBack (group : Fin 224)
  /-- TEMP_SAMPLE (R506): Every 100 us the die sensors are sampled and thresholds applied. -/
  | tempSample (dieC : List Int) (hbmC : List Int)
  /-- REVERIFY_PASS (R479): Every INTERVAL_MS Hallmark re-reads control-store pages against their digests. -/
  | reverifyPass
  /-- SESSION_EXPIRE (R487): A role session's DURATION_S elapses and it closes. -/
  | sessionExpire (ring : Fin 1024)
  /-- AUDIT_RECORD_WRITE (R492): A staged audit record is written to the HBM audit region. -/
  | auditRecordWrite
  /-- PPS_OUT_EDGE (R435): Device time reaches a whole second plus offset and PPS_OUT rises. -/
  | ppsOutEdge
  /-- PPS_IN_EDGE (R437): A rising PPS_IN edge is stamped and reported. -/
  | ppsInEdge
  /-- CLK_REF_LOST (R421): CLK10M_IN shows no edge for 1 us or runs off frequency, and the PLL holds over. -/
  | clkRefLost (edges : Bool)
  /-- RAIL_SAMPLE (R558): Every 1 ms the rails are sampled and RAIL_ALERT updated. -/
  | railSample (millivolts : List Nat)
  /-- SMBUS_BLOCK_READ (R558): An SMBus Block Read returns identity, status, temperature or rail data. -/
  | smbusBlockRead (xfer : SmbusXfer)
  /-- JTAG_INSTRUCTION (R559): A JTAG instruction is loaded, acting as BYPASS where R490 closes it. -/
  | jtagInstruction (instr : JtagInstr)
  /-- STACK_CATASTROPHIC_TEMP (R378): An HBM stack signals a catastrophic temperature, the stack is declared lost with cause THERMAL, and Solitaire mode is entered. -/
  | stackCatastrophicTemp (stack : Fin 4)
  /-- REFCLK_RETURN (R554): A lane-group reference clock that had failed returns, so the LIF island and the octet's lanes have a clock again and their ports may come up. -/
  | refclkReturn (octet : Fin 16)
  /-- RNG_HEALTH_PASS (R473): The entropy source passes its health tests again, HMK_RNG_STATUS.FAIL clears, and commands needing randomness are served. -/
  | rngHealthPass
  /-- PCIE_LINK_TRAINED (R442): PCIe link training completes at some speed and width, setting HIF_STATUS including DEGRADED, after which configuration access and DMA can run. -/
  | pcieLinkTrained (speed : Fin 4) (width : Fin 17) (flit : Bool)
  /-- CLK10M_IN_RETURN (R441): Rising edges reappear on CLK10M_IN and TMU_STATUS.REF_PRESENT sets again. -/
  | clk10mInReturn
  /-- DENIED_RECORD (R491): At the end of a ring's one-second coalescing window, one DENIED audit record carrying the count of refusals is written. -/
  | deniedRecord (ring : Fin 1024)
  /-- ALERT_RESPONSE (R558): A read of the SMBus Alert Response Address is answered with the target's own address. -/
  | alertResponse
deriving DecidableEq, Repr

end Sys2Proof
end

