-- ==== Sys2Proof/Decode.lean ====
section
/-!
DEFINITION. Decode.lean: what a word of the opcode table spells. No row of `spec/opcode_table.json` gives bits: the
commands come from outside as whole transactions (R445-R451, R6, R447), so no word spells one.
-/

namespace Sys2Proof

/-- The command that a word of the opcode table spells: none, since the table gives no row any bits. -/
def decodeTableWord (_nbits _w : Nat) : Option Instr := none

end Sys2Proof
end

