-- ==== Sys2Proof/Config.lean ====
section
/-!
DEFINITION. Config.lean: what the spec names but does not fix (free values), and the cryptographic functions the spec
takes from named standards. Each is an uninterpreted constant: no proof can lean on a value of it.
-/

namespace Sys2Proof.Config

open Sys2Proof

/-- Do the check bits of a microword agree with its other bits (R186), whose code the spec does not give: 0 they do, 1 they show a
single-bit error, anything else one that cannot be corrected. -/
opaque wordCheck : BitVec 128 → Nat

/-- A microword whose single-bit error is corrected (R186). -/
opaque wordFix : BitVec 128 → BitVec 128

/-- What the board ties the pins SMB_ADDR2 to SMB_ADDR0 to (R557). -/
opaque smbPins : Nat

/-- A value the spec leaves open, one for each count of the model's counter of such values. -/
opaque freeNat : Nat → Nat

/-- Bytes the spec leaves open: for the counter's value, as many as asked for at most. -/
opaque freeBytes : Nat → List Byte

/-- The draws of Hallmark's random source (R473), in order. -/
opaque drbg : Nat → List Byte

/-- SHA-512 (FIPS 180-4), used by R472, R479, R482 and R491. -/
opaque sha512 : List Byte → List Byte

/-- RSASSA-PSS verification with SHA-512 under a modulus: message, signature (R472). -/
opaque pssVerify : List Byte → List Byte → List Byte → Bool

/-- The SHA-512 hash of a Kryldota key's modulus that the boot ROM holds, by index (R471). -/
opaque makerHash : Nat → List Byte

/-- What the bank number of a REVOKE ticket names (R489), which the spec does not give: 0 installer, 1 operator, 2 code key,
3 key-import key, 4 Kryldota key, anything else nothing. -/
opaque revokeBank : Nat → Nat

/-- The identity public key that the boot ROM derives from a root secret (R472, R474). -/
opaque identKey : BitVec 256 → List Byte

/-- A signature by the identity key derived from a root secret (R481): the secret, the draw of the salt, the message. -/
opaque identSign : BitVec 256 → Nat → List Byte → List Byte

/-- HMAC-SHA-512 under the health key derived from a root secret (R508). -/
opaque healthMac : BitVec 256 → List Byte → List Byte

/-- A key-import key: root secret, active installer hash, KIK_ID (R489). -/
opaque kik : BitVec 256 → List Byte → Nat → List Byte

/-- RSAES-OAEP encryption with SHA-512 under a modulus (R489): draw, message. -/
opaque oaep : List Byte → List Byte → List Byte → List Byte

/-- AES-GCM sealing: key, IV, AAD, text; the sealed text and its 16-byte tag (R343, R349). -/
opaque gcmSeal : List Byte → List Byte → List Byte → List Byte → List Byte × List Byte

/-- AES-GCM opening: key, IV, AAD, sealed text, tag; none where the tag does not verify (R346, R349). -/
opaque gcmOpen : List Byte → List Byte → List Byte → List Byte → List Byte → Option (List Byte)

/-- The transmit delay of a port mode, characterised at manufacture, in units of 2^-16 ns (R406). -/
opaque txDelay : Nat → W32

/-- Lines of the shared pool that a set of routes takes: pairs of address and length, IPv4 and IPv6 (R226). -/
opaque lpmLines : List (Nat × Nat) → List (Nat × Nat) → Nat

end Sys2Proof.Config
end

