-- ==== Sys2Proof/Machine/Bits.lean ====
section
/-!
DEFINITION. Machine/Bits.lean: bit fields and byte order (R4, R5), CRC-32C (R47), the Ethernet FCS, SipHash-2-4 (R40) and the signed
difference of two ticks (the scope file's `tick_diff`).
-/

namespace Sys2Proof.Machine

open Sys2Proof

/-- The field `[hi:lo]` of a word, as a number (R4). -/
def fld {n : Nat} (w : BitVec n) (hi lo : Nat) : Nat := (w.toNat >>> lo) % 2 ^ (hi + 1 - lo)

/-- Bit `i` of a word is 1. -/
def bit {n : Nat} (w : BitVec n) (i : Nat) : Bool := w.getLsbD i

/-- The word with the field `[hi:lo]` replaced by `v` (truncated to the field). -/
def put {n : Nat} (w : BitVec n) (hi lo v : Nat) : BitVec n :=
  (w &&& ~~~(BitVec.ofNat n ((2 ^ (hi + 1 - lo) - 1) <<< lo))) ||| BitVec.ofNat n ((v % 2 ^ (hi + 1 - lo)) <<< lo)

/-- The word with bit `i` set to `b`. -/
def putBit {n : Nat} (w : BitVec n) (i : Nat) (b : Bool) : BitVec n := put w i i b.toNat

/-- A word built from fields `(hi, lo, value)`, every other bit 0. -/
def pack (n : Nat) (fs : List (Nat × Nat × Nat)) : BitVec n :=
  fs.foldl (fun w f => put w f.1 f.2.1 f.2.2) 0#n

/-- The bytes of a number, lowest-addressed first (R5), `k` of them. -/
def bytesLE (k v : Nat) : List Byte := (List.range k).map fun i => BitVec.ofNat 8 (v >>> (8 * i))

/-- The bytes of a number in wire order, most significant first, `k` of them. -/
def bytesBE (k v : Nat) : List Byte := (bytesLE k v).reverse

/-- The number whose little-endian bytes are given. -/
def natLE : List Byte → Nat
  | [] => 0
  | b :: bs => b.toNat + 256 * natLE bs

/-- The number whose wire-order (big-endian) bytes are given. -/
def natBE (bs : List Byte) : Nat := bs.foldl (fun a b => 256 * a + b.toNat) 0

/-- The bytes of a word in offset order. -/
def bytesOf {n : Nat} (w : BitVec n) : List Byte := bytesLE (n / 8) w.toNat

/-- The `n`-bit word laid out by the bytes in offset order; bytes missing at the end are 0. -/
def ofBytes (n : Nat) (bs : List Byte) : BitVec n := BitVec.ofNat n (natLE (bs.take (n / 8)))

/-- The `k` bytes of a number in reverse order: turns a "(net)" field (R5) into the number it spells, and back. -/
def revBytes (k v : Nat) : Nat := natBE (bytesLE k v)

/-- A "(net)" field `[hi:lo]` of a word as the number it spells on the wire. -/
def netFld {n : Nat} (w : BitVec n) (hi lo : Nat) : Nat := revBytes ((hi + 1 - lo) / 8) (fld w hi lo)

/-- The word with a "(net)" field set to the number `v` (wire order). -/
def putNet {n : Nat} (w : BitVec n) (hi lo v : Nat) : BitVec n := put w hi lo (revBytes ((hi + 1 - lo) / 8) v)

/-- Is every bit of the listed fields 0 (used for reserved fields, R8, R9, R33)? -/
def zeroFields {n : Nat} (w : BitVec n) (fs : List (Nat × Nat)) : Bool := fs.all fun f => fld w f.1 f.2 == 0

/-- One bit step of the reflected CRC-32C (polynomial 0x1EDC_6F41, R47). -/
def crcBit (c : Nat) : Nat := if c % 2 == 1 then (c >>> 1) ^^^ 0x82F63B78 else c >>> 1

/-- One byte of CRC-32C. -/
def crcByte (c : Nat) (b : Byte) : Nat :=
  crcBit (crcBit (crcBit (crcBit (crcBit (crcBit (crcBit (crcBit (c ^^^ b.toNat))))))))

/-- CRC-32C with the initial value `init` and final XOR 0xFFFF_FFFF (R47; R144 gives another initial value). -/
def crc32cFrom (init : Nat) (bs : List Byte) : W32 := BitVec.ofNat 32 (bs.foldl crcByte init ^^^ 0xFFFFFFFF)

/-- The CRC-32C of R47. -/
def crc32c (bs : List Byte) : W32 := crc32cFrom 0xFFFFFFFF bs

/-- The tile check of R47: over the 8 address bytes, then the content. -/
def tileCheck (addr : Nat) (content : List Byte) : W32 := crc32c (bytesLE 8 addr ++ content)

/-- One bit step of the reflected CRC-32 of an Ethernet FCS. -/
def fcsBit (c : Nat) : Nat := if c % 2 == 1 then (c >>> 1) ^^^ 0xEDB88320 else c >>> 1

/-- One byte of the Ethernet FCS. -/
def fcsByte (c : Nat) (b : Byte) : Nat :=
  fcsBit (fcsBit (fcsBit (fcsBit (fcsBit (fcsBit (fcsBit (fcsBit (c ^^^ b.toNat))))))))

/-- The FCS of a frame's bytes (IEEE 802.3), as a number whose little-endian bytes go on the wire. -/
def fcs32 (bs : List Byte) : W32 := BitVec.ofNat 32 (bs.foldl fcsByte 0xFFFFFFFF ^^^ 0xFFFFFFFF)

/-- The four FCS bytes in wire order. -/
def fcsBytes (bs : List Byte) : List Byte := bytesLE 4 (fcs32 bs).toNat

/-- State of SipHash. -/
structure Sip where
  v0 : W64
  v1 : W64
  v2 : W64
  v3 : W64
deriving DecidableEq, Repr

/-- One SipRound. -/
def Sip.round (s : Sip) : Sip :=
  let v0 := s.v0 + s.v1
  let v1 := (s.v1.rotateLeft 13) ^^^ v0
  let v0 := v0.rotateLeft 32
  let v2 := s.v2 + s.v3
  let v3 := (s.v3.rotateLeft 16) ^^^ v2
  let v0 := v0 + v3
  let v3 := (v3.rotateLeft 21) ^^^ v0
  let v2 := v2 + v1
  let v1 := (v1.rotateLeft 17) ^^^ v2
  let v2 := v2.rotateLeft 32
  ⟨v0, v1, v2, v3⟩

/-- Absorb one 64-bit message word (two rounds). -/
def Sip.absorb (s : Sip) (m : W64) : Sip :=
  let s := { s with v3 := s.v3 ^^^ m }
  let s := s.round.round
  { s with v0 := s.v0 ^^^ m }

/-- The 8-byte little-endian words of a byte string whose length is a multiple of 8. -/
def words64 (bs : List Byte) : List W64 :=
  (List.range (bs.length / 8)).map fun i => ofBytes 64 ((bs.drop (8 * i)).take 8)

/-- SipHash-2-4 of a byte string under a 128-bit key whose halves are `k0` (bytes 0-7) and `k1` (R40, R41). -/
def sipHash24 (key : BitVec 128) (bs : List Byte) : W64 :=
  let k0 := BitVec.ofNat 64 key.toNat
  let k1 := BitVec.ofNat 64 (key.toNat >>> 64)
  let s : Sip := ⟨k0 ^^^ 0x736f6d6570736575#64, k1 ^^^ 0x646f72616e646f6d#64,
                  k0 ^^^ 0x6c7967656e657261#64, k1 ^^^ 0x7465646279746573#64⟩
  let tail := ofBytes 64 (bs.drop (8 * (bs.length / 8)) ) ||| BitVec.ofNat 64 ((bs.length % 256) <<< 56)
  let s := (words64 bs).foldl Sip.absorb s
  let s := s.absorb tail
  let s := { s with v2 := s.v2 ^^^ 0xff#64 }
  let s := s.round.round.round.round
  s.v0 ^^^ s.v1 ^^^ s.v2 ^^^ s.v3

/-- The signed difference of two 48-bit ticks (scope file, Pseudocode). -/
def tickDiff (a b : Nat) : Int :=
  let d : Int := ((a : Int) - (b : Int)) % (2 ^ 48)
  if d ≥ 2 ^ 47 then d - 2 ^ 48 else d

/-- Addition that stops at `top` (saturating counters). -/
def satAdd (top a b : Nat) : Nat := min top (a + b)

/-- A signed number as its `n`-bit two's complement word. -/
def ofSigned (n : Nat) (x : Int) : BitVec n := BitVec.ofInt n x

/-- Clamp to a symmetric range. -/
def clampInt (lo hi x : Int) : Int := if x < lo then lo else if x > hi then hi else x

end Sys2Proof.Machine
end

