-- ==== Sys2Proof/Machine/RegMap.lean ====
section
/-!
DEFINITION. Machine/RegMap.lean: the BAR0 register map, one row for each register (family) of the spec's register
tables (R60, R94, R126, R150, R181, R217, R244, R263, R295, R310, R335, R358, R381, R396, R417, R440, R469, R497,
R523, R535, R537) at the block bases of R18. A row gives the register's first address, the stride and count of its
instances, the stride and count of its pages, its access code (R11), its reset value, the mask of the bits a write
can place (R8: the rest are reserved) or clear (W1C), and the ranges outside which a field is a reserved encoding
(R9). The names are the spec's own.
-/

namespace Sys2Proof.Machine

/-- Access codes of R11; `roW1c` is a read-only register with write-1-to-clear fields ("RO, W1C" in the maps). -/
inductive Acc where
  | rw | ro | wo | w1c | rc | rws | roW1c
deriving DecidableEq, Repr

/-- One row of a register map. `rng` lists `(hi, lo, least, greatest)`: the values the field `[hi:lo]` may take. -/
structure RegRow where
  name    : String
  base    : Nat
  stride  : Nat
  count   : Nat
  pstride : Nat
  pages   : Nat
  acc     : Acc
  reset   : Nat
  mask    : Nat
  rng     : List (Nat × Nat × Nat × Nat)
deriving DecidableEq, Repr

/-- R60: Slice readiness. -/
def Reg.FLW_SLICE_STATUS (p : Nat) : Nat := 0x600000 + p * 0x10000
/-- R60: Valid records in the slice, [25:0]. -/
def Reg.FLW_RECORD_COUNT (p : Nat) : Nat := 0x600004 + p * 0x10000
/-- R60: Tag entries in HBM pairs, [26:0]. -/
def Reg.FLW_TAG_COUNT (p : Nat) : Nat := 0x600008 + p * 0x10000
/-- R60: Stash entries in use, [16:0]. -/
def Reg.FLW_STASH_COUNT (p : Nat) : Nat := 0x60000C + p * 0x10000
/-- R60: Highest stash count since last read, [16:0]. -/
def Reg.FLW_STASH_PEAK (p : Nat) : Nat := 0x600010 + p * 0x10000
/-- R60: Valid hot-cache lines, [15:0]. -/
def Reg.FLW_HOT_COUNT (p : Nat) : Nat := 0x600014 + p * 0x10000
/-- R60: Tile-check and ECC failures. -/
def Reg.FLW_TILE_FAIL_COUNT (p : Nat) : Nat := 0x600018 + p * 0x10000
/-- R60: Setups refused with TAG_FULL. -/
def Reg.FLW_TAG_FULL_COUNT (p : Nat) : Nat := 0x60001C + p * 0x10000
/-- R60: Handles on the free-index stack, [25:0]. -/
def Reg.FLW_FREE_STACK_DEPTH (p : Nat) : Nat := 0x600020 + p * 0x10000
/-- R60: Flow engine enable. -/
def Reg.FLW_CTRL : Nat := 0x608000
/-- R60: Hash key mode. -/
def Reg.FLW_HASH_CTRL : Nat := 0x608004
/-- R60: Fixed hash key [31:0]. -/
def Reg.FLW_HASH_KEY0 : Nat := 0x608008
/-- R60: Fixed hash key [63:32]. -/
def Reg.FLW_HASH_KEY1 : Nat := 0x60800C
/-- R60: Fixed hash key [95:64]. -/
def Reg.FLW_HASH_KEY2 : Nat := 0x608010
/-- R60: Fixed hash key [127:96]. -/
def Reg.FLW_HASH_KEY3 : Nat := 0x608014
/-- R94: Hot-cache hits [31:0]; latched as R7 lays down. -/
def Reg.FLW_HIT_COUNT_LO (p : Nat) : Nat := 0x600040 + p * 0x10000
/-- R94: Hot-cache hits [63:32]. -/
def Reg.FLW_HIT_COUNT_HI (p : Nat) : Nat := 0x600044 + p * 0x10000
/-- R94: Lookups that missed the hot cache and built no record, as R74 lays down [31:0]. -/
def Reg.FLW_COLD_COUNT_LO (p : Nat) : Nat := 0x600048 + p * 0x10000
/-- R94: Cold lookups [63:32]. -/
def Reg.FLW_COLD_COUNT_HI (p : Nat) : Nat := 0x60004C + p * 0x10000
/-- R94: Records built [31:0]. -/
def Reg.FLW_SETUP_COUNT_LO (p : Nat) : Nat := 0x600050 + p * 0x10000
/-- R94: Records built [63:32]. -/
def Reg.FLW_SETUP_COUNT_HI (p : Nat) : Nat := 0x600054 + p * 0x10000
/-- R94: Record operations charged [31:0]. -/
def Reg.FLW_HBM_OPS_LO (p : Nat) : Nat := 0x600058 + p * 0x10000
/-- R94: Record operations charged [63:32]. -/
def Reg.FLW_HBM_OPS_HI (p : Nat) : Nat := 0x60005C + p * 0x10000
/-- R94: Refusals for reason r at 0x0060 + 4r; saturate at all ones. -/
def Reg.FLW_REFUSE_COUNT (p i : Nat) : Nat := 0x600060 + p * 0x10000 + i * 0x4
/-- R94: Walks that met a full setup queue; saturates. -/
def Reg.FLW_BUSY_COUNT (p : Nat) : Nat := 0x600080 + p * 0x10000
/-- R94: Highest setup-queue depth since last read, [10:0]. -/
def Reg.FLW_SETUPQ_PEAK (p : Nat) : Nat := 0x600084 + p * 0x10000
/-- R94: Highest count of open in-flight entries since last read, [13:0]. -/
def Reg.FLW_INFLIGHT_PEAK (p : Nat) : Nat := 0x600088 + p * 0x10000
/-- R94: Active bank, load state, image size, last fault. -/
def Reg.FLW_FILIGREE_STATUS (p : Nat) : Nat := 0x60008C + p * 0x10000
/-- R94: Filigree bank mode. -/
def Reg.FLW_FILIGREE_CTRL : Nat := 0x608040
/-- R94: Key profile n at 0x8100 + 4n, fields as R64. -/
def Reg.FLW_KEY_PROFILE (i : Nat) : Nat := 0x608100 + i * 0x4
/-- R126: Sweep pass time and pass count. -/
def Reg.FLW_AGE_STATUS (p : Nat) : Nat := 0x600090 + p * 0x10000
/-- R126: Records expired by the sweeper. -/
def Reg.FLW_EXPIRED_COUNT (p : Nat) : Nat := 0x600094 + p * 0x10000
/-- R126: Lookups that missed behind an expiry, as R109 lays down. -/
def Reg.FLW_EXPIRED_REHIT_COUNT (p : Nat) : Nat := 0x600098 + p * 0x10000
/-- R126: UPDATEs discarded for a generation mismatch. -/
def Reg.FLW_STALE_UPDATE_COUNT (p : Nat) : Nat := 0x60009C + p * 0x10000
/-- R126: NAT candidates rejected for collision. -/
def Reg.FLW_NAT_RETRY_COUNT (p : Nat) : Nat := 0x6000A0 + p * 0x10000
/-- R126: Setups refused with NAT_EXHAUSTED. -/
def Reg.FLW_NAT_EXHAUSTED_COUNT (p : Nat) : Nat := 0x6000A4 + p * 0x10000
/-- R126: Events discarded at a full ring. -/
def Reg.FLW_EVENT_DROP_COUNT (p : Nat) : Nat := 0x6000A8 + p * 0x10000
/-- R126: Failed-pair list and orphan deletions, as R108. -/
def Reg.FLW_ORPHAN_STATUS (p : Nat) : Nat := 0x6000AC + p * 0x10000
/-- R126: Sweeper enable and visit interval. -/
def Reg.FLW_AGE_CTRL : Nat := 0x608080
/-- R126: TCP closing and closed classes. -/
def Reg.FLW_TCP_AGE_CTRL : Nat := 0x608084
/-- R126: Flow event enables and ring. -/
def Reg.FLW_EVENT_CTRL : Nat := 0x608088
/-- R126: Largest export message. -/
def Reg.FLW_EXPORT_CTRL : Nat := 0x60808C
/-- R126: Class c at 0x80C0 + 4c. -/
def Reg.FLW_TIMEOUT (i : Nat) : Nat := 0x6080C0 + i * 0x4
/-- R126: First outside address of pool n, as a big-endian number. -/
def Reg.FLW_NAT_OUT_BASE (i : Nat) : Nat := 0x608200 + i * 0x20
/-- R126: Validity, mode, block size, address count. -/
def Reg.FLW_NAT_CFG (i : Nat) : Nat := 0x608204 + i * 0x20
/-- R126: Port range. -/
def Reg.FLW_NAT_PORTS (i : Nat) : Nat := 0x608208 + i * 0x20
/-- R126: Subscriber shift and outside zone. -/
def Reg.FLW_NAT_SUB (i : Nat) : Nat := 0x60820C + i * 0x20
/-- R126: IN_BASE, first subscriber index. -/
def Reg.FLW_NAT_IN_BASE (i : Nat) : Nat := 0x608210 + i * 0x20
/-- R126: Sessions per block. -/
def Reg.FLW_NAT_LIMIT (i : Nat) : Nat := 0x608214 + i * 0x20
/-- R150: Spreading method and engine table. -/
def Reg.PRS_SPREAD_CTRL (p : Nat) : Nat := 0x300000 + p * 0x10000
/-- R150: Initial value of the spreading hash. -/
def Reg.PRS_SPREAD_SEED (p : Nat) : Nat := 0x300004 + p * 0x10000
/-- R150: Optional checks. -/
def Reg.PRS_CHECK_CTRL (p : Nat) : Nat := 0x300008 + p * 0x10000
/-- R150: Action of PARSE_DEPTH. -/
def Reg.PRS_DEPTH_ACTION (p : Nat) : Nat := 0x30000C + p * 0x10000
/-- R150: Action of sub-code k in bits [2k+1:2k]. -/
def Reg.PRS_MALFORMED_ACTION (p : Nat) : Nat := 0x300010 + p * 0x10000
/-- R150: Group of port 16p + i in bits [4i+3:4i], i = 0 to 7. -/
def Reg.PRS_PORT_GROUP_LO (p : Nat) : Nat := 0x300014 + p * 0x10000
/-- R150: Group of port 16p + i in bits [4i−29:4i−32], i = 8 to 15. -/
def Reg.PRS_PORT_GROUP_HI (p : Nat) : Nat := 0x300018 + p * 0x10000
/-- R150: Groups of recirculated and host-injected frames. -/
def Reg.PRS_PORT_GROUP_AUX (p : Nat) : Nat := 0x30001C + p * 0x10000
/-- R150: Profile n at 0x0020 + 4n, fields as R145. -/
def Reg.PRS_SPREAD_PROFILE (p i : Nat) : Nat := 0x300020 + p * 0x10000 + i * 0x4
/-- R150: PARSE_DEPTH frames. -/
def Reg.PRS_DEPTH_COUNT (p : Nat) : Nat := 0x300040 + p * 0x10000
/-- R150: FIRST fragments. -/
def Reg.PRS_FRAG_FIRST_COUNT (p : Nat) : Nat := 0x300044 + p * 0x10000
/-- R150: LATER fragments. -/
def Reg.PRS_FRAG_LATER_COUNT (p : Nat) : Nat := 0x300048 + p * 0x10000
/-- R150: Cycles stalled on full engine queues. -/
def Reg.PRS_ENGINE_STALL_COUNT (p : Nat) : Nat := 0x30004C + p * 0x10000
/-- R150: Sub-code k at 0x0080 + 4k. -/
def Reg.PRS_MALFORMED_COUNT (p i : Nat) : Nat := 0x300080 + p * 0x10000 + i * 0x4
/-- R150: Node n, bits [32w+31:32w] at 0x1000 + 16n + 4w. -/
def Reg.PRS_NODE (p i : Nat) : Nat := 0x301000 + p * 0x10000 + i * 0x4
/-- R150: Transition t at 0x2000 + 8t, low word first. -/
def Reg.PRS_TRANS (p i : Nat) : Nat := 0x302000 + p * 0x10000 + i * 0x4
/-- R150: Path entry e at 0x3000 + 8e, low word first. -/
def Reg.PRS_PATH (p i : Nat) : Nat := 0x303000 + p * 0x10000 + i * 0x4
/-- R181: Places and contexts in use. -/
def Reg.PXA_STATUS (p : Nat) : Nat := 0x700000 + p * 0x10000
/-- R181: Highest place count since last read, [12:0]. -/
def Reg.PXA_WINDOW_PEAK (p : Nat) : Nat := 0x700004 + p * 0x10000
/-- R181: Cycles in which the parser was held for want of a place. -/
def Reg.PXA_WINDOW_FULL_CYCLES (p : Nat) : Nat := 0x700008 + p * 0x10000
/-- R181: Highest context count since last read, [8:0]. -/
def Reg.PXA_CTX_PEAK (p : Nat) : Nat := 0x70000C + p * 0x10000
/-- R181: Packets started [31:0]; latched as R7 lays down. -/
def Reg.PXA_START_COUNT_LO (p : Nat) : Nat := 0x700010 + p * 0x10000
/-- R181: Packets started [63:32]. -/
def Reg.PXA_START_COUNT_HI (p : Nat) : Nat := 0x700014 + p * 0x10000
/-- R181: Packets released other than as holes [31:0]. -/
def Reg.PXA_RELEASE_COUNT_LO (p : Nat) : Nat := 0x700018 + p * 0x10000
/-- R181: Packets released other than as holes [63:32]. -/
def Reg.PXA_RELEASE_COUNT_HI (p : Nat) : Nat := 0x70001C + p * 0x10000
/-- R181: Parkings. -/
def Reg.PXA_PARK_COUNT (p : Nat) : Nat := 0x700020 + p * 0x10000
/-- R181: Packets that entered the exception path. -/
def Reg.PXA_EXCEPTION_COUNT (p : Nat) : Nat := 0x700024 + p * 0x10000
/-- R181: Frames dropped for a template with VALID = 0. -/
def Reg.PXA_BAD_TEMPLATE_COUNT (p : Nat) : Nat := 0x700028 + p * 0x10000
/-- R181: Latest exception. -/
def Reg.PXA_EXC_STATUS (p : Nat) : Nat := 0x70002C + p * 0x10000
/-- R181: Holes of cause k at 0x0040 + 4k, causes as R175. -/
def Reg.PXA_HOLE_COUNT (p i : Nat) : Nat := 0x700040 + p * 0x10000 + i * 0x4
/-- R217: Active versions: vendor [15:0], customer [31:16]. -/
def Reg.MCS_VERSION (p : Nat) : Nat := 0x704000 + p * 0x10000
/-- R217: Staged versions, same layout. -/
def Reg.MCS_STAGED_VERSION (p : Nat) : Nat := 0x704004 + p * 0x10000
/-- R217: Maps and free pages. -/
def Reg.MCS_STATUS (p : Nat) : Nat := 0x704008 + p * 0x10000
/-- R217: Words per routine. -/
def Reg.MCS_STEP_LIMIT (p : Nat) : Nat := 0x70400C + p * 0x10000
/-- R217: Faults. -/
def Reg.MCS_FAULT_COUNT (p : Nat) : Nat := 0x704010 + p * 0x10000
/-- R217: Latest fault. -/
def Reg.MCS_FAULT_STATUS (p : Nat) : Nat := 0x704014 + p * 0x10000
/-- R217: Aborts before commit. -/
def Reg.MCS_ABORT_COUNT (p : Nat) : Nat := 0x704018 + p * 0x10000
/-- R217: Aborts after commit, not applied. -/
def Reg.MCS_LATE_ABORT_COUNT (p : Nat) : Nat := 0x70401C + p * 0x10000
/-- R217: Control-store ECC events. -/
def Reg.MCS_ECC_COUNT (p : Nat) : Nat := 0x704020 + p * 0x10000
/-- R217: Sampling enable, event and ring. -/
def Reg.MCS_SAMPLE_CTRL : Nat := 0x780000
/-- R217: Events per sample. -/
def Reg.MCS_SAMPLE_RATE : Nat := 0x780004
/-- R217: Samples discarded at a full ring. -/
def Reg.MCS_SAMPLE_DROP_COUNT : Nat := 0x780008
/-- R244: Stateless profiles and miss actions. -/
def Reg.FWD_SL_CTRL (p : Nat) : Nat := 0x400000 + p * 0x1000
/-- R244: Bit i: front port 16p + i learns. -/
def Reg.FWD_LEARN_PORTS (p : Nat) : Nat := 0x400004 + p * 0x1000
/-- R244: Learning enable, hold-off and ring. -/
def Reg.FWD_LEARN_CTRL (p : Nat) : Nat := 0x400008 + p * 0x1000
/-- R244: [0] EXACT lock held; [1] LPM lock held. -/
def Reg.FWD_CLASP_STATUS (p : Nat) : Nat := 0x40000C + p * 0x1000
/-- R244: Valid entries, [15:0]. -/
def Reg.FWD_EXACT_COUNT (p : Nat) : Nat := 0x400010 + p * 0x1000
/-- R244: As R234. -/
def Reg.FWD_EXACT_DIGEST (p : Nat) : Nat := 0x400014 + p * 0x1000
/-- R244: Lines in use, [16:0]. -/
def Reg.FWD_LPM_LINES (p : Nat) : Nat := 0x400018 + p * 0x1000
/-- R244: IPv4 routes, [20:0]. -/
def Reg.FWD_LPM4_ROUTES (p : Nat) : Nat := 0x40001C + p * 0x1000
/-- R244: IPv6 routes, [20:0]. -/
def Reg.FWD_LPM6_ROUTES (p : Nat) : Nat := 0x400020 + p * 0x1000
/-- R244: As R234. -/
def Reg.FWD_LPM_DIGEST (p : Nat) : Nat := 0x400024 + p * 0x1000
/-- R244: LEARN events written. -/
def Reg.FWD_LEARN_COUNT (p : Nat) : Nat := 0x400028 + p * 0x1000
/-- R244: LEARN events discarded. -/
def Reg.FWD_LEARN_DROP_COUNT (p : Nat) : Nat := 0x40002C + p * 0x1000
/-- R244: Stateless exact misses. -/
def Reg.FWD_EXACT_MISS_COUNT (p : Nat) : Nat := 0x400030 + p * 0x1000
/-- R244: Stateless LPM misses. -/
def Reg.FWD_LPM_MISS_COUNT (p : Nat) : Nat := 0x400034 + p * 0x1000
/-- R244: [7:0] EXACT, [15:8] LPM, [23:16] NEXTHOP; each saturates at 255. -/
def Reg.FWD_TILE_FAIL_COUNT (p : Nat) : Nat := 0x400038 + p * 0x1000
/-- R244: Frames discarded under R222. -/
def Reg.FWD_NH_FAULT_COUNT (p : Nat) : Nat := 0x40003C + p * 0x1000
/-- R244: Profile n at 0x040 + 4n, fields as R223. -/
def Reg.FWD_EXACT_PROFILE (p i : Nat) : Nat := 0x400040 + p * 0x1000 + i * 0x4
/-- R263: WIDTH of bank b in [2b+1:2b]. -/
def Reg.TCM_BANK_CFG (p : Nat) : Nat := 0x500000 + p * 0x10000
/-- R263: Stateless search. -/
def Reg.TCM_SL_CTRL (p : Nat) : Nat := 0x500004 + p * 0x10000
/-- R263: Searches decided by the tie rule. -/
def Reg.TCM_TIE_COUNT (p : Nat) : Nat := 0x500008 + p * 0x10000
/-- R263: Stateless frames discarded by DENY. -/
def Reg.TCM_DENY_COUNT (p : Nat) : Nat := 0x50000C + p * 0x10000
/-- R263: Move in progress. -/
def Reg.TCM_MOVE_STATUS (p : Nat) : Nat := 0x500010 + p * 0x10000
/-- R263: Valid entries, [16:0]. -/
def Reg.TCM_ENTRY_COUNT (p : Nat) : Nat := 0x500014 + p * 0x10000
/-- R263: [7:0] ACTION, [15:8] PARITY; each saturates at 255. -/
def Reg.TCM_TILE_FAIL_COUNT (p : Nat) : Nat := 0x500018 + p * 0x10000
/-- R263: [0] TCAM lock held. -/
def Reg.TCM_CLASP_STATUS (p : Nat) : Nat := 0x50001C + p * 0x10000
/-- R263: Event ring. -/
def Reg.TCM_EVENT_CTRL (p : Nat) : Nat := 0x500020 + p * 0x10000
/-- R263: Events discarded at a full ring. -/
def Reg.TCM_EVENT_DROP_COUNT (p : Nat) : Nat := 0x500024 + p * 0x10000
/-- R263: Profile n at 0x0040 + 4n. -/
def Reg.TCM_PROFILE (p i : Nat) : Nat := 0x500040 + p * 0x10000 + i * 0x4
/-- R263: Free positions of bank b at 0x0080 + 4b, [12:0]. -/
def Reg.TCM_BANK_FREE (p i : Nat) : Nat := 0x500080 + p * 0x10000 + i * 0x4
/-- R295: Enable and dynamic threshold. -/
def Reg.SWC_BUF_CTRL : Nat := 0xA00000
/-- R295: Spill and refill thresholds. -/
def Reg.SWC_SPILL_THRESH : Nat := 0xA00004
/-- R295: Longest frame. -/
def Reg.SWC_MAX_FRAME : Nat := 0xA00008
/-- R295: Event ring. -/
def Reg.SWC_EVENT_CTRL : Nat := 0xA0000C
/-- R295: Bit i of register r: port 32r + i sends cut-through. -/
def Reg.SWC_CT_EN (i : Nat) : Nat := 0xA00010 + i * 0x4
/-- R295: shared_free of R268, [19:0]. -/
def Reg.SWC_SHARED_FREE : Nat := 0xA00080
/-- R295: Segments in use, [23:0]. -/
def Reg.SWC_SPILL_STATUS : Nat := 0xA00084
/-- R295: Tail marks of cause k at 0x0088 + 4k. -/
def Reg.SWC_STOMP_COUNT (i : Nat) : Nat := 0xA00088 + i * 0x4
/-- R295: Tail-error drops of cause k at 0x00A0 + 4k. -/
def Reg.SWC_ERR_DROP_COUNT (i : Nat) : Nat := 0xA000A0 + i * 0x4
/-- R295: [7:0] BUFFER, [15:8] SPILL; each saturates at 255. -/
def Reg.SWC_CELL_FAIL_COUNT : Nat := 0xA000C0
/-- R295: Causes of R286 at 0x00C4 + 4k. -/
def Reg.SWC_SPILL_DROP_COUNT (i : Nat) : Nat := 0xA000C4 + i * 0x4
/-- R295: Spilled frames lost. -/
def Reg.SWC_SPILL_LOST_COUNT : Nat := 0xA000D0
/-- R295: Copies abandoned at link loss. -/
def Reg.SWC_LINK_ABORT_COUNT : Nat := 0xA000D4
/-- R295: 0 TTL, 1 SLOT, 2 LENGTH, 3 TEMPLATE. -/
def Reg.SWC_REWRITE_DROP_COUNT (i : Nat) : Nat := 0xA000D8 + i * 0x4
/-- R295: Multicast frames with no copy. -/
def Reg.SWC_MC_EMPTY_COUNT : Nat := 0xA000E8
/-- R295: Events discarded at a full ring. -/
def Reg.SWC_EVENT_DROP_COUNT : Nat := 0xA000EC
/-- R295: Count of block b in bits [8(b mod 4)+7:8(b mod 4)] of register b div 4. -/
def Reg.SWC_BLOCK_FAIL (i : Nat) : Nat := 0xA00100 + i * 0x4
/-- R295: Guaranteed ingress cells, [19:0]. -/
def Reg.SWC_ING_GUAR (i : Nat) : Nat := 0xA01000 + i * 0x4
/-- R295: Egress allowance in cells, [19:0]. -/
def Reg.SWC_EG_LIMIT (i : Nat) : Nat := 0xA01400 + i * 0x4
/-- R295: Spill segments, [23:0]; 0: the port does not spill. -/
def Reg.SWC_SPILL_LIMIT (i : Nat) : Nat := 0xA01800 + i * 0x4
/-- R295: Frames refused at ingress. -/
def Reg.SWC_ING_DROP_COUNT (i : Nat) : Nat := 0xA02000 + i * 0x4
/-- R295: Unicast copies refused at egress. -/
def Reg.SWC_EG_DROP_COUNT (i : Nat) : Nat := 0xA02400 + i * 0x4
/-- R295: Multicast copies not sent. -/
def Reg.SWC_MC_DROP_COUNT (i : Nat) : Nat := 0xA02800 + i * 0x4
/-- R295: Cells charged to ingress port n, [19:0]. -/
def Reg.SWC_IN_CELLS (i : Nat) : Nat := 0xA02C00 + i * 0x4
/-- R295: Cells charged to egress port n, [19:0]. -/
def Reg.SWC_EG_CELLS (i : Nat) : Nat := 0xA03000 + i * 0x4
/-- R310: Pool p at 0x0000 + 4p; BPM_POOL_CFG_0 resets to 0x0000_0001. -/
def Reg.BPM_POOL_CFG (i : Nat) : Nat := 0x900000 + i * 0x4
/-- R310: Pool of block b in bits [4(b mod 8)+3:4(b mod 8)] of register b div 8. -/
def Reg.BPM_BLOCK_POOL (i : Nat) : Nat := 0x900040 + i * 0x4
/-- R310: Free buffers of pool p, [19:0]. -/
def Reg.BPM_POOL_FREE (i : Nat) : Nat := 0x900080 + i * 0x4
/-- R310: Buffers of pool p lent to pool 0, [19:0]. -/
def Reg.BPM_POOL_LENT (i : Nat) : Nat := 0x9000C0 + i * 0x4
/-- R310: Exhaustion episodes of pool p. -/
def Reg.BPM_EXHAUST_COUNT (i : Nat) : Nat := 0x900100 + i * 0x4
/-- R310: Fallbacks from pool p. -/
def Reg.BPM_FALLBACK_COUNT (i : Nat) : Nat := 0x900140 + i * 0x4
/-- R310: Rejected frees by cause. -/
def Reg.BPM_BAD_FREE_COUNT : Nat := 0x900180
/-- R310: Latest rejected free. -/
def Reg.BPM_BAD_FREE_STATUS : Nat := 0x900184
/-- R310: Event ring. -/
def Reg.BPM_EVENT_CTRL : Nat := 0x900188
/-- R310: Events discarded at a full ring. -/
def Reg.BPM_EVENT_DROP_COUNT : Nat := 0x90018C
/-- R335: Event ring, [9:0]. -/
def Reg.TMG_EVENT_CTRL : Nat := 0xB00000
/-- R335: Sampler enable and period. -/
def Reg.TMG_SAMPLE_CTRL : Nat := 0xB00004
/-- R335: Copies dropped under R314. -/
def Reg.TMG_BAD_QUEUE_COUNT : Nat := 0xB00010
/-- R335: Copies dropped under R331. -/
def Reg.TMG_GATE_OVERSIZE_COUNT : Nat := 0xB00014
/-- R335: Passes that overran their period. -/
def Reg.TMG_SAMPLE_OVERRUN_COUNT : Nat := 0xB00018
/-- R335: Events discarded at a full ring. -/
def Reg.TMG_EVENT_DROP_COUNT : Nat := 0xB0001C
/-- R335: PFC enables and default priority. -/
def Reg.TMG_PFC_CFG (i : Nat) : Nat := 0xB01000 + i * 0x4
/-- R335: XOFF and XON thresholds. -/
def Reg.TMG_PFC_THRESH (i : Nat) : Nat := 0xB01200 + i * 0x4
/-- R335: Quanta sent and watchdog. -/
def Reg.TMG_PFC_TIMER (i : Nat) : Nat := 0xB01400 + i * 0x4
/-- R335: PFC state and storms. -/
def Reg.TMG_PFC_STATUS (i : Nat) : Nat := 0xB01600 + i * 0x4
/-- R335: Gate-list state. -/
def Reg.TMG_GATE_STATUS (i : Nat) : Nat := 0xB01800 + i * 0x4
/-- R335: PFC frames sent. -/
def Reg.TMG_PFC_TX_COUNT (i : Nat) : Nat := 0xB01A00 + i * 0x4
/-- R335: PFC and PAUSE frames received. -/
def Reg.TMG_PFC_RX_COUNT (i : Nat) : Nat := 0xB01C00 + i * 0x4
/-- R335: Sample entry i, 0 to 4,095. -/
def Reg.TMG_SAMPLE_LIST (i : Nat) : Nat := 0xB10000 + i * 0x4
/-- R358: Readiness and pinned slots. -/
def Reg.CIP_STATUS : Nat := 0x800000
/-- R358: Slots not IDLE, [22:0]. -/
def Reg.CIP_ACTIVE_SLOTS : Nat := 0x800004
/-- R358: Key-cache fetches. -/
def Reg.CIP_CACHE_MISS_COUNT : Nat := 0x800008
/-- R358: Deepest cluster request queue since last read, [9:0]. -/
def Reg.CIP_QUEUE_PEAK : Nat := 0x80000C
/-- R358: Event ring. -/
def Reg.CIP_EVENT_CTRL : Nat := 0x800010
/-- R358: Events discarded at a full ring. -/
def Reg.CIP_EVENT_DROP_COUNT : Nat := 0x800014
/-- R358: Key-cache ECC events. -/
def Reg.CIP_ECC_COUNT : Nat := 0x800018
/-- R358: Requests accepted [31:0]; latched as R7 lays down. -/
def Reg.CIP_ACCEPT_COUNT_LO : Nat := 0x800020
/-- R358: Requests accepted [63:32]. -/
def Reg.CIP_ACCEPT_COUNT_HI : Nat := 0x800024
/-- R358: Status k at 0x0040 + 4k. -/
def Reg.CIP_FAIL_COUNT (i : Nat) : Nat := 0x800040 + i * 0x4
/-- R381: Training, loss and temperature state. -/
def Reg.MEM_STATUS (p : Nat) : Nat := 0xC00000 + p * 0x40000
/-- R381: Arbiter mode. -/
def Reg.MEM_ARB_CTRL (p : Nat) : Nat := 0xC00004 + p * 0x40000
/-- R381: Neighbour-refresh probability and distance. -/
def Reg.MEM_PNR_CTRL (p : Nat) : Nat := 0xC00008 + p * 0x40000
/-- R381: Rank power-down policy. -/
def Reg.MEM_PD_CTRL (p : Nat) : Nat := 0xC0000C + p * 0x40000
/-- R381: Active bank, pending switch, current slot. -/
def Reg.MEM_SLOT_STATUS (p : Nat) : Nat := 0xC00010 + p * 0x40000
/-- R381: Deadline ties, as R372 lays down. -/
def Reg.MEM_TIE_COUNT (p : Nat) : Nat := 0xC00014 + p * 0x40000
/-- R381: Highest postponement count of any bank since last read, [2:0]. -/
def Reg.MEM_POSTPONE_PEAK (p : Nat) : Nat := 0xC00018 + p * 0x40000
/-- R381: Bursts split under R374. -/
def Reg.MEM_SPLIT_COUNT (p : Nat) : Nat := 0xC0001C + p * 0x40000
/-- R381: Neighbour refreshes issued. -/
def Reg.MEM_PNR_COUNT (p : Nat) : Nat := 0xC00020 + p * 0x40000
/-- R381: Draws dropped under R375. -/
def Reg.MEM_PNR_SKIP_COUNT (p : Nat) : Nat := 0xC00024 + p * 0x40000
/-- R381: Uncorrectable reads. -/
def Reg.MEM_UE_COUNT (p : Nat) : Nat := 0xC00028 + p * 0x40000
/-- R381: Event ring. -/
def Reg.MEM_EVENT_CTRL (p : Nat) : Nat := 0xC0002C + p * 0x40000
/-- R381: Events discarded at a full ring. -/
def Reg.MEM_EVENT_DROP_COUNT (p : Nat) : Nat := 0xC00030 + p * 0x40000
/-- R381: Requester r at 0x0100 + 4r. -/
def Reg.MEM_REQ_CFG (p i : Nat) : Nat := 0xC00100 + p * 0x40000 + i * 0x4
/-- R381: Longest wait for a grant of requester r since last read, ns. -/
def Reg.MEM_REQ_WAIT_PEAK (p i : Nat) : Nat := 0xC00200 + p * 0x40000 + i * 0x4
/-- R381: Entry n of the active table at 0x1000 + 4n, OWNER in [4:0]. -/
def Reg.MEM_SLOT (p i : Nat) : Nat := 0xC01000 + p * 0x40000 + i * 0x4
/-- R396: MODE0 [2:0], MODE1 [6:4]. -/
def Reg.LIF_OCT_MODE (p : Nat) : Nat := 0x100000 + p * 0x10000
/-- R396: Event ring, [9:0]. -/
def Reg.LIF_EVENT_CTRL (p : Nat) : Nat := 0x100004 + p * 0x10000
/-- R396: Events discarded at a full ring. -/
def Reg.LIF_EVENT_DROP_COUNT (p : Nat) : Nat := 0x100008 + p * 0x10000
/-- R396: Negotiation, training, FEC and hold. -/
def Reg.LIF_PORT_CFG (p i : Nat) : Nat := 0x100100 + p * 0x10000 + i * 0x40
/-- R396: State and faults. -/
def Reg.LIF_PORT_STATUS (p i : Nat) : Nat := 0x100104 + p * 0x10000 + i * 0x40
/-- R396: Frames with bad FCS. -/
def Reg.LIF_FCS_ERR_COUNT (p i : Nat) : Nat := 0x100108 + p * 0x10000 + i * 0x40
/-- R396: Runts discarded. -/
def Reg.LIF_RUNT_COUNT (p i : Nat) : Nat := 0x10010C + p * 0x10000 + i * 0x40
/-- R396: Frames ended with a receive error. -/
def Reg.LIF_RX_ERR_COUNT (p i : Nat) : Nat := 0x100110 + p * 0x10000 + i * 0x40
/-- R396: Frames discarded under R391. -/
def Reg.LIF_OVERRUN_COUNT (p i : Nat) : Nat := 0x100114 + p * 0x10000 + i * 0x40
/-- R396: Uncorrectable codewords. -/
def Reg.LIF_FEC_UNCORR_COUNT (p i : Nat) : Nat := 0x100118 + p * 0x10000 + i * 0x40
/-- R396: Codewords corrected. -/
def Reg.LIF_FEC_CORR_COUNT (p i : Nat) : Nat := 0x10011C + p * 0x10000 + i * 0x40
/-- R396: Departures from UP. -/
def Reg.LIF_FLAP_COUNT (p i : Nat) : Nat := 0x100120 + p * 0x10000 + i * 0x40
/-- R396: Failed negotiation or training attempts. -/
def Reg.LIF_AN_FAIL_COUNT (p i : Nat) : Nat := 0x100124 + p * 0x10000 + i * 0x40
/-- R396: MAC control frames discarded. -/
def Reg.LIF_CTRL_DROP_COUNT (p i : Nat) : Nat := 0x100128 + p * 0x10000 + i * 0x40
/-- R396: Polarity and fixed preset. -/
def Reg.LIF_LANE_CFG (p i : Nat) : Nat := 0x100400 + p * 0x10000 + i * 0x40
/-- R396: Signal, lock and training. -/
def Reg.LIF_LANE_STATUS (p i : Nat) : Nat := 0x100404 + p * 0x10000 + i * 0x40
/-- R396: FEC symbols corrected on the lane. -/
def Reg.LIF_LANE_SYM_ERR_COUNT (p i : Nat) : Nat := 0x100408 + p * 0x10000 + i * 0x40
/-- R396: Losses of signal or lock. -/
def Reg.LIF_LANE_LOCK_LOSS_COUNT (p i : Nat) : Nat := 0x10040C + p * 0x10000 + i * 0x40
/-- R417: Published delay, units of 2^−16 ns. -/
def Reg.LIF_RX_DELAY (p i : Nat) : Nat := 0x100410 + p * 0x10000 + i * 0x40
/-- R417: Dwell and margin mask. -/
def Reg.LIF_LOUPE_CTRL (p i : Nat) : Nat := 0x100414 + p * 0x10000 + i * 0x40
/-- R417: Latest corner over threshold. -/
def Reg.LIF_LOUPE_MARGIN (p i : Nat) : Nat := 0x100418 + p * 0x10000 + i * 0x40
/-- R417: Delay validity and scan state. -/
def Reg.LIF_LOUPE_STATUS (p i : Nat) : Nat := 0x10041C + p * 0x10000 + i * 0x40
/-- R417: Publications that moved over 1 ns. -/
def Reg.LIF_DELAY_STEP_COUNT (p i : Nat) : Nat := 0x10012C + p * 0x10000 + i * 0x40
/-- R417: Transmit delay of the current mode, units of 2^−16 ns. -/
def Reg.LIF_TX_DELAY (p i : Nat) : Nat := 0x100130 + p * 0x10000 + i * 0x40
/-- R417: Retraining interval. -/
def Reg.MEM_RETRAIN_CTRL (p : Nat) : Nat := 0xC00300 + p * 0x40000
/-- R417: Failed retrainings. -/
def Reg.MEM_RETRAIN_FAIL_COUNT (p : Nat) : Nat := 0xC00304 + p * 0x40000
/-- R417: Steps moved to a later slot. -/
def Reg.MEM_RETRAIN_DEFER_COUNT (p : Nat) : Nat := 0xC00308 + p * 0x40000
/-- R417: Enable, interval and ring. -/
def Reg.HLT_SPARE_CTRL : Nat := 0xF02000
/-- R417: Groups repaired, dropped events. -/
def Reg.HLT_SPARE_STATUS : Nat := 0xF02004
/-- R417: Group g at 0x2400 + 4g. -/
def Reg.HLT_SPARE_GROUP (i : Nat) : Nat := 0xF02400 + i * 0x4
/-- R440: Reference and 10 MHz output. -/
def Reg.TMU_CLK_CTRL : Nat := 0x200000
/-- R440: Lock and holdover. -/
def Reg.TMU_STATUS : Nat := 0x200004
/-- R440: Refused offsets. -/
def Reg.TMU_JUMP_REFUSED : Nat := 0x200008
/-- R440: Current FREQ, signed. -/
def Reg.TMU_FREQ : Nat := 0x20000C
/-- R440: NS. -/
def Reg.TMU_TIME_0 : Nat := 0x200010
/-- R440: SEC [31:0]. -/
def Reg.TMU_TIME_1 : Nat := 0x200014
/-- R440: SEC [47:32] in [15:0]; FRAC in [31:16]. -/
def Reg.TMU_TIME_2 : Nat := 0x200018
/-- R440: Tick [31:0]. -/
def Reg.TMU_TIME_3 : Nat := 0x20001C
/-- R440: Tick [47:32] in [15:0]. -/
def Reg.TMU_TIME_4 : Nat := 0x200020
/-- R440: Servo gains. -/
def Reg.TMU_SERVO_GAIN : Nat := 0x200024
/-- R440: Offset interval. -/
def Reg.TMU_SERVO_CFG : Nat := 0x200028
/-- R440: Jump threshold. -/
def Reg.TMU_JUMP_THRESH : Nat := 0x20002C
/-- R440: PPS enables and width. -/
def Reg.TMU_PPS_CTRL : Nat := 0x200030
/-- R440: PPS_OUT offset. -/
def Reg.TMU_PPS_OFFSET : Nat := 0x200034
/-- R440: Event rings. -/
def Reg.TMU_EVENT_CTRL : Nat := 0x200038
/-- R440: Corrections not made. -/
def Reg.TMU_PTP_SKIP_COUNT : Nat := 0x20003C
/-- R440: Events discarded at a full ring. -/
def Reg.TMU_EVENT_DROP_COUNT : Nat := 0x200040
/-- R440: PTP handling of port n. -/
def Reg.TMU_PTP_CFG (i : Nat) : Nat := 0x201000 + i * 0x4
/-- R440: Queue depth and overflow. -/
def Reg.TMU_TXTS_STATUS (i : Nat) : Nat := 0x201200 + i * 0x4
/-- R440: Entries discarded under R430. -/
def Reg.TMU_TXTS_DROP_COUNT (i : Nat) : Nat := 0x201400 + i * 0x4
/-- R469: Link speed, width and mode. -/
def Reg.HIF_STATUS : Nat := 0xD00000
/-- R469: Ring of HIF events, [9:0]. -/
def Reg.HIF_EVENT_CTRL : Nat := 0xD00004
/-- R469: Pool of command staging, [3:0]. -/
def Reg.HIF_STAGE_CTRL : Nat := 0xD00008
/-- R469: Doorbell writes ignored under R448. -/
def Reg.HIF_DOORBELL_ERR_COUNT : Nat := 0xD0000C
/-- R469: Cycles commands waited for staging. -/
def Reg.HIF_STAGE_WAIT_COUNT : Nat := 0xD00010
/-- R469: Export messages discarded. -/
def Reg.HIF_EXPORT_DROP_COUNT : Nat := 0xD00014
/-- R469: HIF events discarded at a full ring. -/
def Reg.HIF_EVENT_DROP_COUNT : Nat := 0xD00018
/-- R469: Commands completed [31:0]; latched as R7 lays down. -/
def Reg.HIF_CMD_COUNT_LO : Nat := 0xD00020
/-- R469: Commands completed [63:32]. -/
def Reg.HIF_CMD_COUNT_HI : Nat := 0xD00024
/-- R469: Group g at 0x0040 + 4g. -/
def Reg.HIF_PUNT_MAP (i : Nat) : Nat := 0xD00040 + i * 0x4
/-- R469: Host-port queue q at 0x0080 + 4q. -/
def Reg.HIF_PUNT_RING (i : Nat) : Nat := 0xD00080 + i * 0x4
/-- R469: VF v at 0x0100 + 4(v − 1). -/
def Reg.HIF_VF_CFG (i : Nat) : Nat := 0xD000FC + i * 0x4
/-- R469: Snapshot enable and period. -/
def Reg.HIF_PERF_CTRL : Nat := 0xD00200
/-- R469: Snapshot address [31:12] in [31:12]. -/
def Reg.HIF_PERF_ADDR_LO : Nat := 0xD00204
/-- R469: Snapshot address [63:32]. -/
def Reg.HIF_PERF_ADDR_HI : Nat := 0xD00208
/-- R469: SEQ of the last snapshot written. -/
def Reg.HIF_PERF_SEQ : Nat := 0xD0020C
/-- R469: Counter i at 0x1000 + 4i. -/
def Reg.HIF_PERF_SEL (i : Nat) : Nat := 0xD01000 + i * 0x4
/-- R469: Counter i at 0x2000 + 8i: [31:0], then [47:32]. -/
def Reg.HIF_PERF_VALUE (i : Nat) : Nat := 0xD02000 + i * 0x4
/-- R469: Vector v at 0x4000 + 4v. -/
def Reg.HIF_VEC_MOD (i : Nat) : Nat := 0xD04000 + i * 0x4
/-- R469: Type, size, owner, vector. -/
def Reg.HIF_RING_CFG (i : Nat) : Nat := 0xD10000 + i * 0x10
/-- R469: ENABLE in [0]. -/
def Reg.HIF_RING_CTRL (i : Nat) : Nat := 0xD10004 + i * 0x10
/-- R469: Base [31:12] in [31:12]. -/
def Reg.HIF_RING_BASE_LO (i : Nat) : Nat := 0xD10008 + i * 0x10
/-- R469: Base [63:32]. -/
def Reg.HIF_RING_BASE_HI (i : Nat) : Nat := 0xD1000C + i * 0x10
/-- R469: Device index and state. -/
def Reg.HIF_RING_STATUS (i : Nat) : Nat := 0xD14000 + i * 0x4
/-- R469: 64 entries of 16 bytes, as the PCIe specification lays down. -/
def Reg.HIF_MSIX_TABLE (i : Nat) : Nat := 0xD80000 + i * 0x4
/-- R469: Pending bits. -/
def Reg.HIF_MSIX_PBA (i : Nat) : Nat := 0xD81000 + i * 0x4
/-- R497: Lot code, [23:0]. -/
def Reg.HMK_IDENT_LOT : Nat := 0xE00000
/-- R497: Wafer, [4:0]. -/
def Reg.HMK_IDENT_WAFER : Nat := 0xE00004
/-- R497: X [7:0], Y [15:8]. -/
def Reg.HMK_IDENT_DIE : Nat := 0xE00008
/-- R497: Days since 2000-01-01, [15:0]. -/
def Reg.HMK_IDENT_DATE : Nat := 0xE0000C
/-- R497: Life-cycle state and flags. -/
def Reg.HMK_LCS : Nat := 0xE00010
/-- R497: Boot state. -/
def Reg.HMK_BOOT_STATUS : Nat := 0xE00014
/-- R497: Floor [15:0], STEPS [23:16]. -/
def Reg.HMK_FLOOR (i : Nat) : Nat := 0xE00018 + i * 0x4
/-- R497: Unreleased records [19:0], staged [28:20]. -/
def Reg.HMK_AUDIT_STATUS : Nat := 0xE00024
/-- R497: SEQ of last record [31:0]; latched as R7 lays down. -/
def Reg.HMK_AUDIT_SEQ_LO : Nat := 0xE00028
/-- R497: [63:32]. -/
def Reg.HMK_AUDIT_SEQ_HI : Nat := 0xE0002C
/-- R497: Commands refused under R493. -/
def Reg.HMK_AUDIT_REFUSED_COUNT : Nat := 0xE00030
/-- R497: Open sessions, [4:0]. -/
def Reg.HMK_SESSION_STATUS : Nat := 0xE00034
/-- R497: INTERVAL_MS, [15:0]. -/
def Reg.HMK_REVERIFY_CTRL : Nat := 0xE00038
/-- R497: Passes. -/
def Reg.HMK_REVERIFY_STATUS : Nat := 0xE0003C
/-- R497: Event ring, [9:0]. -/
def Reg.HMK_EVENT_CTRL : Nat := 0xE00040
/-- R497: Events discarded at a full ring. -/
def Reg.HMK_EVENT_DROP_COUNT : Nat := 0xE00044
/-- R497: Random source state. -/
def Reg.HMK_RNG_STATUS : Nat := 0xE00048
/-- R523: Domain d in [2(d mod 16)+1:2(d mod 16)] of register d div 16. -/
def Reg.HLT_PWR_STATE (i : Nat) : Nat := 0xF00100 + i * 0x4
/-- R523: Solitaire state. -/
def Reg.HLT_SOLO_STATUS : Nat := 0xF00110
/-- R523: Entries. -/
def Reg.HLT_SOLO_COUNT : Nat := 0xF00114
/-- R523: FIELDS, [5:0]. -/
def Reg.HLT_KEEL_CTRL : Nat := 0xF00118
/-- R523: Valid entries, [12:0]. -/
def Reg.HLT_KEEL_COUNT : Nat := 0xF0011C
/-- R523: Keel hits. -/
def Reg.HLT_KEEL_HIT_COUNT : Nat := 0xF00120
/-- R523: Keel misses. -/
def Reg.HLT_KEEL_MISS_COUNT : Nat := 0xF00124
/-- R523: Drops under R504 and R515. -/
def Reg.HLT_KEEL_DROP_COUNT : Nat := 0xF00128
/-- R523: Entries cleared. -/
def Reg.HLT_KEEL_ECC_COUNT : Nat := 0xF0012C
/-- R523: Bit i of register r: port 32r + i to HOST. -/
def Reg.HLT_SOLO_PORT (i : Nat) : Nat := 0xF00130 + i * 0x4
/-- R523: Warning threshold. -/
def Reg.HLT_THERM_CTRL : Nat := 0xF00140
/-- R523: Readings and flags. -/
def Reg.HLT_THERM_STATUS : Nat := 0xF00144
/-- R523: Sensor s at 0x0150 + 4s, signed °C in [7:0]. -/
def Reg.HLT_TEMP (i : Nat) : Nat := 0xF00150 + i * 0x4
/-- R523: Record state. -/
def Reg.HLT_HEALTH_STATUS : Nat := 0xF00190
/-- R523: Event ring, [9:0]. -/
def Reg.HLT_EVENT_CTRL : Nat := 0xF00194
/-- R523: HLT events discarded at a full ring. -/
def Reg.HLT_EVENT_DROP_COUNT : Nat := 0xF00198
/-- R523: Group g sources in [15:0]. -/
def Reg.HLT_INT_STATUS (i : Nat) : Nat := 0xF01000 + i * 0x4
/-- R523: 1 masks the source. -/
def Reg.HLT_INT_MASK (i : Nat) : Nat := 0xF01040 + i * 0x4
/-- R523: Group routing. -/
def Reg.HLT_INT_ROUTE (i : Nat) : Nat := 0xF01080 + i * 0x4
/-- R535: Device, stepping and package. -/
def Reg.GLB_DEVICE_ID : Nat := 0x0
/-- R535: Bring-up state. -/
def Reg.GLB_STATUS : Nat := 0x4
/-- R535: Cause of the last device reset. -/
def Reg.GLB_RESET_CAUSE : Nat := 0x8
/-- R535: Device reset. -/
def Reg.GLB_RESET : Nat := 0xC
/-- R535: Writes discarded under R9, R10 and the chapters that cite this counter; saturates. Each increment also sets interrupt source 0 of group 0, R519. -/
def Reg.GLB_BAD_WRITE_COUNT : Nat := 0x10
/-- R535: Interrupt groups with an unmasked source set. -/
def Reg.GLB_INT_SUMMARY : Nat := 0x14
/-- R535: Host's own value; no effect. -/
def Reg.GLB_SCRATCH : Nat := 0x18
/-- R537: Seals every RWS register. -/
def Reg.HLT_SETUP_SEAL : Nat := 0xF00000
/-- R537: [0] SEALED. -/
def Reg.HLT_SEAL_STATUS : Nat := 0xF00004
/-- R537: RWS writes discarded under R13; saturates. -/
def Reg.HLT_SEAL_WRITE_COUNT : Nat := 0xF00008

/-- Part 1 of the register map. -/
def regMapPart1 : List RegRow := [
  ⟨"FLW_SLICE_STATUS", 0x600000, 0x0, 1, 0x10000, 16, .ro, 0x0, 0x0, []⟩,
  ⟨"FLW_RECORD_COUNT", 0x600004, 0x0, 1, 0x10000, 16, .ro, 0x0, 0x0, []⟩,
  ⟨"FLW_TAG_COUNT", 0x600008, 0x0, 1, 0x10000, 16, .ro, 0x0, 0x0, []⟩,
  ⟨"FLW_STASH_COUNT", 0x60000C, 0x0, 1, 0x10000, 16, .ro, 0x0, 0x0, []⟩,
  ⟨"FLW_STASH_PEAK", 0x600010, 0x0, 1, 0x10000, 16, .rc, 0x0, 0x0, []⟩,
  ⟨"FLW_HOT_COUNT", 0x600014, 0x0, 1, 0x10000, 16, .ro, 0x0, 0x0, []⟩,
  ⟨"FLW_TILE_FAIL_COUNT", 0x600018, 0x0, 1, 0x10000, 16, .rc, 0x0, 0x0, []⟩,
  ⟨"FLW_TAG_FULL_COUNT", 0x60001C, 0x0, 1, 0x10000, 16, .rc, 0x0, 0x0, []⟩,
  ⟨"FLW_FREE_STACK_DEPTH", 0x600020, 0x0, 1, 0x10000, 16, .ro, 0x0, 0x0, []⟩,
  ⟨"FLW_CTRL", 0x608000, 0x0, 1, 0x0, 1, .rws, 0x0, 0x1, []⟩,
  ⟨"FLW_HASH_CTRL", 0x608004, 0x0, 1, 0x0, 1, .rws, 0x0, 0x1, []⟩,
  ⟨"FLW_HASH_KEY0", 0x608008, 0x0, 1, 0x0, 1, .wo, 0x0, 0xFFFFFFFF, []⟩,
  ⟨"FLW_HASH_KEY1", 0x60800C, 0x0, 1, 0x0, 1, .wo, 0x0, 0xFFFFFFFF, []⟩,
  ⟨"FLW_HASH_KEY2", 0x608010, 0x0, 1, 0x0, 1, .wo, 0x0, 0xFFFFFFFF, []⟩,
  ⟨"FLW_HASH_KEY3", 0x608014, 0x0, 1, 0x0, 1, .wo, 0x0, 0xFFFFFFFF, []⟩,
  ⟨"FLW_HIT_COUNT_LO", 0x600040, 0x0, 1, 0x10000, 16, .ro, 0x0, 0x0, []⟩,
  ⟨"FLW_HIT_COUNT_HI", 0x600044, 0x0, 1, 0x10000, 16, .ro, 0x0, 0x0, []⟩,
  ⟨"FLW_COLD_COUNT_LO", 0x600048, 0x0, 1, 0x10000, 16, .ro, 0x0, 0x0, []⟩,
  ⟨"FLW_COLD_COUNT_HI", 0x60004C, 0x0, 1, 0x10000, 16, .ro, 0x0, 0x0, []⟩,
  ⟨"FLW_SETUP_COUNT_LO", 0x600050, 0x0, 1, 0x10000, 16, .ro, 0x0, 0x0, []⟩,
  ⟨"FLW_SETUP_COUNT_HI", 0x600054, 0x0, 1, 0x10000, 16, .ro, 0x0, 0x0, []⟩,
  ⟨"FLW_HBM_OPS_LO", 0x600058, 0x0, 1, 0x10000, 16, .ro, 0x0, 0x0, []⟩,
  ⟨"FLW_HBM_OPS_HI", 0x60005C, 0x0, 1, 0x10000, 16, .ro, 0x0, 0x0, []⟩,
  ⟨"FLW_REFUSE_COUNT", 0x600064, 0x4, 7, 0x10000, 16, .rc, 0x0, 0x0, []⟩]
/-- Part 2 of the register map. -/
def regMapPart2 : List RegRow := [
  ⟨"FLW_BUSY_COUNT", 0x600080, 0x0, 1, 0x10000, 16, .rc, 0x0, 0x0, []⟩,
  ⟨"FLW_SETUPQ_PEAK", 0x600084, 0x0, 1, 0x10000, 16, .rc, 0x0, 0x0, []⟩,
  ⟨"FLW_INFLIGHT_PEAK", 0x600088, 0x0, 1, 0x10000, 16, .rc, 0x0, 0x0, []⟩,
  ⟨"FLW_FILIGREE_STATUS", 0x60008C, 0x0, 1, 0x10000, 16, .ro, 0x0, 0x0, []⟩,
  ⟨"FLW_FILIGREE_CTRL", 0x608040, 0x0, 1, 0x0, 1, .rws, 0x0, 0x1, []⟩,
  ⟨"FLW_KEY_PROFILE", 0x608100, 0x4, 64, 0x0, 1, .rws, 0x0, 0xFFFF7F, [(2, 1, 0, 1)]⟩,
  ⟨"FLW_AGE_STATUS", 0x600090, 0x0, 1, 0x10000, 16, .ro, 0x0, 0x0, []⟩,
  ⟨"FLW_EXPIRED_COUNT", 0x600094, 0x0, 1, 0x10000, 16, .rc, 0x0, 0x0, []⟩,
  ⟨"FLW_EXPIRED_REHIT_COUNT", 0x600098, 0x0, 1, 0x10000, 16, .rc, 0x0, 0x0, []⟩,
  ⟨"FLW_STALE_UPDATE_COUNT", 0x60009C, 0x0, 1, 0x10000, 16, .rc, 0x0, 0x0, []⟩,
  ⟨"FLW_NAT_RETRY_COUNT", 0x6000A0, 0x0, 1, 0x10000, 16, .rc, 0x0, 0x0, []⟩,
  ⟨"FLW_NAT_EXHAUSTED_COUNT", 0x6000A4, 0x0, 1, 0x10000, 16, .rc, 0x0, 0x0, []⟩,
  ⟨"FLW_EVENT_DROP_COUNT", 0x6000A8, 0x0, 1, 0x10000, 16, .rc, 0x0, 0x0, []⟩,
  ⟨"FLW_ORPHAN_STATUS", 0x6000AC, 0x0, 1, 0x10000, 16, .ro, 0x0, 0x0, []⟩,
  ⟨"FLW_AGE_CTRL", 0x608080, 0x0, 1, 0x0, 1, .rw, 0xA8C, 0x1FFFFF, [(20, 1, 8, 1048575)]⟩,
  ⟨"FLW_TCP_AGE_CTRL", 0x608084, 0x0, 1, 0x0, 1, .rw, 0x0, 0x1FF, []⟩,
  ⟨"FLW_EVENT_CTRL", 0x608088, 0x0, 1, 0x0, 1, .rw, 0x0, 0x3FF0007, []⟩,
  ⟨"FLW_EXPORT_CTRL", 0x60808C, 0x0, 1, 0x0, 1, .rw, 0x578, 0x3FFF, [(13, 0, 256, 9000)]⟩,
  ⟨"FLW_TIMEOUT", 0x6080C0, 0x4, 16, 0x0, 1, .rw, 0x0, 0x1FFFF, [(16, 0, 0, 86400)]⟩,
  ⟨"FLW_NAT_OUT_BASE", 0x608200, 0x20, 16, 0x0, 1, .rws, 0x0, 0xFFFFFFFF, []⟩,
  ⟨"FLW_NAT_CFG", 0x608204, 0x20, 16, 0x0, 1, .rws, 0x0, 0xFFFF003F, []⟩,
  ⟨"FLW_NAT_PORTS", 0x608208, 0x20, 16, 0x0, 1, .rws, 0x0, 0xFFFFFFFF, []⟩,
  ⟨"FLW_NAT_SUB", 0x60820C, 0x20, 16, 0x0, 1, .rws, 0x0, 0xFFFF007F, []⟩,
  ⟨"FLW_NAT_IN_BASE", 0x608210, 0x20, 16, 0x0, 1, .rws, 0x0, 0xFFFFFFFF, []⟩]
/-- Part 3 of the register map. -/
def regMapPart3 : List RegRow := [
  ⟨"FLW_NAT_LIMIT", 0x608214, 0x20, 16, 0x0, 1, .rws, 0x0, 0xFFFF, []⟩,
  ⟨"PRS_SPREAD_CTRL", 0x300000, 0x0, 1, 0x10000, 8, .rws, 0x0, 0xF1, []⟩,
  ⟨"PRS_SPREAD_SEED", 0x300004, 0x0, 1, 0x10000, 8, .rws, 0x0, 0xFFFFFFFF, []⟩,
  ⟨"PRS_CHECK_CTRL", 0x300008, 0x0, 1, 0x10000, 8, .rws, 0x1, 0x1, []⟩,
  ⟨"PRS_DEPTH_ACTION", 0x30000C, 0x0, 1, 0x10000, 8, .rws, 0x1, 0x3, []⟩,
  ⟨"PRS_MALFORMED_ACTION", 0x300010, 0x0, 1, 0x10000, 8, .rws, 0x0, 0x3FFFFFFC, []⟩,
  ⟨"PRS_PORT_GROUP_LO", 0x300014, 0x0, 1, 0x10000, 8, .rws, 0x0, 0xFFFFFFFF, []⟩,
  ⟨"PRS_PORT_GROUP_HI", 0x300018, 0x0, 1, 0x10000, 8, .rws, 0x0, 0xFFFFFFFF, []⟩,
  ⟨"PRS_PORT_GROUP_AUX", 0x30001C, 0x0, 1, 0x10000, 8, .rws, 0x0, 0xFF, []⟩,
  ⟨"PRS_SPREAD_PROFILE", 0x300020, 0x4, 4, 0x10000, 8, .rws, 0x0, 0x7FF, []⟩,
  ⟨"PRS_DEPTH_COUNT", 0x300040, 0x0, 1, 0x10000, 8, .rc, 0x0, 0x0, []⟩,
  ⟨"PRS_FRAG_FIRST_COUNT", 0x300044, 0x0, 1, 0x10000, 8, .rc, 0x0, 0x0, []⟩,
  ⟨"PRS_FRAG_LATER_COUNT", 0x300048, 0x0, 1, 0x10000, 8, .rc, 0x0, 0x0, []⟩,
  ⟨"PRS_ENGINE_STALL_COUNT", 0x30004C, 0x0, 1, 0x10000, 8, .rc, 0x0, 0x0, []⟩,
  ⟨"PRS_MALFORMED_COUNT", 0x300084, 0x4, 14, 0x10000, 8, .rc, 0x0, 0x0, []⟩,
  ⟨"PRS_NODE", 0x301000, 0x4, 256, 0x10000, 8, .rws, 0x0, 0xFFFFFFFF, []⟩,
  ⟨"PRS_TRANS", 0x302000, 0x4, 512, 0x10000, 8, .rws, 0x0, 0xFFFFFFFF, []⟩,
  ⟨"PRS_PATH", 0x303000, 0x4, 128, 0x10000, 8, .rws, 0x0, 0xFFFFFFFF, []⟩,
  ⟨"PXA_STATUS", 0x700000, 0x0, 1, 0x10000, 8, .ro, 0x0, 0x0, []⟩,
  ⟨"PXA_WINDOW_PEAK", 0x700004, 0x0, 1, 0x10000, 8, .rc, 0x0, 0x0, []⟩,
  ⟨"PXA_WINDOW_FULL_CYCLES", 0x700008, 0x0, 1, 0x10000, 8, .rc, 0x0, 0x0, []⟩,
  ⟨"PXA_CTX_PEAK", 0x70000C, 0x0, 1, 0x10000, 8, .rc, 0x0, 0x0, []⟩,
  ⟨"PXA_START_COUNT_LO", 0x700010, 0x0, 1, 0x10000, 8, .ro, 0x0, 0x0, []⟩,
  ⟨"PXA_START_COUNT_HI", 0x700014, 0x0, 1, 0x10000, 8, .ro, 0x0, 0x0, []⟩]
/-- Part 4 of the register map. -/
def regMapPart4 : List RegRow := [
  ⟨"PXA_RELEASE_COUNT_LO", 0x700018, 0x0, 1, 0x10000, 8, .ro, 0x0, 0x0, []⟩,
  ⟨"PXA_RELEASE_COUNT_HI", 0x70001C, 0x0, 1, 0x10000, 8, .ro, 0x0, 0x0, []⟩,
  ⟨"PXA_PARK_COUNT", 0x700020, 0x0, 1, 0x10000, 8, .rc, 0x0, 0x0, []⟩,
  ⟨"PXA_EXCEPTION_COUNT", 0x700024, 0x0, 1, 0x10000, 8, .rc, 0x0, 0x0, []⟩,
  ⟨"PXA_BAD_TEMPLATE_COUNT", 0x700028, 0x0, 1, 0x10000, 8, .rc, 0x0, 0x0, []⟩,
  ⟨"PXA_EXC_STATUS", 0x70002C, 0x0, 1, 0x10000, 8, .ro, 0x0, 0x0, []⟩,
  ⟨"PXA_HOLE_COUNT", 0x700040, 0x4, 5, 0x10000, 8, .rc, 0x0, 0x0, []⟩,
  ⟨"MCS_VERSION", 0x704000, 0x0, 1, 0x10000, 8, .ro, 0x0, 0x0, []⟩,
  ⟨"MCS_STAGED_VERSION", 0x704004, 0x0, 1, 0x10000, 8, .ro, 0x0, 0x0, []⟩,
  ⟨"MCS_STATUS", 0x704008, 0x0, 1, 0x10000, 8, .ro, 0x0, 0x0, []⟩,
  ⟨"MCS_STEP_LIMIT", 0x70400C, 0x0, 1, 0x10000, 8, .rws, 0x400, 0x7FFF, [(14, 0, 16, 32767)]⟩,
  ⟨"MCS_FAULT_COUNT", 0x704010, 0x0, 1, 0x10000, 8, .rc, 0x0, 0x0, []⟩,
  ⟨"MCS_FAULT_STATUS", 0x704014, 0x0, 1, 0x10000, 8, .ro, 0x0, 0x0, []⟩,
  ⟨"MCS_ABORT_COUNT", 0x704018, 0x0, 1, 0x10000, 8, .rc, 0x0, 0x0, []⟩,
  ⟨"MCS_LATE_ABORT_COUNT", 0x70401C, 0x0, 1, 0x10000, 8, .rc, 0x0, 0x0, []⟩,
  ⟨"MCS_ECC_COUNT", 0x704020, 0x0, 1, 0x10000, 8, .rc, 0x0, 0x0, []⟩,
  ⟨"MCS_SAMPLE_CTRL", 0x780000, 0x0, 1, 0x0, 1, .rw, 0x0, 0x3FF0007, []⟩,
  ⟨"MCS_SAMPLE_RATE", 0x780004, 0x0, 1, 0x0, 1, .rw, 0x1, 0xFFFFF, [(19, 0, 1, 1048575)]⟩,
  ⟨"MCS_SAMPLE_DROP_COUNT", 0x780008, 0x0, 1, 0x0, 1, .rc, 0x0, 0x0, []⟩,
  ⟨"FWD_SL_CTRL", 0x400000, 0x0, 1, 0x1000, 8, .rws, 0x0, 0xFFF, [(9, 8, 0, 2), (11, 10, 0, 2)]⟩,
  ⟨"FWD_LEARN_PORTS", 0x400004, 0x0, 1, 0x1000, 8, .rws, 0x0, 0xFFFF, []⟩,
  ⟨"FWD_LEARN_CTRL", 0x400008, 0x0, 1, 0x1000, 8, .rws, 0x64, 0x3FF01FF, [(8, 1, 1, 255)]⟩,
  ⟨"FWD_CLASP_STATUS", 0x40000C, 0x0, 1, 0x1000, 8, .ro, 0x0, 0x0, []⟩,
  ⟨"FWD_EXACT_COUNT", 0x400010, 0x0, 1, 0x1000, 8, .ro, 0x0, 0x0, []⟩]
/-- Part 5 of the register map. -/
def regMapPart5 : List RegRow := [
  ⟨"FWD_EXACT_DIGEST", 0x400014, 0x0, 1, 0x1000, 8, .ro, 0x0, 0x0, []⟩,
  ⟨"FWD_LPM_LINES", 0x400018, 0x0, 1, 0x1000, 8, .ro, 0x2800, 0x0, []⟩,
  ⟨"FWD_LPM4_ROUTES", 0x40001C, 0x0, 1, 0x1000, 8, .ro, 0x0, 0x0, []⟩,
  ⟨"FWD_LPM6_ROUTES", 0x400020, 0x0, 1, 0x1000, 8, .ro, 0x0, 0x0, []⟩,
  ⟨"FWD_LPM_DIGEST", 0x400024, 0x0, 1, 0x1000, 8, .ro, 0x0, 0x0, []⟩,
  ⟨"FWD_LEARN_COUNT", 0x400028, 0x0, 1, 0x1000, 8, .rc, 0x0, 0x0, []⟩,
  ⟨"FWD_LEARN_DROP_COUNT", 0x40002C, 0x0, 1, 0x1000, 8, .rc, 0x0, 0x0, []⟩,
  ⟨"FWD_EXACT_MISS_COUNT", 0x400030, 0x0, 1, 0x1000, 8, .rc, 0x0, 0x0, []⟩,
  ⟨"FWD_LPM_MISS_COUNT", 0x400034, 0x0, 1, 0x1000, 8, .rc, 0x0, 0x0, []⟩,
  ⟨"FWD_TILE_FAIL_COUNT", 0x400038, 0x0, 1, 0x1000, 8, .rc, 0x0, 0x0, []⟩,
  ⟨"FWD_NH_FAULT_COUNT", 0x40003C, 0x0, 1, 0x1000, 8, .rc, 0x0, 0x0, []⟩,
  ⟨"FWD_EXACT_PROFILE", 0x400040, 0x4, 16, 0x1000, 8, .rws, 0x0, 0x1FFFFF, []⟩,
  ⟨"TCM_BANK_CFG", 0x500000, 0x0, 1, 0x10000, 8, .rws, 0x0, 0xFFFFFFFF, []⟩,
  ⟨"TCM_SL_CTRL", 0x500004, 0x0, 1, 0x10000, 8, .rws, 0x0, 0x1F, []⟩,
  ⟨"TCM_TIE_COUNT", 0x500008, 0x0, 1, 0x10000, 8, .rc, 0x0, 0x0, []⟩,
  ⟨"TCM_DENY_COUNT", 0x50000C, 0x0, 1, 0x10000, 8, .rc, 0x0, 0x0, []⟩,
  ⟨"TCM_MOVE_STATUS", 0x500010, 0x0, 1, 0x10000, 8, .ro, 0x0, 0x0, []⟩,
  ⟨"TCM_ENTRY_COUNT", 0x500014, 0x0, 1, 0x10000, 8, .ro, 0x0, 0x0, []⟩,
  ⟨"TCM_TILE_FAIL_COUNT", 0x500018, 0x0, 1, 0x10000, 8, .rc, 0x0, 0x0, []⟩,
  ⟨"TCM_CLASP_STATUS", 0x50001C, 0x0, 1, 0x10000, 8, .ro, 0x0, 0x0, []⟩,
  ⟨"TCM_EVENT_CTRL", 0x500020, 0x0, 1, 0x10000, 8, .rws, 0x0, 0x3FF, []⟩,
  ⟨"TCM_EVENT_DROP_COUNT", 0x500024, 0x0, 1, 0x10000, 8, .rc, 0x0, 0x0, []⟩,
  ⟨"TCM_PROFILE", 0x500040, 0x4, 16, 0x10000, 8, .rws, 0x0, 0x7FFFFF, []⟩,
  ⟨"TCM_BANK_FREE", 0x500080, 0x4, 16, 0x10000, 8, .ro, 0x1000, 0x0, []⟩]
/-- Part 6 of the register map. -/
def regMapPart6 : List RegRow := [
  ⟨"SWC_BUF_CTRL", 0xA00000, 0x0, 1, 0x0, 1, .rws, 0x6, 0xF, []⟩,
  ⟨"SWC_SPILL_THRESH", 0xA00004, 0x0, 1, 0x0, 1, .rws, 0x4001000, 0xFFFFFFFF, [(15, 0, 64, 65535)]⟩,
  ⟨"SWC_MAX_FRAME", 0xA00008, 0x0, 1, 0x0, 1, .rws, 0x3FFF, 0x3FFF, [(13, 0, 64, 16383)]⟩,
  ⟨"SWC_EVENT_CTRL", 0xA0000C, 0x0, 1, 0x0, 1, .rws, 0x0, 0x3FF, []⟩,
  ⟨"SWC_CT_EN", 0xA00010, 0x4, 5, 0x0, 1, .rws, 0x0, 0xFFFFFFFF, []⟩,
  ⟨"SWC_SHARED_FREE", 0xA00080, 0x0, 1, 0x0, 1, .ro, 0x0, 0x0, []⟩,
  ⟨"SWC_SPILL_STATUS", 0xA00084, 0x0, 1, 0x0, 1, .ro, 0x0, 0x0, []⟩,
  ⟨"SWC_STOMP_COUNT", 0xA00088, 0x4, 5, 0x0, 1, .rc, 0x0, 0x0, []⟩,
  ⟨"SWC_ERR_DROP_COUNT", 0xA000A0, 0x4, 5, 0x0, 1, .rc, 0x0, 0x0, []⟩,
  ⟨"SWC_CELL_FAIL_COUNT", 0xA000C0, 0x0, 1, 0x0, 1, .rc, 0x0, 0x0, []⟩,
  ⟨"SWC_SPILL_DROP_COUNT", 0xA000C4, 0x4, 3, 0x0, 1, .rc, 0x0, 0x0, []⟩,
  ⟨"SWC_SPILL_LOST_COUNT", 0xA000D0, 0x0, 1, 0x0, 1, .rc, 0x0, 0x0, []⟩,
  ⟨"SWC_LINK_ABORT_COUNT", 0xA000D4, 0x0, 1, 0x0, 1, .rc, 0x0, 0x0, []⟩,
  ⟨"SWC_REWRITE_DROP_COUNT", 0xA000D8, 0x4, 4, 0x0, 1, .rc, 0x0, 0x0, []⟩,
  ⟨"SWC_MC_EMPTY_COUNT", 0xA000E8, 0x0, 1, 0x0, 1, .rc, 0x0, 0x0, []⟩,
  ⟨"SWC_EVENT_DROP_COUNT", 0xA000EC, 0x0, 1, 0x0, 1, .rc, 0x0, 0x0, []⟩,
  ⟨"SWC_BLOCK_FAIL", 0xA00100, 0x4, 32, 0x0, 1, .ro, 0x0, 0x0, []⟩,
  ⟨"SWC_ING_GUAR", 0xA01000, 0x4, 140, 0x0, 1, .rws, 0x40, 0xFFFFF, []⟩,
  ⟨"SWC_EG_LIMIT", 0xA01400, 0x4, 140, 0x0, 1, .rws, 0x1000, 0xFFFFF, []⟩,
  ⟨"SWC_SPILL_LIMIT", 0xA01800, 0x4, 140, 0x0, 1, .rws, 0x0, 0xFFFFFF, []⟩,
  ⟨"SWC_ING_DROP_COUNT", 0xA02000, 0x4, 140, 0x0, 1, .rc, 0x0, 0x0, []⟩,
  ⟨"SWC_EG_DROP_COUNT", 0xA02400, 0x4, 140, 0x0, 1, .rc, 0x0, 0x0, []⟩,
  ⟨"SWC_MC_DROP_COUNT", 0xA02800, 0x4, 140, 0x0, 1, .rc, 0x0, 0x0, []⟩,
  ⟨"SWC_IN_CELLS", 0xA02C00, 0x4, 140, 0x0, 1, .ro, 0x0, 0x0, []⟩]
/-- Part 7 of the register map. -/
def regMapPart7 : List RegRow := [
  ⟨"SWC_EG_CELLS", 0xA03000, 0x4, 140, 0x0, 1, .ro, 0x0, 0x0, []⟩,
  ⟨"BPM_POOL_CFG", 0x900000, 0x4, 16, 0x0, 1, .rws, 0x0, 0x1F, [(4, 1, 0, 8)]⟩,
  ⟨"BPM_BLOCK_POOL", 0x900040, 0x4, 16, 0x0, 1, .rws, 0x0, 0xFFFFFFFF, []⟩,
  ⟨"BPM_POOL_FREE", 0x900080, 0x4, 16, 0x0, 1, .ro, 0x0, 0x0, []⟩,
  ⟨"BPM_POOL_LENT", 0x9000C0, 0x4, 16, 0x0, 1, .ro, 0x0, 0x0, []⟩,
  ⟨"BPM_EXHAUST_COUNT", 0x900100, 0x4, 16, 0x0, 1, .rc, 0x0, 0x0, []⟩,
  ⟨"BPM_FALLBACK_COUNT", 0x900140, 0x4, 16, 0x0, 1, .rc, 0x0, 0x0, []⟩,
  ⟨"BPM_BAD_FREE_COUNT", 0x900180, 0x0, 1, 0x0, 1, .rc, 0x0, 0x0, []⟩,
  ⟨"BPM_BAD_FREE_STATUS", 0x900184, 0x0, 1, 0x0, 1, .ro, 0x0, 0x0, []⟩,
  ⟨"BPM_EVENT_CTRL", 0x900188, 0x0, 1, 0x0, 1, .rws, 0x0, 0x3FF, []⟩,
  ⟨"BPM_EVENT_DROP_COUNT", 0x90018C, 0x0, 1, 0x0, 1, .rc, 0x0, 0x0, []⟩,
  ⟨"TMG_EVENT_CTRL", 0xB00000, 0x0, 1, 0x0, 1, .rws, 0x0, 0x3FF, []⟩,
  ⟨"TMG_SAMPLE_CTRL", 0xB00004, 0x0, 1, 0x0, 1, .rw, 0x640000, 0xFFFF0001, [(31, 16, 1, 65535)]⟩,
  ⟨"TMG_BAD_QUEUE_COUNT", 0xB00010, 0x0, 1, 0x0, 1, .rc, 0x0, 0x0, []⟩,
  ⟨"TMG_GATE_OVERSIZE_COUNT", 0xB00014, 0x0, 1, 0x0, 1, .rc, 0x0, 0x0, []⟩,
  ⟨"TMG_SAMPLE_OVERRUN_COUNT", 0xB00018, 0x0, 1, 0x0, 1, .rc, 0x0, 0x0, []⟩,
  ⟨"TMG_EVENT_DROP_COUNT", 0xB0001C, 0x0, 1, 0x0, 1, .rc, 0x0, 0x0, []⟩,
  ⟨"TMG_PFC_CFG", 0xB01000, 0x4, 128, 0x0, 1, .rws, 0x0, 0xFFFFF, []⟩,
  ⟨"TMG_PFC_THRESH", 0xB01200, 0x4, 128, 0x0, 1, .rws, 0x3000400, 0xFFFFFFFF, []⟩,
  ⟨"TMG_PFC_TIMER", 0xB01400, 0x4, 128, 0x0, 1, .rws, 0xFFFF, 0xFFFFFFFF, []⟩,
  ⟨"TMG_PFC_STATUS", 0xB01600, 0x4, 128, 0x0, 1, .roW1c, 0x0, 0xFF0000, []⟩,
  ⟨"TMG_GATE_STATUS", 0xB01800, 0x4, 128, 0x0, 1, .roW1c, 0xFF00, 0x4, []⟩,
  ⟨"TMG_PFC_TX_COUNT", 0xB01A00, 0x4, 128, 0x0, 1, .rc, 0x0, 0x0, []⟩,
  ⟨"TMG_PFC_RX_COUNT", 0xB01C00, 0x4, 128, 0x0, 1, .rc, 0x0, 0x0, []⟩]
/-- Part 8 of the register map. -/
def regMapPart8 : List RegRow := [
  ⟨"TMG_SAMPLE_LIST", 0xB10000, 0x4, 4096, 0x0, 1, .rw, 0x0, 0x8007FFFF, []⟩,
  ⟨"CIP_STATUS", 0x800000, 0x0, 1, 0x0, 1, .ro, 0x0, 0x0, []⟩,
  ⟨"CIP_ACTIVE_SLOTS", 0x800004, 0x0, 1, 0x0, 1, .ro, 0x0, 0x0, []⟩,
  ⟨"CIP_CACHE_MISS_COUNT", 0x800008, 0x0, 1, 0x0, 1, .rc, 0x0, 0x0, []⟩,
  ⟨"CIP_QUEUE_PEAK", 0x80000C, 0x0, 1, 0x0, 1, .rc, 0x0, 0x0, []⟩,
  ⟨"CIP_EVENT_CTRL", 0x800010, 0x0, 1, 0x0, 1, .rws, 0x0, 0x3FF, []⟩,
  ⟨"CIP_EVENT_DROP_COUNT", 0x800014, 0x0, 1, 0x0, 1, .rc, 0x0, 0x0, []⟩,
  ⟨"CIP_ECC_COUNT", 0x800018, 0x0, 1, 0x0, 1, .rc, 0x0, 0x0, []⟩,
  ⟨"CIP_ACCEPT_COUNT_LO", 0x800020, 0x0, 1, 0x0, 1, .ro, 0x0, 0x0, []⟩,
  ⟨"CIP_ACCEPT_COUNT_HI", 0x800024, 0x0, 1, 0x0, 1, .ro, 0x0, 0x0, []⟩,
  ⟨"CIP_FAIL_COUNT", 0x800044, 0x4, 13, 0x0, 1, .rc, 0x0, 0x0, []⟩,
  ⟨"MEM_STATUS", 0xC00000, 0x0, 1, 0x40000, 4, .ro, 0x0, 0x0, []⟩,
  ⟨"MEM_ARB_CTRL", 0xC00004, 0x0, 1, 0x40000, 4, .rws, 0x0, 0x1, []⟩,
  ⟨"MEM_PNR_CTRL", 0xC00008, 0x0, 1, 0x40000, 4, .rws, 0x2A, 0x3F, [(3, 0, 6, 14), (5, 4, 1, 2)]⟩,
  ⟨"MEM_PD_CTRL", 0xC0000C, 0x0, 1, 0x40000, 4, .rw, 0x1000, 0xFFFF1, [(19, 4, 16, 65535)]⟩,
  ⟨"MEM_SLOT_STATUS", 0xC00010, 0x0, 1, 0x40000, 4, .ro, 0x0, 0x0, []⟩,
  ⟨"MEM_TIE_COUNT", 0xC00014, 0x0, 1, 0x40000, 4, .rc, 0x0, 0x0, []⟩,
  ⟨"MEM_POSTPONE_PEAK", 0xC00018, 0x0, 1, 0x40000, 4, .rc, 0x0, 0x0, []⟩,
  ⟨"MEM_SPLIT_COUNT", 0xC0001C, 0x0, 1, 0x40000, 4, .rc, 0x0, 0x0, []⟩,
  ⟨"MEM_PNR_COUNT", 0xC00020, 0x0, 1, 0x40000, 4, .rc, 0x0, 0x0, []⟩,
  ⟨"MEM_PNR_SKIP_COUNT", 0xC00024, 0x0, 1, 0x40000, 4, .rc, 0x0, 0x0, []⟩,
  ⟨"MEM_UE_COUNT", 0xC00028, 0x0, 1, 0x40000, 4, .rc, 0x0, 0x0, []⟩,
  ⟨"MEM_EVENT_CTRL", 0xC0002C, 0x0, 1, 0x40000, 4, .rws, 0x0, 0x3FF, []⟩,
  ⟨"MEM_EVENT_DROP_COUNT", 0xC00030, 0x0, 1, 0x40000, 4, .rc, 0x0, 0x0, []⟩]
/-- Part 9 of the register map. -/
def regMapPart9 : List RegRow := [
  ⟨"MEM_REQ_CFG", 0xC00100, 0x4, 12, 0x40000, 4, .rw, 0x3E80400, 0xFFFF1FF7, [(12, 4, 4, 256), (31, 16, 1, 65535)]⟩,
  ⟨"MEM_REQ_WAIT_PEAK", 0xC00200, 0x4, 12, 0x40000, 4, .rc, 0x0, 0x0, []⟩,
  ⟨"MEM_SLOT", 0xC01000, 0x4, 256, 0x40000, 4, .ro, 0x0, 0x0, []⟩,
  ⟨"LIF_OCT_MODE", 0x100000, 0x0, 1, 0x10000, 16, .ro, 0x0, 0x0, []⟩,
  ⟨"LIF_EVENT_CTRL", 0x100004, 0x0, 1, 0x10000, 16, .rws, 0x0, 0x3FF, []⟩,
  ⟨"LIF_EVENT_DROP_COUNT", 0x100008, 0x0, 1, 0x10000, 16, .rc, 0x0, 0x0, []⟩,
  ⟨"LIF_PORT_CFG", 0x100100, 0x40, 8, 0x10000, 16, .rws, 0xA3, 0x3FFF, []⟩,
  ⟨"LIF_PORT_STATUS", 0x100104, 0x40, 8, 0x10000, 16, .ro, 0x0, 0x0, []⟩,
  ⟨"LIF_FCS_ERR_COUNT", 0x100108, 0x40, 8, 0x10000, 16, .rc, 0x0, 0x0, []⟩,
  ⟨"LIF_RUNT_COUNT", 0x10010C, 0x40, 8, 0x10000, 16, .rc, 0x0, 0x0, []⟩,
  ⟨"LIF_RX_ERR_COUNT", 0x100110, 0x40, 8, 0x10000, 16, .rc, 0x0, 0x0, []⟩,
  ⟨"LIF_OVERRUN_COUNT", 0x100114, 0x40, 8, 0x10000, 16, .rc, 0x0, 0x0, []⟩,
  ⟨"LIF_FEC_UNCORR_COUNT", 0x100118, 0x40, 8, 0x10000, 16, .rc, 0x0, 0x0, []⟩,
  ⟨"LIF_FEC_CORR_COUNT", 0x10011C, 0x40, 8, 0x10000, 16, .rc, 0x0, 0x0, []⟩,
  ⟨"LIF_FLAP_COUNT", 0x100120, 0x40, 8, 0x10000, 16, .rc, 0x0, 0x0, []⟩,
  ⟨"LIF_AN_FAIL_COUNT", 0x100124, 0x40, 8, 0x10000, 16, .rc, 0x0, 0x0, []⟩,
  ⟨"LIF_CTRL_DROP_COUNT", 0x100128, 0x40, 8, 0x10000, 16, .rc, 0x0, 0x0, []⟩,
  ⟨"LIF_LANE_CFG", 0x100400, 0x40, 8, 0x10000, 16, .rws, 0x0, 0x1F, [(4, 2, 0, 4)]⟩,
  ⟨"LIF_LANE_STATUS", 0x100404, 0x40, 8, 0x10000, 16, .ro, 0x0, 0x0, []⟩,
  ⟨"LIF_LANE_SYM_ERR_COUNT", 0x100408, 0x40, 8, 0x10000, 16, .rc, 0x0, 0x0, []⟩,
  ⟨"LIF_LANE_LOCK_LOSS_COUNT", 0x10040C, 0x40, 8, 0x10000, 16, .rc, 0x0, 0x0, []⟩,
  ⟨"LIF_RX_DELAY", 0x100410, 0x40, 8, 0x10000, 16, .ro, 0x0, 0x0, []⟩,
  ⟨"LIF_LOUPE_CTRL", 0x100414, 0x40, 8, 0x10000, 16, .rw, 0x140844, 0x1FFFFF, [(4, 0, 1, 15), (9, 5, 1, 15), (15, 10, 0, 31), (20, 16, 12, 30)]⟩,
  ⟨"LIF_LOUPE_MARGIN", 0x100418, 0x40, 8, 0x10000, 16, .ro, 0x0, 0x0, []⟩]
/-- Part 10 of the register map. -/
def regMapPart10 : List RegRow := [
  ⟨"LIF_LOUPE_STATUS", 0x10041C, 0x40, 8, 0x10000, 16, .ro, 0x0, 0x0, []⟩,
  ⟨"LIF_DELAY_STEP_COUNT", 0x10012C, 0x40, 8, 0x10000, 16, .rc, 0x0, 0x0, []⟩,
  ⟨"LIF_TX_DELAY", 0x100130, 0x40, 8, 0x10000, 16, .ro, 0x0, 0x0, []⟩,
  ⟨"MEM_RETRAIN_CTRL", 0xC00300, 0x0, 1, 0x40000, 4, .rws, 0x10, 0xFF, [(7, 0, 1, 255)]⟩,
  ⟨"MEM_RETRAIN_FAIL_COUNT", 0xC00304, 0x0, 1, 0x40000, 4, .rc, 0x0, 0x0, []⟩,
  ⟨"MEM_RETRAIN_DEFER_COUNT", 0xC00308, 0x0, 1, 0x40000, 4, .rc, 0x0, 0x0, []⟩,
  ⟨"HLT_SPARE_CTRL", 0xF02000, 0x0, 1, 0x0, 1, .rws, 0x3E80000, 0xFFFF3FF1, [(31, 16, 10, 65535)]⟩,
  ⟨"HLT_SPARE_STATUS", 0xF02004, 0x0, 1, 0x0, 1, .ro, 0x0, 0x0, []⟩,
  ⟨"HLT_SPARE_GROUP", 0xF02400, 0x4, 224, 0x0, 1, .ro, 0x0, 0x0, []⟩,
  ⟨"TMU_CLK_CTRL", 0x200000, 0x0, 1, 0x0, 1, .rw, 0x0, 0x3, []⟩,
  ⟨"TMU_STATUS", 0x200004, 0x0, 1, 0x0, 1, .ro, 0x0, 0x0, []⟩,
  ⟨"TMU_JUMP_REFUSED", 0x200008, 0x0, 1, 0x0, 1, .roW1c, 0x0, 0x1, []⟩,
  ⟨"TMU_FREQ", 0x20000C, 0x0, 1, 0x0, 1, .ro, 0x0, 0x0, []⟩,
  ⟨"TMU_TIME_0", 0x200010, 0x0, 1, 0x0, 1, .ro, 0x0, 0x0, []⟩,
  ⟨"TMU_TIME_1", 0x200014, 0x0, 1, 0x0, 1, .ro, 0x0, 0x0, []⟩,
  ⟨"TMU_TIME_2", 0x200018, 0x0, 1, 0x0, 1, .ro, 0x0, 0x0, []⟩,
  ⟨"TMU_TIME_3", 0x20001C, 0x0, 1, 0x0, 1, .ro, 0x0, 0x0, []⟩,
  ⟨"TMU_TIME_4", 0x200020, 0x0, 1, 0x0, 1, .ro, 0x0, 0x0, []⟩,
  ⟨"TMU_SERVO_GAIN", 0x200024, 0x0, 1, 0x0, 1, .rw, 0x4CCDB333, 0xFFFFFFFF, []⟩,
  ⟨"TMU_SERVO_CFG", 0x200028, 0x0, 1, 0x0, 1, .rw, 0x0, 0xF, []⟩,
  ⟨"TMU_JUMP_THRESH", 0x20002C, 0x0, 1, 0x0, 1, .rw, 0x3E8, 0x3FFFFFFF, [(29, 0, 1, 1000000000)]⟩,
  ⟨"TMU_PPS_CTRL", 0x200030, 0x0, 1, 0x0, 1, .rw, 0x61A80, 0x3FFFFF, [(21, 2, 1, 999999)]⟩,
  ⟨"TMU_PPS_OFFSET", 0x200034, 0x0, 1, 0x0, 1, .rw, 0x0, 0xFFFFFFFF, []⟩,
  ⟨"TMU_EVENT_CTRL", 0x200038, 0x0, 1, 0x0, 1, .rws, 0x0, 0x3FF03FF, []⟩]
/-- Part 11 of the register map. -/
def regMapPart11 : List RegRow := [
  ⟨"TMU_PTP_SKIP_COUNT", 0x20003C, 0x0, 1, 0x0, 1, .rc, 0x0, 0x0, []⟩,
  ⟨"TMU_EVENT_DROP_COUNT", 0x200040, 0x0, 1, 0x0, 1, .rc, 0x0, 0x0, []⟩,
  ⟨"TMU_PTP_CFG", 0x201000, 0x4, 128, 0x0, 1, .rws, 0x0, 0x3, []⟩,
  ⟨"TMU_TXTS_STATUS", 0x201200, 0x4, 128, 0x0, 1, .roW1c, 0x0, 0x100, []⟩,
  ⟨"TMU_TXTS_DROP_COUNT", 0x201400, 0x4, 128, 0x0, 1, .rc, 0x0, 0x0, []⟩,
  ⟨"HIF_STATUS", 0xD00000, 0x0, 1, 0x0, 1, .ro, 0x0, 0x0, []⟩,
  ⟨"HIF_EVENT_CTRL", 0xD00004, 0x0, 1, 0x0, 1, .rws, 0x0, 0x3FF, []⟩,
  ⟨"HIF_STAGE_CTRL", 0xD00008, 0x0, 1, 0x0, 1, .rws, 0x0, 0xF, []⟩,
  ⟨"HIF_DOORBELL_ERR_COUNT", 0xD0000C, 0x0, 1, 0x0, 1, .rc, 0x0, 0x0, []⟩,
  ⟨"HIF_STAGE_WAIT_COUNT", 0xD00010, 0x0, 1, 0x0, 1, .rc, 0x0, 0x0, []⟩,
  ⟨"HIF_EXPORT_DROP_COUNT", 0xD00014, 0x0, 1, 0x0, 1, .rc, 0x0, 0x0, []⟩,
  ⟨"HIF_EVENT_DROP_COUNT", 0xD00018, 0x0, 1, 0x0, 1, .rc, 0x0, 0x0, []⟩,
  ⟨"HIF_CMD_COUNT_LO", 0xD00020, 0x0, 1, 0x0, 1, .ro, 0x0, 0x0, []⟩,
  ⟨"HIF_CMD_COUNT_HI", 0xD00024, 0x0, 1, 0x0, 1, .ro, 0x0, 0x0, []⟩,
  ⟨"HIF_PUNT_MAP", 0xD00040, 0x4, 16, 0x0, 1, .rws, 0x0, 0x1F, []⟩,
  ⟨"HIF_PUNT_RING", 0xD00080, 0x4, 32, 0x0, 1, .rws, 0x0, 0x3FF, []⟩,
  ⟨"HIF_VF_CFG", 0xD00100, 0x4, 64, 0x0, 1, .rws, 0x0, 0x1FFFFFFF, [(28, 22, 0, 64)]⟩,
  ⟨"HIF_PERF_CTRL", 0xD00200, 0x0, 1, 0x0, 1, .rw, 0x640000, 0xFFFF0001, [(31, 16, 1, 65535)]⟩,
  ⟨"HIF_PERF_ADDR_LO", 0xD00204, 0x0, 1, 0x0, 1, .rw, 0x0, 0xFFFFF000, []⟩,
  ⟨"HIF_PERF_ADDR_HI", 0xD00208, 0x0, 1, 0x0, 1, .rw, 0x0, 0xFFFFFFFF, []⟩,
  ⟨"HIF_PERF_SEQ", 0xD0020C, 0x0, 1, 0x0, 1, .ro, 0x0, 0x0, []⟩,
  ⟨"HIF_PERF_SEL", 0xD01000, 0x4, 512, 0x0, 1, .rw, 0x0, 0x9FFFFFFF, []⟩,
  ⟨"HIF_PERF_VALUE", 0xD02000, 0x4, 1024, 0x0, 1, .ro, 0x0, 0x0, []⟩,
  ⟨"HIF_VEC_MOD", 0xD04000, 0x4, 64, 0x0, 1, .rw, 0x1, 0xFFFFFFFF, [(15, 0, 1, 65535)]⟩]
/-- Part 12 of the register map. -/
def regMapPart12 : List RegRow := [
  ⟨"HIF_RING_CFG", 0xD10000, 0x10, 1024, 0x0, 1, .rws, 0x0, 0xFFFFFF, [(2, 0, 0, 4), (7, 3, 4, 16)]⟩,
  ⟨"HIF_RING_CTRL", 0xD10004, 0x10, 1024, 0x0, 1, .rw, 0x0, 0x1, []⟩,
  ⟨"HIF_RING_BASE_LO", 0xD10008, 0x10, 1024, 0x0, 1, .rw, 0x0, 0xFFFFF000, []⟩,
  ⟨"HIF_RING_BASE_HI", 0xD1000C, 0x10, 1024, 0x0, 1, .rw, 0x0, 0xFFFFFFFF, []⟩,
  ⟨"HIF_RING_STATUS", 0xD14000, 0x4, 1024, 0x0, 1, .ro, 0x20000, 0x0, []⟩,
  ⟨"HIF_MSIX_TABLE", 0xD80000, 0x4, 256, 0x0, 1, .rw, 0x0, 0xFFFFFFFF, []⟩,
  ⟨"HIF_MSIX_PBA", 0xD81000, 0x4, 2, 0x0, 1, .ro, 0x0, 0x0, []⟩,
  ⟨"HMK_IDENT_LOT", 0xE00000, 0x0, 1, 0x0, 1, .ro, 0x0, 0x0, []⟩,
  ⟨"HMK_IDENT_WAFER", 0xE00004, 0x0, 1, 0x0, 1, .ro, 0x0, 0x0, []⟩,
  ⟨"HMK_IDENT_DIE", 0xE00008, 0x0, 1, 0x0, 1, .ro, 0x0, 0x0, []⟩,
  ⟨"HMK_IDENT_DATE", 0xE0000C, 0x0, 1, 0x0, 1, .ro, 0x0, 0x0, []⟩,
  ⟨"HMK_LCS", 0xE00010, 0x0, 1, 0x0, 1, .ro, 0x0, 0x0, []⟩,
  ⟨"HMK_BOOT_STATUS", 0xE00014, 0x0, 1, 0x0, 1, .ro, 0x0, 0x0, []⟩,
  ⟨"HMK_FLOOR", 0xE00018, 0x4, 3, 0x0, 1, .ro, 0x0, 0x0, []⟩,
  ⟨"HMK_AUDIT_STATUS", 0xE00024, 0x0, 1, 0x0, 1, .ro, 0x0, 0x0, []⟩,
  ⟨"HMK_AUDIT_SEQ_LO", 0xE00028, 0x0, 1, 0x0, 1, .ro, 0x0, 0x0, []⟩,
  ⟨"HMK_AUDIT_SEQ_HI", 0xE0002C, 0x0, 1, 0x0, 1, .ro, 0x0, 0x0, []⟩,
  ⟨"HMK_AUDIT_REFUSED_COUNT", 0xE00030, 0x0, 1, 0x0, 1, .rc, 0x0, 0x0, []⟩,
  ⟨"HMK_SESSION_STATUS", 0xE00034, 0x0, 1, 0x0, 1, .ro, 0x0, 0x0, []⟩,
  ⟨"HMK_REVERIFY_CTRL", 0xE00038, 0x0, 1, 0x0, 1, .rws, 0x3E8, 0xFFFF, [(15, 0, 10, 60000)]⟩,
  ⟨"HMK_REVERIFY_STATUS", 0xE0003C, 0x0, 1, 0x0, 1, .ro, 0x0, 0x0, []⟩,
  ⟨"HMK_EVENT_CTRL", 0xE00040, 0x0, 1, 0x0, 1, .rws, 0x0, 0x3FF, []⟩,
  ⟨"HMK_EVENT_DROP_COUNT", 0xE00044, 0x0, 1, 0x0, 1, .rc, 0x0, 0x0, []⟩,
  ⟨"HMK_RNG_STATUS", 0xE00048, 0x0, 1, 0x0, 1, .ro, 0x0, 0x0, []⟩]
/-- Part 13 of the register map. -/
def regMapPart13 : List RegRow := [
  ⟨"HLT_PWR_STATE", 0xF00100, 0x4, 4, 0x0, 1, .ro, 0x0, 0x0, []⟩,
  ⟨"HLT_SOLO_STATUS", 0xF00110, 0x0, 1, 0x0, 1, .ro, 0x0, 0x0, []⟩,
  ⟨"HLT_SOLO_COUNT", 0xF00114, 0x0, 1, 0x0, 1, .rc, 0x0, 0x0, []⟩,
  ⟨"HLT_KEEL_CTRL", 0xF00118, 0x0, 1, 0x0, 1, .rws, 0x3F, 0x3F, []⟩,
  ⟨"HLT_KEEL_COUNT", 0xF0011C, 0x0, 1, 0x0, 1, .ro, 0x0, 0x0, []⟩,
  ⟨"HLT_KEEL_HIT_COUNT", 0xF00120, 0x0, 1, 0x0, 1, .rc, 0x0, 0x0, []⟩,
  ⟨"HLT_KEEL_MISS_COUNT", 0xF00124, 0x0, 1, 0x0, 1, .rc, 0x0, 0x0, []⟩,
  ⟨"HLT_KEEL_DROP_COUNT", 0xF00128, 0x0, 1, 0x0, 1, .rc, 0x0, 0x0, []⟩,
  ⟨"HLT_KEEL_ECC_COUNT", 0xF0012C, 0x0, 1, 0x0, 1, .rc, 0x0, 0x0, []⟩,
  ⟨"HLT_SOLO_PORT", 0xF00130, 0x4, 4, 0x0, 1, .rws, 0x0, 0xFFFFFFFF, []⟩,
  ⟨"HLT_THERM_CTRL", 0xF00140, 0x0, 1, 0x0, 1, .rw, 0x64, 0xFF, [(7, 0, 60, 105)]⟩,
  ⟨"HLT_THERM_STATUS", 0xF00144, 0x0, 1, 0x0, 1, .ro, 0x0, 0x0, []⟩,
  ⟨"HLT_TEMP", 0xF00150, 0x4, 16, 0x0, 1, .ro, 0x0, 0x0, []⟩,
  ⟨"HLT_HEALTH_STATUS", 0xF00190, 0x0, 1, 0x0, 1, .ro, 0x0, 0x0, []⟩,
  ⟨"HLT_EVENT_CTRL", 0xF00194, 0x0, 1, 0x0, 1, .rws, 0x0, 0x3FF, []⟩,
  ⟨"HLT_EVENT_DROP_COUNT", 0xF00198, 0x0, 1, 0x0, 1, .rc, 0x0, 0x0, []⟩,
  ⟨"HLT_INT_STATUS", 0xF01000, 0x4, 16, 0x0, 1, .w1c, 0x0, 0xFFFF, []⟩,
  ⟨"HLT_INT_MASK", 0xF01040, 0x4, 16, 0x0, 1, .rw, 0xFFFF, 0xFFFF, []⟩,
  ⟨"HLT_INT_ROUTE", 0xF01080, 0x4, 16, 0x0, 1, .rw, 0x0, 0x13F, []⟩,
  ⟨"GLB_DEVICE_ID", 0x0, 0x0, 1, 0x0, 1, .ro, 0x119128, 0x0, []⟩,
  ⟨"GLB_STATUS", 0x4, 0x0, 1, 0x0, 1, .ro, 0x0, 0x0, []⟩,
  ⟨"GLB_RESET_CAUSE", 0x8, 0x0, 1, 0x0, 1, .roW1c, 0x0, 0x4, []⟩,
  ⟨"GLB_RESET", 0xC, 0x0, 1, 0x0, 1, .wo, 0x0, 0xFFFFFFFF, []⟩,
  ⟨"GLB_BAD_WRITE_COUNT", 0x10, 0x0, 1, 0x0, 1, .rc, 0x0, 0x0, []⟩]
/-- Part 14 of the register map. -/
def regMapPart14 : List RegRow := [
  ⟨"GLB_INT_SUMMARY", 0x14, 0x0, 1, 0x0, 1, .ro, 0x0, 0x0, []⟩,
  ⟨"GLB_SCRATCH", 0x18, 0x0, 1, 0x0, 1, .rw, 0x0, 0xFFFFFFFF, []⟩,
  ⟨"HLT_SETUP_SEAL", 0xF00000, 0x0, 1, 0x0, 1, .wo, 0x0, 0xFFFFFFFF, []⟩,
  ⟨"HLT_SEAL_STATUS", 0xF00004, 0x0, 1, 0x0, 1, .ro, 0x0, 0x0, []⟩,
  ⟨"HLT_SEAL_WRITE_COUNT", 0xF00008, 0x0, 1, 0x0, 1, .rc, 0x0, 0x0, []⟩]

/-- The whole BAR0 register map. -/
def regMap : List RegRow :=
  regMapPart1 ++ regMapPart2 ++ regMapPart3 ++ regMapPart4 ++ regMapPart5 ++ regMapPart6 ++ regMapPart7 ++ regMapPart8 ++ regMapPart9 ++ regMapPart10 ++ regMapPart11 ++ regMapPart12 ++ regMapPart13 ++ regMapPart14

/-- Does the row place a register at address `a` (page and instance in range)? -/
def RegRow.covers (r : RegRow) (a : Nat) : Bool :=
  if a < r.base then false
  else
    let d := a - r.base
    let p := if r.pages ≤ 1 then 0 else d / r.pstride
    let o := d - p * r.pstride
    p < r.pages && (if r.count ≤ 1 then o == 0 else (o % r.stride == 0 && o / r.stride < r.count))

/-- The row that maps the address `a`, if any (R10, R19). -/
def regRowAt (a : Nat) : Option RegRow := regMap.find? (fun r => r.covers a)

end Sys2Proof.Machine
end

