-- ==== Sys2Proof/Machine/FMap.lean ====
section
/-!
DEFINITION. Machine/FMap.lean: sparse data by key, a list of pairs with strictly rising keys.
`fput` keeps the canonical form of a memory: no entry equals what an unlisted key reads as.
-/

namespace Sys2Proof.Machine

/-- A sparse table: pairs of key and value, keys strictly rising. -/
abbrev FMap (α : Type) := List (Nat × α)

/-- The value listed at a key, if any. -/
def ffind? {α : Type} : FMap α → Nat → Option α
  | [], _ => none
  | (j, v) :: m, k => if j = k then some v else ffind? m k

/-- The value at a key; an unlisted key reads as `d`. -/
def fget {α : Type} (m : FMap α) (d : α) (k : Nat) : α := (ffind? m k).getD d

/-- Insert or replace, keeping keys rising. -/
def fset {α : Type} : FMap α → Nat → α → FMap α
  | [], k, v => [(k, v)]
  | (j, w) :: m, k, v =>
    if k < j then (k, v) :: (j, w) :: m
    else if k = j then (k, v) :: m
    else (j, w) :: fset m k v

/-- Remove a key. -/
def ferase {α : Type} : FMap α → Nat → FMap α
  | [], _ => []
  | (j, w) :: m, k => if j = k then m else (j, w) :: ferase m k

/-- Write keeping the canonical form: writing what an unlisted key reads as removes the entry. -/
def fput {α : Type} [DecidableEq α] (m : FMap α) (d : α) (k : Nat) (v : α) : FMap α :=
  if v = d then ferase m k else fset m k v

/-- As `fput`, where what an unlisted key reads as depends on the key. -/
def fputD {α : Type} [DecidableEq α] (m : FMap α) (d : Nat → α) (k : Nat) (v : α) : FMap α := fput m (d k) k v

/-- Apply a function to the value at a key. -/
def fmod {α : Type} (m : FMap α) (d : α) (k : Nat) (f : α → α) : FMap α := fset m k (f (fget m d k))

/-- Every key is at least `b`, and keys rise strictly. -/
def sortedFrom {α : Type} : Nat → FMap α → Bool
  | _, [] => true
  | b, (k, _) :: m => decide (b ≤ k) && sortedFrom (k + 1) m

/-- The keys rise strictly. -/
def FMap.sorted {α : Type} (m : FMap α) : Bool := sortedFrom 0 m

/-- No entry equals what its key would read as unlisted. -/
def FMap.pruned {α : Type} [DecidableEq α] (m : FMap α) (d : Nat → α) : Bool := m.all fun e => decide (e.2 ≠ d e.1)

/-- The canonical form of a memory. -/
def FMap.canon {α : Type} [DecidableEq α] (m : FMap α) (d : Nat → α) : Bool := FMap.sorted m && FMap.pruned m d

/-- Keep the entries whose key the test keeps. -/
def fkeep {α : Type} (m : FMap α) (p : Nat → Bool) : FMap α := m.filter fun e => p e.1

end Sys2Proof.Machine
end

