-- ==== Sys2Proof/Machine/State.lean ====
section
/-!
DEFINITION. Machine/State.lean: the whole state of the Paltur 9128 as plain data, the reasons a step can stop, and the
state after reset. Instance tables are sparse: an unlisted instance reads as that instance after reset.
-/

namespace Sys2Proof.Machine

open Sys2Proof


/-- What the block shows the outside world, newest last. -/
inductive Out where
  /-- An MSI-X message of a function's table entry (R463, R520); function 0 is the PF. -/
  | msix (fn entry : Nat)
  /-- A frame sent on a front port, with the bytes of the wire (R319). -/
  | frame (port : Nat) (bytes : List Byte)
  /-- A PCIe Unsupported Request status (R6). -/
  | unsupported
  /-- Data answered over SMBus, and the PEC that follows it (R557, R558). -/
  | smbus (bytes : List Byte) (pec : Byte)
  /-- An SMBus NACK (R558). -/
  | smbusNack
  /-- A rising edge of PPS_OUT at a device time (R435). -/
  | ppsOut (sec ns : Nat)
  /-- A rising edge of CLK10M_OUT at a device time (R436). -/
  | clk10mOut (sec ns : Nat)
  /-- The JTAG instruction that took effect (R559), and whether TDO is driven: in reset it is high-impedance (R555). -/
  | jtag (bypass tdo : Bool)
  /-- What a port advertises as it begins to negotiate (R387): mode, copper cable, RS-FEC requested. -/
  | advert (port mode : Nat) (copper fec : Bool)
  /-- A port begins or ends sending remote fault to its partner (R388); one that starts again or is taken down sends none. -/
  | remoteFault (port : Nat) (on : Bool)
deriving DecidableEq, Repr

/-- Where a command of a ring stands (R451). -/
inductive CmdPhase where
  | fetched | accepted | running | done
deriving DecidableEq, Repr

/-- A command or inject of a ring: fetched, not yet written back (R451). `buf` is its staged buffer, `bufs` the
pool buffers that hold it (R269). -/
structure CmdEnt where
  slot    : Nat
  desc    : Desc
  phase   : CmdPhase := .fetched
  staged  : Bool := false
  dmaFail : Bool := false
  buf     : List Byte := []
  bufs    : List Nat := []
  status  : Nat := 0
  detail  : Nat := 0
  result  : W64 := 0
  /-- Its place in the order in which commands are accepted and copies are enqueued. -/
  no      : Nat := 0
  /-- The life-cycle state, and the role and key slot of its ring's session (0 none), at its acceptance: its rights are judged by them,
  and a session that closes later changes nothing for it (R487). -/
  lcs     : Nat := 0
  role    : Nat := 0
  keyIdx  : Nat := 0
  /-- The pipelines in which a table command has had its effect, with the entries that failed there (R237). -/
  landed  : List (Nat × List (Nat × Nat)) := []
  /-- Its function's Bus Master Enable has been cleared: nothing more is written for it (R453). -/
  mute    : Bool := false
deriving DecidableEq, Repr

/-- A descriptor posted with an empty buffer (R458, R461). -/
structure Posted where
  slot : Nat
  addr : Nat
  len  : Nat
deriving DecidableEq, Repr

/-- A ring's own state (R446-R449, R453, R454). `dev` is DEVICE_INDEX; `host` the tail of rings of types 0 to 3 and
the head of an EVENT ring. `cmds` holds what has been fetched and not written back, in ring order; `posted` the empty
buffers fetched and not yet written. -/
structure Ring where
  enabled : Bool := false
  idle    : Bool := true
  error   : Bool := false
  cause   : Nat := 0
  dev     : Nat := 0
  host    : Nat := 0
  phase   : Bool := false
  seq     : Nat := 0
  gap     : Bool := false
  cmds    : List CmdEnt := []
  posted  : List Posted := []
deriving DecidableEq, Repr

/-- A moderated interrupt vector (R463, R464). `since` is when its first pending entry was counted. -/
structure Vector where
  count : Nat := 0
  armed : Bool := false
  since : Option Nat := none
deriving DecidableEq, Repr

/-- A performance counter's selection, value and whether a wrap waits to be reported (R466, R467). -/
structure Perf where
  addr    : Nat
  bitNo   : Nat
  mode    : Nat
  value   : Nat := 0
  wraps   : Nat := 0
  prev    : Bool := false
  /-- Real time up to which an EDGE or LEVEL counter has counted. -/
  last    : Nat := 0
deriving DecidableEq, Repr

/-- The host interface (R442-R470). -/
structure Hif where
  speed   : Nat := 0
  width   : Nat := 0
  flit    : Bool := false
  linkUp  : Bool := false
  /-- Functions whose Bus Master Enable is clear (R444). -/
  busOff  : List Nat := []
  rings   : FMap Ring := []
  vectors : FMap Vector := []
  /-- MSI-X pending bits, keyed 64 × function + entry. -/
  pba     : List Nat := []
  /-- The MSI-X tables of the VFs (R443): 2048 × (function − 1) + byte offset. -/
  vfMsix  : FMap W32 := []
  /-- The performance counters that an enabled selection counts. -/
  perf    : FMap Perf := []
  /-- Values of counters whose selection has been cleared. -/
  perfVal : FMap Nat := []
  snapSeq : Nat := 0
  /-- Real time at which the latest snapshot was due, or of the write that enabled them (R468). -/
  snapNs : Nat := 0
  /-- SEQ of the latest snapshot written, and whether that one went to the second address. -/
  snapDone : Nat := 0
  snapHigh : Bool := true
  /-- The COMMAND ring whose turn it is, and the descriptors of it that this turn has served (R451). -/
  serve  : Nat × Nat := (1023, 0)
deriving DecidableEq, Repr

/-- A timestamp: seconds, nanoseconds and units of 2^-16 ns (R418). -/
structure DevTime where
  sec  : Nat := 0
  ns   : Nat := 0
  frac : Nat := 0
deriving DecidableEq, Repr

/-- A transmit timestamp waiting in its port's queue (R428). -/
structure TxTs where
  status : Nat
  kind   : Bool
  tsId   : Nat
  time   : DevTime
  /-- Its copy is still being sent, so that its status is not known. -/
  waits  : Bool := false
deriving DecidableEq, Repr

/-- The time unit (R418-R441). `time` with `rem` (the 24 bits below 2^-16 ns, R420) is device time, `tick` the tick
with its own sub-nanosecond part `tickFrac` in units of 2^-40 ns (R419). -/
structure Tmu where
  time     : DevTime := {}
  rem      : Nat := 0
  tick     : Nat := 0
  tickFrac : Nat := 0
  freq     : Int := 0
  integral : Int := 0
  lock     : Bool := false
  /-- Has device time begun to count (R418)? -/
  counting : Bool := false
  holdover : Bool := false
  refPresent : Bool := false
  refused  : Bool := false
  refusedCount : Nat := 0
  /-- The last PPS_IN edge stamped, in real nanoseconds (R437). -/
  ppsIn    : Option Nat := none
  /-- The next whole second at which PPS_OUT rises (R435). -/
  ppsNext  : Nat := 0
  /-- Real time at which the PPS_OUT pulse in progress ends. -/
  ppsHigh  : Option Nat := none
  /-- The unwrapped tick of the last rising edge of CLK10M_OUT (R436). -/
  clk10Last : Option Nat := none
  /-- Transmit timestamp queues, oldest first (R428). -/
  txts     : FMap (List TxTs) := []
  overflow : List Nat := []
deriving DecidableEq, Repr

/-- Package pins, resets and rails (R532-R561). -/
structure Pkg where
  sealed    : Bool := false
  inReset   : Bool := false
  cause     : Nat := 0
  hostReset : Bool := false
  /-- PWR_GOOD inputs asserted: 0 AON, 1 IO, 2 CORE, 3 SER, 4 HBM. -/
  good      : List Nat := [0, 1, 2, 3, 4]
  /-- PWR_GOOD inputs asserted but ignored until an earlier stage's is (R552). -/
  early     : List Nat := []
  perstLow  : Bool := false
  thermtrip : Bool := false
  smbAddr   : Nat := 0x30
  rails     : FMap Nat := []
  railAlert : List Nat := []
  /-- When the rails were last sampled (R558). -/
  railAt    : Nat := 0
deriving DecidableEq, Repr

/-- A flow key: the 48 key bytes of a record (R31, R36). -/
abbrev Key := BitVec 384

/-- What an operation on a flow slice asks for (R66). `pkt` names a packet by cluster and arrival number, `op` its
graph operation. -/
inductive FlowAct where
  /-- A LOOKUP of a packet (R70): setup wanted, sent pool-side, source lower endpoint?, its key vector, its length. -/
  | lookup (cluster pkt op : Nat) (setup pool srcLow : Bool) (vec : List Nat) (len : Nat)
  /-- An UPDATE at commit (R103): which parts, direction, TCP flags, APP_STATE value, length. -/
  | update (counters tcp app reply : Bool) (flags : Nat) (appVal : W32) (len : Nat)
  /-- Record words staged by a routine: word, value, mask, in staging order (R198, R200). -/
  | words (ws : List (Nat × W32 × W32))
  /-- A host command of a ring slot (R90). -/
  | host (ring slot : Nat)
  /-- An EXPORT of a record (R162). -/
  | emit
  /-- A sweep visit (R97); the seconds that its pass has taken, where it is the last of the pass. -/
  | sweep (ends : Option Nat)
deriving DecidableEq, Repr

/-- An operation waiting at, or attached behind, a slice's order point (R66, R67). `src` is 0-7 for a cluster, 8 for
the host port and 9 for the sweeper. -/
structure FlowOp where
  src    : Nat
  act    : FlowAct
  key    : Option Key := none
  handle : Nat := 0
  /-- Its place in slice order (R66), and the tick of its order point. -/
  no     : Nat := 0
  tick   : Nat := 0
  /-- It has read HBM for its record before it attached behind an entry (R67). -/
  cold   : Bool := false
  /-- Its key's record expired before it in its pass (R109). -/
  rehit  : Bool := false
deriving DecidableEq, Repr

/-- Where an in-flight entry stands (R72). -/
inductive FlightPhase where
  | pairRead
  /-- Reading the records of matching entries, in order: index, alias; `stash` where they came from the stash (R52). -/
  | recRead (stash : Bool) (cands : List (Nat × Bool))
  /-- The walk ended at this leaf and waits for room in the setup queue (HOLD, R79), or stands in it. -/
  | held (leaf : W64) (tmpl : BitVec 512) (met : Bool)
  /-- Reading the record of its index, for a sweep visit (R97). -/
  | idxRead
  | setup (leaf : W64) (tmpl : BitVec 512)
deriving DecidableEq, Repr

/-- An in-flight entry of a slice (R67), keyed by a key, by an index, or by both. -/
structure Flight where
  id       : Nat
  key      : Option Key := none
  idx      : Option Nat := none
  phase    : FlightPhase
  opener   : FlowOp
  tick     : Nat
  attached : List FlowOp := []
  /-- The record at its index was not VALID at its place. -/
  void     : Bool := false
deriving DecidableEq, Repr

/-- A hot-cache line (R51). -/
structure HotLine where
  idx        : Nat
  record     : Unit128
  modified   : Bool
  referenced : Bool
deriving DecidableEq, Repr

/-- A hot-cache tag (R51); the list of tags stands in order of use, least recent first (R53). -/
structure HotTag where
  set   : Nat
  fp    : Nat
  line  : Nat
  isAlias : Bool
  /-- Its ECC finds a double-bit error (R56). -/
  bad   : Bool := false
deriving DecidableEq, Repr

/-- A stash entry (R49). -/
structure StashEnt where
  pair  : Nat
  fp    : Nat
  idx   : Nat
  isAlias : Bool
  /-- Its ECC finds a double-bit error (R56). -/
  bad   : Bool := false
deriving DecidableEq, Repr

/-- A pair of the failed-pair list, and the number of the first pass that begins after it entered (R108). -/
structure FailedPair where
  pair  : Nat
  frees : Nat
deriving DecidableEq, Repr

/-- One flow slice (R31-R127). -/
structure Slice where
  ready     : Bool := false
  starting  : Bool := false
  records   : Nat := 0
  stash     : List StashEnt := []
  hot       : FMap HotLine := []
  tags      : List HotTag := []
  clock     : Nat := 0
  wbuf      : List (Nat × Unit128) := []
  free      : List Nat := []
  /-- The never-used watermark, less s × 2^25 (R45). -/
  wmark     : Nat := 0
  orderQ    : List FlowOp := []
  flights   : List Flight := []
  /-- Operations admitted at the order point (R66). -/
  flightNo  : Nat := 0
  setupQ    : List Nat := []
  hwArmed   : Bool := true
  /-- Pools whose NAT_EXHAUSTED event waits to be re-armed (R114). -/
  natRaised : List Nat := []
  /-- Sessions of a block: 2^20 × pool + block (R113). -/
  blocks    : FMap Nat := []
  /-- Filigree nodes: 2^17 × bank + node (R87, R89). -/
  nodes     : FMap W64 := []
  bank      : Bool := false
  count0    : Nat := 0
  count1    : Nat := 0
  walkFault : Bool := false
  faultNode : Nat := 0
  sweepNext : Nat := 0
  /-- The last visit, or the start that the first visit counts from (R96). -/
  sweepFrom : Nat := 0
  passStart : Nat := 0
  firstPass : Bool := true
  /-- Passes completed, and passes whose last visit has been admitted. -/
  passNo    : Nat := 0
  swept     : Nat := 0
  lastPassS : Nat := 0
  /-- Keys whose records this pass has expired (R109). -/
  expired   : List Key := []
  failed    : List FailedPair := []
  /-- The pass at whose end FULL_CHECK clears, while it is set (R108). -/
  fullCheck : Option Nat := none
  /-- Hot records of which a tag entry could not be written again (R108). -/
  unwritten : List Nat := []
  orphans   : Nat := 0
  /-- Setup templates (R84) and policer profiles (R321), of which every slice holds its own. -/
  templates : FMap (BitVec 512) := []
  profiles  : FMap (BitVec 128) := []
deriving DecidableEq, Repr

/-- An IPFIX message being filled (R124): its Set ID, its records, when its first record came. -/
structure ExpMsg where
  setId   : Nat
  records : List (List Byte)
  opened  : Nat
  /-- Records of the profile generated before its first. -/
  seq     : Nat
deriving DecidableEq, Repr

/-- The flow engine's device-wide state (R41, R84, R123, R321). -/
structure Flw where
  slices    : FMap Slice := []
  /-- The flow hash key in force (R41). -/
  hashKey   : BitVec 128 := 0
  /-- The values written to FLW_HASH_KEY0 to 3. -/
  fixedKey  : BitVec 128 := 0
  expProf   : FMap (BitVec 128) := []
  expSeq    : FMap Nat := []
  expMsgs   : FMap ExpMsg := []
  expClosed : List (Nat × ExpMsg) := []
  /-- Counter pairs of the counters region (R161). -/
  pktCount  : FMap Nat := []
  byteCount : FMap Nat := []
deriving DecidableEq, Repr

/-- A header slot: the node that found the header, its offset, and the node's CHECK (R132, R133). -/
structure HdrSlot where
  node  : Nat
  off   : Nat
  check : Nat
deriving DecidableEq, Repr

/-- What the parser found in a frame (R133-R144). Slots are listed by layer 1-7. -/
structure Parsed where
  cls      : Nat := 0
  sub      : Nat := 0
  slots    : FMap HdrSlot := []
  vlan     : Option Nat := none
  /-- Where the EtherType of the outer L2 header stands, after the VLAN headers that were followed (R248). -/
  etherOff : Option Nat := none
  /-- IP protocol of the header behind the outer and the inner L3 headers. -/
  proto    : Nat := 0
  innerProto : Nat := 0
  /-- Fragment state of the outermost L3 packet: 0 NONE, 1 FIRST, 2 LATER. -/
  frag     : Nat := 0
  /-- Fragment state of the packet of the INNER_L3 slot. -/
  innerFrag : Nat := 0
  /-- Where the outer L3 packet ends by its own length (R138). -/
  l3End    : Nat := 0
  /-- Where the outer L3 header and the extension headers followed behind it end, and the byte that names what follows. -/
  l3Data   : Nat := 0
  l3Next   : Nat := 0
  /-- The outermost VXLAN VNI, the GTP-U TEID, and the first tunnel ID as placed by R144. -/
  vni      : Option Nat := none
  teid     : Option Nat := none
  tunnel   : List Byte := []
  tunNum   : Nat := 0
  hash     : Nat := 0
  spread   : Nat := 0
  stateful : Bool := false
  template : Nat := 0
deriving DecidableEq, Repr

/-- A parser and classifier's tables (R146, R147): entries are keyed 512 × table + entry. -/
structure Prs where
  indir    : FMap W16 := []
  rot      : FMap Nat := []
  nextEngine : Nat := 0
deriving DecidableEq, Repr

/-- Where a graph operation stands (R165). -/
inductive OpPhase where
  | waiting | ready | issued | pending | stalled | complete | skipped
deriving DecidableEq, Repr

/-- A graph operation of a packet: its phase, completion status and result words (R190). -/
structure OpSt where
  phase : OpPhase := .waiting
  code  : Nat := 0
  words : List W32 := []
  /-- The search key of a table LOOKUP, built as it issues (R227, R248). -/
  key   : Nat := 0
  /-- It supplies a forwarding result (R171, R253). -/
  fwd   : Bool := false
deriving DecidableEq, Repr

/-- A routine running on a context (R188, R192). `op` 16 is the exception routine. -/
structure Routine where
  op     : Nat
  pc     : Nat
  regs   : FMap W32 := []
  stack  : List Nat := []
  issued : Nat := 0
  /-- The last word moved from the customer region into the vendor region other than by RET (R209). -/
  cross  : Bool := false
  /-- The G register that the last word loaded by LDH or LDHB (R193). -/
  loaded : Option Nat := none
  /-- Its word waits for a response that parks the packet (R197). -/
  waits  : Bool := false
deriving DecidableEq, Repr

/-- A packet's verdict (R167, R175): FORWARD, STATELESS, PUNT with its reason, or a hole with its cause. -/
inductive Verdict where
  | forward
  | stateless
  | punt (reason : Nat) (kind : Bool)
  | hole (cause : Nat)
deriving DecidableEq, Repr

/-- Where a packet stands in its cluster (R153-R156). -/
inductive PktStage where
  | queued | running | parked | resume | done
deriving DecidableEq, Repr

/-- A packet in a reorder window (R152-R175). -/
structure Pkt where
  arr      : Nat
  frame    : Nat
  template : Nat
  engine   : Nat
  stage    : PktStage := .queued
  /-- Its context of that engine, while it runs (R152). -/
  ctx      : Nat := 0
  image    : BitVec 2048 := 0
  map      : Bool := false
  domain   : Nat × Nat := (0, 0)
  words    : FMap W16 := []
  ops      : FMap OpSt := []
  routines : List Routine := []
  verdict  : Option Verdict := none
  committed : Bool := false
  /-- A COMMIT word of it has issued (R199). -/
  said     : Bool := false
  /-- An abort that waits to be taken at the engine (R203). -/
  abort    : Bool := false
  exc      : Bool := false
  /-- Staged record writes: flow LOOKUP, word, value, mask (R198). -/
  staged   : List (Nat × Nat × W32 × W32) := []
  adds     : List (Nat × Bool) := []
  /-- TCAM counter pairs that its commit counts (R253). -/
  tcmCounts : List Nat := []
  /-- SETOUT results: operation, egress port, queue (R194). -/
  setouts  : List (Nat × Nat × Nat) := []
  /-- The rewrite template chosen by REWRITE operations: operation, template (R162). -/
  rewrites : List (Nat × Nat) := []
  handle   : Option Nat := none
  /-- The header window as it arrived, and what the parser found in it (R128, R192). -/
  window   : List Byte := []
  parsed   : Parsed := {}
  /-- Solitaire entry found it committed: it leaves as a flushed hole once its routines have ended (R205). -/
  flush    : Bool := false
deriving DecidableEq, Repr

/-- A template write that waits for the packets of the old image to leave (R164). -/
structure Retire where
  ring     : Nat
  slot     : Nat
  template : Nat
  left     : List Nat
deriving DecidableEq, Repr

/-- A sample waiting for the word it names (R215). -/
structure Sample where
  pkt : Nat
  op  : Nat
  lag : Nat
deriving DecidableEq, Repr

/-- A cluster of the processing array with its control store (R152-R218). `words` holds the physical microwords,
128 × page + word; `map0` and `map1` the two page maps. -/
structure Cluster where
  templates : FMap (BitVec 2048) := []
  pkts      : List Pkt := []
  arrivals  : Nat := 0
  /-- The engine first in the dispatcher's rotating order (R155). -/
  startNext : Nat := 0
  /-- The context first in each engine's rotating order (R152). -/
  ctxNext   : FMap Nat := []
  retiring  : List Retire := []
  excStatus : W32 := 0
  words     : FMap (BitVec 128) := []
  /-- Physical words with an error (R186): single-bit from an upset (1), uncorrectable (2), single-bit as loaded (3). -/
  eccErr    : FMap Nat := []
  map0      : FMap Nat := []
  map1      : FMap Nat := []
  active    : Bool := false
  staged    : Bool := false
  stagedVersion : W32 := 0
  /-- REGION and the first 32 bytes of the image hash of the staged patch (R491). -/
  stagedRegion : Bool := false
  stagedHash : List Byte := []
  version   : W32 := 0
  /-- A switch that waits for the packets of the old map: ring, slot, packets left (R212). -/
  switching : Option (Nat × Nat × List Nat) := none
  faultStatus : W32 := 0
  sampleAcc : Nat := 0
  samples   : List Sample := []
deriving DecidableEq, Repr

/-- An exact-match entry (R224). -/
structure ExactEnt where
  key    : BitVec 96
  action : W64
  static : Bool
  hit    : Bool
deriving DecidableEq, Repr

/-- A route of a trie: its prefix as the number its address spells, its length, its next hop (R225). -/
structure Route where
  prefx : BitVec 128
  len   : Nat
  nh    : Nat
deriving DecidableEq, Repr

/-- A trie line whose tile check no longer holds: the prefix it covers, its number, and whether a search has found
it (R242). -/
structure BadLine where
  prefx : BitVec 128
  len   : Nat
  line  : Nat
  found : Bool
deriving DecidableEq, Repr

/-- A pipeline's forwarding tables (R219-R245). Lists of failed lines, prefixes and next-hop lines are those whose
tile check no longer holds (R242, R243). -/
structure Fwd where
  exact    : FMap ExactEnt := []
  exactBad : List Nat := []
  routes4  : List Route := []
  routes6  : List Route := []
  bad4     : List BadLine := []
  bad6     : List BadLine := []
  nexthop  : FMap W64 := []
  /-- Next-hop indices whose line has been struck and that have not been written since. -/
  nhBad    : List Nat := []
  /-- Next-hop indices whose line has failed and that have not been written since (R243). -/
  nhFailed : List Nat := []
  /-- Keys of the learn filter and when their hold-off ends (R231). -/
  learn    : List (BitVec 96 × Nat) := []
  /-- Holders of the locks of the exact-match table and of the LPM tables (R240). -/
  lockExact : Option (Nat × Nat) := none
  /-- The positions that reads of the LPM tables have returned as CURSOR 1, 2, …: the trie, and the route next to read (R239). -/
  cursors  : List (Bool × BitVec 128 × Nat) := []
  lockLpm   : Option (Nat × Nat) := none
deriving DecidableEq, Repr

/-- A TCAM entry (R250, R259). -/
structure TcmEnt where
  key    : BitVec 640
  mask   : BitVec 640
  id     : Nat
  prio   : Nat
  action : W64
deriving DecidableEq, Repr

/-- An insertion in progress (R254, R256): copy steps left (from, to), the place of the new entry. -/
structure TcmMove where
  bank  : Nat
  steps : List (Nat × Nat)
  place : Nat
  ent   : TcmEnt
deriving DecidableEq, Repr

/-- What a TCAM_WRITE still has to do in a pipeline (R256, R259): entries left with their index, and the failures so
far by index and status. -/
structure TcmJob where
  ring : Nat
  slot : Nat
  left : List (Nat × BitVec 1536)
  fails : List (Nat × Nat) := []
deriving DecidableEq, Repr

/-- A pipeline's TCAM (R244-R263). Entries are keyed 4,096 × bank + position. -/
structure Tcm where
  ents     : FMap TcmEnt := []
  /-- Units with a parity error: 4,096 × bank + unit (R261). -/
  badUnits : List Nat := []
  /-- Action lines whose tile check no longer holds: 820 × bank + line (R260). -/
  badLines : List Nat := []
  move     : Option TcmMove := none
  jobs     : List TcmJob := []
  lock     : Option (Nat × Nat) := none
  pkts     : FMap Nat := []
  bytes    : FMap Nat := []
deriving DecidableEq, Repr

/-- Why a copy is punted (R456). -/
structure PuntMeta where
  reason : Nat
  kind   : Bool := false
deriving DecidableEq, Repr

/-- A copy of a frame on its way out (R270-R284). `srcs` are the SET_SRC sources of R278 in order. -/
structure Copy where
  frame   : Nat
  port    : Nat
  queue   : Nat
  rewrite : Nat := 0
  srcs    : List Nat := []
  punt    : Option PuntMeta := none
  mcast   : Bool := false
  cells   : Nat := 0
  tick    : Nat := 0
  /-- Its place in the order in which commands are accepted and copies are enqueued. -/
  no      : Nat := 0
  /-- Segments of the spill region it takes, 0 while on die (R285), and which they are. -/
  segs    : Nat := 0
  segAt   : List Nat := []
deriving DecidableEq, Repr

/-- A frame in the packet buffer (R264-R268). `bytes` are the stored bytes, without FCS; `reserved` the cells of its
reservation not yet allocated. -/
structure Frame where
  port     : Nat
  pipe     : Nat
  fabric   : Nat
  bytes    : List Byte
  prio     : Nat := 0
  /-- Its bytes, and what the parser found in them, as it arrived, once a CIPHER output has replaced them (R170, R349). -/
  arrived  : Option (List Byte × Option Parsed) := none
  front    : Bool := true
  rxTime   : Option DevTime := none
  /-- The tick of its receive timestamp, in units of 2^-16 ns (R426). -/
  rxTick   : Nat := 0
  seenTime : DevTime := {}
  cells    : List Nat := []
  reserved : Nat := 0
  tail     : Bool := false
  tailErr  : Option Nat := none
  marked   : Option Nat := none
  parsed   : Option Parsed := none
  /-- Not yet forwarded or dropped: waiting for the parser, or a packet in a window. -/
  held     : Bool := true
  /-- A multicast result that waits for the tail: group, class, rewrite template, SET_SRC sources (R282). -/
  group    : Option (Nat × Nat × Nat × List Nat) := none
  /-- A multicast copy has been admitted. -/
  mcAny    : Bool := false
  /-- The inject that brought it: ring, slot (R459). -/
  inject   : Option (Nat × Nat) := none
  direct   : Option Nat := none
  tsReq    : Bool := false
  oneStep  : Bool := false
  tsId     : Nat := 0
  /-- The handle and the word M8 of the stateful packet that carried it through the array (R458). -/
  handle   : Option Nat := none
  m8       : Nat := 0
deriving DecidableEq, Repr

/-- A copy crossing the fabric, with the cells that have crossed (R273, R274). -/
structure Crossing where
  copy    : Copy
  crossed : Nat := 0
deriving DecidableEq, Repr

/-- A class queue's state (R283, R284, R332). -/
structure QueueSt where
  onDie   : List Copy := []
  spilled : List Copy := []
  spill   : Bool := false
  peak    : Nat := 0
  drops   : Nat := 0
deriving DecidableEq, Repr

/-- A copy on the wire (R319): when its last bit will have left, its transmit timestamp and the bytes sent. -/
structure OnWire where
  copy  : Copy
  endNs : Nat
  time  : DevTime
  bytes : List Byte
  /-- The transmit timestamp it requested: KIND and TS_ID (R428). -/
  ts    : Option (Bool × Nat) := none
deriving DecidableEq, Repr

/-- The switch core (R264-R296). -/
structure Swc where
  frames   : FMap Frame := []
  nextFrame : Nat := 0
  inCells  : FMap Nat := []
  egCells  : FMap Nat := []
  /-- Segments charged to each port (R285). -/
  segs     : FMap Nat := []
  /-- Virtual output queues: 16 × ingress + egress fabric port (R273). -/
  voqs     : FMap (List Crossing) := []
  grantPtr : FMap Nat := []
  acceptPtr : FMap Nat := []
  /-- Matched pairs: ingress fabric port to egress fabric port (R274). -/
  matched  : FMap Nat := []
  /-- Copies whose first cell has crossed, offered to their egress port, oldest first (R270). -/
  offered  : List Copy := []
  queues   : FMap QueueSt := []
  wire     : FMap OnWire := []
  blockFail : FMap Nat := []
  /-- Link words of cells (R265), and of spilled cells by their place in the spill region (R285). -/
  links    : FMap W64 := []
  spillLinks : FMap W64 := []
  /-- Cells whose content no longer matches their tile check (R266). -/
  badCells : List Nat := []
  /-- Failed cells that are withheld once freed (R291). -/
  condemned : List Nat := []
  /-- Frames of which a spilled cell no longer matches its check (R286). -/
  badSpill : List Nat := []
  groups   : FMap (BitVec 256) := []
  /-- Rewrite templates: 256 × pipeline + template (R278). -/
  rewrites : FMap Unit128 := []
deriving DecidableEq, Repr

/-- A buffer's or a cell's owner tag (R304). -/
inductive Tag where
  | free | swc | hif | lent | quarantine
deriving DecidableEq, Repr

/-- The buffer pool manager (R297-R311). `cellTag` holds the tags of pool-0 cells that are not FREE; `bufTag` those of
the buffers of pools 1 to 15, by first cell. -/
structure Bpm where
  cellTag : FMap Tag := []
  bufTag  : FMap Tag := []
  ptr     : FMap Nat := []
  /-- Pools in an exhaustion episode (R303). -/
  episode : List Nat := []
  /-- Buffers lent to pool 0: pool and first cell (R301). -/
  lent    : List (Nat × Nat) := []
  /-- The requester first in the rotating order of the cycle (R299). -/
  rotate  : Nat := 0
  /-- The requesters that this cycle has served. -/
  served  : List Nat := []
  /-- The latest allocation's result for each requester, a handle (R299). -/
  grant   : FMap (Option Nat) := []
  badStatus : W32 := 0
deriving DecidableEq, Repr

/-- What a scheduling node carries beside its entry (R317, R319, R320): tokens in 1/1,024 byte. -/
structure NodeDyn where
  tokens  : Int := 0
  last    : Nat := 0
  pointer : Nat := 0
  deficit : Int := 0
deriving DecidableEq, Repr

/-- A gate list (R328), with its change time in nanoseconds of device time (R329). -/
structure GateList where
  header  : Desc
  entries : List W64
  change  : Nat
deriving DecidableEq, Repr

/-- A port's gates (R328-R330). `entry` is the operative entry, 0xFF gates until a list is operative. -/
structure Gates where
  oper     : Option GateList := none
  armed    : Option GateList := none
  operBank : Bool := false
  late     : Bool := false
  entry    : Nat := 0
  gates    : Nat := 0xFF
  /-- A written list that waits to be armed (R329), and the command that wrote it. -/
  written  : Option GateList := none
  command  : Option (Nat × Nat) := none
deriving DecidableEq, Repr

/-- A port's priority flow control (R325-R327). -/
structure Pfc where
  xoff     : List Nat := []
  /-- When XOFF was last sent, by priority. -/
  sentAt   : FMap Nat := []
  /-- When the received pause of a class ends, and since when it has paused without a break. -/
  ends     : FMap Nat := []
  since    : FMap Nat := []
  storm    : List Nat := []
  /-- PFC frames that wait for the next frame boundary: priority and timer, oldest first (R325). -/
  waiting  : List (Nat × Nat) := []
deriving DecidableEq, Repr

/-- The traffic manager (R312-R336). Nodes are keyed 2^20 × level + ID. -/
structure Tmg where
  nodes    : FMap (BitVec 256) := []
  dyn      : FMap NodeDyn := []
  gates    : FMap Gates := []
  pfc      : FMap Pfc := []
  /-- Real time at which the sampler's last pass began (R332). -/
  sampleLast : Option Nat := none
  /-- That pass has had an entry to read. -/
  sampleRan : Bool := false
deriving DecidableEq, Repr

/-- A key slot's state (R341). -/
inductive KeyState where
  | idle | active | exhausted | erasing
deriving DecidableEq, Repr

/-- A key slot: state, generation and what its sealed content holds (R341, R343, R346, R351, R352). -/
structure KeySlot where
  state     : KeyState := .idle
  gen       : Nat := 0
  usage     : Nat := 0
  key256    : Bool := false
  esn       : Bool := false
  tunnel    : Bool := false
  sciTx     : Bool := false
  conf      : Nat := 0
  window    : Nat := 0
  pair      : Nat := 0
  spi       : Nat := 0
  ssci      : Nat := 0
  sci       : Nat := 0
  an        : Nat := 0
  key       : List Byte := []
  salt      : List Byte := []
  threshold : Nat := 0
  counter   : Nat := 0
  top       : Nat := 0
  bits      : W64 := 0
  pending   : List Int := []
  /-- WRITE_COUNT (R343): writes of the slot since reset. -/
  writes    : Nat := 0
  /-- Installs and rewrites of the slot: a request accepted before a rewrite completes with the old key (R354). -/
  install   : Nat := 0
deriving DecidableEq, Repr

/-- A CIPHER request (R338): its packet (cluster, arrival number) and operation. Cluster 8 stands for the keel table, whose
request names a frame and carries its entry (R515). -/
structure CipReq where
  cluster : Nat
  pkt     : Nat
  op      : Nat
  mode    : Nat
  slot    : Nat
  gen     : Nat
  /-- The order in which requests entered their queues. -/
  no      : Nat
  entry   : BitVec 256 := 0
deriving DecidableEq, Repr

/-- A request accepted by a core, with the snapshot taken at acceptance (R338, R354). -/
structure CipJob where
  req  : CipReq
  slot : Nat
  snap : KeySlot
  seq  : Int
  /-- The frame, its bytes and what the parser found in it, as they stood at acceptance. -/
  frame  : Nat
  bytes  : List Byte
  parsed : Parsed
deriving DecidableEq, Repr

/-- The cipher engine and the Locket (R337-R358). -/
structure Cip where
  ready   : Bool := false
  /-- Slots other than those IDLE at generation `idleGen` that nothing has ever used. -/
  slots   : FMap KeySlot := []
  idleGen : Nat := 0
  /-- Slots the key cache holds (R344), and those pinned. -/
  cached  : List Nat := []
  pinned  : List Nat := []
  /-- Cached slots changed since they were fetched. -/
  dirty   : List Nat := []
  /-- Slots freed by an erase, last freed first, and the first slot never used (R347). -/
  freed   : List Nat := []
  fresh   : Nat := 0
  /-- Slots a fetch of which is under way (R338). -/
  fetching : List Nat := []
  /-- Slots whose HBM copy fails: 0 tag, 1 tile check (R345). -/
  broken  : FMap Nat := []
  /-- Cached slots with a single-bit (1) or an uncorrectable (2) error (R344, R345). -/
  upset   : FMap Nat := []
  queues  : FMap (List CipReq) := []
  reqNo   : Nat := 0
  cores   : FMap CipJob := []
  /-- KEY_ERASE commands that wait for accepted requests to drain: slot, ring, ring slot. -/
  erasing : List (Nat × Nat × Nat) := []
  storage : BitVec 256 := 0
  /-- The cluster whose queue comes first in the scheduler's order (R337). -/
  turn    : Nat := 0
  /-- Writes so far of a slot that nothing has ever used: WRITE_COUNT of its unit (R343). -/
  wipes   : Nat := 0
deriving DecidableEq, Repr

/-- A transaction waiting at the arbiter of a pseudo-channel, or in its queue (R362, R366): the banks and the row it uses, and how
many later row hits have passed it. -/
structure MemTxn where
  req    : Nat
  addr   : Nat
  write  : Bool
  beats  : Nat
  arrive : Nat
  banks  : List Nat
  row    : Nat
  passed : Nat := 0
deriving DecidableEq, Repr

/-- A bank: open row, refreshes outstanding, a queued neighbour refresh of a row (R363, R374, R375). -/
structure Bank where
  row     : Option Nat := none
  due     : Nat := 0
  postponed : Nat := 0
  neighbour : Option Nat := none
  /-- Refreshes that have fallen due since the neighbour refresh was queued (R375). -/
  waits   : Nat := 0
  /-- A refresh that fell due during a retraining step waits for its end (R408). -/
  stepped : Bool := false
deriving DecidableEq, Repr

/-- A pseudo-channel (R362-R376, R407-R409). Banks are keyed 16 × SID + bank. -/
structure Channel where
  waiting  : List MemTxn := []
  queue    : List MemTxn := []
  holder   : Option Nat := none
  held     : Nat := 0
  limit    : Nat := 0
  pointer  : Nat := 0
  banks    : FMap Bank := []
  down     : List Nat := []
  /-- When each SID last had a transaction to issue or a refresh due (R376). -/
  lastUse  : FMap Nat := []
  /-- Retraining step to run next while one is due (R407), when it fell due, and failures in a row (R409). -/
  retrain  : Option Nat := none
  retrainAt : Nat := 0
  failed   : Bool := false
  fails    : Nat := 0
  /-- The timing settings in force, read then write, none before the first retraining, and those that the steps so far have found. -/
  timing   : List W32 := []
  found    : List W32 := []
  /-- The first slot that the arbiter has not run, counted from reset (R365), and the reads that its latest slot issued. -/
  nextSlot : Nat := 0
  issued   : List MemTxn := []
deriving DecidableEq, Repr

/-- An HBM stack and its arbiter (R359-R382). -/
structure Stack where
  trained  : Bool := false
  lost     : Bool := false
  cause    : Nat := 0
  hot      : Bool := false
  /-- Slot-table banks where they differ from the reset table: 256 × bank + entry (R365, R369). -/
  table    : FMap Nat := []
  bank     : Bool := false
  /-- A written table that waits for the wrap, and the command that wrote it. -/
  command  : Option (Nat × Nat) := none
  /-- The settings of the decisions already under way (R368): 32 × pseudo-channel + requester, old value; and their time. -/
  oldCfg   : FMap W32 := []
  oldAt    : Nat := 0
  /-- Times of the uncorrectable reads within the last 1 ms (R378). -/
  errors   : List Nat := []
  channels : FMap Channel := []
deriving DecidableEq, Repr

/-- A front port's state (R386-R391): 0 DISABLED, 1 AN, 2 TRAINING, 3 ALIGN, 4 HOLD, 5 UP. -/
structure PortSt where
  state    : Nat := 0
  localFault  : Bool := false
  remoteFault : Bool := false
  fec      : Bool := false
  cause    : Nat := 0
  /-- The next back-off, in ms; `waiting` while one runs (R387). -/
  backoff  : Nat := 10
  waiting  : Bool := false
  since    : Nat := 0
  /-- LIF_PORT_CFG as it stood when the port last entered AN or TRAINING (R542). -/
  cfg      : W32 := 0
  admin    : Bool := true
deriving DecidableEq, Repr

/-- A lane's state (R397, R400, R403, R405). -/
structure LaneSt where
  signal   : Bool := false
  cdr      : Bool := false
  lock     : Bool := false
  trained  : Bool := false
  delay    : Nat := 0
  valid    : Bool := false
  /-- It has published a measured delay since the device reset (R403). -/
  measured : Bool := false
  /-- The LANE_EYE_READ that scans it, and when its scan began. -/
  scan     : Option (Nat × Nat) := none
  scanAt   : Nat := 0
  /-- When the latest dwell ended (R400), and when the delay was last published (R403). -/
  dwellAt  : Nat := 0
  pubAt    : Nat := 0
  /-- LANE_MARGIN_LOW has been raised and not yet cleared (R400). -/
  low      : Bool := false
  /-- Corners that have come in under the threshold since the event, and the corner that the next dwell is on (R400): 4 × eye + corner. -/
  clean    : List Nat := []
  corner   : Nat := 0
  margin   : W32 := 0
  /-- LIF_LANE_CFG as its port last entered AN or TRAINING (R542). -/
  cfg      : W32 := 0
deriving DecidableEq, Repr

/-- A spare group's test slice (R410-R413): 0 idle, 1 copying, 2 marching, 3 copying back; `live` is the macro under test. -/
structure SpareSt where
  phase    : Nat := 0
  live     : Nat := 0
  passes   : Nat := 0
  /-- The retired macro of a REPAIRED group. -/
  retired  : Option Nat := none
  /-- When the slice started on its latest macro (R411). -/
  since    : Nat := 0
deriving DecidableEq, Repr

/-- The line interface (R383-R406) and the rotating spares (R410-R417). Quad modes are keyed 2 × octet + quad. -/
structure Lif where
  modes    : FMap Nat := []
  ports    : FMap PortSt := []
  lanes    : FMap LaneSt := []
  spares   : FMap SpareSt := []
  spareDrops : Nat := 0
  /-- Octets whose lane-group reference clock has failed (R554). -/
  refLost  : List Nat := []
deriving DecidableEq, Repr

/-- Hallmark's fuses (R471). -/
structure Fuses where
  root      : BitVec 256 := 0
  lot       : Nat := 0
  wafer     : Nat := 0
  dieX      : Nat := 0
  dieY      : Nat := 0
  date      : Nat := 0
  identHash : List Byte := []
  cert      : List Byte := []
  lcs       : Nat := 0
  wiped     : Bool := false
  /-- Floor logs, newest last: BOOT 0, VENDOR 1, CUSTOMER 2 (R477). -/
  floors    : FMap (List Nat) := []
  installer : FMap (List Byte) := []
  operator  : FMap (List Byte) := []
  codeKey   : FMap (List Byte) := []
  /-- Revoke fuses burned: installer, operator, code key, KIK, Kryldota slots. -/
  revInst   : List Nat := []
  revOper   : List Nat := []
  revCode   : List Nat := []
  revKik    : List Nat := []
  revMaker  : List Nat := []
deriving DecidableEq, Repr

/-- An open role session of a ring (R487). -/
structure Session where
  role   : Nat
  key    : Nat
  ends   : Nat
  /-- DURATION_S of its token. -/
  lasts  : Nat := 0
deriving DecidableEq, Repr

/-- A command that DENIED refusals of a ring have been counted for in its one-second window (R491). -/
structure Denied where
  opcode : Nat
  count  : Nat
  status : Nat
  tag    : Nat
  fn     : Nat
  /-- When the window began. -/
  since  : Nat := 0
deriving DecidableEq, Repr

/-- The trust block (R471-R498). `boot` is 0 ROM, 1 BOOT, 2 RUN, 3 HALT. -/
structure Hmk where
  fuses     : Fuses := {}
  boot      : Nat := 0
  lastErr   : Nat := 0
  attempts  : Nat := 0
  nonce     : List Byte := []
  version   : Nat := 0
  digest    : List Byte := []
  debugOpen : Bool := false
  consent   : Bool := false
  /-- Key-import keys can be derived (R485). -/
  zeroised  : Bool := false
  sessions  : FMap Session := []
  /-- Challenges by ring: nonce and when it was drawn (R486). -/
  challenges : FMap (List Byte × Nat) := []
  codeKeys  : FMap (List Byte) := []
  rngFail   : Bool := false
  reseeds   : Nat := 0
  draws     : Nat := 0
  /-- Staged audit records, oldest first (R492). -/
  staging   : List Unit128 := []
  /-- Records appended since the BOOT record: the SEQ of the next one. -/
  seq       : Nat := 0
  /-- Records of events before the BOOT record, without SEQ and CHAIN. -/
  early     : List Unit128 := []
  chain     : List Byte := []
  /-- The lowest SEQ not released. -/
  released  : Nat := 0
  auditArmed : Bool := true
  denied    : FMap Denied := []
  /-- Digests of physical pages: 256 × cluster + page (R479). -/
  digests   : FMap (List Byte) := []
  /-- Hallmark's firmware as its image brought it, and the digest recorded then (R475, R479). -/
  firmware  : List Byte := []
  ownDigest : List Byte := []
  passes    : Nat := 0
  /-- When the latest pass ended (R479). -/
  revAt     : Nat := 0
  revMiss   : Bool := false
deriving DecidableEq, Repr

/-- A power domain's state (R500). -/
inductive Pwr where
  | on | retain | off
deriving DecidableEq, Repr

/-- A domain transition in flight (R503): the state it goes to and the POWER_SET that waits for it. -/
structure Moving where
  target : Pwr
  ring   : Nat
  slot   : Nat
deriving DecidableEq, Repr

/-- The health block, Solitaire mode and the keel table (R499-R524). -/
structure Hlt where
  /-- Domain states other than ON. -/
  domain   : FMap Pwr := []
  moving   : FMap Moving := []
  /-- Every domain from D1 to D63 has been shut down (R502). -/
  shutdown : Bool := false
  dieTemp  : FMap Int := []
  hbmTemp  : FMap Int := []
  /-- When the sensors were last sampled (R505). -/
  tempAt   : Nat := 0
  warn     : Bool := false
  /-- WARN may raise its event again (R506). -/
  warnArmed : Bool := true
  trip     : Bool := false
  crit     : Bool := false
  /-- The previous sample read 110 °C or above. -/
  hotPrev  : Bool := false
  /-- The highest readings since reset (R508); none before the first sample. -/
  peakDie  : Option Int := none
  peakHbm  : Option Int := none
  trips    : Nat := 0
  soloEntries : Nat := 0
  lastCause   : Nat := 0
  solo     : Bool := false
  cause    : Nat := 0
  causes   : List Nat := []
  active   : List Nat := []
  /-- Keel entries with content, the same in all eight pipeline copies (R516). -/
  keel     : FMap (BitVec 256) := []
  /-- Keel entries whose ECC finds them uncorrectable (R514). -/
  keelBad  : List Nat := []
  /-- Entries that a pipeline's copy has lost with its memories and that have not been written since (R500): 4,096 × pipeline + entry. -/
  keelGone : List Nat := []
  /-- An accepted SOLITAIRE_EXIT that no cause has abandoned, and real time of the latest entry (R518). -/
  exiting  : Option (Nat × Nat) := none
  soloAt   : Nat := 0
  /-- Spare groups other than sound: the GROUPS byte of R508. -/
  groups   : FMap Nat := []
  healthLoaded : Bool := false
  degraded : Bool := false
  /-- Clusters that BIST_RUN has tested since the device reset (R507). -/
  bistClusters : List Nat := []
deriving DecidableEq, Repr

/-- The state of the block. -/
structure State where
  /-- Commands that wait, first in, first out. -/
  pending  : List Instr := []
  /-- BAR0 registers that differ from their reset value, by address (R6, R18). -/
  regs     : FMap W32 := []
  /-- Higher words latched by a read of their lowest word (R7). -/
  latch    : FMap W32 := []
  /-- Data that the latest bus read returned. -/
  busRead  : W64 := 0
  /-- Real time since the device reset, in nanoseconds. -/
  ns       : Nat := 0
  /-- The model's own counter of values the spec leaves open. -/
  freeCtr  : Nat := 0
  /-- The model's own counter of acceptances of commands and enqueues of copies: the order in which they came. -/
  order    : Nat := 0
  out      : List Out := []
  hostMem  : FMap Byte := []
  /-- HBM content, by 128-byte unit (R28). -/
  hbm      : FMap Unit128 := []
  pkg      : Pkg := {}
  hif      : Hif := {}
  tmu      : Tmu := {}
  hlt      : Hlt := {}
  hmk      : Hmk := {}
  bpm      : Bpm := {}
  flw      : Flw := {}
  prs      : FMap Prs := []
  fwd      : FMap Fwd := []
  tcm      : FMap Tcm := []
  clusters : FMap Cluster := []
  swc      : Swc := {}
  tmg      : Tmg := {}
  cip      : Cip := {}
  mem      : FMap Stack := []
  lif      : Lif := {}
deriving DecidableEq, Repr

/-- Why a step faults. -/
inductive Fault where
  /-- An HBM address that is not populated (R28): raised by the commands that name an HBM address. Safe: no value is
  given for it. -/
  | hbmUnpopulated
deriving DecidableEq, Repr

/-- Why a step is refused. -/
inductive Refusal where
  /-- A command not modelled: raised by Dispatch alone. Safe. -/
  | notModelled (mnemonic : String)
  /-- A SYS microword (R188: "Vendor-defined"): raised by MICROWORD_ISSUE. Safe: no effect is invented. -/
  | vendorDefined
deriving DecidableEq, Repr

/-- The machine right after a device reset has been released (R532): nothing waits, every register and table at its
reset value, the flow hash key drawn (R41), and the identity fuses those of the key that the root secret gives (R471, R474). -/
def State.reset : State :=
  { flw := { hashKey := ofBytes 128 (Config.drbg 0) }
    pkg := { smbAddr := 0x30 + Config.smbPins % 8 }
    hmk := { draws := 1, fuses := { identHash := Config.sha512 (Config.identKey 0) } } }

end Sys2Proof.Machine
end

