-- ==== Sys2Proof/Machine/Ops.lean ====
section
/-!
DEFINITION. Machine/Ops.lean: the named operations that every family shares: instance tables, BAR0 registers and their
counters (R6-R13), host memory, HBM tiles (R28, R47), interrupts and MSI-X (R463, R519, R520), event rings (R454,
R118), and the life of a command (R450-R452).
-/

namespace Sys2Proof.Machine

open Sys2Proof

/-- The outcome of a meaning. -/
abbrev Out' := Host.Outcome State Fault Refusal

/-! ### Instance tables -/

def State.ring (s : State) (r : Nat) : Ring := fget s.hif.rings {} r
def State.setRing (s : State) (r : Nat) (x : Ring) : State := { s with hif := { s.hif with rings := fput s.hif.rings {} r x } }
def State.slice (s : State) (i : Nat) : Slice := fget s.flw.slices {} i
def State.setSlice (s : State) (i : Nat) (x : Slice) : State :=
  { s with flw := { s.flw with slices := fput s.flw.slices {} i x } }
def State.pipe (s : State) (p : Nat) : Prs := fget s.prs {} p
def State.setPipe (s : State) (p : Nat) (x : Prs) : State := { s with prs := fput s.prs {} p x }
def State.fwdOf (s : State) (p : Nat) : Fwd := fget s.fwd {} p
def State.setFwd (s : State) (p : Nat) (x : Fwd) : State := { s with fwd := fput s.fwd {} p x }
def State.tcmOf (s : State) (p : Nat) : Tcm := fget s.tcm {} p
def State.setTcm (s : State) (p : Nat) (x : Tcm) : State := { s with tcm := fput s.tcm {} p x }
def State.cluster (s : State) (c : Nat) : Cluster := fget s.clusters {} c
def State.setCluster (s : State) (c : Nat) (x : Cluster) : State := { s with clusters := fput s.clusters {} c x }
def State.stack (s : State) (h : Nat) : Stack := fget s.mem {} h
def State.setStack (s : State) (h : Nat) (x : Stack) : State := { s with mem := fput s.mem {} h x }
def State.port (s : State) (n : Nat) : PortSt := fget s.lif.ports {} n
def State.setPort (s : State) (n : Nat) (x : PortSt) : State :=
  { s with lif := { s.lif with ports := fput s.lif.ports {} n x } }
def State.lane (s : State) (n : Nat) : LaneSt := fget s.lif.lanes {} n
def State.setLane (s : State) (n : Nat) (x : LaneSt) : State :=
  { s with lif := { s.lif with lanes := fput s.lif.lanes {} n x } }
def State.frame? (s : State) (f : Nat) : Option Frame := ffind? s.swc.frames f
def State.setFrame (s : State) (f : Nat) (x : Frame) : State :=
  { s with swc := { s.swc with frames := fset s.swc.frames f x } }
def State.queue (s : State) (q : Nat) : QueueSt := fget s.swc.queues {} q
def State.setQueue (s : State) (q : Nat) (x : QueueSt) : State :=
  { s with swc := { s.swc with queues := fput s.swc.queues {} q x } }
def State.keySlot (s : State) (k : Nat) : KeySlot := fget s.cip.slots { gen := s.cip.idleGen, writes := s.cip.wipes } k
def State.setKeySlot (s : State) (k : Nat) (x : KeySlot) : State :=
  { s with cip := { s.cip with slots := fput s.cip.slots { gen := s.cip.idleGen, writes := s.cip.wipes } k x } }
def State.gatesOf (s : State) (n : Nat) : Gates := fget s.tmg.gates {} n
def State.setGates (s : State) (n : Nat) (x : Gates) : State :=
  { s with tmg := { s.tmg with gates := fput s.tmg.gates {} n x } }
def State.pfcOf (s : State) (n : Nat) : Pfc := fget s.tmg.pfc {} n
def State.setPfc (s : State) (n : Nat) (x : Pfc) : State := { s with tmg := { s.tmg with pfc := fput s.tmg.pfc {} n x } }
def State.domain (s : State) (d : Nat) : Pwr := fget s.hlt.domain .on d
/-- The current tick (R419). -/
def State.tick (s : State) : Nat := s.tmu.tick % 2 ^ 48
/-- Append to what the outside sees. -/
def State.emit (s : State) (o : Out) : State := { s with out := s.out ++ [o] }
/-- A value the spec leaves open (the model's free value), and the state that has drawn it. -/
def State.free (s : State) : Nat × State := (Config.freeNat s.freeCtr, { s with freeCtr := s.freeCtr + 1 })

/-! ### Device time (R418-R420) -/

/-- Nanoseconds in a second. -/
def giga : Nat := 1000000000

/-- A device time in units of 2^-16 ns. -/
def DevTime.units (t : DevTime) : Int := (2 ^ 16 * (giga * t.sec + t.ns) + t.frac : Nat)

/-- The device time of a count of units of 2^-16 ns; SEC wraps at 48 bits. -/
def DevTime.ofUnits (u : Int) : DevTime :=
  let n := (u % (2 ^ 48 * giga * 2 ^ 16 : Nat)).toNat
  { sec := n / 2 ^ 16 / giga, ns := n / 2 ^ 16 % giga, frac := n % 2 ^ 16 }

/-- A device time in nanoseconds. -/
def DevTime.nanos (t : DevTime) : Nat := giga * t.sec + t.ns

/-- The fields of a device time in an event or a write-back, from a first bit. -/
def DevTime.fields (t : DevTime) (lo : Nat) : List (Nat × Nat × Nat) :=
  [(lo + 47, lo, t.sec), (lo + 79, lo + 48, t.ns), (lo + 95, lo + 80, t.frac)]

/-! ### BAR0 registers -/

/-- The owner of the slot table's entry `n` at reset (R365). -/
def slotReset (n : Nat) : Nat :=
  if n % 8 == 0 then 4 else if n % 8 == 4 then 5 else if n % 8 == 6 then 30 else if n % 64 == 2 then 29 else 28

/-- A register's reset value: its row's, but for BPM_POOL_CFG_0 (R310) and the vector-control words of the MSI-X table, whose mask bit the
PCIe specification sets (R462). -/
def regDefault (a : Nat) : W32 :=
  if a = Reg.BPM_POOL_CFG 0 || (0xD80000 ≤ a && a < 0xD80400 && a % 16 == 12) then 1
  else match regRowAt a with
    | some r => BitVec.ofNat 32 r.reset
    | none => 0

/-- The stored value of a register. -/
def State.reg (s : State) (a : Nat) : W32 := (ffind? s.regs a).getD (regDefault a)

/-- Store a register's value. -/
def State.setReg (s : State) (a : Nat) (v : W32) : State := { s with regs := fput s.regs (regDefault a) a v }

/-- A field of a register. -/
def State.rf (s : State) (a hi lo : Nat) : Nat := fld (s.reg a) hi lo

/-- Count `n` increments of the count field `[hi:lo]` of the register at `a` in the performance counters that select a bit of it (R466,
R467). -/
def perfCount (s : State) (a hi lo n : Nat) : State :=
  { s with hif := { s.hif with perf := s.hif.perf.map fun e =>
      if e.2.addr = a && e.2.mode == 0 && decide (lo ≤ e.2.bitNo) && decide (e.2.bitNo ≤ hi)
      then (e.1, { e.2 with value := (e.2.value + n) % 2 ^ 48, wraps := e.2.wraps + (e.2.value + n) / 2 ^ 48 })
      else e } }

/-- Add to a 32-bit counter of access RC, which saturates at all ones. -/
def State.bumpBy (s : State) (a n : Nat) : State :=
  perfCount (s.setReg a (BitVec.ofNat 32 (satAdd (2 ^ 32 - 1) (s.reg a).toNat n))) a 31 0 n

/-- Count one event in a 32-bit counter of access RC. -/
def State.bump (s : State) (a : Nat) : State := s.bumpBy a 1

/-- Count one event in the field `[hi:lo]` of a counter register; the field saturates. -/
def State.bumpField (s : State) (a hi lo : Nat) : State :=
  perfCount (s.setReg a (put (s.reg a) hi lo (satAdd (2 ^ (hi + 1 - lo) - 1) (s.rf a hi lo) 1))) a hi lo 1

/-- Add to a 64-bit counter held in two registers, low word first; it wraps. -/
def State.bump64 (s : State) (a n : Nat) : State :=
  let v := (s.reg a).toNat + 2 ^ 32 * (s.reg (a + 4)).toNat + n
  perfCount ((s.setReg a (BitVec.ofNat 32 v)).setReg (a + 4) (BitVec.ofNat 32 (v >>> 32))) a 31 0 n

/-- Keep the highest value seen in a peak register of access RC. -/
def State.peak (s : State) (a v : Nat) : State :=
  if (s.reg a).toNat < v then s.setReg a (BitVec.ofNat 32 v) else s

/-! ### Time goes on (R419, R420, R436) -/

/-- CLK10M_OUT, where it is enabled, rises at a device time of `m` nanoseconds at which the unwrapped tick is `k`, unless its last rising
edge is less than 50 ns old (R436). -/
def clk10Rise (s : State) (m k : Nat) : State :=
  if bit (s.reg Reg.TMU_CLK_CTRL) 1 && s.tmu.clk10Last.all (fun l => decide (l + 50 ≤ k)) then
    { s with tmu := { s.tmu with clk10Last := some k } }.emit (.clk10mOut (m / giga % 2 ^ 48) (m % giga))
  else s

/-- The edges of CLK10M_OUT in a stretch of device time after `t0` nanoseconds and up to `t1`, at which the unwrapped tick is `k`. -/
def clk10Edges (s : State) (t0 t1 k : Nat) : State :=
  if bit (s.reg Reg.TMU_CLK_CTRL) 1 then
    (List.range (t1 / 100 - t0 / 100)).foldl (fun s i =>
      let m := 100 * (t0 / 100 + i + 1)
      clk10Rise s m (k - (t1 - m))) s
  else s

/-- Real time goes on by `n` nanoseconds: device time and the tick advance by n x (1 + FREQ) once they count (R419,
R420), with the edges of CLK10M_OUT on the way. -/
def State.advance (s : State) (n : Nat) : State :=
  let s1 := { s with ns := s.ns + n }
  if s.tmu.counting then
    let d := ((n : Int) * (2 ^ 40 + s.tmu.freq)).toNat
    let u := 2 ^ 24 * s.tmu.time.units.toNat + s.tmu.rem + d
    let k := 2 ^ 40 * s.tmu.tick + s.tmu.tickFrac + d
    let s2 := { s1 with tmu := { s.tmu with time := DevTime.ofUnits (u / 2 ^ 24 : Nat), rem := u % 2 ^ 24,
                                            tick := k / 2 ^ 40, tickFrac := k % 2 ^ 40 } }
    clk10Edges s2 s.tmu.time.nanos (u / 2 ^ 40) (k / 2 ^ 40)
  else s1

/-- Time goes on to a real time, where that lies ahead: an event that is due at a time happens at it. -/
def State.reach (s : State) (t : Nat) : State := s.advance (t - s.ns)

/-- Real nanoseconds in which device time goes on by at least `n` nanoseconds. -/
def realNs (s : State) (n : Nat) : Nat :=
  let r := (2 ^ 40 + s.tmu.freq).toNat
  (2 ^ 40 * n + r - 1) / max 1 r

/-- Time goes on until device time reads at least a nanosecond count, where that lies ahead. -/
def State.reachDev (s : State) (t : Nat) : State :=
  if s.tmu.counting then s.advance (realNs s (t - s.tmu.time.nanos)) else s

/-! ### Interrupts (R463, R519, R520) -/

/-- The address of the vector-control word of an entry of the PF's MSI-X table. -/
def msixCtl (e : Nat) : Nat := 0xD80000 + 16 * e + 12

/-- Is an MSI-X entry masked? Function 0 is the PF; a VF's table is its own (R443). -/
def msixMasked (s : State) (fn e : Nat) : Bool :=
  if fn = 0 then bit (s.reg (msixCtl e)) 0 else bit (fget s.hif.vfMsix 1 (2048 * (fn - 1) + 16 * e + 12)) 0

/-- Send the message of an MSI-X entry, or set its pending bit while it is masked. -/
def msixSend (s : State) (fn e : Nat) : State :=
  if msixMasked s fn e then
    { s with hif := { s.hif with pba := if (64 * fn + e) ∈ s.hif.pba then s.hif.pba else (64 * fn + e) :: s.hif.pba } }
  else s.emit (.msix fn e)

/-- The VFs whose vector range holds a device vector (R462). -/
def vectorOwners (s : State) (v : Nat) : List Nat :=
  (List.range 64).filterMap fun j =>
    let c := s.reg (Reg.HIF_VF_CFG (j + 1))
    if fld c 21 16 ≤ v && v < fld c 21 16 + fld c 28 22 then some (j + 1) else none

/-- Send the message of a device vector through its owner's table (R462). -/
def vectorMsg (s : State) (v : Nat) : State :=
  match vectorOwners s v with
  | f :: _ => msixSend s f (v - s.rf (Reg.HIF_VF_CFG f) 21 16)
  | [] => msixSend s 0 v

def State.vector (s : State) (v : Nat) : Vector := fget s.hif.vectors {} v
def State.setVector (s : State) (v : Nat) (x : Vector) : State :=
  { s with hif := { s.hif with vectors := fput s.hif.vectors {} v x } }

/-- Is a vector's sending condition met (R463): count reached, or the time limit since its first pending entry? -/
def vectorDue (s : State) (v : Nat) : Bool :=
  let x := s.vector v
  let m := s.reg (Reg.HIF_VEC_MOD v)
  match x.since with
  | none => false
  | some t => fld m 15 0 ≤ x.count || t + 1000 * fld m 31 16 ≤ s.ns

/-- Send a vector's message where it is armed and its condition is met; sending clears the count and disarms it. -/
def vectorTry (s : State) (v : Nat) : State :=
  if (s.vector v).armed && vectorDue s v then vectorMsg (s.setVector v {}) v else s

/-- Count one entry towards a vector (R463). -/
def vectorCount (s : State) (v : Nat) : State :=
  let x := s.vector v
  vectorTry (s.setVector v { x with count := x.count + 1, since := some (x.since.getD s.ns) }) v

/-- The unmasked status bits of an interrupt group. -/
def intLive (s : State) (g : Nat) : Nat :=
  (s.rf (Reg.HLT_INT_STATUS g) 15 0) &&& ((s.rf (Reg.HLT_INT_MASK g) 15 0) ^^^ 0xFFFF)

/-- The one message of a group (R520): unmoderated, on its routed PF vector. -/
def intMsg (s : State) (g : Nat) : State := msixSend s 0 (s.rf (Reg.HLT_INT_ROUTE g) 5 0)

/-- Store a group's status or mask and send its message where the OR of its unmasked bits rises (R520). -/
def intStore (s : State) (g a : Nat) (v : W32) : State :=
  let s' := s.setReg a v
  if intLive s g == 0 && intLive s' g != 0 then intMsg s' g else s'

/-- Set an interrupt source (R519). -/
def intRaise (s : State) (g i : Nat) : State :=
  intStore s g (Reg.HLT_INT_STATUS g) (putBit (s.reg (Reg.HLT_INT_STATUS g)) i true)

/-- INT_N is driven low while some group with INTN_EN has an unmasked status bit (R520). -/
def intN (s : State) : Bool :=
  (List.range 16).any fun g => bit (s.reg (Reg.HLT_INT_ROUTE g)) 8 && intLive s g != 0

/-- A write discarded with an increment of GLB_BAD_WRITE_COUNT (R9, R10, R519). -/
def badWrite (s : State) : State := intRaise (s.bump Reg.GLB_BAD_WRITE_COUNT) 0 0

/-- A write discarded because the RWS registers are sealed (R13). -/
def sealedWrite (s : State) : State := intRaise (s.bump Reg.HLT_SEAL_WRITE_COUNT) 0 1

/-- Does the device take accesses of its BARs: not during a device reset, not after a shut-down (R502)? -/
def barUp (s : State) : Bool := !s.pkg.inReset && !s.hlt.shutdown

/-- Does BAR0 take accesses: not in END (R490)? -/
def barOpen (s : State) : Bool := barUp s && s.hmk.fuses.lcs != 4

/-- The outcome of a register access, which has no effect where BAR0 is closed. -/
def onBar (s s' : State) : Out' := .next (if barOpen s then s' else s)

/-- The outcome of an access of a doorbell page, which stays open in END: commands of the host's rings keep rights there (R490). -/
def onBar2 (s s' : State) : Out' := .next (if barUp s then s' else s)

/-! ### Host memory -/

/-- A byte of host memory; a byte that nothing has written reads 0. -/
def State.hbyte (s : State) (a : Nat) : Byte := fget s.hostMem 0 (a % 2 ^ 64)

/-- Read `n` bytes of host memory. -/
def hostRead (s : State) (a n : Nat) : List Byte := (List.range n).map fun i => s.hbyte (a + i)

/-- Write bytes to host memory, lowest address first. -/
def hostWrite (s : State) (a : Nat) : List Byte → State
  | [] => s
  | b :: bs => hostWrite { s with hostMem := fput s.hostMem 0 (a % 2 ^ 64) b } (a + 1) bs

/-! ### HBM tiles (R28, R47) -/

/-- Units per region of R28. -/
def tagBase : Nat := 0x1000000000
def locketBase : Nat := 0x1600000000
def auditBase : Nat := 0x1620000000

/-- A 128-byte tile with its tile check set for its address (R47): 124 content bytes. -/
def sealUnit (addr : Nat) (u : Unit128) : Unit128 :=
  put u 1023 992 (tileCheck addr ((bytesOf u).take 124)).toNat

/-- Does a 128-byte tile's check hold at an address? -/
def unitOk (addr : Nat) (u : Unit128) : Bool := fld u 1023 992 == (tileCheck addr ((bytesOf u).take 124)).toNat

/-- A tag line with its check set for its address: 60 content bytes (R46). -/
def sealLine (addr : Nat) (l : BitVec 512) : BitVec 512 :=
  put l 511 480 (tileCheck addr ((bytesOf l).take 60)).toNat

/-- Does a tag line's check hold at an address? -/
def lineOk (addr : Nat) (l : BitVec 512) : Bool := fld l 511 480 == (tileCheck addr ((bytesOf l).take 60)).toNat

/-- What a 128-byte HBM unit reads as while nothing has been written to it: an empty tag pair with valid checks in the
tag region, 0 elsewhere. -/
def hbmDefault (u : Nat) : Unit128 :=
  if tagBase / 128 ≤ u && u < tagBase / 128 + 2 ^ 26 then
    BitVec.ofNat 1024 ((sealLine (128 * u) 0).toNat + 2 ^ 512 * (sealLine (128 * u + 64) 0).toNat)
  else 0

/-- The content of a 128-byte HBM unit. -/
def State.unit (s : State) (u : Nat) : Unit128 := (ffind? s.hbm u).getD (hbmDefault u)

/-- Write a 128-byte HBM unit. -/
def State.setUnit (s : State) (u : Nat) (v : Unit128) : State := { s with hbm := fputD s.hbm hbmDefault u v }

/-! ### Event rings (R454, R118) -/

/-- A ring's registers: type, number of slots, function, interrupt enable, vector, host port, base. -/
def ringType (s : State) (r : Nat) : Nat := s.rf (Reg.HIF_RING_CFG r) 2 0
def ringSize (s : State) (r : Nat) : Nat := 2 ^ s.rf (Reg.HIF_RING_CFG r) 7 3
def ringFn (s : State) (r : Nat) : Nat := s.rf (Reg.HIF_RING_CFG r) 14 8
def ringVec (s : State) (r : Nat) : Nat := s.rf (Reg.HIF_RING_CFG r) 21 16
def ringBase (s : State) (r : Nat) : Nat :=
  4096 * ((s.reg (Reg.HIF_RING_BASE_LO r)).toNat / 4096) + 2 ^ 32 * (s.reg (Reg.HIF_RING_BASE_HI r)).toNat

/-- Address of a slot (R446). -/
def slotAddr (s : State) (r i : Nat) : Nat := ringBase s r + 64 * (i % ringSize s r)

/-- Does an event meet an enabled ring of a function whose Bus Master Enable is clear (R453)? -/
def eventOff (s : State) (r : Nat) : Bool :=
  let x := s.ring r
  x.enabled && !x.error && ringType s r == 4 && s.hif.busOff.contains (ringFn s r)

/-- Can the device write an entry to a ring of events: enabled, of type EVENT, not in error, its function's DMA on, and not full? -/
def eventRoom (s : State) (r : Nat) : Bool :=
  let x := s.ring r
  x.enabled && !x.error && ringType s r == 4 && !eventOff s r && (x.dev + 1) % ringSize s r != x.host

/-- Write one event entry to a ring with room (R454); `fs` are its fields from bit 64 upwards. -/
def eventPut (s : State) (r typ : Nat) (fs : List (Nat × Nat × Nat)) : State :=
  let x := s.ring r
  let e : Desc := pack 512 (fs ++ [(7, 0, typ), (8, 8, x.phase.toNat), (9, 9, x.gap.toNat), (31, 16, x.seq), (63, 32, s.tick)])
  let s1 := hostWrite s (slotAddr s r x.dev) (bytesOf e)
  let d := (x.dev + 1) % ringSize s r
  let s2 := s1.setRing r { x with dev := d, phase := if d = 0 then !x.phase else x.phase,
                                  seq := (x.seq + 1) % 2 ^ 16, gap := false }
  if bit (s.reg (Reg.HIF_RING_CFG r)) 15 then vectorCount s2 (ringVec s r) else s2

/-- An event that a ring does not take leaves a gap in it where it is an enabled EVENT ring (R454). -/
def eventGap (s : State) (r : Nat) : State :=
  let x := s.ring r
  s.setRing r { x with gap := x.gap || (x.enabled && ringType s r == 4) }

/-- An EVENT ring goes into ERROR with cause BUS_MASTER_OFF, and RING_ERROR is raised (R453, R455). -/
def eventRingError (s : State) (r : Nat) : State :=
  let x := s.ring r
  let s1 := s.setRing r { x with error := true, cause := 4 }
  let h := s.rf Reg.HIF_EVENT_CTRL 9 0
  let s2 := if eventRoom s1 h then eventPut s1 h 0xC0 [(73, 64, r), (76, 74, 4), (95, 80, x.dev)]
    else (eventGap s1 h).bump Reg.HIF_EVENT_DROP_COUNT
  intRaise s2 12 0

/-- The ring's DMA fails for want of bus mastering: it goes into ERROR, as does the ring of HIF's events where it is in the same plight. -/
def eventStop (s : State) (r : Nat) : State :=
  let s1 := eventRingError s r
  let h := s.rf Reg.HIF_EVENT_CTRL 9 0
  if eventOff s1 h then eventRingError s1 h else s1

/-- Write one event entry (R453, R454). The answer says whether it was written. -/
def eventWrite (s : State) (r typ : Nat) (fs : List (Nat × Nat × Nat)) : State × Bool :=
  if eventRoom s r then (eventPut s r typ fs, true)
  else (if eventOff s r then eventStop s r else eventGap s r, false)

/-- Raise an event on the ring that a control register names; one that finds the ring full is discarded and counted
in `drop` (R118). -/
def raiseOn (s : State) (ring drop typ : Nat) (fs : List (Nat × Nat × Nat)) : State :=
  match eventWrite s ring typ fs with
  | (s', true) => s'
  | (s', false) => s'.bump drop

/-! ### Commands (R450-R452) -/

/-- Completion status codes (R452). -/
def St.ok : Nat := 0x00
def St.badField : Nat := 0x01
def St.badOpcode : Nat := 0x02
def St.denied : Nat := 0x03
def St.authFail : Nat := 0x04
def St.busy : Nat := 0x05
def St.noSpace : Nat := 0x06
def St.notFound : Nat := 0x07
def St.exists_ : Nat := 0x08
def St.staleHandle : Nat := 0x09
def St.refused : Nat := 0x0A
def St.rollback : Nat := 0x0B
def St.baseMismatch : Nat := 0x0C
def St.keyStale : Nat := 0x0D
def St.nonceReuse : Nat := 0x0E
def St.dmaError : Nat := 0x0F
def St.noKey : Nat := 0x40
def St.pending : Nat := 0x41
def St.microFault : Nat := 0x42
def St.targetOff : Nat := 0x43
/-- Cipher status k (R355, R452). -/
def St.cipher (k : Nat) : Nat := 0x50 + k

/-- The command of a ring's slot, where it has been accepted and has not run. -/
def State.cmd? (s : State) (r slot : Nat) : Option CmdEnt := (s.ring r).cmds.find? fun c => c.slot == slot

/-- Change a command of a ring. -/
def State.modCmd (s : State) (r slot : Nat) (f : CmdEnt → CmdEnt) : State :=
  let x := s.ring r
  s.setRing r { x with cmds := x.cmds.map fun c => if c.slot == slot then f c else c }

/-- A command ends: its completion waits to be written (R451). -/
def State.finish (s : State) (r slot status : Nat) (detail : Nat := 0) (result : Nat := 0) : State :=
  s.modCmd r slot fun c => { c with phase := .done, status := status, detail := detail,
                                    result := BitVec.ofNat 64 result }

/-- A command refused with BAD_FIELD at a byte offset; 0xFF names the buffer (R450). -/
def State.badField (s : State) (r slot : Nat) (off : Nat := 0xFF) : State := s.finish r slot St.badField off

/-- Descriptor opcode (R450). -/
def descOp (d : Desc) : Nat := fld d 7 0

/-- The buffer address most descriptors carry in bits [191:128]. -/
def descBuf (d : Desc) : Nat := fld d 191 128

/-- The command that a ring has next to hand to its target: commands go to their targets in ring order (R451). -/
def State.next? (s : State) (r : Nat) : Option CmdEnt := (s.ring r).cmds.find? fun c => c.phase == .accepted

/-- Write a command's output buffer. -/
def State.output (s : State) (c : CmdEnt) (bs : List Byte) : State := if c.mute then s else hostWrite s (descBuf c.desc) bs

/-- The instances named by a mask of `n` bits. -/
def maskList (n m : Nat) : List Nat := (List.range n).filter fun i => m.testBit i

/-- The lowest of some numbers. -/
def lowest : List Nat → Option Nat
  | [] => none
  | k :: ks => some (ks.foldl min k)

/-- Fold an update over instances. -/
def forAll (s : State) (is : List Nat) (f : State → Nat → State) : State := is.foldl f s

/-! ### Power and ports -/

/-- Domain numbers (R499). -/
def domSlice (i : Nat) : Nat := 37 + i
def domPipe (p : Nat) : Nat := 21 + p
def domCluster (c : Nat) : Nat := 29 + c
def domMem (h : Nat) : Nat := 57 + h

/-- The domains of the tables that a ring command writes or reads, but for key and patch commands, whose chapters order their own
checks. -/
def cmdDomains (d : Desc) : List Nat :=
  let pipes := (maskList 8 (fld d 71 64)).map domPipe
  match descOp d with
  | 0x25 | 0x7A => (List.range 16).map domSlice
  | 0x26 | 0x27 => (maskList 16 (fld d 111 96)).map domSlice
  | 0x40 | 0x44 | 0x46 | 0x72 => pipes
  | 0x41 | 0x45 | 0x47 | 0x48 => pipes.take 1
  | 0x50 => (maskList 8 (fld d 79 72)).map domCluster
  | 0x51 => ((maskList 8 (fld d 79 72)).map domCluster).take 1
  | 0x90 => (maskList 4 (fld d 67 64)).map domMem
  | _ => []

/-! ### Clasp locks (R240, R258) -/

/-- The Clasp lock of a table in a pipeline: 0 EXACT, 1 the LPM tables and next hops, 2 the TCAM. -/
def lockOf (s : State) (p l : Nat) : Option (Nat × Nat) :=
  match l with
  | 0 => (s.fwdOf p).lockExact
  | 1 => (s.fwdOf p).lockLpm
  | _ => (s.tcmOf p).lock

/-- Take or release a lock. -/
def setLock (s : State) (p l : Nat) (h : Option (Nat × Nat)) : State :=
  match l with
  | 0 => s.setFwd p { s.fwdOf p with lockExact := h }
  | 1 => s.setFwd p { s.fwdOf p with lockLpm := h }
  | _ => s.setTcm p { s.tcmOf p with lock := h }

/-- The lock that a table command takes under CLASP. -/
def descLock (d : Desc) : Nat := if 0x46 ≤ descOp d then 2 else if fld d 73 72 = 0 then 0 else 1

/-- Release the locks that a command holds in some pipelines. -/
def unlockAll (s : State) (ps : List Nat) (l ring slot : Nat) : State :=
  forAll s ps fun s p => if lockOf s p l == some (ring, slot) then setLock s p l none else s

/-- A command that ends without having run releases what it had locked. -/
def unlockCmd (s : State) (c : CmdEnt) (ring slot : Nat) : State :=
  if 0x44 ≤ descOp c.desc && descOp c.desc ≤ 0x48 then unlockAll s (maskList 8 (fld c.desc 71 64)) (descLock c.desc) ring slot else s

/-- Is it a command's turn: the time unit (R433) and Hallmark (R488) run their commands, of opcode classes 0xA and 0xB, one at a time,
in the order of acceptance across all rings. -/
def blockTurn (s : State) (c : CmdEnt) : Bool :=
  let k := descOp c.desc / 16
  (k != 0xA && k != 0xB) || s.hif.rings.all fun e => e.2.cmds.all fun d =>
    d.phase != .accepted || descOp d.desc / 16 != k || decide (c.no ≤ d.no)

/-- Run a command's meaning where its target takes it: the accepted command of the opcode that the ring has next to hand over.
Otherwise nothing happens. A command whose target is not ON finds it not ready: BUSY. -/
def onCmd (s : State) (r slot opcode : Nat) (f : CmdEnt → State) : Out' :=
  match s.next? r with
  | some c => if c.slot == slot && descOp c.desc == opcode && blockTurn s c then
      .next (if (cmdDomains c.desc).all (fun d => s.domain d == .on) then f c else (unlockCmd s c r slot).finish r slot St.busy) else .next s
  | none => .next s

/-- The mode of a lane's quad (R384). -/
def quadMode (s : State) (lane : Nat) : Nat := fget s.lif.modes 0 (lane / 4)

/-- Lanes of a port in a mode (R384). -/
def modeLanes (m : Nat) : Nat :=
  match m with
  | 1 => 1 | 2 => 2 | 3 => 4 | 4 => 8 | 5 => 1 | 6 => 1 | 7 => 1 | _ => 0

/-- Rate of a mode, in Gbit/s (R383, R384). -/
def modeRate (m : Nat) : Nat :=
  match m with
  | 1 => 100 | 2 => 200 | 3 => 400 | 4 => 800 | 5 => 50 | 6 => 25 | 7 => 10 | _ => 0

/-- Does a front port exist in the current port mode (R384)? -/
def portExists (s : State) (n : Nat) : Bool :=
  n < 128 && modeLanes (quadMode s n) != 0 && n % modeLanes (quadMode s n) == 0

/-- Lanes of an existing port. -/
def portLanes (s : State) (n : Nat) : List Nat := (List.range (modeLanes (quadMode s n))).map (n + ·)

/-- Does a logical port exist: a front port of the current mode, a host port or a recirculation port (R15)? -/
def logicalPort (s : State) (n : Nat) : Bool := portExists s n || (128 ≤ n && n < 140)

/-! ### Aborts (R202, R203) -/

/-- Abort packets of a cluster (R202): the abort waits to be taken at their engines. One that has ended without a commit has
nothing left to abort. -/
def abortWhere (s : State) (c : Nat) (which : Pkt → Bool) : State :=
  let x := s.cluster c
  s.setCluster c { x with pkts := x.pkts.map fun p =>
    if (p.verdict.isNone || p.committed) && p.stage != .queued && which p then { p with abort := true } else p }

/-! ### Upsets (R54, R186, R242, R260, R261, R266, R344, R514) -/

/-- Add to a list what is not in it. -/
def addOnce {α : Type} [BEq α] (x : α) (xs : List α) : List α := if xs.contains x then xs else x :: xs

/-- An upset strikes a checked memory: its content no longer holds against its check. -/
def strikeOne (s : State) (u : Upset) : State :=
  match u with
  | .exactLine p l => let x := s.fwdOf p; s.setFwd p { x with exactBad := addOnce l x.exactBad }
  | .trieLine p v6 pr len l =>
    let x := s.fwdOf p
    let b : BadLine := ⟨pr, len, l, false⟩
    let add := fun (bs : List BadLine) => if bs.any fun c => c.line == l then bs else b :: bs
    s.setFwd p (if v6 then { x with bad6 := add x.bad6 } else { x with bad4 := add x.bad4 })
  | .nexthopLine p l => let x := s.fwdOf p; s.setFwd p { x with nhBad := ((List.range 8).map (8 * l + ·)).foldl (fun xs i => addOnce i xs) x.nhBad }
  | .tcamLine p b l => let x := s.tcmOf p; s.setTcm p { x with badLines := addOnce (820 * b.val + l) x.badLines }
  | .tcamUnit p b u => let x := s.tcmOf p; s.setTcm p { x with badUnits := addOnce (4096 * b.val + u.val) x.badUnits }
  | .microword c w d => let x := s.cluster c; s.setCluster c { x with eccErr := fset x.eccErr w.val (if d then 2 else max (fget x.eccErr 0 w.val) 1) }
  | .cell c => { s with swc := { s.swc with badCells := addOnce c s.swc.badCells } }
  | .keyEntry k d => { s with cip := { s.cip with upset := fset s.cip.upset k.toNat (max (fget s.cip.upset 0 k.toNat) (if d then 2 else 1)) } }
  | .keel i => { s with hlt := { s.hlt with keelBad := addOnce i.val s.hlt.keelBad } }
  | .firmware k => { s with hmk := { s.hmk with firmware := s.hmk.firmware.modify k fun b => b ^^^ 1 } }
  | .hotLine i l =>
    let x := s.slice i
    match ffind? x.hot l with
    | some h => s.setSlice i { x with hot := fset x.hot l { h with record := sealUnit (128 * h.idx) h.record ^^^ BitVec.ofNat 1024 (2 ^ 1023) } }
    | none => s

/-- Does some pipeline's copy still hold a keel entry (R500, R516)? -/
def keelHeld (s : State) (i : Nat) : Bool := (List.range 8).any fun p => !s.hlt.keelGone.contains (4096 * p + i)

/-- The upsets that an event brings strike before it reads. -/
def strike (s : State) (us : List Upset) : State := us.foldl strikeOne s

/-- Seconds of device time. -/
def State.seconds (s : State) : Nat := s.tmu.time.sec

end Sys2Proof.Machine
end

