-- ==== Sys2Proof/Machine/Fields.lean ====
section
/-!
DEFINITION. Machine/Fields.lean: the fields of a frame as its parsed slots give them (R36, R37, R132, R133): addresses
placed in 16 bytes, ports or ICMP query identifier, protocol, MAC addresses, VLAN.
-/

namespace Sys2Proof.Machine

open Sys2Proof

/-- Byte `i` of a frame; beyond its end 0. -/
def byteAt (f : List Byte) (i : Nat) : Nat := (f.getD i 0).toNat

/-- `k` bytes of a frame from `i` as a wire-order number. -/
def beAt (f : List Byte) (i k : Nat) : Nat := natBE ((List.range k).map fun j => f.getD (i + j) 0)

/-- `k` bytes of a frame from `i`. -/
def bytesAt (f : List Byte) (i k : Nat) : List Byte := (List.range k).map fun j => f.getD (i + j) 0

/-- The slot of a layer (R130, R133). -/
def Parsed.slot (p : Parsed) (layer : Nat) : Option HdrSlot := ffind? p.slots layer

/-- Are inner fields used: does the profile set INNER and is the TUNNEL slot filled (R133)? -/
def useInner (p : Parsed) (inner : Bool) : Bool := inner && (p.slot 4).isSome

/-- The L2, L3 and L4 slots in use. -/
def l2Slot (p : Parsed) (inner : Bool) : Option HdrSlot := p.slot (if useInner p inner then 5 else 1)
def l3Slot (p : Parsed) (inner : Bool) : Option HdrSlot := p.slot (if useInner p inner then 6 else 2)
def l4Slot (p : Parsed) (inner : Bool) : Option HdrSlot := p.slot (if useInner p inner then 7 else 3)

/-- Is the L3 header in use IPv4 or IPv6? -/
def isV4 (p : Parsed) (inner : Bool) : Bool := (l3Slot p inner).any fun h => h.check == 2
def isV6 (p : Parsed) (inner : Bool) : Bool := (l3Slot p inner).any fun h => h.check == 3

/-- An address of the L3 header in use, placed in 16 bytes as R36 lays down; zero where it is neither IPv4 nor IPv6. -/
def l3Addr (f : List Byte) (p : Parsed) (inner dst : Bool) : List Byte :=
  match l3Slot p inner with
  | some h =>
    if h.check = 2 then List.replicate 12 0 ++ bytesAt f (h.off + (if dst then 16 else 12)) 4
    else if h.check = 3 then bytesAt f (h.off + (if dst then 24 else 8)) 16
    else List.replicate 16 0
  | none => List.replicate 16 0

/-- The IP protocol of the L4 header in use. -/
def l4Proto (p : Parsed) (inner : Bool) : Nat := if useInner p inner then p.innerProto else p.proto

/-- Is an ICMP or ICMPv6 message a query that carries an identifier (PRESUMED: the types of RFC 792, RFC 950 and
RFC 4443)? -/
def icmpQuery (proto typ : Nat) : Bool :=
  (proto == 1 && [0, 8, 13, 14, 15, 16, 17, 18].contains typ) || (proto == 58 && (typ == 128 || typ == 129))

/-- Does the L4 header in use carry ports or a query identifier (R65): TCP, UDP, SCTP, or an ICMP query? -/
def hasPorts (f : List Byte) (p : Parsed) (inner : Bool) : Bool :=
  match l4Slot p inner with
  | some h => h.check == 7 || h.check == 8 ||
      (h.check == 9 && (l4Proto p inner == 132 || icmpQuery (l4Proto p inner) (byteAt f h.off)))
  | none => false

/-- A port of the L4 header in use; for an ICMP query both are the identifier (R36). -/
def l4Port (f : List Byte) (p : Parsed) (inner dst : Bool) : Nat :=
  match l4Slot p inner with
  | some h =>
    if hasPorts f p inner then
      if h.check = 9 && l4Proto p inner != 132 then beAt f (h.off + 4) 2
      else beAt f (h.off + (if dst then 2 else 0)) 2
    else 0
  | none => 0

/-- The flow label of an IPv6 header in use. -/
def flowLabel (f : List Byte) (p : Parsed) (inner : Bool) : Nat :=
  match l3Slot p inner with
  | some h => if h.check = 3 then beAt f h.off 4 % 2 ^ 20 else 0
  | none => 0

/-- TCP flags of the L4 header in use: bits [7:0] of byte 13. -/
def tcpFlags (f : List Byte) (p : Parsed) (inner : Bool) : Nat :=
  match l4Slot p inner with
  | some h => if h.check = 8 then byteAt f (h.off + 13) else 0
  | none => 0

/-- DSCP and ECN: the IPv4 TOS byte or the IPv6 traffic class. -/
def tosByte (f : List Byte) (p : Parsed) (inner : Bool) : Nat :=
  match l3Slot p inner with
  | some h => if h.check = 2 then byteAt f (h.off + 1) else if h.check = 3 then beAt f h.off 2 / 16 % 256 else 0
  | none => 0

/-- A MAC address of the L2 header in use. -/
def macAt (f : List Byte) (p : Parsed) (inner dst : Bool) : List Byte :=
  match l2Slot p inner with
  | some h => bytesAt f (h.off + (if dst then 0 else 6)) 6
  | none => List.replicate 6 0

/-- An endpoint: 16 address bytes, then the port (R37). -/
structure Endpoint where
  addr : List Byte
  port : Nat
deriving DecidableEq, Repr

/-- The 18-byte string of an endpoint as a number (R37). -/
def Endpoint.num (e : Endpoint) : Nat := natBE (e.addr ++ bytesBE 2 e.port)

/-- The lower endpoint first; equal endpoints keep the source first (R37). -/
def ordered (src dst : Endpoint) : Endpoint × Endpoint := if dst.num < src.num then (dst, src) else (src, dst)

end Sys2Proof.Machine
end

