-- ==== Sys2Proof/Machine/Parser.lean ====
section
/-!
DEFINITION. Machine/Parser.lean: the parse graph, its checks, the path table, spreading and the indirection tables
(R128-R151).
-/

namespace Sys2Proof.Machine

open Sys2Proof

/-- A parse node of a pipeline, 128 bits (R130). -/
def prsNode (s : State) (p n : Nat) : BitVec 128 :=
  BitVec.ofNat 128 ((List.range 4).foldl (fun a w => a + (s.reg (Reg.PRS_NODE p (4 * n + w))).toNat * 2 ^ (32 * w)) 0)

/-- A transition (R131), and a path entry (R142), of two registers each. -/
def prsTrans (s : State) (p t : Nat) : W64 :=
  BitVec.ofNat 64 ((s.reg (Reg.PRS_TRANS p (2 * t))).toNat + 2 ^ 32 * (s.reg (Reg.PRS_TRANS p (2 * t + 1))).toNat)
def prsPath (s : State) (p e : Nat) : W64 :=
  BitVec.ofNat 64 ((s.reg (Reg.PRS_PATH p (2 * e))).toNat + 2 ^ 32 * (s.reg (Reg.PRS_PATH p (2 * e + 1))).toNat)

/-- The L3 packet that the headers being followed belong to: its payload length (R135: the IPv4 total length less IHL × 4, or the IPv6
payload length less the extension headers followed), its fragment state, and whether it is the outermost. -/
structure L3Ctx where
  payload : Int
  frag   : Nat
  outer  : Bool
  /-- 1 the packet of the L3 slot, 2 of the INNER_L3 slot, 3 any other. -/
  level  : Nat
deriving DecidableEq, Repr

/-- The parser's state while it walks. -/
structure Walk where
  out   : Parsed := {}
  l3    : Option L3Ctx := none
  prev  : Nat := 0
deriving DecidableEq, Repr

/-- Fragment state of an offset and a more-fragments flag (R139). -/
def fragState (off : Nat) (mf : Bool) : Nat := if off ≠ 0 then 2 else if mf then 1 else 0

/-- A header's length (R130): none where its length field lies beyond the window. -/
def headerLen (node : BitVec 128) (f : List Byte) (off win : Nat) : Option Nat :=
  if bit node 16 then
    let w := if bit node 25 then 2 else 1
    let o := off + fld node 24 17
    if o + w ≤ win then
      some (((beAt f o w >>> fld node 29 26) &&& fld node 47 32) <<< fld node 50 48 + fld node 58 51)
    else none
  else some (fld node 15 8)

/-- Shortest header that a check reads (R132). -/
def checkMin (k : Nat) : Nat :=
  match k with
  | 1 => 4 | 2 => 20 | 3 => 40 | 8 => 20 | 4 => 8 | 5 => 8 | 6 => 8 | 7 => 8 | 9 => 8 | 10 => 8 | 11 => 8 | _ => 0

/-- The one's complement sum of 16-bit words of a byte string, folded. -/
def onesSum (bs : List Byte) : Nat :=
  let rec go : List Byte → Nat → Nat
    | a :: b :: r, acc => go r (acc + 256 * a.toNat + b.toNat)
    | [a], acc => acc + 256 * a.toNat
    | [], acc => acc
  let t := go bs 0
  let t := t / 65536 + t % 65536
  t / 65536 + t % 65536

/-- The first of a list of conditions that holds gives its sub-code; 0 where none does. -/
def firstSub (cs : List (Bool × Nat)) : Nat := ((cs.find? (·.1)).map (·.2)).getD 0

/-- The sub-code of a failed fragment (R135, FRAG_LEN then FRAG_TINY). -/
def fragSubs (off : Nat) (payload : Int) (proto : Nat) (mf : Bool) : List (Bool × Nat) :=
  [((off ≠ 0 || mf) && decide (65535 < 8 * off + payload), 9), (mf && payload % 8 != 0, 9), (proto == 6 && off == 1, 10)]

/-- A built-in check (R132, R135): the sub-code, 0 for none. -/
def runCheck (csumEn : Bool) (w : Walk) (k : Nat) (f : List Byte) (off hlen flen : Nat) : Nat :=
  let b := byteAt f
  let payload : Option Int := w.l3.map (·.payload)
  let first := w.l3.any (·.frag == 1)
  let tiny := first && payload.any fun n => decide (n < (hlen : Int))
  if k = 2 && hlen < 20 && b off % 16 < 5 then 4
  else if k = 8 && 13 ≤ hlen && hlen < 20 && b (off + 12) / 16 < 5 then 12
  else if hlen < checkMin k then 14
  else match k with
  | 2 =>
    let ihl := 4 * (b off % 16)
    let tot := beAt f (off + 2) 2
    let fw := beAt f (off + 6) 2
    firstSub ([(b off / 16 != 4, 3), (ihl < 20, 4), (tot < ihl, 5), (flen ≤ 256 && flen < off + tot, 6),
      (csumEn && onesSum (bytesAt f off (min ihl hlen)) != 0xFFFF, 7)] ++
      fragSubs (fw % 8192) ((tot : Int) - ihl) (b (off + 9)) (fw.testBit 13))
  | 3 => firstSub [(b off / 16 != 6, 3), (flen ≤ 256 && flen < off + 40 + beAt f (off + 4) 2, 6)]
  | 4 => if w.prev != 3 then 8 else 0
  | 6 =>
    let fw := beAt f (off + 2) 2
    firstSub (fragSubs (fw / 8) ((payload.getD hlen) - hlen) (b off) (fw.testBit 0))
  | 7 =>
    let ul := beAt f (off + 4) 2
    firstSub [(tiny, 10), (!first && (ul < 8 || payload.any (· != (ul : Int))), 11)]
  | 8 =>
    let d := b (off + 12) / 16
    firstSub [(tiny, 10), (d < 5 || payload.any fun n => decide (n < ((4 * d : Nat) : Int)), 12)]
  | 9 => firstSub [(tiny, 10), (payload.any fun n => decide (n < (hlen : Int)), 13)]
  | _ => 0

/-- The fragment state that a header's check reads from it (R132, R139); 0 NONE where it reads none. -/
def headerFrag (k : Nat) (f : List Byte) (off : Nat) : Nat :=
  match k with
  | 2 => let fw := beAt f (off + 6) 2; fragState (fw % 8192) (fw.testBit 13)
  | 6 => let fw := beAt f (off + 2) 2; fragState (fw / 8) (fw.testBit 0)
  | _ => 0

/-- What a header that has passed its check leaves behind: its slot and its captures (R132, R133, R139). -/
def capture (w : Walk) (node : BitVec 128) (n : Nat) (f : List Byte) (off hlen : Nat) : Walk :=
  let k := fld node 7 4
  let layer := fld node 3 1
  let o := w.out
  let fills := layer != 0 && (ffind? o.slots layer).isNone
  let level := if fills && layer == 2 then 1 else if fills && layer == 6 then 2 else 3
  let o0 := if fills then { o with slots := fset o.slots layer ⟨n, off, k⟩ } else o
  let o1 := if fills && layer == 1 then { o0 with etherOff := some (off + 12) }
    else if k = 1 && w.l3.isNone && o.etherOff.isSome then { o0 with etherOff := some (off + 2) } else o0
  let setProto := fun (o : Parsed) (lv pr : Nat) =>
    if lv = 1 then { o with proto := pr } else if lv = 2 then { o with innerProto := pr } else o
  let first := w.l3.isNone
  let fs := headerFrag k f off
  match k with
  | 1 => { w with prev := k, out := { o1 with vlan := o1.vlan.or (some (beAt f off 2 % 4096)) } }
  | 2 =>
    let tot := beAt f (off + 2) 2
    let o2 := setProto o1 level (byteAt f (off + 9))
    let o3 := { o2 with frag := if first then fs else o2.frag }
    let o4 := { o3 with innerFrag := if level = 2 then fs else o3.innerFrag, l3End := if level = 1 then off + tot else o3.l3End }
    { prev := k, l3 := some ⟨(tot : Int) - 4 * (byteAt f off % 16 : Nat), fs, first, level⟩, out := o4 }
  | 3 =>
    let len := beAt f (off + 4) 2
    let o2 := setProto o1 level (byteAt f (off + 6))
    { prev := k, l3 := some ⟨len, 0, first, level⟩, out := { o2 with l3End := if level = 1 then off + 40 + len else o2.l3End } }
  | 4 | 5 =>
    { prev := k, l3 := w.l3.map fun c => { c with payload := c.payload - hlen },
      out := setProto o1 ((w.l3.map (·.level)).getD 3) (byteAt f off) }
  | 6 =>
    let lv := (w.l3.map (·.level)).getD 3
    let o2 := setProto o1 lv (byteAt f off)
    { prev := k, l3 := w.l3.map fun c => { c with frag := fs, payload := c.payload - hlen },
      out := { o2 with innerFrag := if lv = 2 then fs else o2.innerFrag, frag := if w.l3.all (·.outer) then fs else o2.frag } }
  | 10 => { w with prev := k, out := { o1 with
      vni := o1.vni.or (some (beAt f (off + 4) 3)),
      tunnel := if o1.tunnel.isEmpty then bytesAt f (off + 4) 3 ++ [0] else o1.tunnel
      tunNum := if o1.tunnel.isEmpty then beAt f (off + 4) 3 else o1.tunNum } }
  | 11 => { w with prev := k, out := { o1 with
      teid := o1.teid.or (some (beAt f (off + 4) 4)),
      tunnel := if o1.tunnel.isEmpty then bytesAt f (off + 4) 4 else o1.tunnel
      tunNum := if o1.tunnel.isEmpty then beAt f (off + 4) 4 else o1.tunNum } }
  | _ => { w with prev := k, out := o1 }

/-- The next node (R131): the lowest-numbered matching transition, the default, or 63. -/
def nextNode (s : State) (p n : Nat) (node : BitVec 128) (f : List Byte) (off win : Nat) : Nat :=
  let o := off + fld node 71 64
  let wd := if bit node 72 then 2 else 1
  let hit := if bit node 73 || win < o + wd then none
    else (List.range 256).findSome? fun t =>
      let x := prsTrans s p t
      if bit x 0 && fld x 6 1 == n && (beAt f o wd &&& fld x 38 23) == fld x 22 7 then some (fld x 44 39) else none
  match hit with
  | some m => m
  | none => if bit node 80 then fld node 79 74 else 63

/-- Follow the outer L3 header and its extension headers. -/
def trackL3 (w : Walk) (k off hlen : Nat) : Walk :=
  let out := fun (nx : Nat) => { w with out := { w.out with l3Data := off + hlen, l3Next := nx } }
  if !w.l3.any (·.level == 1) then w
  else if k = 2 then out (off + 9)
  else if k = 3 then out (off + 6)
  else if 4 ≤ k && k ≤ 6 && w.out.l3Data == off then out off
  else w

/-- The walk of R134, with the number of headers that may still be followed: the class is set where it ends. -/
def parseWalk (s : State) (p : Nat) (f : List Byte) (flen win : Nat) : Nat → Nat → Nat → Walk → Walk
  | fuel, n, off, w =>
    let node := prsNode s p n
    let mal := fun k => { w with out := { w.out with cls := 2, sub := k } }
    let deep := { w with out := { w.out with cls := 1 } }
    if n = 63 || !bit node 0 then w
    else match fuel with
      | 0 => deep
      | fuel + 1 =>
        match headerLen node f off win with
        | none => if flen ≤ 256 then mal 2 else deep
        | some hlen =>
          if hlen = 0 then mal 1
          else if win < off + hlen then (if flen ≤ 256 then mal 2 else deep)
          else
            let sub := runCheck (bit (s.reg (Reg.PRS_CHECK_CTRL p)) 0) w (fld node 7 4) f off hlen flen
            if sub ≠ 0 then mal sub
            else
              let w1 := trackL3 (capture w node n f off hlen) (fld node 7 4) off hlen
              if headerFrag (fld node 7 4) f off = 2 then w1
              else parseWalk s p f flen win fuel (nextNode s p n node f off win) (off + hlen) w1

/-- The port group of a frame (R143). -/
def portGroup (s : State) (p port : Nat) : Nat :=
  if port < 128 then
    let i := port % 16
    if i < 8 then s.rf (Reg.PRS_PORT_GROUP_LO p) (4 * i + 3) (4 * i)
    else s.rf (Reg.PRS_PORT_GROUP_HI p) (4 * i - 29) (4 * i - 32)
  else if port < 132 then s.rf (Reg.PRS_PORT_GROUP_AUX p) 7 4
  else s.rf (Reg.PRS_PORT_GROUP_AUX p) 3 0

/-- The node in a slot, 63 where it is empty. -/
def slotNode (o : Parsed) (layer : Nat) : Nat := ((o.slot layer).map (·.node)).getD 63

/-- Does a path entry match a NORMAL frame (R142)? -/
def pathMatch (x : W64) (o : Parsed) (group : Nat) : Bool :=
  bit x 0 &&
  (slotNode o 2 &&& fld x 12 7) == (fld x 6 1 &&& fld x 12 7) &&
  (slotNode o 3 &&& fld x 24 19) == (fld x 18 13 &&& fld x 24 19) &&
  (fld x 26 25 == 0 || fld x 26 25 == o.frag + 1) &&
  (fld x 28 27 == 0 || fld x 28 27 == (if (o.slot 4).isSome then 2 else 1)) &&
  (fld x 44 29).testBit group

/-- The 48 bytes that the spreading hash runs over (R144, R141). -/
def spreadBytes (prof : W32) (f : List Byte) (o : Parsed) (port : Nat) : List Byte :=
  let inner := bit prof 9
  let sel := fun (i : Nat) (bs : List Byte) => if bit prof i then bs else List.replicate bs.length 0
  let ports := o.frag == 0 && (o.slot 2).isSome
  let ep := fun (dst : Bool) => (⟨if (o.slot 2).isSome then l3Addr f o inner dst
      else List.replicate 10 0 ++ macAt f o false dst, if ports then l4Port f o inner dst else 0⟩ : Endpoint)
  let ab := if bit prof 10 then ordered (ep false) (ep true) else (ep false, ep true)
  sel 6 (bytesBE 1 port) ++ sel 4 (bytesBE 1 (l4Proto o inner)) ++ sel 5 (bytesBE 2 (o.vlan.getD 0)) ++
  sel 7 (bytesBE 4 (flowLabel f o inner)) ++ sel 8 (if o.tunnel.isEmpty then List.replicate 4 0 else o.tunnel) ++
  sel 0 ab.1.addr ++ sel 2 (bytesBE 2 ab.1.port) ++ sel 1 ab.2.addr ++ sel 3 (bytesBE 2 ab.2.port)

/-- Parse a frame in a pipeline (R128-R145): class, slots, path and spreading hash. -/
def parseFrame (s : State) (p port : Nat) (f : List Byte) : Parsed :=
  let o := (parseWalk s p (f.take 256) f.length (min 256 f.length) 16 0 0 {}).out
  let hit := if o.cls = 0 then
      ((List.range 64).map (prsPath s p)).find? fun x => pathMatch x o (portGroup s p port) else none
  let o1 := match hit with
    | some x => { o with stateful := bit x 45, template := fld x 53 46, spread := fld x 55 54 }
    | none => o
  { o1 with hash := (crc32cFrom (s.reg (Reg.PRS_SPREAD_SEED p)).toNat
      (spreadBytes (s.reg (Reg.PRS_SPREAD_PROFILE p o1.spread)) (f.take 256) o1 port)).toNat }

/-- An entry of an indirection table, i mod 32 after reset (R146). -/
def indirEntry (s : State) (p t i : Nat) : Nat := (fget (s.pipe p).indir (BitVec.ofNat 16 (i % 32)) (512 * t + i)).toNat
/-- A table's rotation. -/
def indirRot (s : State) (p t : Nat) : Nat := fget (s.pipe p).rot 0 t
/-- Index a table with a spreading hash (R146). -/
def indirLookup (s : State) (p t hash : Nat) : Nat := indirEntry s p t ((hash >>> indirRot s p t) % 512)

/-- The class action of a frame that is not NORMAL (R136). -/
def classAction (s : State) (p : Nat) (o : Parsed) : Nat :=
  if o.cls = 1 then s.rf (Reg.PRS_DEPTH_ACTION p) 1 0
  else s.rf (Reg.PRS_MALFORMED_ACTION p) (2 * o.sub + 1) (2 * o.sub)

/-- Count a frame's class and fragment state (R136, R139). -/
def countParsed (s : State) (p : Nat) (o : Parsed) : State :=
  let s1 := if o.cls = 1 then s.bump (Reg.PRS_DEPTH_COUNT p)
            else if o.cls = 2 then s.bump (Reg.PRS_MALFORMED_COUNT p o.sub) else s
  if o.frag = 1 then s1.bump (Reg.PRS_FRAG_FIRST_COUNT p)
  else if o.frag = 2 then s1.bump (Reg.PRS_FRAG_LATER_COUNT p) else s1

/-- The device punt reason of a class (R456). -/
def classReason (o : Parsed) : Nat := if o.cls = 1 then 0x01 else 0x10 + o.sub

/-- Write a 1,024-byte image and ROT as table `t` of a pipeline (R149). -/
def indirLoad (s : State) (p t rot : Nat) (buf : List Byte) : State :=
  let x := s.pipe p
  let es := (List.range 512).map fun i => (i, (ofBytes 16 ((buf.drop (2 * i)).take 2) : W16))
  s.setPipe p { x with rot := fput x.rot 0 t rot,
                       indir := es.foldl (fun m e => fput m (BitVec.ofNat 16 (e.1 % 32)) (512 * t + e.1) e.2) x.indir }

/-- INDIRECTION_WRITE (R148, R149). -/
def execIndirectionWrite (ring : Fin 1024) (slot : Nat) (s : State) : Out' :=
  onCmd s ring slot 0x40 fun c =>
    (forAll s (maskList 8 (fld c.desc 71 64)) fun s p =>
      indirLoad s p (fld c.desc 75 72) (fld c.desc 80 76) c.buf).finish ring slot St.ok

/-- INDIRECTION_READ (R148): the table of the lowest pipeline named, with ROT in the completion. -/
def execIndirectionRead (ring : Fin 1024) (slot : Nat) (s : State) : Out' :=
  onCmd s ring slot 0x41 fun c =>
    let p := ((maskList 8 (fld c.desc 71 64)).head?).getD 0
    let t := fld c.desc 75 72
    (s.output c ((List.range 512).flatMap fun i => bytesLE 2 (indirEntry s p t i))).finish ring slot St.ok 0
      (indirRot s p t)

end Sys2Proof.Machine
end

