-- ==== Sys2Proof/Machine/Forward.lean ====
section
/-!
DEFINITION. Machine/Forward.lean: the forwarding tables of a pipeline: exact match, the LPM tries, next hops, action
words and learning (R219-R245).
-/

namespace Sys2Proof.Machine

open Sys2Proof

/-! ### Searches -/

/-- What a search of a table yields: nothing, a line that fails its check, or an entry. -/
inductive Found (α : Type) where
  | none
  | fail
  | hit (x : α)
deriving DecidableEq, Repr

/-- A field of an exact-match key by its code: its width and its value (R223); DSCP is always that of the L3 slot. -/
def exactField (f : List Byte) (o : Parsed) (port m8 : Nat) (inner : Bool) (code : Nat) : Nat × Nat :=
  let v4 := fun (dst : Bool) => if isV4 o inner then natBE (l3Addr f o inner dst) else 0
  match code with
  | 1 => (48, natBE (macAt f o false true))
  | 2 => (48, natBE (macAt f o false false))
  | 3 => (12, o.vlan.getD 0)
  | 4 => (8, port)
  | 5 => (32, v4 true)
  | 6 => (32, v4 false)
  | 7 => (16, l4Port f o inner true)
  | 8 => (16, l4Port f o inner false)
  | 9 => (8, l4Proto o inner)
  | 10 => (32, o.tunNum)
  | 11 => (6, tosByte f o false / 4)
  | 12 => (16, m8)
  | _ => (0, 0)

/-- An exact-match key under a profile (R223): the fields packed upwards in slot order, the TAG on top. -/
def exactKey (prof : W32) (f : List Byte) (o : Parsed) (port m8 : Nat) : BitVec 96 :=
  let fs := [fld prof 7 4, fld prof 11 8, fld prof 15 12, fld prof 19 16].map (exactField f o port m8 (bit prof 20))
  let body := fs.foldl (fun (a : Nat × Nat) e => (a.1 + e.1, a.2 + e.2 * 2 ^ a.1)) (0, 0)
  put (BitVec.ofNat 96 body.2) 95 92 (fld prof 3 0)

/-- The position of an exact-match key. -/
def exactPos (x : Fwd) (k : BitVec 96) : Option (Nat × ExactEnt) := x.exact.find? fun e => e.2.key == k

/-- Report a table line that a search finds failed (R242, R243): the count by table, and the event. -/
def tableTileFail (s : State) (p table line : Nat) (fs : List (Nat × Nat × Nat)) : State :=
  let k := if table = 0 then 0 else if table = 3 then 2 else 1
  let s1 := s.bumpField (Reg.FWD_TILE_FAIL_COUNT p) (8 * k + 7) (8 * k)
  intRaise (eventWrite s1 (s.rf (Reg.FWD_LEARN_CTRL p) 25 16) 0x39 ([(66, 64, p), (68, 67, table), (85, 69, line)] ++ fs)).1 4 p

/-- Search the exact-match table (R224, R242): a failed line is cleared with both its entries. -/
def exactSearch (s : State) (p : Nat) (k : BitVec 96) : State × Found (Nat × ExactEnt) :=
  let x := s.fwdOf p
  match exactPos x k with
  | none => (s, .none)
  | some (i, e) =>
    if x.exactBad.contains (i / 2) then
      let x1 := { x with exact := fkeep x.exact fun j => j / 2 != i / 2, exactBad := x.exactBad.filter (· != i / 2) }
      (tableTileFail (s.setFwd p x1) p 0 (i / 2) [], .fail)
    else (s, .hit (i, e))

/-- Width of an address of a trie. -/
def addrBits (v6 : Bool) : Nat := if v6 then 128 else 32

/-- Does a prefix cover an address? -/
def covers (v6 : Bool) (prefx : BitVec 128) (len a : Nat) : Bool :=
  let n := addrBits v6 - len
  prefx.toNat >>> n == a >>> n

/-- Does one prefix lie within another? -/
def within (v6 : Bool) (outer : BitVec 128 × Nat) (inner : BitVec 128 × Nat) : Bool :=
  outer.2 ≤ inner.2 && covers v6 outer.1 outer.2 inner.1.toNat

/-- The longest matching route. -/
def bestRoute (v6 : Bool) (rs : List Route) (a : Nat) : Option Route :=
  rs.foldl (fun b r => if covers v6 r.prefx r.len a && (b.all fun c => c.len < r.len) then some r else b) none

/-- The routes and failed lines of a trie. -/
def routesOf (x : Fwd) (v6 : Bool) : List Route := if v6 then x.routes6 else x.routes4
def badOf (x : Fwd) (v6 : Bool) : List BadLine := if v6 then x.bad6 else x.bad4
def setRoutes (x : Fwd) (v6 : Bool) (rs : List Route) : Fwd := if v6 then { x with routes6 := rs } else { x with routes4 := rs }
def setBad (x : Fwd) (v6 : Bool) (bs : List BadLine) : Fwd := if v6 then { x with bad6 := bs } else { x with bad4 := bs }

/-- Search a trie (R225, R242): a search that reaches a failed line returns no match, and the first to find it
reports it. -/
def lpmSearch (s : State) (p : Nat) (v6 : Bool) (a : Nat) : State × Found Route :=
  let x := s.fwdOf p
  match (badOf x v6).find? fun b => covers v6 b.prefx b.len a with
  | some b =>
    if b.found then (s, .fail)
    else
      let x1 := setBad x v6 ((badOf x v6).map fun c => if c == b then { c with found := true } else c)
      let wire := revBytes 16 (if v6 then b.prefx.toNat else b.prefx.toNat % 2 ^ 32)
      (tableTileFail (s.setFwd p x1) p (if v6 then 2 else 1) b.line [(255, 128, wire), (263, 256, b.len)], .fail)
  | none => (s, match bestRoute v6 (routesOf x v6) a with | some r => .hit r | none => .none)

/-- Read a next hop (R219, R242): eight share a line. -/
def nexthopSearch (s : State) (p i : Nat) : State × Found W64 :=
  let x := s.fwdOf p
  let l := i / 8
  if x.nhFailed.any fun j => j / 8 == l then (s, .fail)
  else if x.nhBad.any fun j => j / 8 == l then
    let x1 := { x with nhBad := x.nhBad.filter fun j => j / 8 != l, nhFailed := x.nhFailed ++ (List.range 8).map (8 * l + ·) }
    (tableTileFail (s.setFwd p x1) p 3 l [(141, 128, 8 * l)], .fail)
  else (s, .hit (fget x.nexthop 0 i))

/-! ### Action words (R222) -/

/-- The outcome of an action word: discarded, punted, a fault of R222, a failed next-hop line, one egress port, or a
group. -/
inductive Fate where
  | drop
  | punt
  | fault
  | tile
  | port (n : Nat)
  | group (g : Nat)
deriving DecidableEq, Repr

/-- The word applied and its outcome. -/
structure Applied where
  word : W64
  fate : Fate
deriving DecidableEq, Repr

/-- The traffic class and the rewrite template of an action word. -/
def wordClass (w : W64) : Nat := fld w 20 18
def wordRewrite (w : W64) : Nat := fld w 28 21

/-- The egress of a port number: a fault where the port does not exist (R222). -/
def portFate (s : State) (n : Nat) : Fate := if n ≤ 139 && logicalPort s n then .port n else .fault

/-- Apply an action word, with an ECMP already resolved or not (R222). -/
def applyOnce (s : State) (p : Nat) (w : W64) (hash : Nat) (viaEcmp : Bool) : Fate :=
  if bit w 30 then .drop
  else if bit w 31 then .punt
  else match fld w 1 0 with
    | 0 => portFate s (fld w 9 2)
    | 1 => .group (fld w 17 2)
    | 2 => portFate s (indirLookup s p (fld w 5 2) hash)
    | _ => if viaEcmp then .fault else .tile

/-- Apply an action word with the spreading hash (R222); ECMP leads to a next hop, whose word is applied once more. -/
def applyWord (s : State) (p : Nat) (w : W64) (hash : Nat) : State × Applied :=
  if !bit w 30 && !bit w 31 && fld w 1 0 == 3 then
    let i := indirLookup s p (fld w 5 2) hash
    if 16384 ≤ i then (s, ⟨w, .fault⟩)
    else match nexthopSearch s p i with
      | (s1, .hit v) => (s1, ⟨v, applyOnce s1 p v hash true⟩)
      | (s1, _) => (s1, ⟨w, .tile⟩)
  else (s, ⟨w, applyOnce s p w hash false⟩)

/-! ### Learning (R230-R232) -/

/-- Set HIT on an entry. -/
def setHit (s : State) (p i : Nat) (e : ExactEnt) : State :=
  let x := s.fwdOf p
  s.setFwd p { x with exact := fset x.exact i { e with hit := true } }

/-- Raise LEARN for a key, unless the learn filter holds it (R231, R232). -/
def learnEvent (s : State) (p port : Nat) (f : List Byte) (o : Parsed) (k : BitVec 96) (old : Option W64) : State :=
  let x := s.fwdOf p
  if x.learn.any fun e => e.1 == k then s
  else
    let fs := [(111, 64, revBytes 6 (natBE (macAt f o false false))), (123, 112, o.vlan.getD 0), (135, 128, port),
      (138, 136, p), (139, 139, old.isSome.toNat)] ++
      (match old with | some w => [(141, 140, fld w 1 0), (157, 142, fld w 17 2)] | none => [])
    let s := intRaise s 4 p
    if 1024 ≤ x.learn.length then s.bump (Reg.FWD_LEARN_DROP_COUNT p)
    else match eventWrite s (s.rf (Reg.FWD_LEARN_CTRL p) 25 16) 0x38 fs with
      | (s1, true) => (s1.setFwd p { x with learn := x.learn ++ [(k, s.ns + 1000 * s.rf (Reg.FWD_LEARN_CTRL p) 8 1)] }).bump
          (Reg.FWD_LEARN_COUNT p)
      | (s1, false) => s1.bump (Reg.FWD_LEARN_DROP_COUNT p)

/-- The source search of a stateless frame (R230). -/
def learnFrame (s : State) (p port : Nat) (f : List Byte) (o : Parsed) : State :=
  let mac := macAt f o false false
  if bit (s.reg (Reg.FWD_LEARN_CTRL p)) 0 && (o.slot 1).isSome && byteAt mac 0 % 2 == 0 && port < 128 &&
      bit (s.reg (Reg.FWD_LEARN_PORTS p)) (port % 16) then
    let k := exactKey (s.reg (Reg.FWD_EXACT_PROFILE p (s.rf (Reg.FWD_SL_CTRL p) 7 4))) f o port 0
    match exactSearch s p k with
    | (s1, .hit (i, e)) =>
      let s2 := setHit s1 p i e
      if e.static || (fld e.action 1 0 == 0 && fld e.action 9 2 == port) then s2
      else learnEvent s2 p port f o k (some e.action)
    | (s1, _) => learnEvent s1 p port f o k none
  else s

/-- LEARN_HOLDOFF_EXPIRE (R231): a key leaves the learn filter at the end of its hold-off. -/
def execLearnHoldoffExpire (pipe : Fin 8) (key : BitVec 96) (s : State) : Out' :=
  let x := s.fwdOf pipe
  match x.learn.find? fun e => e.1 == key with
  | some e => .next ((s.reach e.2).setFwd pipe { x with learn := x.learn.filter fun e => e.1 != key })
  | none => .next s

/-! ### Resolution of a stateless frame (R220, R221) -/

/-- What a stateless frame's lookups yield: the fate, class and rewrite template, and the punt reason of a miss or an
action word. -/
structure Outcome' where
  fate    : Fate
  cls     : Nat
  rewrite : Nat
  reason  : Nat := 0x31
deriving DecidableEq, Repr

/-- A miss action (R221); the class of a flooded frame is not stated (free). -/
def missOutcome (s : State) (action : Nat) (o : Parsed) : State × Outcome' :=
  match action with
  | 1 => let r := s.free
         (r.2, { fate := .group (o.vlan.getD 0), cls := r.1 % 8, rewrite := 0 })
  | 2 => (s, { fate := .punt, cls := 0, rewrite := 0, reason := 0x30 })
  | _ => (s, { fate := .drop, cls := 0, rewrite := 0 })

/-- The miss actions of the exact match and of the LPM (R221). -/
def exactMiss (s : State) (p : Nat) (o : Parsed) : State × Outcome' :=
  missOutcome (s.bump (Reg.FWD_EXACT_MISS_COUNT p)) (s.rf (Reg.FWD_SL_CTRL p) 9 8) o
def lpmMiss (s : State) (p : Nat) (o : Parsed) : State × Outcome' :=
  missOutcome (s.bump (Reg.FWD_LPM_MISS_COUNT p)) (s.rf (Reg.FWD_SL_CTRL p) 11 10) o

/-- The outcome of an action word on the stateless path (R222, R242). -/
def wordOutcome (s : State) (p : Nat) (o : Parsed) (w : W64) : State × Outcome' :=
  match applyWord s p w o.hash with
  | (s1, ⟨_, .tile⟩) => lpmMiss s1 p o
  | (s1, ⟨v, .fault⟩) => (s1, ⟨.fault, wordClass v, wordRewrite v, 0x31⟩)
  | (s1, ⟨v, t⟩) => (s1, ⟨t, wordClass v, wordRewrite v, 0x31⟩)

/-- Resolve a stateless frame (R220). -/
def resolveStateless (s : State) (p port : Nat) (f : List Byte) (o : Parsed) : State × Outcome' :=
  let k := exactKey (s.reg (Reg.FWD_EXACT_PROFILE p (s.rf (Reg.FWD_SL_CTRL p) 3 0))) f o port 0
  match exactSearch s p k with
  | (s1, .hit (_, e)) =>
    if bit e.action 29 then
      if !(isV4 o false || isV6 o false) then lpmMiss s1 p o
      else match lpmSearch s1 p (isV6 o false) (natBE (l3Addr f o false true)) with
        | (s2, .hit r) =>
          match nexthopSearch s2 p r.nh with
          | (s3, .hit w) => wordOutcome s3 p o w
          | (s3, _) => lpmMiss s3 p o
        | (s2, _) => lpmMiss s2 p o
    else wordOutcome s1 p o e.action
  | (s1, _) => exactMiss s1 p o

/-! ### Commands (R235-R240) -/

/-- Table numbers: 0 EXACT, 1 LPM4, 2 LPM6, 3 NEXTHOP. -/
def tblOf (d : Desc) : Nat := fld d 73 72

/-- A 256-bit table entry's operation. -/
def entOp (e : BitVec 256) : Nat := fld e 241 240
/-- The prefix of an LPM entry, as a number. -/
def entPrefix (v6 : Bool) (e : BitVec 256) : BitVec 128 :=
  BitVec.ofNat 128 (if v6 then netFld e 127 0 else netFld e 31 0)
/-- The length of an LPM entry. -/
def entLen (e : BitVec 256) : Nat := fld e 135 128

/-- Bits of a table entry that are not listed for its table (R236). -/
def entReserved (t : Nat) : List (Nat × Nat) :=
  match t with
  | 0 => [(239, 162), (255, 242)]
  | 1 => [(127, 32), (239, 150), (255, 242)]
  | 2 => [(239, 150), (255, 242)]
  | _ => [(63, 14), (239, 128), (255, 242)]

/-- Is a prefix length one the trie holds (R225)? -/
def lenOk (v6 : Bool) (n : Nat) : Bool := if v6 then n ≤ 64 || n == 128 else n ≤ 32

/-- Is a table entry good (R236, R237)? -/
def entOk (t : Nat) (e : BitVec 256) : Bool :=
  zeroFields e (entReserved t) &&
  (match t with
   | 0 => entOp e ≤ 2 && fld e 159 128 == 0
   | 3 => entOp e == 1 && fld e 127 96 == 0
   | _ => let v6 := t == 2
          entOp e != 0 && lenOk v6 (entLen e) &&
          (entPrefix v6 e).toNat % 2 ^ (addrBits v6 - entLen e) == 0)

/-- The lowest free position of the exact-match table (R224). -/
def exactFree (x : Fwd) : Option Nat := (List.range (x.exact.length + 1)).find? fun i => (ffind? x.exact i).isNone && i < 32768

/-- Apply an EXACT entry in a pipeline (R237, R242): an entry put into a line that holds no other writes the line anew. The failure's status code, 0 for none. -/
def exactApply (s : State) (p : Nat) (e : BitVec 256) : State × Nat :=
  let k : BitVec 96 := BitVec.ofNat 96 (fld e 95 0)
  let w : W64 := BitVec.ofNat 64 (fld e 159 96)
  match exactSearch s p k with
  | (s1, .hit (i, old)) =>
    let x := s1.fwdOf p
    match entOp e with
    | 0 => (s1, St.exists_)
    | 1 => (s1.setFwd p { x with exact := fset x.exact i { old with action := w, static := bit e 160 } }, 0)
    | _ => (s1.setFwd p { x with exact := ferase x.exact i }, 0)
  | (s1, _) =>
    let x := s1.fwdOf p
    if entOp e = 2 then (s1, St.notFound)
    else match exactFree x with
      | some i =>
        let alone := (ffind? x.exact (i + 1 - 2 * (i % 2))).isNone
        (s1.setFwd p { x with exact := fset x.exact i ⟨k, w, bit e 160, false⟩,
                              exactBad := x.exactBad.filter fun l => !(alone && l == i / 2) }, 0)
      | none => (s1, St.noSpace)

/-- Insert a route in ascending order of prefix, then length (R239). -/
def insertRoute (r : Route) : List Route → List Route
  | [] => [r]
  | q :: qs => if r.prefx.toNat < q.prefx.toNat || (r.prefx == q.prefx && r.len < q.len) then r :: q :: qs
               else q :: insertRoute r qs

/-- Lines of the shared pool in use (R226). -/
def lpmPool (x : Fwd) : Nat :=
  if x.routes4.isEmpty && x.routes6.isEmpty then 0
  else Config.lpmLines (x.routes4.map fun r => (r.prefx.toNat, r.len)) (x.routes6.map fun r => (r.prefx.toNat, r.len))

/-- Can a new route be held: the shared pool, and at most five host routes under a /64 (R225, R226)? -/
def routeFits (x : Fwd) (v6 : Bool) (r : Route) : Bool :=
  lpmPool x ≤ 88064 &&
  !(v6 && r.len == 128 && 5 < ((x.routes6.filter fun q => q.len == 128 && q.prefx.toNat >>> 64 == r.prefx.toNat >>> 64).length))

/-- Failed lines that a rewrite of a prefix repairs (R242). -/
def repairLines (v6 : Bool) (pr : BitVec 128) (len : Nat) (bs : List BadLine) : List BadLine :=
  bs.filter fun b => !within v6 (pr, len) (b.prefx, b.len)

/-- Apply an LPM entry in a pipeline (R237). -/
def lpmApply (s : State) (p : Nat) (v6 : Bool) (e : BitVec 256) : State × Nat :=
  let x := s.fwdOf p
  let pr := entPrefix v6 e
  let len := entLen e
  let same := fun (r : Route) => r.prefx == pr && r.len == len
  let rs := routesOf x v6
  match entOp e with
  | 1 =>
    let r : Route := ⟨pr, len, fld e 149 136⟩
    let x1 := setBad (setRoutes x v6 (insertRoute r (rs.filter fun q => !same q))) v6 (repairLines v6 pr len (badOf x v6))
    if rs.any same || routeFits x1 v6 r then (s.setFwd p x1, 0) else (s, St.noSpace)
  | 2 => if rs.any same then (s.setFwd p (setRoutes x v6 (rs.filter fun q => !same q)), 0) else (s, St.notFound)
  | _ => (s.setFwd p (setBad (setRoutes x v6 (rs.filter fun q => !within v6 (pr, len) (q.prefx, q.len))) v6
           (repairLines v6 pr len (badOf x v6))), 0)

/-- Apply a NEXTHOP entry in a pipeline (R237, R242). -/
def nexthopApply (s : State) (p : Nat) (e : BitVec 256) : State × Nat :=
  let x := s.fwdOf p
  let i := fld e 13 0
  (s.setFwd p { x with nexthop := fput x.nexthop 0 i (BitVec.ofNat 64 (fld e 127 64)),
                       nhBad := x.nhBad.filter (· != i), nhFailed := x.nhFailed.filter (· != i) }, 0)

/-- Apply one table entry. -/
def tableApply (s : State) (p t : Nat) (e : BitVec 256) : State × Nat :=
  match t with
  | 0 => exactApply s p e
  | 3 => nexthopApply s p e
  | _ => lpmApply s p (t == 2) e

/-- Apply entries in order in one pipeline: the failures, by index and status (R237). -/
def applyAll {α : Type} (f : State → α → State × Nat) (s : State) (es : List α) : State × List (Nat × Nat) :=
  es.zipIdx.foldl (fun a e => let r := f a.1 e.1; (r.1, if r.2 = 0 then a.2 else a.2 ++ [(e.2, r.2)])) (s, [])

/-- The 64-bit result of a table command (R237), from each pipeline's failures in ascending order. -/
def failResult (fs : List (Nat × List (Nat × Nat))) : Nat :=
  let all := fs.flatMap fun p => p.2.map fun e => (e.1, p.1, e.2)
  let mask := (fs.map fun p => if p.2.isEmpty then 0 else 2 ^ p.1).sum
  match all.foldl (fun (m : Option Nat) e => some (min (m.getD e.1) e.1)) none with
  | none => 0
  | some i => mask + 2 ^ 8 * i + 2 ^ 24 * (((all.find? fun e => e.1 == i).map (·.2.2)).getD 0)

/-- The table that a command works on: a TABLE number, or 4 for the TCAM (R235, R256). -/
def descTable (d : Desc) : Nat := if 0x46 ≤ descOp d then 4 else tblOf d

/-- The pipelines whose table a command works on: a read without CLASP reads the lowest alone (R235, R258). -/
def descPipes (d : Desc) : List Nat :=
  let ps := maskList 8 (fld d 71 64)
  if (descOp d = 0x44 || descOp d = 0x46) || bit d 74 then ps else ps.take 1

/-- The table commands that have been accepted and have not ended. -/
def tableCmds (s : State) : List CmdEnt :=
  s.hif.rings.flatMap fun e => e.2.cmds.filter fun c =>
    (c.phase == .accepted || c.phase == .running) && 0x44 ≤ descOp c.desc && descOp c.desc ≤ 0x48

/-- Has a command's effect come about in a pipeline? -/
def CmdEnt.landedIn (c : CmdEnt) (p : Nat) : Bool := c.landed.any fun e => e.1 == p

/-- Is it a command's turn at its table in a pipeline (R235, R256): no command accepted before it has still to have its effect there?
Commands that take one lock take it in that order too. -/
def tableTurn (s : State) (c : CmdEnt) (p : Nat) : Bool :=
  !(tableCmds s).any fun e => decide (e.no < c.no) && (descPipes e.desc).contains p && !e.landedIn p &&
    (descTable e.desc == descTable c.desc || (bit e.desc 74 && bit c.desc 74 && descLock e.desc == descLock c.desc))

/-- May a command work on its table in a pipeline: it is its turn, and none has locked the table, or with CLASP itself has? -/
def mayWork (s : State) (c : CmdEnt) (ring slot p : Nat) : Bool :=
  let l := descLock c.desc
  tableTurn s c p && (if bit c.desc 74 then lockOf s p l == some (ring, slot) else (lockOf s p l).isNone)

/-- A command's effect has come about in a pipeline, with the entries that failed; its lock there is released (R237, R240). -/
def cmdLand (s : State) (ring slot p l : Nat) (fails : List (Nat × Nat)) : State :=
  (unlockAll s [p] l ring slot).modCmd ring slot fun c => { c with landed := c.landed ++ [(p, fails)] }

/-- The 32-byte entries of a buffer. -/
def tableEntries (n : Nat) (buf : List Byte) : List (BitVec 256) := (List.range n).map fun i => ofBytes 256 (buf.drop (32 * i))

/-- The failures of a command by pipeline, in the order of the pipelines. -/
def landedIn (ps : List Nat) (c : CmdEnt) : List (Nat × List (Nat × Nat)) :=
  ps.map fun p => (p, ((c.landed.find? fun e => e.1 == p).map (·.2)).getD [])

/-- TABLE_WRITE (R235-R240): every entry is checked before any is written; the entries are applied in each pipeline that is ready for
them, and the command completes once they have been in all. -/
def execTableWrite (ring : Fin 1024) (slot : Nat) (s : State) : Out' :=
  onCmd s ring slot 0x44 fun c =>
    let t := tblOf c.desc
    let ps := maskList 8 (fld c.desc 71 64)
    let es := tableEntries (fld c.desc 207 192) c.buf
    if !es.all (entOk t) then (unlockCmd s c ring slot).badField ring slot
    else
      let go := ps.filter fun p => !c.landedIn p && mayWork s c ring slot p
      let s1 := forAll s go fun s p =>
        let r := applyAll (fun s e => tableApply s p t e) s es
        cmdLand r.1 ring slot p (descLock c.desc) r.2
      match s1.cmd? ring slot with
      | some d => if ps.all d.landedIn then s1.finish ring slot St.ok 0 (failResult (landedIn ps d)) else s1
      | none => s1

/-- An EXACT entry as TABLE_READ returns it (R236). -/
def exactImage (e : ExactEnt) : BitVec 256 :=
  pack 256 [(95, 0, e.key.toNat), (159, 96, e.action.toNat), (160, 160, e.static.toNat), (161, 161, e.hit.toNat)]

/-- A route as TABLE_READ returns it. -/
def routeImage (v6 : Bool) (r : Route) : BitVec 256 :=
  pack 256 [(if v6 then 127 else 31, 0, revBytes (if v6 then 16 else 4) r.prefx.toNat), (135, 128, r.len), (149, 136, r.nh)]

/-- The routes of a trie from a CURSOR on (R239): all of them from 0, those from the position that a read has returned as that cursor,
or from a route that the spec leaves open (free). -/
def routesFrom (s : State) (x : Fwd) (v6 : Bool) (cursor : Nat) : List Route :=
  let rs := routesOf x v6
  match cursor with
  | 0 => rs
  | k + 1 =>
    match x.cursors[k]? with
    | some (w, pr, len) =>
      if w == v6 then rs.filter fun r => decide (pr.toNat < r.prefx.toNat) || (r.prefx == pr && decide (len ≤ r.len))
      else rs.drop (Config.freeNat s.freeCtr % max 1 rs.length)
    | none => rs.drop (Config.freeNat s.freeCtr % max 1 rs.length)

/-- The positions returned as cursors, after one at a route; and the cursor that names it. -/
def cursorAt (x : Fwd) (v6 : Bool) (r : Route) : List (Bool × BitVec 128 × Nat) × Nat :=
  let e := (v6, r.prefx, r.len)
  match x.cursors.findIdx? (· == e) with
  | some i => (x.cursors, i + 1)
  | none => (x.cursors ++ [e], x.cursors.length + 1)

/-- The entries a TABLE_READ returns, the next CURSOR, and the positions returned as cursors (R239). -/
def tableReadOut (s : State) (p t cursor count : Nat) : List (BitVec 256) × Nat × List (Bool × BitVec 128 × Nat) :=
  let x := s.fwdOf p
  match t with
  | 0 =>
    let es := x.exact.filter fun e => cursor ≤ e.1
    let out := es.take count
    (out.map fun e => exactImage e.2,
      match (es.drop count).head? with | some e => e.1 | none => 0, x.cursors)
  | 3 =>
    let n := min count (16384 - cursor)
    ((List.range n).map fun i => pack 256 [(13, 0, cursor + i), (127, 64, (fget x.nexthop 0 (cursor + i)).toNat)],
      if cursor + n = 16384 then 0 else cursor + n, x.cursors)
  | _ =>
    let rs := routesFrom s x (t == 2) cursor
    let next := match (rs.drop count).head? with
      | some r => cursorAt x (t == 2) r
      | none => (x.cursors, 0)
    ((rs.take count).map (routeImage (t == 2)), next.2, next.1)

/-- A CURSOR beyond a table's last entry (R239). -/
def cursorBad (t cursor : Nat) : Bool := (t == 0 && 32767 < cursor) || (t == 3 && 16383 < cursor)

/-- TABLE_READ (R235, R239): the lowest pipeline named, from the cursor on. -/
def execTableRead (ring : Fin 1024) (slot : Nat) (s : State) : Out' :=
  onCmd s ring slot 0x45 fun c =>
    let t := tblOf c.desc
    let ps := maskList 8 (fld c.desc 71 64)
    let p := ps.head?.getD 0
    let cursor := fld c.desc 255 224
    let count := fld c.desc 207 192
    if cursorBad t cursor then (unlockCmd s c ring slot).badField ring slot 28
    else if (descPipes c.desc).all (mayWork s c ring slot) then
      let r := tableReadOut s p t cursor count
      let s1 := s.output c (r.1.flatMap bytesOf)
      let x := { s1.fwdOf p with cursors := r.2.2 }
      let s2 := if t == 0 && bit c.desc 75 then
          let seen := (((x.exact.filter fun e => cursor ≤ e.1).take count).map (·.1))
          s1.setFwd p { x with exact := x.exact.map fun e => if seen.contains e.1 then (e.1, { e.2 with hit := false }) else e }
        else s1.setFwd p x
      (unlockCmd { s2 with freeCtr := s2.freeCtr + 1 } c ring slot).finish ring slot St.ok 0 r.2.1
    else s

/-! ### Digests (R234) -/

/-- FWD_EXACT_DIGEST. -/
def exactDigest (x : Fwd) : W32 :=
  x.exact.foldl (fun a e => a ^^^ crc32c (bytesLE 12 e.2.key.toNat ++ bytesLE 8 e.2.action.toNat)) 0

/-- FWD_LPM_DIGEST: over the routes of both tries. -/
def lpmDigest (x : Fwd) : W32 :=
  (x.routes4 ++ x.routes6).foldl (fun a r =>
    a ^^^ crc32c (bytesBE 16 r.prefx.toNat ++ bytesLE 1 r.len ++ [0, 0, 0] ++ bytesLE 4 r.nh)) 0

end Sys2Proof.Machine
end

