-- ==== Sys2Proof/Machine/Nodes.lean ====
section
/-!
DEFINITION. Machine/Nodes.lean: the traffic manager's nodes (R312, R313, R316) and the port state that the switch core
and the traffic manager share.
-/

namespace Sys2Proof.Machine

open Sys2Proof

/-- The key of a node: level and ID. -/
def nodeKey (level id : Nat) : Nat := 2 ^ 20 * level + id

/-- Nodes of a level (R312). -/
def nodeCount (level : Nat) : Nat :=
  match level with
  | 0 => 140 | 1 => 4096 | 2 => 131072 | _ => 524288

/-- A node's entry after reset (R313, R316). -/
def nodeReset (level id : Nat) : BitVec 256 :=
  pack 256 ([(1, 0, level), (21, 3, id), (53, 46, 1)] ++
    (if level = 0 then [(2, 2, 1)]
     else if level = 3 && id < 1120 then [(2, 2, 1), (42, 24, id / 8), (56, 54, id % 8)] else []))

/-- A node's entry. -/
def State.node (s : State) (level id : Nat) : BitVec 256 :=
  (ffind? s.tmg.nodes (nodeKey level id)).getD (nodeReset level id)

/-- A node's tokens, pointer and deficit. -/
def State.nodeDyn (s : State) (level id : Nat) : NodeDyn := fget s.tmg.dyn {} (nodeKey level id)
def State.setNodeDyn (s : State) (level id : Nat) (d : NodeDyn) : State :=
  { s with tmg := { s.tmg with dyn := fput s.tmg.dyn {} (nodeKey level id) d } }

/-- Is a node valid (R312, R316)? -/
def nodeValid (s : State) (level id : Nat) : Bool := id < nodeCount level && bit (s.node level id) 2

/-- A node's parent: level and ID. -/
def nodeParent (s : State) (level id : Nat) : Nat × Nat :=
  (fld (s.node level id) 23 22, fld (s.node level id) 42 24)

/-- The nodes from a node up to its port, nearest first; a parent's level is always lower (R312). -/
def nodePath (s : State) : Nat → Nat → Nat → List (Nat × Nat)
  | 0, level, id => [(level, id)]
  | fuel + 1, level, id =>
    if level = 0 then [(0, id)]
    else let p := nodeParent s level id
         (level, id) :: nodePath s fuel p.1 p.2

/-- A queue's path to its port. -/
def queuePath (s : State) (q : Nat) : List (Nat × Nat) := nodePath s 3 3 q

/-- The port of a queue: the root of its chain of parents (R312). -/
def queuePort (s : State) (q : Nat) : Nat := ((queuePath s q).getLast?.map (·.2)).getD 0

/-- The class of a queue. -/
def queueClass (s : State) (q : Nat) : Nat := fld (s.node 3 q) 56 54

/-- May a copy for a port be put on a queue (R314)? -/
def queueTakes (s : State) (q port : Nat) : Bool :=
  nodeValid s 3 q && queuePort s q == port && (128 ≤ port || portExists s port)

/-- Is a front port up (R386), any other port in being? -/
def portUp (s : State) (n : Nat) : Bool := if n < 128 then portExists s n && (s.port n).state == 5 else n < 140

/-- A port's rate in Gbit/s: a front port's mode (R383), 100 for a host port (R457). -/
def portRate (s : State) (n : Nat) : Nat := if n < 128 then modeRate (quadMode s n) else 100

/-- Time on the wire of a frame length, in nanoseconds, with 20 bytes of preamble and gap (R331). -/
def wireNs (s : State) (n len : Nat) : Nat := (len + 20) * 8 / max 1 (portRate s n)

/-- The operative gate list's limit on a class's frame length; 0 is none (R328). -/
def gateSdu (s : State) (n c : Nat) : Nat :=
  match (s.gatesOf n).oper with
  | some g => fld g.header (14 * c + 173) (14 * c + 160)
  | none => 0

end Sys2Proof.Machine
end

