-- ==== Sys2Proof/Machine/Pfc.lean ====
section
/-!
DEFINITION. Machine/Pfc.lean: priority flow control sent and received (R324-R327).
-/

namespace Sys2Proof.Machine

open Sys2Proof

/-- Cells charged to a front port for a priority, the reservations included (R325). -/
def pfcCount (s : State) (n c : Nat) : Nat :=
  (s.swc.frames.map fun e => if e.2.port = n && e.2.prio = c then e.2.cells.length + e.2.reserved else 0).sum

/-- The bytes of a PFC frame of 802.1Qbb with one priority's timer; the source address is not stated (free). -/
def pfcFrame (src : List Byte) (c timer : Nat) : List Byte :=
  let body := [0x01, 0x80, 0xC2, 0x00, 0x00, 0x01].map (BitVec.ofNat 8) ++ src ++ bytesBE 2 0x8808 ++ bytesBE 2 0x0101 ++
    bytesBE 2 (2 ^ c) ++ (List.range 8).flatMap (fun i => bytesBE 2 (if i = c then timer else 0)) ++ List.replicate 26 0
  body ++ fcsBytes body

/-- The six bytes of the source address of the block's own frames, which the spec does not give. -/
def freeMac (s : State) : List Byte := bytesBE 6 (Config.freeNat s.freeCtr)

/-- A PFC frame goes out. -/
def pfcOut (s : State) (n c timer : Nat) : State :=
  { (s.bump (Reg.TMG_PFC_TX_COUNT n)).emit (.frame n (pfcFrame (freeMac s) c timer)) with freeCtr := s.freeCtr + 1 }

/-- Send a PFC frame on a port that is up (R325): at the next frame boundary, which is at once where no copy is on the wire. -/
def pfcSend (s : State) (n c timer : Nat) : State :=
  if !portUp s n then s
  else if (ffind? s.swc.wire n).isSome then let p := s.pfcOf n; s.setPfc n { p with waiting := p.waiting ++ [(c, timer)] }
  else pfcOut s n c timer

/-- A frame boundary on a port: the PFC frames that waited for it go out, ahead of every queue. -/
def pfcBoundary (s : State) (n : Nat) : State :=
  let p := s.pfcOf n
  p.waiting.foldl (fun s w => pfcOut s n w.1 w.2) (if p.waiting.isEmpty then s else s.setPfc n { p with waiting := [] })

/-- The PFC thresholds of a port. -/
def pfcXoff (s : State) (n : Nat) : Nat := s.rf (Reg.TMG_PFC_THRESH n) 15 0
def pfcXon (s : State) (n : Nat) : Nat := s.rf (Reg.TMG_PFC_THRESH n) 31 16

/-- Compare a priority's count with its thresholds, and send XOFF or XON (R325). -/
def pfcCheck (s : State) (n c : Nat) : State :=
  if n < 128 then
    let p := s.pfcOf n
    if p.xoff.contains c then
      if pfcCount s n c ≤ pfcXon s n then
        pfcSend (s.setPfc n { p with xoff := p.xoff.filter (· != c), sentAt := ferase p.sentAt c }) n c 0
      else s
    else if (s.reg (Reg.TMG_PFC_CFG n)).getLsbD c && pfcXoff s n ≤ pfcCount s n c then
      pfcSend (s.setPfc n { p with xoff := c :: p.xoff, sentAt := fset p.sentAt c s.ns }) n c
        (s.rf (Reg.TMG_PFC_TIMER n) 15 0)
    else s
  else s

/-- Nanoseconds of a number of PFC quanta of 512 bit times at a port's rate. -/
def quantaNs (s : State) (n q : Nat) : Nat := 512 * q / max 1 (portRate s n)

/-- PFC_XOFF_REPEAT (R325): half of the quanta has passed while the count stays above XON_CELLS. -/
def execPfcXoffRepeat (port : Fin 128) (prio : Fin 8) (s : State) : Out' :=
  let p := s.pfcOf port
  match ffind? p.sentAt prio with
  | some t =>
    let q := s.rf (Reg.TMG_PFC_TIMER port) 15 0
    if p.xoff.contains prio.val && pfcXon s port < pfcCount s port prio then
      let s1 := s.reach (t + quantaNs s port q / 2)
      .next (pfcSend (s1.setPfc port { p with sentAt := fset p.sentAt prio s1.ns }) port prio q)
    else .next s
  | none => .next s

/-- Is a class of a port paused by received PFC (R326)? -/
def classPaused (s : State) (n c : Nat) : Bool := (ffind? (s.pfcOf n).ends c).any fun t => s.ns < t

/-- One received priority of a PFC frame (R326): pause for the timer, or end the pause. -/
def pfcPause (s : State) (n c timer : Nat) : State :=
  let p := s.pfcOf n
  if timer = 0 then s.setPfc n { p with ends := ferase p.ends c, since := ferase p.since c }
  else s.setPfc n { p with ends := fset p.ends c (s.ns + quantaNs s n timer),
                           since := if classPaused s n c then p.since else fset p.since c s.ns }

/-- Is a received pause for a class obeyed (R326, R327)? -/
def pfcObeyed (s : State) (n c : Nat) : Bool :=
  (s.reg (Reg.TMG_PFC_CFG n)).getLsbD (8 + c) &&
  !(s.rf (Reg.TMG_PFC_CFG n) 19 19 == 1 && (s.pfcOf n).storm.contains c)

/-- The effect of a received PFC frame on a port: the enable vector and the timers (R326). -/
def pfcTake (s : State) (n : Nat) (enable : Nat) (timers : List Nat) : State :=
  (List.range 8).foldl (fun s c =>
    if enable.testBit c && pfcObeyed s n c then pfcPause s n c (timers.getD c 0) else s)
    (s.bump (Reg.TMG_PFC_RX_COUNT n))

/-- PFC_RECEIVE (R326). -/
def execPfcReceive (port : Fin 128) (enable : BitVec 16) (timers : List W16) (s : State) : Out' :=
  if portUp s port then .next (pfcTake s port enable.toNat (timers.map (·.toNat))) else .next s

/-- PFC_PAUSE_EXPIRE (R326): the queues of the class resume once the timer has run out. -/
def execPfcPauseExpire (port : Fin 128) (prio : Fin 8) (s : State) : Out' :=
  let p := s.pfcOf port
  match ffind? p.ends prio with
  | some t => .next ((s.reach t).setPfc port { p with ends := ferase p.ends prio, since := ferase p.since prio })
  | none => .next s

/-- Does a queue of a class of a port hold a copy? -/
def classHolds (s : State) (n c : Nat) : Bool :=
  s.swc.queues.any fun e => queuePort s e.1 == n && queueClass s e.1 == c &&
    (!e.2.onDie.isEmpty || !e.2.spilled.isEmpty)

/-- The time since when queues of a class have both held a copy and been paused is taken from the pause and the
oldest copy's enqueue tick. -/
def stormSince (s : State) (n c : Nat) : Option Nat :=
  (ffind? (s.pfcOf n).since c).bind fun t =>
    let ages := (s.swc.queues.filter fun e => queuePort s e.1 == n && queueClass s e.1 == c).flatMap fun e =>
      (e.2.onDie.take 1 ++ e.2.spilled.take 1).map fun k => (tickDiff s.tick k.tick).toNat
    ages.foldl (fun m a => some (max (m.getD 0) (min a (s.ns - t)))) none

/-- PFC_STORM (R327): a queue has held a copy and been paused without a break for WATCHDOG_US, which the pause lasts out. -/
def execPfcStorm (port : Fin 128) (prio : Fin 8) (s : State) : Out' :=
  let w := s.rf (Reg.TMG_PFC_TIMER port) 31 16
  match stormSince s port prio with
  | some d =>
    if w ≠ 0 && !(s.pfcOf port).storm.contains prio.val &&
        (ffind? (s.pfcOf port).ends prio).any (fun t => s.ns + (1000 * w - d) ≤ t) then
      let s := s.advance (1000 * w - d)
      let p := s.pfcOf port
      let p1 := { p with storm := prio.val :: p.storm }
      let p2 := if s.rf (Reg.TMG_PFC_CFG port) 19 19 == 1
        then { p1 with ends := ferase p1.ends prio, since := ferase p1.since prio } else p1
      .next (intRaise (raiseOn (s.setPfc port p2) (s.rf Reg.TMG_EVENT_CTRL 9 0) Reg.TMG_EVENT_DROP_COUNT 0x7F
        [(71, 64, port.val), (74, 72, prio.val)]) 10 1)
    else .next s
  | none => .next s

/-- A write of TMG_PFC_STATUS (R327, R336): 1 in a STORM bit clears it and ends the ignoring of received PFC. -/
def stormClear (s : State) (n : Nat) (value : W32) : State :=
  let p := s.pfcOf n
  s.setPfc n { p with storm := p.storm.filter fun c => !bit value (16 + c) }

/-- STORM_CLEAR (R327, R336). -/
def execStormClear (port : Fin 128) (value : W32) (s : State) : Out' := onBar s (stormClear s port value)

end Sys2Proof.Machine
end

