-- ==== Sys2Proof/Machine/HbmMap.lean ====
section
/-!
DEFINITION. Machine/HbmMap.lean: where an HBM address lands (R28, R359, R361), and the transactions that requesters put before the
arbiter of a pseudo-channel (R362, R364).
-/

namespace Sys2Proof.Machine

open Sys2Proof

/-- A place in HBM: stack, pseudo-channel, SID, bank, row and byte within the row. -/
structure HbmLoc where
  stack : Nat
  pc    : Nat
  sid   : Nat
  bank  : Nat
  row   : Nat
  byte  : Nat
deriving DecidableEq, Repr

/-- The flow part of R361. -/
def flowMap (s x : Nat) : HbmLoc :=
  let u := x >>> 10
  let j := ((x >>> 7) ^^^ u ^^^ (u >>> 3)) % 8
  let r := u >>> 8
  { stack := s / 4, pc := 8 * (s % 4) + j, sid := ((u >>> 7) ^^^ (r >>> 8)) % 2,
    bank := ((u >>> 3) ^^^ r ^^^ (r >>> 4)) % 16, row := r, byte := 128 * (u % 8) + x % 128 }

/-- The shared part of R361. -/
def sharedMap (o : Nat) : HbmLoc :=
  let k := o >>> 11
  let g := (k ^^^ (k >>> 7)) % 128
  let v := k >>> 7
  let c := (o >>> 5) % 64
  { stack := g / 32, pc := g % 32, sid := (v >>> 3) % 2, bank := ((v % 8) ^^^ (v >>> 4)) % 8 + 8 * (c % 2),
    row := 18432 + v / 16, byte := c / 2 * 32 + o % 32 }

/-- The mapping of R361; none where the address is not populated (R28). -/
def hbmMap (a : Nat) : Option HbmLoc :=
  if a < 2 ^ 36 then some (flowMap (a / 2 ^ 32 % 16) (a % 2 ^ 32))
  else if a < 2 ^ 36 + 2 ^ 33 then
    some (flowMap ((a - 2 ^ 36) / 2 ^ 29 % 16) (2 ^ 32 + (a - 2 ^ 36) % 2 ^ 29))
  else if a < 0x1800000000 then some (sharedMap (a - 0x1200000000))
  else none

/-- The banks that an access uses, 16 x SID + bank: the columns of a stripe lie in turn in the two banks of a pair (R361). -/
def HbmLoc.banks (l : HbmLoc) (wide : Bool) : List Nat :=
  if wide then [16 * l.sid + l.bank % 8, 16 * l.sid + l.bank % 8 + 8] else [16 * l.sid + l.bank]

/-- Does a stack run: is its domain ON, is it trained and not lost (R378)? -/
def stackLive (s : State) (h : Nat) : Bool := s.domain (domMem h) == .on && (s.stack h).trained && !(s.stack h).lost

/-- Does a stack serve requesters: does it run, and is the device not in Solitaire mode (R512)? -/
def stackOn (s : State) (h : Nat) : Bool := stackLive s h && !s.hlt.solo

/-- A pseudo-channel of a stack. -/
def State.chan (s : State) (h c : Nat) : Channel := fget (s.stack h).channels {} c
def State.setChan (s : State) (h c : Nat) (x : Channel) : State :=
  let y := s.stack h
  s.setStack h { y with channels := fput y.channels {} c x }

/-- A requester's transaction arrives at the arbiter of the pseudo-channel that holds its address (R362, R364). -/
def memPost (s : State) (req addr : Nat) (write : Bool) (beats : Nat) : State :=
  match hbmMap addr with
  | some l =>
    if stackOn s l.stack then
      let x := s.chan l.stack l.pc
      let t : MemTxn := { req := req, addr := addr, write := write, beats := beats, arrive := s.ns,
                          banks := l.banks (0x1200000000 ≤ addr && 1 < beats), row := l.row }
      s.setChan l.stack l.pc { x with waiting := x.waiting ++ [t] }
    else s
  | none => s

/-- A transaction at an address of a region whose layout is open: counters, export staging. -/
def memPostIn (s : State) (req base size : Nat) (write : Bool) (beats : Nat) : State :=
  let f := s.free
  memPost f.2 req (base + 2048 * (f.1 % (size / 2048))) write beats

/-- A transaction on the counters of HBM (R28, R364): COUNTER's, or a host command's that reads or clears them. -/
def counterPost (s : State) (req : Nat) (write : Bool) : State := memPostIn s req 0x1624000000 0x1DC000000 write 1

/-- The reads that a flight of a slice waits for (R73): its tag pair, or the record of its next candidate. -/
def memFlight (s : State) (i : Nat) (pairUnit : Nat) : FlightPhase → State
  | .pairRead => memPost s (i % 4) (128 * pairUnit) false 4
  | .recRead _ (c :: _) => memPost s (i % 4) (128 * c.1) false 4
  | _ => s

/-! ### Retraining (R407, R503) -/

/-- A retraining of a pseudo-channel falls due, where its stack runs and none is under way (R407). -/
def retrainStart (s : State) (h c : Nat) : State :=
  let x := s.chan h c
  if x.retrain.isNone && stackOn s h then s.setChan h c { x with retrain := some 0, retrainAt := s.ns, failed := false, found := [] } else s

/-- The timing that a stack which returns to ON has trained afresh (R503). -/
def retrainFresh (s : State) (h : Nat) : State :=
  forAll s (List.range 32) fun s c => s.setChan h c { s.chan h c with retrain := none, retrainAt := s.ns, failed := false, fails := 0, found := [] }

end Sys2Proof.Machine
end

