-- ==== Sys2Proof/Machine/Pools.lean ====
section
/-!
DEFINITION. Machine/Pools.lean: the buffer pool manager (R297-R311): allocation with fallback and lending, checked
frees, quarantine.
-/

namespace Sys2Proof.Machine

open Sys2Proof

/-- Is the packet buffer in service (R271)? -/
def bufEnabled (s : State) : Bool := bit (s.reg Reg.SWC_BUF_CTRL) 0

/-- Is a pool in use? Pool 0 always is (R297). -/
def poolValid (s : State) (p : Nat) : Bool := p == 0 || (p < 16 && bit (s.reg (Reg.BPM_POOL_CFG p)) 0)

/-- Cells in a buffer of a pool, as a power of two (R297). -/
def poolLog2 (s : State) (p : Nat) : Nat := if p = 0 then 0 else s.rf (Reg.BPM_POOL_CFG p) 4 1

/-- Cells in a buffer of a pool. -/
def poolCells (s : State) (p : Nat) : Nat := 2 ^ poolLog2 s p

/-- The pool of a block (R297). -/
def blockPool (s : State) (b : Nat) : Nat := s.rf (Reg.BPM_BLOCK_POOL (b / 8)) (4 * (b % 8) + 3) (4 * (b % 8))

/-- The blocks of a pool. -/
def poolBlocks (s : State) (p : Nat) : List Nat := (List.range 128).filter fun b => blockPool s b == p

/-- The tag of a pool-0 cell, and of a buffer of another pool (R304). -/
def State.cellTag (s : State) (c : Nat) : Tag := fget s.bpm.cellTag .free c
def State.setCellTag (s : State) (c : Nat) (t : Tag) : State :=
  { s with bpm := { s.bpm with cellTag := fput s.bpm.cellTag .free c t } }
def State.bufTag (s : State) (c : Nat) : Tag := fget s.bpm.bufTag .free c
def State.setBufTag (s : State) (c : Nat) (t : Tag) : State :=
  { s with bpm := { s.bpm with bufTag := fput s.bpm.bufTag .free c t } }

/-- The number of a tag (R304). -/
def Tag.code : Tag → Nat
  | .free => 0
  | .swc => 1
  | .hif => 2
  | .lent => 3
  | .quarantine => 4

/-- The lowest index from `c` upwards, in steps of `step`, that a table of tags does not list. -/
def skipUsed (step : Nat) : FMap Tag → Nat → Nat
  | [], c => c
  | (k, _) :: m, c => if k < c then skipUsed step m c else if k = c then skipUsed step m (c + step) else c

/-- The lowest free index of the first segment `(lo, hi)` that has one. -/
def firstFree (m : FMap Tag) (step : Nat) (segs : List (Nat × Nat)) : Option Nat :=
  segs.findSome? fun g => let c := skipUsed step m g.1; if c < g.2 then some c else none

/-- The segments of a list of runs `(first, length)` in rising order, searched from `ptr` upwards with wrap (R300). -/
def searchSegs (ptr : Nat) (runs : List (Nat × Nat)) : List (Nat × Nat) :=
  (runs.filter fun r => decide (ptr < r.1 + r.2)).map (fun r => (max ptr r.1, r.1 + r.2)) ++
  (runs.filter fun r => decide (r.1 < ptr)).map (fun r => (r.1, min ptr (r.1 + r.2)))

/-- Insert a run in rising order. -/
def insertRun (r : Nat × Nat) : List (Nat × Nat) → List (Nat × Nat)
  | [] => [r]
  | q :: qs => if r.1 ≤ q.1 then r :: q :: qs else q :: insertRun r qs

/-- The lent buffers as runs of cells, in rising order (R301). -/
def lentRuns (s : State) : List (Nat × Nat) :=
  s.bpm.lent.foldl (fun rs l => insertRun (l.2, poolCells s l.1) rs) []

/-- The search pointer of a pool (R300). -/
def poolPtr (s : State) (p : Nat) : Nat := fget s.bpm.ptr 0 p

/-- The first free buffer of a pool in its search order (R300): pool 0 searches lent cells last. Nothing is free
before the buffer is in service (R310). -/
def poolFind (s : State) (p : Nat) : Option Nat :=
  if !bufEnabled s || !poolValid s p then none
  else
    let runs := (poolBlocks s p).map fun b => (4096 * b, 4096)
    if p = 0 then
      (firstFree s.bpm.cellTag 1 (searchSegs (poolPtr s 0) runs)).or
        (firstFree s.bpm.cellTag 1 (searchSegs (poolPtr s 0) (lentRuns s)))
    else firstFree s.bpm.bufTag (poolCells s p) (searchSegs (poolPtr s p) runs)

/-- Free buffers of a pool (R310): for pool 0 its own cells and the lent ones. -/
def poolFreeCount (s : State) (p : Nat) : Nat :=
  if !bufEnabled s then 0
  else
    let bs := poolBlocks s p
    let inOwn := fun c => bs.contains (c / 4096)
    if p = 0 then
      let runs := lentRuns s
      4096 * bs.length + (runs.map (·.2)).sum -
        (s.bpm.cellTag.filter fun e => inOwn e.1 || runs.any fun r => decide (r.1 ≤ e.1) && decide (e.1 < r.1 + r.2)).length
    else 4096 * bs.length / poolCells s p - (s.bpm.bufTag.filter fun e => inOwn e.1).length

/-- Move a pool's search pointer to one past an index just taken (R300). -/
def poolMove (s : State) (p c : Nat) : State :=
  { s with bpm := { s.bpm with ptr := fput s.bpm.ptr 0 p (c + poolCells s p) } }

/-- Take a buffer of a pool for an owner: the handle. Its cells are written anew, so what an upset has done to them before is gone. -/
def poolTake (s : State) (p c : Nat) (t : Tag) : State × Nat :=
  let n := poolCells s p
  let s1 := { s with swc := { s.swc with badCells := s.swc.badCells.filter fun k => !(decide (c ≤ k) && decide (k < c + n)) } }
  (poolMove (if p = 0 then s1.setCellTag c t else s1.setBufTag c t) p c, 2 ^ 20 * p + c)

/-- The pool that serves a request of pool `p` after falling back (R301). -/
def fallback (s : State) (p : Nat) : Option (Nat × Nat) :=
  ((List.range 16).filter fun q => p < q && poolValid s q).findSome? fun q => (poolFind s q).map fun c => (q, c)

/-- Allocate a buffer (R299-R303): the handle, or an empty result. -/
def poolAlloc (s : State) (req p : Nat) (t : Tag) : State × Option Nat :=
  let ok := fun (r : State × Nat) => (r.1, some r.2)
  let ended := { s with bpm := { s.bpm with episode := s.bpm.episode.filter (· != p) } }
  match poolFind s p with
  | some c => ok (poolTake ended p c t)
  | none =>
    match fallback s p with
    | some (q, c) =>
      let s1 := ended.bump (Reg.BPM_FALLBACK_COUNT p)
      if p = 0 then
        let s2 := (poolTake s1 q c .lent).1
        ok (poolTake { s2 with bpm := { s2.bpm with lent := s2.bpm.lent ++ [(q, c)] } } 0 c t)
      else ok (poolTake s1 q c t)
    | none =>
      if s.bpm.episode.contains p then (s, none)
      else
        let s1 := { s with bpm := { s.bpm with episode := p :: s.bpm.episode } }
        (intRaise (raiseOn (s1.bump (Reg.BPM_EXHAUST_COUNT p)) (s.rf Reg.BPM_EVENT_CTRL 9 0) Reg.BPM_EVENT_DROP_COUNT
          0x6C [(67, 64, p), (72, 68, req)]) 8 0, none)

/-- The lent buffer that holds a cell: its pool and first cell. -/
def lentOf (s : State) (c : Nat) : Option (Nat × Nat) :=
  s.bpm.lent.find? fun l => decide (l.2 ≤ c) && decide (c < l.2 + poolCells s l.1)

/-- A lent buffer of which every cell is free goes back to its pool (R302). -/
def lentBack (s : State) (l : Nat × Nat) : State :=
  if (List.range (poolCells s l.1)).all fun i => s.cellTag (l.2 + i) == .free then
    let s1 := s.setBufTag l.2 .free
    { s1 with bpm := { s1.bpm with lent := s1.bpm.lent.filter (· != l) } }
  else s

/-- Is a lent buffer withheld: does one of its cells stand in quarantine (R307)? -/
def lentHeld (s : State) (l : Nat × Nat) : Bool :=
  (List.range (poolCells s l.1)).any fun i => s.cellTag (l.2 + i) == .quarantine

/-- Free a pool-0 cell, with what follows for a lent buffer (R302, R307). -/
def cellFree (s : State) (c : Nat) : State :=
  match lentOf s c with
  | some l => if lentHeld s l then s.setCellTag c .quarantine else lentBack (s.setCellTag c .free) l
  | none => s.setCellTag c .free

/-- Withhold a cell; a lent buffer that holds it is withheld whole (R307). -/
def cellQuarantine (s : State) (c : Nat) : State :=
  match lentOf s c with
  | some l => ((List.range (poolCells s l.1)).map (l.2 + ·)).foldl
      (fun s i => if s.cellTag i == .free then s.setCellTag i .quarantine else s) (s.setCellTag c .quarantine)
  | none => s.setCellTag c .quarantine

/-- Cells withheld (R268, R307): pool-0 cells, and those of withheld buffers. -/
def quarantinedCells (s : State) : Nat :=
  (s.bpm.cellTag.filter fun e => e.2 == .quarantine).length +
    ((s.bpm.bufTag.filter fun e => e.2 == .quarantine).map fun e => poolCells s (blockPool s (e.1 / 4096))).sum

/-- Does a block hold a quarantined cell? -/
def blockHeld (s : State) (b : Nat) : Bool :=
  (s.bpm.cellTag.any fun e => e.2 == .quarantine && e.1 / 4096 == b) || s.bpm.bufTag.any fun e => e.2 == .quarantine && e.1 / 4096 == b

/-- A switch-core event (R293) with its interrupt source (R519). -/
def swcEvent (s : State) (typ : Nat) (fs : List (Nat × Nat × Nat)) : State :=
  intRaise (raiseOn s (s.rf Reg.SWC_EVENT_CTRL 9 0) Reg.SWC_EVENT_DROP_COUNT typ ((71, 64, typ) :: fs)) 9 (typ - 0x68)

/-- The cells of the buffer at a handle. -/
def handleList (s : State) (h : Nat) : List Nat := (List.range (poolCells s (h / 2 ^ 20))).map (h % 2 ^ 20 + ·)

/-- An accepted free (R291, R305-R307): a buffer with a cell that is condemned is withheld, whoever frees it, and the first cell that a
block has withheld raises BLOCK_QUARANTINE; any other goes back to its free store. -/
def bufferBack (s : State) (h : Nat) : State :=
  let p := h / 2 ^ 20; let c := h % 2 ^ 20
  if (handleList s h).any (s.swc.condemned.contains ·) then
    let s1 := { s with swc := { s.swc with condemned := s.swc.condemned.filter fun k => !(handleList s h).contains k } }
    let s2 := if p = 0 then cellQuarantine s1 c else s1.setBufTag c .quarantine
    if blockHeld s (c / 4096) then s2 else swcEvent s2 0x69 [(97, 91, c / 4096)]
  else if p = 0 then cellFree s c
  else s.setBufTag c .free

/-- Does the pool of a handle hold the cell it names (R305, RANGE)? -/
def handleInRange (s : State) (h : Nat) : Bool :=
  let p := h / 2 ^ 20; let c := h % 2 ^ 20
  c < 524288 && poolValid s p && (blockPool s (c / 4096) == p || (p == 0 && (lentOf s c).isSome))

/-- The tag that a handle finds: that of the buffer in which its cell lies. -/
def handleTag (s : State) (h : Nat) : Tag :=
  let p := h / 2 ^ 20; let c := h % 2 ^ 20
  if p = 0 then s.cellTag h else s.bufTag (c - c % poolCells s p)

/-- The cause for which a free is rejected, checked in the order of R305. -/
def badFree (s : State) (h owner : Nat) : Option Nat :=
  let p := h / 2 ^ 20
  if !handleInRange s h then some 0
  else if h % 2 ^ 20 % poolCells s p != 0 then some 1
  else if handleTag s h == .free then some 2
  else if (handleTag s h).code != owner then some 3
  else none

/-- Free a buffer (R305). -/
def poolFree (s : State) (req h owner : Nat) : State :=
  let p := h / 2 ^ 20
  match badFree s h owner with
  | some k =>
    let s1 := s.bumpField Reg.BPM_BAD_FREE_COUNT (8 * k + 7) (8 * k)
    let s2 := { s1 with bpm := { s1.bpm with
      badStatus := pack 32 [(23, 0, h), (28, 24, req), (30, 29, k)] } }
    intRaise (raiseOn s2 (s.rf Reg.BPM_EVENT_CTRL 9 0) Reg.BPM_EVENT_DROP_COUNT 0x6D
      [(67, 64, p), (72, 68, req), (74, 73, k), (103, 80, h), (106, 104, if k = 0 then 0 else (handleTag s h).code)]) 8 1
  | none => bufferBack s h

/-- The owner of a requester (R299). -/
def reqOwner (req : Nat) : Tag := if req = 17 then .hif else .swc

/-! ### Link words (R265, R266, R298) -/

/-- The data bytes of the `i`-th cell of a chain; what the chain's bytes leave of its last cell is 0. -/
def cellData (bs : List Byte) (i : Nat) : List Byte :=
  let d := (bs.drop (256 * i)).take 256
  d ++ List.replicate (256 - d.length) 0

/-- Bits [31:0] of a link word: NEXT, LAST and MARK. -/
def linkLow (next : Nat) (last mark : Bool) : Nat := next + 2 ^ 24 * last.toNat + 2 ^ 25 * mark.toNat

/-- A link word with the tile check of its cell at an address (R266). -/
def linkWord (addr low : Nat) (data : List Byte) : W64 :=
  BitVec.ofNat 64 (low + 2 ^ 32 * (tileCheck addr (data ++ bytesLE 4 low)).toNat)

/-- The link word of a cell (R265). -/
def State.link (s : State) (c : Nat) : W64 := fget s.swc.links 0 c

/-- Write the link words of a chain of cells, given by their handles, that holds some bytes; `done` where its last cell is known. -/
def chainLinks (s : State) (hs : List Nat) (bs : List Byte) (done mark : Bool) : State :=
  hs.zipIdx.foldl (fun s e =>
    let c := e.1 % 2 ^ 20
    let w := linkWord (2 ^ 63 + 256 * c) (linkLow (hs.getD (e.2 + 1) 0) (done && e.2 + 1 == hs.length) mark) (cellData bs e.2)
    { s with swc := { s.swc with links := fput s.swc.links 0 c w } }) s

/-- The handles of the cells of buffers, in order. -/
def chainCells (s : State) (hs : List Nat) : List Nat :=
  hs.flatMap fun h => (List.range (poolCells s (h / 2 ^ 20))).map (h + ·)

/-- Return a block's quarantined cells (R292, R307): lent buffers whose cells are all free go back. -/
def blockUnquarantine (s : State) (b : Nat) : State :=
  let cs := (s.bpm.cellTag.filter fun e => e.2 == .quarantine && e.1 / 4096 == b).map (·.1)
  let s0 := { s with bpm := { s.bpm with bufTag := s.bpm.bufTag.filter fun e => !(e.2 == Tag.quarantine && e.1 / 4096 == b) } }
  let s1 := cs.foldl (fun s c => s.setCellTag c .free) s0
  s1.bpm.lent.foldl lentBack s1

/-- The pools take their layout as the buffer comes into service (R297, R307, R509): cells withheld before then in a block of pools 1 to 15
withhold the buffers they lie in. -/
def layTags (s : State) : State :=
  ((s.bpm.cellTag.filter fun e => e.2 == .quarantine && blockPool s (e.1 / 4096) != 0).map (·.1)).foldl (fun s c =>
    (s.setCellTag c .free).setBufTag (c - c % poolCells s (blockPool s (c / 4096))) .quarantine) s

/-- The set-up check of the pools (R308). -/
def poolsOk (s : State) : Bool :=
  let ps := (List.range 16).filter (poolValid s)
  (ps.all fun p => ps.all fun q => q ≤ p || poolLog2 s p ≤ poolLog2 s q) &&
  ((List.range 128).all fun b => poolValid s (blockPool s b)) &&
  (ps.all fun p => !(poolBlocks s p).isEmpty)

end Sys2Proof.Machine
end

