-- ==== Sys2Proof/Machine/Gates.lean ====
section
/-!
DEFINITION. Machine/Gates.lean: the 802.1Qbv gate lists of the front ports (R328-R331).
-/

namespace Sys2Proof.Machine

open Sys2Proof

/-- Cycle time, cycle time extension, base time and number of entries of a list (R328). -/
def GateList.cycle (g : GateList) : Nat := fld g.header 111 80
def GateList.ext (g : GateList) : Nat := fld g.header 143 112
def GateList.base (g : GateList) : Nat := giga * fld g.header 47 0 + fld g.header 79 48

/-- A place in a list: the entry, its gates, and when it ends. -/
structure GatePlace where
  entry : Nat
  gates : Nat
  ends  : Int
deriving DecidableEq, Repr

/-- The entry at a position of the cycle (R330): entry number, gates, end of the entry within the cycle. -/
def gateFind (cycle pos : Nat) : List W64 → Nat → Nat → Nat × Nat × Nat
  | [], _, _ => (0, 0xFF, cycle)
  | [e], i, _ => (i, fld e 7 0, cycle)
  | e :: es, i, start =>
    let en := min cycle (start + fld e 39 8)
    if pos < en then (i, fld e 7 0, en) else gateFind cycle pos es (i + 1) en

/-- The place of a device time in an operative list, with the list armed behind it (R329, R330): a cycle that would be
cut short within the extension is not started, and the last entry of the one before it goes on. -/
def gateAt (g : GateList) (armed : Option GateList) (t : Int) : GatePlace :=
  let pos := ((t - g.change) % g.cycle).toNat
  let c : Int := t - pos
  let here := gateFind g.cycle pos g.entries 0 0
  match armed with
  | some a =>
    if (g.change : Int) < c && c ≤ a.change && (a.change : Int) - c < g.ext then
      let l := gateFind g.cycle (g.cycle - 1) g.entries 0 0
      ⟨l.1, l.2.1, a.change⟩
    else
      let e : Int := c + here.2.2
      ⟨here.1, here.2.1, if t < a.change && (a.change : Int) < e then a.change else e⟩
  | none => ⟨here.1, here.2.1, c + here.2.2⟩

/-- Is the gate of a class open at a time, and does it stay open for a duration (R331)? The armed list counts from its
change time. -/
def gateOpen (g : GateList) (armed : Option GateList) (cls : Nat) : Nat → Int → Nat → Bool
  | 0, _, _ => false
  | fuel + 1, t, dur =>
    let useArmed := armed.any fun a => decide ((a.change : Int) ≤ t)
    let p := if useArmed then gateAt (armed.getD g) none t else gateAt g armed t
    p.gates.testBit cls && (decide ((dur : Int) ≤ p.ends - t) ||
      gateOpen g armed cls fuel p.ends (dur - (p.ends - t).toNat))

/-- Set a port's entry and gates by device time. -/
def gatesRefresh (s : State) (n : Nat) : State :=
  let x := s.gatesOf n
  match x.oper with
  | some g => let p := gateAt g x.armed s.tmu.time.nanos
              s.setGates n { x with entry := p.entry, gates := p.gates }
  | none => s

/-- The change time of a list armed at a device time, and the cycles added to a late base (R329). -/
def gateChange (g : GateList) (now : Nat) : Nat × Option Nat :=
  if now < g.base then (g.base, none)
  else let k := (now - g.base) / g.cycle + 1
       (g.base + k * g.cycle, some k)

/-- Arm a list (R329): a late base sets LATE_BASE and is reported. -/
def gateArm (s : State) (n : Nat) (g : GateList) : State :=
  let r := gateChange g s.tmu.time.nanos
  let x := s.gatesOf n
  let s1 := s.setGates n { x with armed := some { g with change := r.1 }, late := x.late || r.2.isSome }
  match r.2 with
  | some k => intRaise (raiseOn s1 (s.rf Reg.TMG_EVENT_CTRL 9 0) Reg.TMG_EVENT_DROP_COUNT 0x7E
      [(71, 64, n), (143, 96, r.1 / giga), (175, 144, r.1 % giga), (207, 176, k)]) 10 0
  | none => s1

/-- After a forced step of device time (R330): an armed list whose change time has passed is armed with a late base,
and every port places itself in its list. -/
def gatesStep (s : State) : State :=
  (s.tmg.gates.map (·.1)).foldl (fun s n =>
    let s1 := match (s.gatesOf n).armed with
      | some a => if a.change ≤ s.tmu.time.nanos then gateArm s n a else s
      | none => s
    gatesRefresh s1 n) s

/-- Is a gate list good (R328)? -/
def gateListOk (h : Desc) (es : List W64) : Bool :=
  zeroFields h [(159, 155), (511, 272)] && fld h 79 48 < giga &&
  1000 ≤ fld h 111 80 && fld h 111 80 ≤ giga && fld h 143 112 < fld h 111 80 && fld h 154 144 ≤ 1024 &&
  es.all fun e => fld e 39 8 != 0 && fld e 63 40 == 0

/-- The header and the entries of a gate list in a buffer. -/
def gateHeader (buf : List Byte) : Desc := ofBytes 512 buf
def gateEntries (buf : List Byte) : List W64 :=
  (List.range (fld (gateHeader buf) 154 144)).map fun i => ofBytes 64 (buf.drop (64 + 8 * i))

/-- GATE_LIST_WRITE (R328, R334): the list goes into the bank that is not operative, in place of any list armed there,
and waits to be armed. -/
def execGateListWrite (ring : Fin 1024) (slot : Nat) (s : State) : Out' :=
  onCmd s ring slot 0x7B fun c =>
    let n := fld c.desc 71 64
    let x := s.gatesOf n
    if !gateListOk (gateHeader c.buf) (gateEntries c.buf) then s.badField ring slot
    else if x.written.isSome then s
    else (s.setGates n { x with armed := none, written := some ⟨gateHeader c.buf, gateEntries c.buf, 0⟩,
                                command := some (ring, slot) }).modCmd ring slot fun c => { c with phase := .running }

/-- GATE_LIST_ARM (R329): the written list is armed, and its command completes. -/
def execGateListArm (port : Fin 128) (s : State) : Out' :=
  let x := s.gatesOf port
  match x.written with
  | some g =>
    let s1 := gateArm (s.setGates port { x with written := none, command := none }) port g
    .next (match x.command with
      | some (r, i) => s1.finish r i St.ok
      | none => s1)
  | none => .next s

/-- GATE_LIST_CHANGE (R329): the armed list becomes operative at its change time, and the bank it replaces is free. -/
def execGateListChange (port : Fin 128) (s : State) : Out' :=
  match (s.gatesOf port).armed with
  | some a =>
    let s1 := s.reachDev a.change
    if a.change ≤ s1.tmu.time.nanos then
      let x := s1.gatesOf port
      .next (gatesRefresh (s1.setGates port { x with oper := some a, armed := none, operBank := !x.operBank }) port)
    else .next s
  | none => .next s

/-- GATE_ENTRY_CHANGE (R330): the next entry of the operative list begins, at its scheduled time. -/
def execGateEntryChange (port : Fin 128) (s : State) : Out' :=
  let x := s.gatesOf port
  match x.oper with
  | some g =>
    let p := gateAt g x.armed s.tmu.time.nanos
    if p.entry = x.entry && p.gates = x.gates then .next (gatesRefresh (s.reachDev p.ends.toNat) port)
    else .next (gatesRefresh s port)
  | none => .next s

/-- A gate list as GATE_LIST_READ returns it. -/
def gateImage (g : GateList) : List Byte := bytesOf g.header ++ g.entries.flatMap bytesOf

/-- GATE_LIST_READ (R334): the operative or the armed list; where there is none the command finds nothing. -/
def execGateListRead (ring : Fin 1024) (slot : Nat) (s : State) : Out' :=
  onCmd s ring slot 0x7C fun c =>
    let x := s.gatesOf (fld c.desc 71 64)
    match (if bit c.desc 72 then x.armed else x.oper) with
    | some g => (s.output c (gateImage g)).finish ring slot St.ok
    | none => s.finish ring slot St.notFound

end Sys2Proof.Machine
end

