-- ==== Sys2Proof/Machine/Time.lean ====
section
/-!
DEFINITION. Machine/Time.lean: device time, the servo, steps, PPS and the transmit timestamp queues (R418-R441).
-/

namespace Sys2Proof.Machine

open Sys2Proof

/-- Device time at present. -/
def State.time (s : State) : DevTime := s.tmu.time

/-- The step offset in force (R419), in units of 2^-16 ns: what device time is ahead of the tick at present. -/
def stepOffset (s : State) : Int :=
  (2 ^ 24 * s.time.units + s.tmu.rem - (2 ^ 40 * s.tmu.tick + s.tmu.tickFrac : Nat)) / 2 ^ 24

/-- The device time of a tick, by the step offset in force now (R419). -/
def tickTime (s : State) (t : Nat) : DevTime :=
  DevTime.ofUnits (2 ^ 16 * (s.tmu.tick + tickDiff t s.tick) + stepOffset s)

/-- Signed PPS_OFFSET. -/
def ppsOffset (s : State) : Int := (s.reg Reg.TMU_PPS_OFFSET).toInt

/-- The first whole second whose edge lies at or after a device time (R435). -/
def ppsFirst (s : State) (t : DevTime) : Nat := ((t.nanos : Int) - ppsOffset s + (giga - 1 : Nat)).toNat / giga

/-- Aim PPS_OUT at its next edge where its enable or offset is written: an edge at this very nanosecond has been. -/
def ppsAim (s : State) : State := { s with tmu := { s.tmu with ppsNext := ppsFirst s { s.time with ns := s.time.ns + 1 } } }

/-- Set device time (R434); the tick, FREQ and the servo are unchanged. PPS_OUT aims at the first edge of the new time, and CLK10M_OUT
may rise at once (R435, R436). -/
def setTime (s : State) (t : DevTime) : State :=
  let s1 := { s with tmu := { s.tmu with time := t, ppsNext := ppsFirst s t } }
  if s.tmu.counting && t.ns % 100 == 0 && t.frac == 0 then clk10Rise s1 t.nanos s.tmu.tick else s1

/-! ### Transmit timestamps (R428-R430) -/

/-- Make an entry in a port's transmit timestamp queue, or lose it where 32 stand in it. -/
def txtsPush (s : State) (port status : Nat) (kind : Bool) (id : Nat) (t : DevTime) (waits : Bool := false) : State :=
  let q := fget s.tmu.txts [] port
  if q.length < 32 then
    { s with tmu := { s.tmu with txts := fput s.tmu.txts [] port (q ++ [⟨status, kind, id, t, waits⟩]) } }
  else
    let s1 := { s with tmu := { s.tmu with overflow := if s.tmu.overflow.contains port then s.tmu.overflow
                                                       else port :: s.tmu.overflow } }
    intRaise (s1.bump (Reg.TMU_TXTS_DROP_COUNT port)) 3 0

/-- The copy that a port has begun to send is sent or abandoned: its entry takes its status (R428). -/
def txtsClose (s : State) (port status : Nat) : State :=
  let q := (fget s.tmu.txts [] port).map fun e => if e.waits then { e with status := status, waits := false } else e
  { s with tmu := { s.tmu with txts := fput s.tmu.txts [] port q } }

/-- TXTS_EVENT_WRITE (R429): the oldest entry of a port's queue leaves once it has its status and where the ring has room; a ring whose function's DMA is off goes
into ERROR (R453). -/
def execTxtsEventWrite (port : Fin 128) (s : State) : Out' :=
  match fget s.tmu.txts [] port with
  | [] => .next s
  | e :: q =>
    let r := s.rf Reg.TMU_EVENT_CTRL 25 16
    if e.waits then .next s
    else if eventRoom s r then
      let s1 := (eventWrite s r 0xA0 ([(71, 64, port.val), (73, 72, e.status), (74, 74, e.kind.toNat), (95, 80, e.tsId)] ++
        e.time.fields 96)).1
      .next { s1 with tmu := { s1.tmu with txts := fput s1.tmu.txts [] port q } }
    else .next (if eventOff s r then eventStop s r else s)

/-! ### The servo (R431-R434) -/

/-- Raise a TMU event other than TX_TIMESTAMP (R439) with its interrupt source (R519). -/
def tmuEvent (s : State) (typ : Nat) (fs : List (Nat × Nat × Nat)) : State :=
  intRaise (raiseOn s (s.rf Reg.TMU_EVENT_CTRL 9 0) Reg.TMU_EVENT_DROP_COUNT typ fs) 3
    (if typ = 0xA1 then 1 else if typ = 0xA3 then 2 else 3)

/-- The greatest magnitude of FREQ (R420). -/
def freqMax : Int := 549755813

/-- SYNC_LOG2 as a signed number. -/
def syncLog2 (s : State) : Int := (BitVec.ofNat 4 (s.rf Reg.TMU_SERVO_CFG 3 0)).toInt

/-- The frequency error of an offset over the host's interval (R431). -/
def servoError (o lg : Int) : Int := (2 ^ 24 * 2 ^ 7 * o).tdiv (giga * 2 ^ (lg + 7).toNat)

/-- The servo's new integral and FREQ for an offset (R431). -/
def servoStep (i o lg : Int) (kp ki : Nat) : Int × Int :=
  let r := servoError o lg
  let i' := clampInt (-freqMax) freqMax (i + (r * ki).tdiv (2 ^ 16))
  (i', clampInt (-freqMax) freqMax (-((r * kp).tdiv (2 ^ 16)) - i'))

/-- The signed VALUE of a TMU descriptor (R438). -/
def tmuValue (d : Desc) : Int := (BitVec.ofNat 64 (fld d 191 128)).toInt

/-- TIME_OFFSET (R431, R432): an offset beyond the threshold is refused and changes nothing but the refusal's record. -/
def execTimeOffset (ring : Fin 1024) (slot : Nat) (s : State) : Out' :=
  onCmd s ring slot 0xA0 fun c =>
    let o := tmuValue c.desc
    let th := s.rf Reg.TMU_JUMP_THRESH 29 0
    if o.natAbs > 2 ^ 16 * th then
      let s1 := { s with tmu := { s.tmu with refused := true, refusedCount := satAdd 0xFFFF s.tmu.refusedCount 1 } }
      (tmuEvent s1 0xA1 [(127, 64, fld c.desc 191 128), (159, 128, th)]).finish ring slot St.refused 0
        (ofSigned 32 s.tmu.freq).toNat
    else
      let r := servoStep s.tmu.integral o (syncLog2 s) (s.rf Reg.TMU_SERVO_GAIN 15 0) (s.rf Reg.TMU_SERVO_GAIN 31 16)
      ({ s with tmu := { s.tmu with integral := r.1, freq := r.2 } }).finish ring slot St.ok 0 (ofSigned 32 r.2).toNat

/-- TIME_STEP (R434, R438). -/
def execTimeStep (ring : Fin 1024) (slot : Nat) (s : State) : Out' :=
  onCmd s ring slot 0xA1 fun c =>
    let d := c.desc
    if bit d 64 then
      let u := s.time.units + tmuValue d
      if u < 0 || u ≥ (2 ^ 48 * giga * 2 ^ 16 : Nat) then s.badField ring slot 16
      else (gatesStep (setTime s (DevTime.ofUnits u))).finish ring slot St.ok
    else if fld d 271 240 ≥ giga then s.badField ring slot 30
    else (gatesStep (setTime s { sec := fld d 239 192, ns := fld d 271 240, frac := fld d 287 272 })).finish ring slot St.ok

/-- TIME_FREQ (R433): FREQ takes the value and the integral its negative. -/
def execTimeFreq (ring : Fin 1024) (slot : Nat) (s : State) : Out' :=
  onCmd s ring slot 0xA2 fun c =>
    let v := (BitVec.ofNat 32 (fld c.desc 159 128)).toInt
    if v.natAbs > freqMax.toNat then s.badField ring slot 16
    else ({ s with tmu := { s.tmu with freq := v, integral := -v } }).finish ring slot St.ok

/-! ### The reference (R420, R421) -/

/-- SRC: is CLK10M_IN the reference? -/
def clkSrc (s : State) : Bool := bit (s.reg Reg.TMU_CLK_CTRL) 0

/-- A write of TMU_CLK_CTRL (R421, R441): a change of SRC clears LOCK until the PLL has relocked. -/
def clkCtrlWrite (s : State) (value : W32) : State :=
  let v := value &&& 3
  let s1 := s.setReg Reg.TMU_CLK_CTRL v
  if bit v 0 != clkSrc s then { s1 with tmu := { s1.tmu with lock := false } } else s1

/-- CLK_SRC_WRITE (R421, R441). -/
def execClkSrcWrite (value : W32) (s : State) : Out' := onBar s (clkCtrlWrite s value)

/-- PLL_RELOCK (R418, R421): the PLL locks to the reference that SRC names; device time counts from the first lock. -/
def execPllRelock (s : State) : Out' :=
  if (clkSrc s && !s.tmu.refPresent) || s.pkg.inReset || s.domain 61 != .on then .next s
  else .next { s with tmu := { s.tmu with lock := true, counting := true, holdover := false } }

/-- CLK_REF_LOST (R421): CLK10M_IN stops (`edges` false) or runs off frequency; where it is the reference the PLL
holds its frequency and one event is raised. -/
def execClkRefLost (edges : Bool) (s : State) : Out' :=
  let s1 := { s with tmu := { s.tmu with refPresent := edges && s.tmu.refPresent } }
  if clkSrc s && !s.tmu.holdover then
    .next (tmuEvent { s1 with tmu := { s1.tmu with holdover := true } } 0xA3 [(64, 64, 1)])
  else .next s1

/-- CLK10M_IN_RETURN (R441): REF_PRESENT sets again. -/
def execClk10mInReturn (s : State) : Out' := .next { s with tmu := { s.tmu with refPresent := true } }

/-! ### 1PPS (R435, R437) -/

/-- PPS_OUT_EDGE (R435): PPS_OUT rises as device time reaches its next whole second plus the offset. -/
def execPpsOutEdge (s : State) : Out' :=
  let e : Int := (giga * s.tmu.ppsNext : Nat) + ppsOffset s
  if bit (s.reg Reg.TMU_PPS_CTRL) 0 && s.tmu.counting then
    let s := s.reachDev e.toNat
    let t := DevTime.ofUnits (2 ^ 16 * e)
    .next ({ s with tmu := { s.tmu with ppsNext := s.tmu.ppsNext + 1,
                                        ppsHigh := some (s.ns + 1000 * s.rf Reg.TMU_PPS_CTRL 21 2) } }.emit
      (.ppsOut t.sec t.ns))
  else .next s

/-- PPS_IN_EDGE (R437): a rising edge is stamped and reported, unless the last one stamped is less than 500 ms old. -/
def execPpsInEdge (s : State) : Out' :=
  if bit (s.reg Reg.TMU_PPS_CTRL) 1 && (s.tmu.ppsIn.all fun t => t + 500000000 ≤ s.ns) then
    .next (tmuEvent { s with tmu := { s.tmu with ppsIn := some s.ns } } 0xA2 (s.time.fields 64))
  else .next s

end Sys2Proof.Machine
end

