-- ==== Sys2Proof/Machine/Switch.lean ====
section
/-!
DEFINITION. Machine/Switch.lean: the switch core and packet buffer (R264-R296): admission, cells, the crossbar,
enqueue, spill, tail errors, cell failures and multicast.
-/

namespace Sys2Proof.Machine

open Sys2Proof

/-! ### Charges and admission (R267-R269) -/

def State.inCells (s : State) (n : Nat) : Nat := fget s.swc.inCells 0 n
def State.egCells (s : State) (n : Nat) : Nat := fget s.swc.egCells 0 n
def State.portSegs (s : State) (n : Nat) : Nat := fget s.swc.segs 0 n
def chargeIn (s : State) (n k : Nat) : State :=
  { s with swc := { s.swc with inCells := fput s.swc.inCells 0 n (s.inCells n + k) } }
def unchargeIn (s : State) (n k : Nat) : State :=
  { s with swc := { s.swc with inCells := fput s.swc.inCells 0 n (s.inCells n - k) } }
def chargeEg (s : State) (n k : Nat) : State :=
  { s with swc := { s.swc with egCells := fput s.swc.egCells 0 n (s.egCells n + k) } }
def unchargeEg (s : State) (n k : Nat) : State :=
  { s with swc := { s.swc with egCells := fput s.swc.egCells 0 n (s.egCells n - k) } }
def chargeSegs (s : State) (n k : Nat) : State :=
  { s with swc := { s.swc with segs := fput s.swc.segs 0 n (s.portSegs n + k) } }
def unchargeSegs (s : State) (n k : Nat) : State :=
  { s with swc := { s.swc with segs := fput s.swc.segs 0 n (s.portSegs n - k) } }

/-- A port's guarantee of ingress cells. -/
def ingGuar (s : State) (n : Nat) : Nat := s.rf (Reg.SWC_ING_GUAR n) 19 0

/-- The shared pool of R268. -/
def sharedFree (s : State) : Nat :=
  524288 - ((List.range 140).map (ingGuar s)).sum - quarantinedCells s -
    ((List.range 140).map fun n => s.inCells n - ingGuar s n).sum

/-- Ingress admission at a frame's first cell (R268); every frame is refused until the buffer is in service (R271). -/
def admitIngress (s : State) (n : Nat) : Bool :=
  bufEnabled s && (s.inCells n + 64 ≤ ingGuar s n ||
    (64 ≤ sharedFree s && (s.inCells n - ingGuar s n) * 8 < 2 ^ s.rf Reg.SWC_BUF_CTRL 3 1 * sharedFree s))

/-- Change a frame, where it is there. -/
def State.modFrame (s : State) (f : Nat) (g : Frame → Frame) : State :=
  match s.frame? f with
  | some x => s.setFrame f (g x)
  | none => s

/-- Cells that a frame's stored bytes take (R264). -/
def needCells (x : Frame) : Nat := (x.bytes.length + 255) / 256

/-- Take an admitted frame in: its reservation of 64 cells is charged (R268), and PFC looks at the count (R325). -/
def frameNew (s : State) (x : Frame) : State × Nat :=
  let f := s.swc.nextFrame
  let s1 := { s with swc := { s.swc with nextFrame := f + 1 } }
  (pfcCheck (chargeIn (s1.setFrame f { x with reserved := 64 }) x.port 64) x.port x.prio, f)

/-- Ingress and egress fabric ports (R272). -/
def ingressFabric (n : Nat) : Nat := if n < 128 then n / 8 else 2 * (n - 132) + 1
def egressFabric (n : Nat) : Nat :=
  if n < 128 then n / 8 else if n < 132 then 4 * (n - 128) + 1 else 2 * (n - 132) + 1

/-- The egress pipeline of a port (R278). -/
def egressPipe (n : Nat) : Nat := if n < 128 then n / 16 else if n < 132 then 2 * (n - 128) else n - 132

/-! ### Copies -/

/-- Are two records of the same copy? -/
def sameCopy (a b : Copy) : Bool := a.frame == b.frame && a.port == b.port && a.queue == b.queue && a.punt == b.punt

/-- Copies in the virtual output queues, and those of them of which no cell has crossed. -/
def voqCopies (s : State) : List Crossing := s.swc.voqs.flatMap (·.2)

/-- Copies of a frame of which transmission has not begun. -/
def pendingCopies (s : State) (f : Nat) : List Copy :=
  (((voqCopies s).filter (·.crossed == 0)).map (·.copy) ++ s.swc.offered ++
    s.swc.queues.flatMap fun e => e.2.onDie ++ e.2.spilled).filter (·.frame == f)

/-- Copies of a frame on the wire. -/
def wireCopies (s : State) (f : Nat) : List Copy := (s.swc.wire.map (·.2.copy)).filter (·.frame == f)

/-- Is a frame held in cells by a copy: in the crossbar, on die, waiting to be spilled, or on the wire? -/
def heldOnDie (s : State) (f : Nat) : Bool :=
  (voqCopies s).any (·.copy.frame == f) || s.swc.offered.any (·.frame == f) ||
  s.swc.queues.any (fun e => e.2.onDie.any (·.frame == f) || e.2.spilled.any fun c => c.frame == f && c.cells != 0) ||
  !(wireCopies s f).isEmpty

/-- Take the copies that `p` picks out of the crossbar; a pair whose frame in hand is taken out is no longer matched. -/
def cutVoqs (s : State) (p : Copy → Bool) : State :=
  let v' : FMap (List Crossing) := (s.swc.voqs.map fun e => (e.1, e.2.filter fun x => !p x.copy)).filter fun e => !e.2.isEmpty
  let gone := fun (ie : Nat × Nat) => ((fget s.swc.voqs [] (16 * ie.1 + ie.2)).head?.map fun x => p x.copy) == some true
  { s with swc := { s.swc with voqs := v', matched := s.swc.matched.filter fun ie => !gone ie } }

/-- Take the copies that `p` picks out of one queue, with their charges (R285, R270). -/
def cutQueue (s : State) (q : Nat) (p : Copy → Bool) : State :=
  let x := s.queue q
  let out := x.onDie.filter p
  let sp := x.spilled.filter p
  let keep := x.spilled.filter fun c => !p c
  let s1 := s.setQueue q { x with onDie := x.onDie.filter fun c => !p c, spilled := keep,
                                  spill := x.spill && !keep.isEmpty }
  let s2 := out.foldl (fun s c => unchargeEg s c.port c.cells) s1
  sp.foldl (fun s c => unchargeSegs s c.port c.segs) s2

/-- A copy that requested a transmit timestamp and is dropped or flushed yields a NOT_SENT entry (R428). -/
def notSent (s : State) (c : Copy) : State :=
  match s.frame? c.frame with
  | some x => if x.tsReq && c.port < 128 then txtsPush s c.port 3 false x.tsId {} else s
  | none => s

/-- Free one cell of a frame (R267), or withhold it (R291). -/
def frameCellFree (s : State) (c : Nat) : State := poolFree s 18 c 1

/-- Write the link words of a frame's cells (R265): its chain as it stands, MARK where it is to be tail-marked. -/
def relink (s : State) (f : Nat) : State :=
  match s.frame? f with
  | some x => chainLinks s x.cells x.bytes (x.cells.length == needCells x) x.marked.isSome
  | none => s

/-- A queue has dropped copies (R332, R333). -/
def dropCount (s : State) (q n : Nat) : State :=
  if n = 0 then s else let x := s.queue q; s.setQueue q { x with drops := satAdd 0xFFFF x.drops n }

/-- Free the cells of a frame and what is left of its reservation (R267, R268). -/
def freeCells (s : State) (f : Nat) : State :=
  match s.frame? f with
  | some x =>
    let s1 := x.cells.foldl frameCellFree (s.setFrame f { x with cells := [], reserved := 0 })
    pfcCheck (unchargeIn s1 x.port (x.cells.length + x.reserved)) x.port x.prio
  | none => s

/-- Release what a frame no longer needs: once its tail is in, it has been forwarded or dropped, and no copy holds it
on die, its cells are freed; with no copy left at all it is gone (R267, R283). -/
def settle (s : State) (f : Nat) : State :=
  match s.frame? f with
  | some x =>
    if x.held || !x.tail || x.group.isSome || heldOnDie s f then s
    else
      let s1 := freeCells s f
      if (pendingCopies s1 f).isEmpty then
        { s1 with swc := { s1.swc with frames := ferase s1.swc.frames f, badSpill := s1.swc.badSpill.filter (· != f) } }
      else s1
  | none => s

/-- Drop every copy of a frame of which transmission has not begun. -/
def dropPending (s : State) (f : Nat) : State :=
  let ds := pendingCopies s f
  let p := fun (c : Copy) => c.frame == f
  let s1 := cutVoqs s fun c => p c && !(wireCopies s f).any (sameCopy c)
  let s2 := { s1 with swc := { s1.swc with offered := s1.swc.offered.filter fun c => !p c } }
  let s3 := s.swc.queues.foldl (fun s e => cutQueue (dropCount s e.1 ((e.2.onDie ++ e.2.spilled).filter p).length) e.1 p) s2
  ds.foldl notSent s3

/-- A frame is dropped: it owes nothing more but its release at its tail. -/
def frameDrop (s : State) (f : Nat) : State :=
  settle (dropPending (s.modFrame f fun x => { x with held := false, group := none }) f) f

/-- Tail-mark the copies of a frame that are on the wire (R276, R277). -/
def tailMark (s : State) (f k : Nat) : State :=
  let n := (wireCopies s f).length
  if n = 0 then s else (relink (s.modFrame f fun x => { x with marked := some k }) f).bumpBy (Reg.SWC_STOMP_COUNT k) n

/-- A cell fails its tile check at a read (R290, R291): the failure is counted for the buffer and for its block, whose third condemns it. -/
def cellCount (s : State) (c : Nat) : State :=
  let b := c / 4096
  let n := satAdd 255 (fget s.swc.blockFail 0 b) 1
  { s with swc := { s.swc with
    blockFail := fput s.swc.blockFail 0 b n
    condemned := if n < 3 || s.swc.condemned.contains c then s.swc.condemned else c :: s.swc.condemned } }.bumpField
    Reg.SWC_CELL_FAIL_COUNT 7 0

/-- CELL_TILE_FAIL of a cell of the buffer (R293). -/
def cellEvent (s : State) (c : Nat) (begun : Bool) : State := swcEvent s 0x68 [(90, 72, c), (97, 91, c / 4096), (99, 99, begun.toNat)]

/-- A cell of a frame fails (R290): every copy not begun is dropped, those of its group among them, and a packet whose frame it is is
aborted (R202). -/
def cellFail (s : State) (f c : Nat) : State :=
  let begun := !(wireCopies s f).isEmpty
  let s2 := tailMark (cellCount s c) f 3
  let s3 := forAll s2 (List.range 8) fun s k => abortWhere s k fun p => p.frame == f
  cellEvent (dropPending (s3.modFrame f fun x => { x with group := none }) f) c begun

/-- The first cell of a frame that fails its check. -/
def badCell (s : State) (f : Nat) : Option Nat :=
  (s.frame? f).bind fun x => x.cells.find? (s.swc.badCells.contains ·)

/-- Put a frame's bytes and what the parser found in them into its cells (R350): one more cell comes from pool 0, and cells left over
are freed. The answer says whether the cells were to be had. -/
def frameFit (s : State) (f : Nat) (x : Frame) (bs : List Byte) (o : Option Parsed) : State × Bool :=
  let x1 := { x with bytes := bs, parsed := o }
  let s := { s with swc := { s.swc with badCells := s.swc.badCells.filter fun k => !x.cells.contains k } }
  let n := needCells x1
  if n ≤ x.cells.length then
    let s1 := relink (s.setFrame f { x1 with cells := x.cells.take n }) f
    (pfcCheck (unchargeIn ((x.cells.drop n).foldl frameCellFree s1) x.port (x.cells.length - n)) x.port x.prio, true)
  else match poolAlloc s x.fabric 0 .swc with
    | (s1, some h) => (pfcCheck (chargeIn (relink (s1.setFrame f { x1 with cells := x.cells ++ [h % 2 ^ 20] }) f) x.port 1) x.port x.prio, true)
    | (s1, none) => (s1, false)

/-- Send a copy towards its egress port (R273): it joins the virtual output queue of its fabric ports. -/
def sendCopy (s : State) (c : Copy) : State :=
  match s.frame? c.frame with
  | some x =>
    let k := 16 * x.fabric + egressFabric c.port
    { s with swc := { s.swc with voqs := fput s.swc.voqs [] k (fget s.swc.voqs [] k ++ [{ copy := c }]) } }
  | none => s

/-! ### Multicast (R281, R282) -/

/-- The entry of a multicast group. -/
def State.mgroup (s : State) (g : Nat) : BitVec 256 := fget s.swc.groups 0 g

/-- The copies of a frame sent to a group at its tail (R282). -/
def groupSend (s : State) (f : Nat) (g cls rewrite : Nat) (srcs : List Nat) : State :=
  match s.frame? f with
  | none => s
  | some x =>
    let e := s.mgroup g
    let s0 := s.setFrame f { x with group := none }
    let ports := if bit e 153 then (List.range 140).filter fun n =>
      bit e n && !(bit e 152 && n == x.port) else []
    let rw := if fld e 151 144 = 0 then rewrite else fld e 151 144
    let s1 := (ports.filter fun n => !logicalPort s n).foldl (fun s n => s.bump (Reg.SWC_MC_DROP_COUNT n)) s0
    let sent := ports.filter (logicalPort s)
    if sent.isEmpty then s1.bump Reg.SWC_MC_EMPTY_COUNT
    else sent.foldl (fun s n => sendCopy s { frame := f, port := n, queue := 8 * n + cls, rewrite := rw, srcs := srcs,
                                             mcast := true }) s1

/-- Send a frame to a group: at once where its tail is in, else at its tail. -/
def sendGroup (s : State) (f : Nat) (g cls rewrite : Nat) (srcs : List Nat) : State :=
  match s.frame? f with
  | some x => if x.tail then groupSend s f g cls rewrite srcs
              else s.setFrame f { x with group := some (g, cls, rewrite, srcs) }
  | none => s

/-! ### The crossbar (R273, R274) -/

/-- The first of 0 to 15 at or after `p`, with wrap, that passes. -/
def firstFrom (p : Nat) (ok : Nat → Bool) : Option Nat := ((List.range 16).map fun i => (p + i) % 16).find? ok

/-- Does a virtual output queue hold a cell that can cross? -/
def voqReady (s : State) (i e : Nat) : Bool :=
  match (fget s.swc.voqs [] (16 * i + e)).head? with
  | some x => x.crossed < ((s.frame? x.copy.frame).map (·.cells.length)).getD 0
  | none => false

/-- One iteration of request, grant and accept (R273); pointers move on an accept in the first. -/
def matchIter (s : State) (first : Bool) : State :=
  let freeIn := fun i => (ffind? s.swc.matched i).isNone
  let freeOut := fun e => !(s.swc.matched.any fun m => m.2 == e)
  let grant : Nat → Option Nat := fun e =>
    if freeOut e then firstFrom (fget s.swc.grantPtr 0 e) fun i => freeIn i && voqReady s i e else none
  let grants := (List.range 16).map grant
  let accepts := (List.range 16).filterMap fun i =>
    (firstFrom (fget s.swc.acceptPtr 0 i) fun e => grants.getD e none == some i).map fun e => (i, e)
  accepts.foldl (fun s a =>
    let w := { s.swc with matched := fset s.swc.matched a.1 a.2 }
    { s with swc := if first then { w with grantPtr := fput w.grantPtr 0 a.2 ((a.1 + 1) % 16),
                                           acceptPtr := fput w.acceptPtr 0 a.1 ((a.2 + 1) % 16) } else w }) s

/-- A cell of the head copy of a pair crosses (R274): the first cell of a copy offers it to its egress port, and its last ends the match. -/
def crossOn (s : State) (i e : Nat) (fr : Frame) (x : Crossing) (rest : List Crossing) : State :=
  let k := 16 * i + e
  let s1 := if x.crossed = 0 then { s with swc := { s.swc with offered := s.swc.offered ++ [x.copy] } } else s
  if x.crossed + 1 < needCells fr then
    { s1 with swc := { s1.swc with voqs := fset s1.swc.voqs k ({ x with crossed := x.crossed + 1 } :: rest) } }
  else
    settle { s1 with swc := { s1.swc with voqs := fput s1.swc.voqs [] k rest, matched := ferase s1.swc.matched i } } x.copy.frame

/-- One cell of a matched pair crosses, its tile check verified (R266). Of a copy that its failure does not drop, since it is on the
wire, the rest crosses all the same (R290). -/
def crossCell (s : State) (i e : Nat) : State :=
  let k := 16 * i + e
  match fget s.swc.voqs [] k with
  | [] => { s with swc := { s.swc with matched := ferase s.swc.matched i } }
  | x :: rest =>
    match s.frame? x.copy.frame with
    | none => s
    | some fr =>
      match fr.cells[x.crossed]? with
      | none => s
      | some c =>
        if s.swc.badCells.contains c then
          let s1 := cellFail s x.copy.frame c
          if fget s1.swc.voqs [] k == x :: rest then crossOn s1 i e fr x rest else settle s1 x.copy.frame
        else crossOn s i e fr x rest

/-- CROSSBAR_MATCH (R273, R274): one cell time. -/
def execCrossbarMatch (s : State) : Out' :=
  let s1 := matchIter (matchIter (matchIter s true) false) false
  .next (s1.swc.matched.foldl (fun s m => crossCell s m.1 m.2) s1)

/-! ### Enqueue (R270, R275, R283-R286, R314, R315, R331) -/

/-- On-die cells of a queue. -/
def queueCells (x : QueueSt) : Nat := (x.onDie.map (·.cells)).sum

/-- Is a copy sent cut-through (R275, R331)? -/
def cutThrough (s : State) (x : Frame) (c : Copy) : Bool :=
  let n := c.port
  bit (s.reg (Reg.SWC_CT_EN (n / 32))) (n % 32) && n < 128 && x.front && !c.mcast &&
  portRate s n ≤ portRate s x.port && (s.queue c.queue).onDie.isEmpty && !(s.queue c.queue).spill &&
  (s.gatesOf n).oper.isNone

/-- Remove a copy from the crossbar and from the offers. -/
def unoffer (s : State) (c : Copy) : State :=
  { s with swc := { s.swc with offered := s.swc.offered.eraseP (sameCopy c) } }

/-- A copy is refused or dropped at enqueue: counted for its queue, taken out of the crossbar, and its frame released
where nothing else holds it; a multicast frame left without a copy is counted (R282). -/
def refuseCopy (s : State) (c : Copy) : State :=
  let s1 := cutVoqs (unoffer s c) (sameCopy c)
  let s2 := if nodeValid s 3 c.queue then dropCount s1 c.queue 1 else s1
  let s3 := notSent s2 c
  let none' := c.mcast && !((pendingCopies s3 c.frame).any (·.mcast)) && (((s3.frame? c.frame).map (!·.mcAny)).getD false)
  settle (if none' then s3.bump Reg.SWC_MC_EMPTY_COUNT else s3) c.frame

/-- Segments that a frame takes in the spill region (R285). -/
def frameSegs (x : Frame) : Nat := (needCells x + 7) / 8

/-- The cause for which the spill region cannot take a copy (R286). Whether writes are queued beyond the engine's rate
is open: it may be so only while writes are queued. -/
def spillRefuses (s : State) (x : Frame) (n : Nat) : Option Nat :=
  let used := (s.swc.segs.map (·.2)).sum
  if 8388608 < used + frameSegs x then some 0
  else if s.rf (Reg.SWC_SPILL_LIMIT n) 23 0 < s.portSegs n + frameSegs x then some 1
  else if (s.swc.queues.any fun e => e.2.spilled.any (·.cells != 0)) && Config.freeNat s.freeCtr % 2 == 1 then some 2
  else none

/-- A copy's place in the on-die part of its queue: copies stand in the order in which they were enqueued (R284, R319). -/
def insertCopy (c : Copy) : List Copy → List Copy
  | [] => [c]
  | d :: ds => if c.no < d.no then c :: d :: ds else d :: insertCopy c ds

/-- Put a copy into the on-die part of its queue, charged to its port (R270). -/
def dieInsert (s : State) (c : Copy) : State :=
  let q := s.queue c.queue
  let q1 := { q with onDie := insertCopy c q.onDie }
  chargeEg (s.setQueue c.queue { q1 with peak := max q1.peak (queueCells q1) }) c.port c.cells

/-- The copy as it is enqueued now, and the state that has numbered it. -/
def copyNow (s : State) (c : Copy) : State × Copy := ({ s with order := s.order + 1 }, { c with tick := s.tick, no := s.order })

/-- Enqueue a copy on die. -/
def queuePush (s : State) (c : Copy) (cells : Nat) : State :=
  let n := copyNow s { c with cells := cells }
  (dieInsert n.1 n.2).modFrame c.frame fun x => { x with mcAny := x.mcAny || c.mcast }

/-- Segments of the spill region in use, and the lowest `k` that are not (R285). -/
def usedSegs (s : State) : List Nat := s.swc.queues.flatMap fun e => e.2.spilled.flatMap (·.segAt)
def freeSegs (s : State) (k : Nat) : List Nat :=
  let used := usedSegs s
  ((List.range (used.length + k)).filter fun i => !used.contains i).take k

/-- Enqueue a copy on the spilled part of its queue, to be written after its tail (R283). -/
def spillPush (s : State) (x : Frame) (c : Copy) : State :=
  let n := copyNow s { c with cells := needCells x, segs := frameSegs x, segAt := freeSegs s (frameSegs x) }
  let q := n.1.queue c.queue
  chargeSegs (n.1.setQueue c.queue { q with spill := true, spilled := q.spilled ++ [n.2] }) c.port (frameSegs x)

/-- A queue's head copy: the oldest, where it stands on die (R284, R319). -/
def queueHead (x : QueueSt) : Option Copy := x.onDie.head?.filter fun c => x.spilled.all fun d => c.no < d.no

/-- Admit a copy to its egress port and class queue, or drop it. -/
def enqueueCopy (s : State) (x : Frame) (c : Copy) : State :=
  let n := c.port
  let q := s.queue c.queue
  let cells := if x.tail then needCells x else 64
  let sdu := gateSdu s n (queueClass s c.queue)
  if !queueTakes s c.queue n then refuseCopy (s.bump Reg.TMG_BAD_QUEUE_COUNT) c
  else if 132 ≤ n && n < 140 && s.domain (domPipe (n - 132)) != .on then refuseCopy (s.bump (Reg.SWC_EG_DROP_COUNT n)) c
  else if sdu ≠ 0 && sdu < x.bytes.length + 4 then refuseCopy (s.bump Reg.TMG_GATE_OVERSIZE_COUNT) c
  else if !c.mcast && (q.spill || (s.rf (Reg.SWC_SPILL_LIMIT n) 23 0 ≠ 0 && s.rf Reg.SWC_SPILL_THRESH 15 0 ≤ queueCells q)) then
    match spillRefuses s x n with
    | some k => refuseCopy ({ s with freeCtr := s.freeCtr + 1 }.bump (Reg.SWC_SPILL_DROP_COUNT k)) c
    | none => spillPush (unoffer { s with freeCtr := s.freeCtr + 1 } c) x c
  else
    let mx := fld (s.node 3 c.queue) 147 128
    if s.egCells n + cells ≤ s.rf (Reg.SWC_EG_LIMIT n) 19 0 && (mx = 0 || q.spill || queueCells q + cells ≤ mx) then
      queuePush (unoffer s c) c cells
    else refuseCopy (s.bump (if c.mcast then Reg.SWC_MC_DROP_COUNT n else Reg.SWC_EG_DROP_COUNT n)) c

/-- Is an offered copy preceded by one for its queue from its ingress port (R21)? -/
def behindOffer (s : State) (x : Frame) (c : Copy) : Bool :=
  (s.swc.offered.takeWhile fun d => !sameCopy d c).any fun d =>
    d.queue == c.queue && ((s.frame? d.frame).map (·.port)) == some x.port

/-- ENQUEUE (R21, R270): the oldest offered copy of a frame to a port; a copy that is not sent cut-through waits for its
frame's tail (R275), and none overtakes an earlier one of its ingress port and queue. -/
def execEnqueue (frame : Nat) (port : Fin 140) (s : State) : Out' :=
  match s.swc.offered.find? fun c => c.frame == frame && c.port == port.val with
  | some c =>
    match s.frame? frame with
    | some x => .next (if (x.tail || cutThrough s x c) && !behindOffer s x c then enqueueCopy s x c else s)
    | none => .next s
  | none => .next s

/-! ### Spill (R283-R286) -/

/-- Change the first spilled copy of a queue that `p` picks. -/
def modSpilled (s : State) (q : Nat) (p : Copy → Bool) (g : Copy → Copy) : State :=
  let x := s.queue q
  let rec go : List Copy → List Copy
    | [] => []
    | c :: cs => if p c then g c :: cs else c :: go cs
  s.setQueue q { x with spilled := go x.spilled }

/-- The address of a cell of the spill region: 8 cells of 256 bytes to a segment (R285). -/
def spillAddr (pos : Nat) : Nat := 0x1200000000 + 256 * pos

/-- Write a frame's cells, with checks for their new addresses (R266), into the segments of a copy (R285): the data into HBM, the link
words beside them. -/
def spillCells (s : State) (x : Frame) (c : Copy) : State :=
  (List.range (needCells x)).foldl (fun s j =>
    let pos := 8 * c.segAt.getD (j / 8) 0 + j % 8
    let d := cellData x.bytes j
    let low := fld (s.link (x.cells.getD j 0)) 31 0
    let u := spillAddr pos / 128
    let s1 := (s.setUnit u (ofBytes 1024 (d.take 128))).setUnit (u + 1) (ofBytes 1024 (d.drop 128))
    { s1 with swc := { s1.swc with spillLinks := fput s1.swc.spillLinks 0 pos (linkWord (spillAddr pos) low d) } }) s

/-- The spill engine's accesses for a copy (R285, R364): one burst for each segment, and one of the counters region for its link words
and descriptor. -/
def spillPosts (s : State) (c : Copy) (req : Nat) (write : Bool) : State :=
  memPostIn (c.segAt.foldl (fun s k => memPost s req (spillAddr (8 * k)) write 64) s) req 0x1624000000 0x1DC000000 write 4

/-- SPILL_WRITE (R283): the oldest copy of a queue in spill state that waits for it is written to the spill region,
each cell's check verified first (R266), and its on-die cells are freed. -/
def execSpillWrite (queue : Nat) (s : State) : Out' :=
  match (s.queue queue).spilled.find? (·.cells != 0) with
  | some c =>
    match badCell s c.frame with
    | some b => .next (settle (cellFail s c.frame b) c.frame)
    | none =>
      let s1 := spillPosts (match s.frame? c.frame with | some x => spillCells s x c | none => s) c 4 true
      .next (settle (modSpilled s1 queue (sameCopy c) fun k => { k with cells := 0 }) c.frame)
  | none => .next s

/-- Allocate cells for a frame read back; none where one comes back empty. -/
def refillCells (s : State) : Nat → List Nat → State × Option (List Nat)
  | 0, cs => (s, some cs)
  | k + 1, cs =>
    match poolAlloc s 16 0 .swc with
    | (s', some h) => refillCells s' k (cs ++ [h])
    | (s', none) => (cs.foldl (fun s c => poolFree s 16 c 1) s', none)

/-- Does a queue take a spilled frame back (R284): it holds fewer than REFILL_CELLS cells on die, or all that it holds there was enqueued
after its oldest spilled copy (DEDUCED, log 182)? -/
def wantsRefill (s : State) (x : QueueSt) : Bool :=
  decide (queueCells x < s.rf Reg.SWC_SPILL_THRESH 31 16) || (queueHead x).isNone

/-- SPILL_REFILL (R284-R286, R269): the oldest spilled frame of a queue is read back while the queue holds fewer than
REFILL_CELLS on die; a cell that fails on the way back drops the frame. -/
def execSpillRefill (queue : Nat) (s : State) : Out' :=
  let q := s.queue queue
  match q.spilled with
  | [] => .next s
  | c :: rest =>
    match s.frame? c.frame with
    | none => .next s
    | some x =>
      if !(q.spill && c.cells == 0 && wantsRefill s q &&
          64 + needCells x ≤ sharedFree s) then .next s
      else
        let out := fun (s : State) =>
          let s1 := spillPosts s c 5 false
          unchargeSegs (s1.setQueue queue { s1.queue queue with spilled := rest, spill := !rest.isEmpty }) c.port c.segs
        if s.swc.badSpill.contains c.frame then
          let fr := s.free
          let s1 := dropCount ((out fr.2).bumpField Reg.SWC_CELL_FAIL_COUNT 15 8) queue 1
          .next (settle (dropPending (notSent (swcEvent s1 0x68 [(90, 72, fr.1 % 524288), (97, 91, fr.1 % 524288 / 4096),
            (98, 98, 1)]) c) c.frame) c.frame)
        else
          let take := if x.cells.isEmpty then refillCells s (needCells x) [] else (s, some [])
          match take with
          | (s1, none) => .next s1
          | (s1, some cs) =>
            let s2 := if cs.isEmpty then s1 else
              pfcCheck (chargeIn (relink (s1.setFrame c.frame { x with cells := cs }) c.frame) x.port cs.length) x.port x.prio
            .next (dieInsert (out s2) { c with cells := needCells x, segs := 0, segAt := [] })

/-! ### Buffers as the requesters see them -/

/-- The oldest frame of an ingress fabric port that still takes a cell. -/
def fillingFrame (s : State) (i : Nat) : Option (Nat × Frame) :=
  s.swc.frames.find? fun e => e.2.fabric == i && !e.2.tail && e.2.reserved != 0 && e.2.cells.length < needCells e.2

/-- Has the cell writer of an ingress fabric port a request (R299)? -/
def allocWants (s : State) (k : Nat) : Bool := k < 16 && (fillingFrame s k).isSome

/-- The requester that the manager serves next in its cycle (R299, R306): the first in its rotating order with a request that it has not
served in the cycle, of up to 8. -/
def allocTurn (s : State) : Option Nat :=
  if 8 ≤ s.bpm.served.length then none
  else ((List.range 32).map fun i => (s.bpm.rotate + i) % 32).find? fun k => allocWants s k && !s.bpm.served.contains k

/-- The cycle in which the next request is served: the one in hand, or, where it serves no more, the next, whose order starts one
further on. -/
def allocCycle (s : State) : State :=
  if (allocTurn s).isSome then s else { s with bpm := { s.bpm with rotate := (s.bpm.rotate + 1) % 32, served := [] } }

/-- BUFFER_ALLOCATE (R299-R303): the manager serves the cell writer of an ingress fabric port, which asks pool 0 while a frame there
takes cells: the cell becomes the next of the oldest such frame, out of its reservation. Spill refill and HIF staging make their
requests as part of SPILL_REFILL and COMMAND_STAGE; IDs 18 (frees only) and 19 to 31 request nothing. Requesters are
served in the order of the manager's cycle. -/
def execBufferAllocate (requester : Fin 32) (pool : Fin 16) (s : State) : Out' :=
  match (if requester.val < 16 && pool.val == 0 then fillingFrame s requester else none) with
  | none => .next s
  | some (f, _) =>
    let s0 := allocCycle s
    let r := poolAlloc { s0 with bpm := { s0.bpm with served := requester.val :: s0.bpm.served } } requester 0 .swc
    let s1 := { r.1 with bpm := { r.1.bpm with grant := fset r.1.bpm.grant requester r.2 } }
    if allocTurn s0 != some requester.val then .next s
    else .next (match r.2 with
      | some h => relink (s1.modFrame f fun x => { x with cells := x.cells ++ [h], reserved := x.reserved - 1 }) f
      | none => s1)

/-- The frame that holds a cell. -/
def cellHolder (s : State) (c : Nat) : Option (Nat × Frame) := s.swc.frames.find? fun e => e.2.cells.contains c

/-- BUFFER_FREE (R267, R269, R299, R305): a requester frees in the name of its own owner. An accepted free of a frame's cell ends its
charge, and one of a staging buffer that of port 128. -/
def execBufferFree (requester : Fin 32) (handle : BitVec 24) (owner : Fin 8) (s : State) : Out' :=
  let h := handle.toNat
  let s1 := poolFree s requester h owner
  if 18 < requester.val || (reqOwner requester).code != owner.val then .next s
  else if (badFree s h owner).isSome then .next s1
  else if requester.val = 17 then .next (unchargeIn s1 128 (poolCells s (h / 2 ^ 20)))
  else match (if h < 2 ^ 20 then cellHolder s h else none) with
    | some (f, x) =>
      .next (pfcCheck (unchargeIn (s1.setFrame f { x with cells := x.cells.filter (· != h) }) x.port 1) x.port x.prio)
    | none => .next s1

/-! ### Set-up and commands (R271, R294) -/

/-- The check that puts the buffer in service (R271). -/
def bufCheck (s : State) : Bool :=
  ((List.range 140).all fun n => 64 ≤ ingGuar s n && 64 ≤ s.rf (Reg.SWC_EG_LIMIT n) 19 0) &&
  ((List.range 140).map (ingGuar s)).sum ≤ 262144 && poolsOk s

/-- A write of SWC_BUF_CTRL (R271). -/
def bufCtrlWrite (s : State) (v : W32) : State :=
  if s.pkg.sealed then sealedWrite s
  else if bit v 0 then if bufCheck s then (if bufEnabled s then s else layTags s).setReg Reg.SWC_BUF_CTRL (v &&& 0xF) else badWrite s
  else if bufEnabled s then badWrite s
  else s.setReg Reg.SWC_BUF_CTRL (v &&& 0xF)

/-- BUF_ENABLE (R271). -/
def execBufEnable (value : W32) (s : State) : Out' := onBar s (bufCtrlWrite s value)

/-- The entries of `k` bytes each in a command's staged buffer. -/
def entriesOf (n : Nat) (count : Nat) (buf : List Byte) : List (BitVec n) :=
  (List.range count).map fun i => ofBytes n (buf.drop (i * (n / 8)))

/-- MCAST_GROUP_WRITE (R281, R294). -/
def execMcastGroupWrite (ring : Fin 1024) (slot : Nat) (s : State) : Out' :=
  onCmd s ring slot 0x70 fun c =>
    let first := fld c.desc 207 192
    let es := entriesOf 256 (fld c.desc 223 208) c.buf
    if es.all fun e => zeroFields e [(143, 140), (255, 154)] then
      let s1 := (es.zipIdx first).foldl (fun s e =>
        { s with swc := { s.swc with groups := fput s.swc.groups 0 e.2 e.1 } }) s
      s1.finish ring slot St.ok
    else s.badField ring slot

/-- MCAST_GROUP_READ (R294). -/
def execMcastGroupRead (ring : Fin 1024) (slot : Nat) (s : State) : Out' :=
  onCmd s ring slot 0x71 fun c =>
    let first := fld c.desc 207 192
    (s.output c ((List.range (fld c.desc 223 208)).flatMap fun i => bytesOf (s.mgroup (first + i)))).finish ring slot St.ok

/-- REWRITE_TEMPLATE_WRITE (R280, R294). -/
def execRewriteTemplateWrite (ring : Fin 1024) (slot : Nat) (s : State) : Out' :=
  onCmd s ring slot 0x72 fun c =>
    let t := fld c.desc 207 192
    let img : Unit128 := ofBytes 1024 c.buf
    (forAll s (maskList 8 (fld c.desc 71 64)) fun s p =>
      { s with swc := { s.swc with rewrites := fput s.swc.rewrites 0 (256 * p + t) img } }).finish ring slot St.ok

/-- Flush one queue of the copies that were enqueued before a command was accepted: the state, and the copies removed. -/
def flushQueue (s : State) (q no : Nat) : State × List Copy :=
  let p := fun (c : Copy) => decide (c.no < no)
  let out := ((s.queue q).onDie ++ (s.queue q).spilled).filter p
  let s1 := cutQueue s q p
  (out.foldl (fun s c => notSent (cutVoqs s (sameCopy c)) c) s1, out)

/-- Cells of a copy as charged to its egress port, spilled ones counted alike (R288). -/
def copyCells (s : State) (c : Copy) : Nat :=
  if c.segs = 0 then c.cells else ((s.frame? c.frame).map needCells).getD 0

/-- PORT_FLUSH (R288). -/
def execPortFlush (ring : Fin 1024) (slot : Nat) (s : State) : Out' :=
  onCmd s ring slot 0x73 fun c =>
    let n := fld c.desc 79 72
    let m := fld c.desc 87 80
    let qs := (s.swc.queues.map (·.1)).filter fun q => queuePort s q == n && m.testBit (queueClass s q)
    let r := qs.foldl (fun (a : State × List Copy) q => let x := flushQueue a.1 q c.no; (x.1, a.2 ++ x.2)) (s, [])
    let cells := (r.2.map (copyCells s)).sum
    let s1 := r.2.foldl (fun s k => settle s k.frame) r.1
    s1.finish ring slot St.ok 0 (r.2.length % 2 ^ 32 + 2 ^ 32 * (cells % 2 ^ 32))

/-- BLOCK_RELEASE (R292). -/
def execBlockRelease (ring : Fin 1024) (slot : Nat) (s : State) : Out' :=
  onCmd s ring slot 0x74 fun c =>
    let b := fld c.desc 198 192
    let s1 := blockUnquarantine s b
    ({ s1 with swc := { s1.swc with blockFail := ferase s1.swc.blockFail b } }).finish ring slot St.ok

/-! ### The tail (R276, R282) -/

/-- The tail of a frame is in: the rest of its reservation is returned, and cut-through copies count their cells
(R268, R270). -/
def tailIn (s : State) (f : Nat) : State :=
  match s.frame? f with
  | none => s
  | some x =>
    let fix := fun (c : Copy) => if c.frame == f && c.segs == 0 then { c with cells := needCells x } else c
    let excess := fun (c : Copy) => if c.frame == f && c.segs == 0 then c.cells - needCells x else 0
    let s1 := s.swc.queues.foldl (fun s e => e.2.onDie.foldl (fun s c => unchargeEg s c.port (excess c)) s) s
    let s2 := s.swc.wire.foldl (fun s e => unchargeEg s e.2.copy.port (excess e.2.copy)) s1
    let s3 := { s2 with swc := { s2.swc with
      queues := s2.swc.queues.map fun (e : Nat × QueueSt) => (e.1, { e.2 with onDie := e.2.onDie.map fix }),
      wire := s2.swc.wire.map fun (e : Nat × OnWire) => (e.1, { e.2 with copy := fix e.2.copy }) } }
    pfcCheck (unchargeIn (relink (s3.setFrame f { x with tail := true, reserved := 0 }) f) x.port x.reserved) x.port x.prio

/-- A tail error (R276): copies on the wire are marked, all others dropped. A frame that still waits for its path is
dropped as it leaves. -/
def tailError (s : State) (f k : Nat) : State :=
  let s1 := tailMark s f k
  let s2 := if (wireCopies s f).isEmpty then s1.bump (Reg.SWC_ERR_DROP_COUNT k) else s1
  if ((s.frame? f).map (·.held)).getD false then s2 else frameDrop s2 f

end Sys2Proof.Machine
end

