-- ==== Sys2Proof/Machine/Tcam.lean ====
section
/-!
DEFINITION. Machine/Tcam.lean: associative search: keys, the winner, ordered insertion, scrubbing (R246-R263).
-/

namespace Sys2Proof.Machine

open Sys2Proof

/-- Units of an entry of a bank (R246): 1, 2 or 4. -/
def bankUnits (s : State) (p b : Nat) : Nat := 2 ^ s.rf (Reg.TCM_BANK_CFG p) (2 * b + 1) (2 * b)
/-- Positions of a bank. -/
def bankPositions (s : State) (p b : Nat) : Nat := 4096 / bankUnits s p b

/-- Width in units of a key format (R248). -/
def fmtUnits (k : Nat) : Nat := match k with | 2 => 2 | 3 => 4 | _ => 1

/-- The EtherType after the last VLAN tag that the parser followed (R248); 0 for an empty L2 slot. -/
def etherType (f : List Byte) (o : Parsed) : Nat := (o.etherOff.map fun i => beAt f i 2).getD 0

/-- A search key under a profile (R248); `m8`, `m9` are the metadata words of a stateful packet. -/
def tcamKey (s : State) (p : Nat) (prof : W32) (f : List Byte) (o : Parsed) (port m8 m9 : Nat) : BitVec 640 :=
  let inner := bit prof 18
  let v4 := fun (dst : Bool) => if isV4 o inner then natBE (l3Addr f o inner dst) else 0
  let a := fun (dst : Bool) => natBE (l3Addr f o inner dst)
  let grp := portGroup s p port
  let tag := fld prof 22 19
  let l4 := fun (b : Nat) => [(b + 15, b, l4Port f o inner false), (b + 31, b + 16, l4Port f o inner true),
    (b + 39, b + 32, l4Proto o inner), (b + 47, b + 40, tcpFlags f o inner), (b + 53, b + 48, tosByte f o inner / 4),
    (b + 55, b + 54, o.frag)]
  match fld prof 17 16 with
  | 0 => pack 640 ([(31, 0, v4 false), (63, 32, v4 true)] ++ l4 64 ++
      [(127, 120, port), (139, 128, o.vlan.getD 0), (143, 140, grp), (147, 144, tag), (159, 148, m9)])
  | 1 => pack 640 [(47, 0, natBE (macAt f o false true)), (95, 48, natBE (macAt f o false false)), (107, 96, o.vlan.getD 0),
      (123, 108, etherType f o), (131, 124, port), (135, 132, grp), (139, 136, tag), (151, 140, m9)]
  | k => pack 640 ([(127, 0, a false), (255, 128, a true)] ++ l4 256 ++ [(315, 312, grp), (319, 316, tag)] ++
      (if k = 3 then [(367, 320, natBE (macAt f o false true)), (415, 368, natBE (macAt f o false false)),
        (427, 416, o.vlan.getD 0), (443, 428, etherType f o), (451, 444, port), (483, 452, o.tunNum), (499, 484, m8),
        (511, 500, m9)] else []))

/-- A matching entry: bank, position, entry. -/
structure TcmHit where
  bank : Nat
  pos  : Nat
  ent  : TcmEnt
deriving DecidableEq, Repr

/-- Does a unit of an entry carry a parity error (R261)? -/
def entBad (s : State) (p b k : Nat) : Bool :=
  let u := bankUnits s p b
  (List.range u).any fun i => (s.tcmOf p).badUnits.contains (4096 * b + k * u + i)

/-- Does an entry match a key (R247)? One with a failed unit may match or fail to match (free). -/
def tcamMatches (s : State) (p b k : Nat) (e : TcmEnt) (key : BitVec 640) : Bool :=
  if entBad s p b k then Config.freeNat (2 ^ 40 * (s.freeCtr + 1) + 4096 * b + k) % 2 == 1
  else key &&& e.mask == e.key &&& e.mask

/-- The two lowest-position matching entries of a bank, an entry in the middle of a copy step counted once (R251,
R255). -/
def bankHits (s : State) (p b : Nat) (key : BitVec 640) : List TcmHit :=
  let es := (s.tcmOf p).ents.filter fun e => e.1 / 4096 == b && tcamMatches s p b (e.1 % 4096) e.2 key
  let hs := es.map fun e => (⟨b, e.1 % 4096, e.2⟩ : TcmHit)
  (hs.foldl (fun (a : List TcmHit) h => if a.any fun g => g.ent.id == h.ent.id then a else a ++ [h]) []).take 2

/-- What a TCAM search yields: the winner and whether the tie rule chose it. -/
def tcamWinner (s : State) (p : Nat) (mask : Nat) (key : BitVec 640) : Option (TcmHit × Bool) :=
  let hs := (maskList 16 mask).flatMap fun b => bankHits s p b key
  let top := hs.foldl (fun (m : Nat) h => max m h.ent.prio) 0
  match hs.filter fun h => h.ent.prio == top with
  | [] => none
  | h :: rest => some (h, !rest.isEmpty)

/-- Report invalidated entries (R262). -/
def tcmTileFail (s : State) (p b kind : Nat) (ids : List Nat) : State :=
  intRaise (raiseOn s (s.rf (Reg.TCM_EVENT_CTRL p) 9 0) (Reg.TCM_EVENT_DROP_COUNT p) 0x3A
    ([(66, 64, p), (70, 67, b), (71, 71, kind), (74, 72, ids.length)] ++
      ids.zipIdx.map fun e => (16 * e.2 + 95, 16 * e.2 + 80, e.1))) 4 (8 + p)

/-- The ENTRY_IDs of some entries; one that lies at two positions in the middle of a copy step is named once (R255, R260). -/
def entIds (es : List TcmEnt) : List Nat :=
  es.foldl (fun ids e => if ids.contains e.id then ids else ids ++ [e.id]) []

/-- Search the banks of profile `n` for a key (R251, R260): a tie is counted; a winner whose action line fails is none, and the line's
entries are invalidated. -/
def tcamSearch (s : State) (p : Nat) (n : Nat) (key : BitVec 640) : State × Found (TcmHit × Bool) :=
  let w := tcamWinner s p (s.rf (Reg.TCM_PROFILE p n) 15 0) key
  let s := { s with freeCtr := s.freeCtr + 1 }
  match w with
  | none => (s, .none)
  | some (h, tie) =>
    let s1 := if tie then s.bump (Reg.TCM_TIE_COUNT p) else s
    let l := 820 * h.bank + h.pos / 5
    let t := s1.tcmOf p
    if t.badLines.contains l then
      let inLine := fun (k : Nat) => k / 4096 == h.bank && k % 4096 / 5 == h.pos / 5
      let ids := entIds ((t.ents.filter fun e => inLine e.1).map (·.2))
      let s2 := s1.setTcm p { t with ents := fkeep t.ents fun k => !inLine k, badLines := t.badLines.filter (· != l) }
      (tcmTileFail (s2.bumpField (Reg.TCM_TILE_FAIL_COUNT p) 7 0) p h.bank 0 ids, .fail)
    else (s1, .hit (h, tie))

/-- Add to a TCAM counter pair (R252, R364): 40-bit packets, 56-bit bytes, saturating. -/
def tcamCount (s0 : State) (p k bytes : Nat) : State :=
  let s := counterPost s0 7 true
  let t := s.tcmOf p
  s.setTcm p { t with pkts := fput t.pkts 0 k (satAdd (2 ^ 40 - 1) (fget t.pkts 0 k) 1),
                      bytes := fput t.bytes 0 k (satAdd (2 ^ 56 - 1) (fget t.bytes 0 k) bytes) }

/-- A stateless frame's outcome after the TCAM (R252): the outcome, and whether a copy is punted. -/
def tcamApply (s : State) (p port len : Nat) (f : List Byte) (o : Parsed) (r : Outcome') : State × Outcome' × Bool :=
  if !bit (s.reg (Reg.TCM_SL_CTRL p)) 0 then (s, r, false)
  else
    let n := s.rf (Reg.TCM_SL_CTRL p) 4 1
    match tcamSearch s p n (tcamKey s p (s.reg (Reg.TCM_PROFILE p n)) f o port 0 0) with
    | (s1, .hit (h, _)) =>
      let a := h.ent.action
      if bit a 33 then (s1.bump (Reg.TCM_DENY_COUNT p), { r with fate := .drop }, false)
      else
        let s2 := if bit a 39 then tcamCount s1 p (fld a 51 40) len else s1
        let x := if bit a 32 then wordOutcome s2 p o (BitVec.ofNat 64 (fld a 31 0)) else (s2, r)
        let r1 := if bit a 35 then { x.2 with cls := fld a 38 36 } else x.2
        (x.1, r1, bit a 34)
    | (s1, _) => (s1, r, false)

/-! ### Ordered insertion (R254-R256) -/

/-- A TCAM position. -/
def tcmAt (t : Tcm) (b k : Nat) : Option TcmEnt := ffind? t.ents (4096 * b + k)

/-- Where an entry goes: the copy steps (from, to) and the position written last; none where the bank is full. -/
def insertPlan (t : Tcm) (n b prio : Nat) : Option (List (Nat × Nat) × Nat) :=
  let mine := (t.ents.filter fun e => e.1 / 4096 == b).map fun e => (e.1 % 4096, e.2.prio)
  -- the lowest place that may hold it is one past the last entry of equal or higher priority
  let lo := mine.foldl (fun m e => if prio ≤ e.2 then max m (e.1 + 1) else m) 0
  let z := (mine.find? fun e => e.2 < prio).elim n (·.1)
  if lo < z then some ([], lo)
  else
    let isFree := fun k => !(mine.any fun e => e.1 == k)
    let down := ((List.range n).find? fun k => z < k && isFree k)
    let up := ((List.range n).reverse.find? fun k => k + 1 < lo && isFree k)
    match down, up with
    | none, none => none
    | some d, none => some (((List.range (d - z)).map fun i => (d - 1 - i, d - i)), z)
    | none, some u => some (((List.range (lo - 1 - u)).map fun i => (u + 1 + i, u + i)), lo - 1)
    | some d, some u =>
      if d - z ≤ lo - 1 - u then some (((List.range (d - z)).map fun i => (d - 1 - i, d - i)), z)
      else some (((List.range (lo - 1 - u)).map fun i => (u + 1 + i, u + i)), lo - 1)

/-- Write an entry at a position: its units carry good parity. -/
def tcmPut (s : State) (p b k : Nat) (e : TcmEnt) : State :=
  let t := s.tcmOf p
  let u := bankUnits s p b
  s.setTcm p { t with ents := fset t.ents (4096 * b + k) e,
                      badUnits := t.badUnits.filter fun x => !(x / 4096 == b && x % 4096 / u == k) }

/-- Copy the entry at one position to another: its units go with the parity they have (R254, R261). -/
def tcmCopy (s : State) (p b k j : Nat) (e : TcmEnt) : State :=
  let u := bankUnits s p b
  let bad := (List.range u).filter fun i => (s.tcmOf p).badUnits.contains (4096 * b + k * u + i)
  let s1 := tcmPut s p b j e
  let t := s1.tcmOf p
  s1.setTcm p { t with badUnits := bad.map (fun i => 4096 * b + j * u + i) ++ t.badUnits }

/-- The entry that a buffer entry describes (R259). -/
def tcmEntOf (e : BitVec 1536) : TcmEnt :=
  { key := BitVec.ofNat 640 (fld e 639 0), mask := BitVec.ofNat 640 (fld e 1279 640), id := fld e 1295 1280,
    prio := fld e 1311 1296, action := BitVec.ofNat 64 (fld e 1407 1344) }

/-- The position of an ENTRY_ID. -/
def tcmById (t : Tcm) (id : Nat) : Option (Nat × TcmEnt) := t.ents.find? fun e => e.2.id == id

/-- Apply the entries of a pipeline's job in order until one needs copy steps or none is left (R254, R257, R259). -/
def tcmRun (s : State) (p ring slot : Nat) : List (Nat × BitVec 1536) → List (Nat × Nat) → State
  | [], fails =>
    let t := s.tcmOf p
    s.setTcm p { t with jobs := [⟨ring, slot, [], fails⟩], move := none }
  | (i, e) :: rest, fails =>
    let t := s.tcmOf p
    let id := fld e 1295 1280
    match fld e 1317 1316 with
    | 0 =>
      let b := fld e 1315 1312
      if (tcmById t id).isSome then tcmRun s p ring slot rest (fails ++ [(i, St.exists_)])
      else match insertPlan t (bankPositions s p b) b (fld e 1311 1296) with
        | none => tcmRun s p ring slot rest (fails ++ [(i, St.noSpace)])
        | some ([], k) => tcmRun (tcmPut s p b k (tcmEntOf e)) p ring slot rest fails
        | some (steps, k) => s.setTcm p { t with jobs := [⟨ring, slot, rest, fails⟩],
                                                 move := some ⟨b, steps, k, tcmEntOf e⟩ }
    | 1 =>
      match tcmById t id with
      | some (k, _) => tcmRun (s.setTcm p { t with ents := ferase t.ents k }) p ring slot rest fails
      | none => tcmRun s p ring slot rest (fails ++ [(i, St.notFound)])
    | _ =>
      match tcmById t id with
      | some (k, x) => tcmRun (s.setTcm p { t with ents := fset t.ents k { x with
          action := BitVec.ofNat 64 (fld e 1407 1344) } }) p ring slot rest fails
      | none => tcmRun s p ring slot rest (fails ++ [(i, St.notFound)])

/-- Is a pipeline's part of a TCAM_WRITE done? -/
def tcmJobDone (s : State) (p ring slot : Nat) : Bool :=
  let t := s.tcmOf p
  t.move.isNone && t.jobs.any fun j => j.ring == ring && j.slot == slot && j.left.isEmpty

/-- A pipeline that has done its part of a TCAM_WRITE is free for the next command, and its lock is released (R240, R256, R258). -/
def tcmLand (s : State) (ring slot p : Nat) : State :=
  if tcmJobDone s p ring slot then
    let t := s.tcmOf p
    cmdLand (s.setTcm p { t with jobs := [] }) ring slot p 2 ((t.jobs.head?.map (·.fails)).getD [])
  else s

/-- Complete a TCAM_WRITE once it has been done in every pipeline that it names (R237, R259). -/
def tcmFinish (s : State) (ring slot : Nat) : State :=
  match s.cmd? ring slot with
  | none => s
  | some c =>
    let ps := maskList 8 (fld c.desc 71 64)
    if c.phase == .running && ps.all c.landedIn then s.finish ring slot St.ok 0 (failResult (landedIn ps c)) else s

/-- Is bank `b` searched with L2 keys alone, whose bits [159:152] are reserved: some profile with KEY_FMT 1 names it, and none with
KEY_FMT 0? DESIGN CHOICE (log 169): an entry does not say its KEY_FMT. -/
def bankL2 (s : State) (p b : Nat) : Bool :=
  let named := fun (k : Nat) => (List.range 16).any fun n =>
    bit (s.reg (Reg.TCM_PROFILE p n)) b && s.rf (Reg.TCM_PROFILE p n) 17 16 == k
  named 1 && !named 0

/-- Is an entry of a TCAM_WRITE good for a pipeline (R259)? -/
def tcmEntOk (s : State) (p : Nat) (e : BitVec 1536) : Bool :=
  let w := 160 * bankUnits s p (fld e 1315 1312)
  let key := fld e 639 0
  let mask := fld e 1279 640
  zeroFields e [(1343, 1318), (1535, 1408)] && fld e 1317 1316 != 3 && key >>> w == 0 && mask >>> w == 0 &&
  key &&& mask == key && mask >>> 512 == 0 && !(bankL2 s p (fld e 1315 1312) && mask / 2 ^ 152 % 2 ^ 8 != 0)

/-- The 192-byte entries of a buffer. -/
def tcmEntries (n : Nat) (buf : List Byte) : List (BitVec 1536) :=
  (List.range n).map fun i => ofBytes 1536 (buf.drop (192 * i))

/-- May a command work on the TCAM of a pipeline: its turn and its lock as R240 has them, and no other command's work there? -/
def mayTcam (s : State) (c : CmdEnt) (ring slot p : Nat) : Bool := mayWork s c ring slot p && (s.tcmOf p).jobs.isEmpty

/-- Has a TCAM_WRITE begun in a pipeline? -/
def tcmBegun (s : State) (c : CmdEnt) (ring slot p : Nat) : Bool :=
  c.landedIn p || (s.tcmOf p).jobs.any fun j => j.ring == ring && j.slot == slot

/-- TCAM_WRITE (R258, R259): every entry is checked before any is written, then each pipeline that is ready applies them in order. -/
def execTcamWrite (ring : Fin 1024) (slot : Nat) (s : State) : Out' :=
  onCmd s ring slot 0x46 fun c =>
    let ps := maskList 8 (fld c.desc 71 64)
    let es := tcmEntries (fld c.desc 207 192) c.buf
    if !(ps.any (tcmBegun s c ring slot)) && !(ps.all fun p => es.all (tcmEntOk s p)) then (unlockCmd s c ring slot).badField ring slot
    else
      let go := ps.filter fun p => !tcmBegun s c ring slot p && mayTcam s c ring slot p
      let s1 := forAll s go fun s p => tcmLand (tcmRun s p ring slot (es.zipIdx.map fun e => (e.2, e.1)) []) ring slot p
      let begun := ps.all fun p => tcmBegun s c ring slot p || go.contains p
      tcmFinish (if begun then s1.modCmd ring slot fun c => { c with phase := .running } else s1) ring slot

/-- TCAM_COPY_STEP (R254, R255): one copy step, or the final write of an insertion, after which the command goes on. -/
def execTcamCopyStep (pipe : Fin 8) (s : State) : Out' :=
  let t := s.tcmOf pipe
  match t.move with
  | none => .next s
  | some m =>
    match m.steps with
    | (a, b) :: rest =>
      let s1 := s.setTcm pipe { t with move := some { m with steps := rest } }
      .next (match tcmAt t m.bank a with
        | some e => tcmCopy s1 pipe m.bank a b e
        | none => s1.setTcm pipe { s1.tcmOf pipe with ents := ferase t.ents (4096 * m.bank + b) })
    | [] =>
      let s1 := tcmPut (s.setTcm pipe { t with move := none }) pipe m.bank m.place m.ent
      .next (match t.jobs with
        | j :: _ => tcmFinish (tcmLand (tcmRun s1 pipe j.ring j.slot j.left j.fails) j.ring j.slot pipe) j.ring j.slot
        | [] => s1)

/-- TCAM_SCRUB (R261): the scrubber checks a unit; the positions of a copy step in progress are skipped. -/
def execTcamScrub (pipe : Fin 8) (bank : Fin 16) (unit : Struck (Fin 4096)) (s0 : State) : Out' :=
  let s := strike s0 unit.upsets
  let unit := unit.it
  let t := s.tcmOf pipe
  let k := unit.val / bankUnits s pipe bank
  let busy := t.move.any fun m => m.bank == bank.val && (m.steps.head?.any fun st => st.1 == k || st.2 == k)
  if busy || !t.badUnits.contains (4096 * bank.val + unit.val) then .next s
  else match tcmAt t bank k with
    | none => .next s
    | some e =>
      let u := bankUnits s pipe bank
      let t1 := { t with ents := ferase t.ents (4096 * bank.val + k),
                         badUnits := t.badUnits.filter fun x => !(x / 4096 == bank.val && x % 4096 / u == k) }
      .next (tcmTileFail ((s.setTcm pipe t1).bumpField (Reg.TCM_TILE_FAIL_COUNT pipe) 15 8) pipe bank 1 [e.id])

/-- An entry as TCAM_READ returns it (R259). -/
def tcmImage (b : Nat) (e : TcmEnt) : BitVec 1536 :=
  pack 1536 [(639, 0, e.key.toNat), (1279, 640, e.mask.toNat), (1295, 1280, e.id), (1311, 1296, e.prio), (1315, 1312, b),
    (1407, 1344, e.action.toNat)]

/-- TCAM_READ (R258): entries of the lowest pipeline named, bank 0 first and in position order, from the cursor on. -/
def execTcamRead (ring : Fin 1024) (slot : Nat) (s : State) : Out' :=
  onCmd s ring slot 0x47 fun c =>
    let ps := maskList 8 (fld c.desc 71 64)
    let p := ps.head?.getD 0
    if (descPipes c.desc).all (mayTcam s c ring slot) then
      let es := (s.tcmOf p).ents.filter fun e => fld c.desc 255 224 ≤ e.1
      let n := fld c.desc 207 192
      let s1 := s.output c ((es.take n).flatMap fun e => bytesOf (tcmImage (e.1 / 4096) e.2))
      (unlockCmd s1 c ring slot).finish ring slot St.ok 0 (match (es.drop n).head? with | some e => e.1 | none => 0)
    else s

/-- TCAM_COUNTER_READ (R258): COUNT counter pairs from pair CURSOR, 16 bytes each, packets first; CLASP clears them. -/
def execTcamCounterRead (ring : Fin 1024) (slot : Nat) (s : State) : Out' :=
  onCmd s ring slot 0x48 fun c =>
    let ps := maskList 8 (fld c.desc 71 64)
    let p := ps.head?.getD 0
    let k := fld c.desc 255 224
    let n := fld c.desc 207 192
    if 4096 < k + n then (unlockCmd s c ring slot).badField ring slot 28
    else if (descPipes c.desc).all (mayTcam s c ring slot) then
      let t := s.tcmOf p
      let s0 := (List.range n).foldl (fun s _ => counterPost s 10 (bit c.desc 74)) s
      let s1 := s0.output c ((List.range n).flatMap fun i =>
        bytesLE 8 (fget t.pkts 0 (k + i)) ++ bytesLE 8 (fget t.bytes 0 (k + i)))
      let gone := fun i => k ≤ i && i < k + n
      let s2 := if bit c.desc 74 then
        s1.setTcm p { s1.tcmOf p with pkts := fkeep t.pkts fun i => !gone i, bytes := fkeep t.bytes fun i => !gone i } else s1
      (unlockCmd s2 c ring slot).finish ring slot St.ok
    else s

/-- TCM_BANK_CFG_WRITE (R246): a reserved width, or a change of the width of a bank that holds an entry, is discarded. -/
def bankCfgWrite (s : State) (p : Nat) (v : W32) : State :=
  if s.pkg.sealed then sealedWrite s
  else
    let bad := (List.range 16).any fun b => fld v (2 * b + 1) (2 * b) == 3 ||
      (fld v (2 * b + 1) (2 * b) != s.rf (Reg.TCM_BANK_CFG p) (2 * b + 1) (2 * b) &&
        (s.tcmOf p).ents.any fun e => e.1 / 4096 == b)
    if bad then badWrite s else s.setReg (Reg.TCM_BANK_CFG p) v

/-- TCM_BANK_CFG_WRITE (R246). -/
def execTcmBankCfgWrite (pipe : Fin 8) (value : W32) (s : State) : Out' := onBar s (bankCfgWrite s pipe value)

/-- Is a TCM_PROFILE value a reserved encoding (R249)? -/
def tcmProfileBad (s : State) (p : Nat) (v : W32) : Bool :=
  (maskList 16 (fld v 15 0)).any fun b => bankUnits s p b != fmtUnits (fld v 17 16)

end Sys2Proof.Machine
end

