-- ==== Sys2Proof/Machine/Packet.lean ====
section
/-!
DEFINITION. Machine/Packet.lean: a packet of the processing array as the units that answer it see it: its graph, its
operations' results, endings, the exception path and commit (R156-R171, R200).
-/

namespace Sys2Proof.Machine

open Sys2Proof

def State.pkt? (s : State) (c arr : Nat) : Option Pkt := (s.cluster c).pkts.find? fun p => p.arr == arr

def State.modPkt (s : State) (c arr : Nat) (f : Pkt → Pkt) : State :=
  let x := s.cluster c
  s.setCluster c { x with pkts := x.pkts.map fun p => if p.arr == arr then f p else p }

/-! ### The graph (R159-R162) -/

def gValid (g : BitVec 2048) : Bool := bit g 0
def gDomain (g : BitVec 2048) : Nat := fld g 2 1
def gProfile (g : BitVec 2048) : Nat := fld g 8 3
def gCount (g : BitVec 2048) : Nat := fld g 13 9
def gCommit (g : BitVec 2048) : Nat := fld g 18 14
def gExcAction (g : BitVec 2048) : Nat := fld g 20 19
def gExcEntry (g : BitVec 2048) : Nat := fld g 35 21
/-- Metadata word selected as key-vector word 26 + j. -/
def gMeta (g : BitVec 2048) (j : Nat) : Nat := fld g (4 * j + 39) (4 * j + 36)

/-- The entry of operation `i`. -/
def opEnt (g : BitVec 2048) (i : Nat) : BitVec 96 := BitVec.ofNat 96 (fld g (96 * i + 607) (96 * i + 512))
def opType (e : BitVec 96) : Nat := fld e 2 0
def opDeps (e : BitVec 96) : Nat := fld e 18 3
def opCond (e : BitVec 96) : Nat := fld e 21 19
def opCondArg (e : BitVec 96) : Nat := fld e 25 22
/-- Staged types: UPDATE, COUNT and EXPORT. -/
def opStaged (e : BitVec 96) : Bool := opType e == 2 || opType e == 5 || opType e == 6
/-- Is an operation a LOOKUP; a flow LOOKUP? -/
def opLookup (e : BitVec 96) : Bool := opType e == 1
def opFlow (e : BitVec 96) : Bool := opType e == 1 && fld e 27 26 == 0

/-- An operation's state. -/
def Pkt.op (p : Pkt) (i : Nat) : OpSt := fget p.ops {} i
/-- Is an operation complete, or skipped, which counts as complete (R165)? -/
def OpSt.closed (o : OpSt) : Bool := o.phase == .complete || o.phase == .skipped
/-- A result word; words that a result does not carry read 0. -/
def OpSt.word (o : OpSt) (k : Nat) : W32 := o.words.getD k 0
/-- A metadata word (R158). -/
def Pkt.m (p : Pkt) (k : Nat) : W16 := fget p.words 0 k
/-- The numbers of the graph's operations. -/
def Pkt.opNos (p : Pkt) : List Nat := List.range (gCount p.image)

/-- Did a flow LOOKUP return HIT or NEW? -/
def OpSt.found (o : OpSt) : Bool := o.phase == .complete && (bit (o.word 0) 8 || bit (o.word 0) 9)

/-- Is the condition of an operation true (R161)? -/
def condHolds (p : Pkt) (i : Nat) : Bool :=
  let e := opEnt p.image i
  let k := opCondArg e
  let o := p.op k
  let flow := opFlow (opEnt p.image k)
  match opCond e with
  | 0 => true
  | 1 => if flow then o.found else o.phase == .complete && bit (o.word 0) 8
  | 2 => o.phase == .complete && bit (o.word 0) 9
  | 3 => o.phase == .complete && !(if flow then o.found else bit (o.word 0) 8)
  | 4 => o.found && !bit (o.word 0) 10
  | 5 => o.found && bit (o.word 0) 10
  | 6 => bit (p.m 15) k
  | _ => !bit (p.m 15) k

/-- Is every operation that an operation waits for complete (R165)? -/
def depsDone (p : Pkt) (i : Nat) : Bool := (maskList 16 (opDeps (opEnt p.image i))).all fun j => (p.op j).closed

/-- Operations become ready as those they wait for complete (R165): one whose condition is false is skipped, which may make
later ones ready. -/
def readyOps (p : Pkt) : Pkt :=
  if p.verdict.isSome || p.exc || p.stage == .queued then p
  else p.opNos.foldl (fun p i =>
    if (p.op i).phase == .waiting && depsDone p i then
      { p with ops := fset p.ops i { p.op i with phase := if condHolds p i then .ready else .skipped } }
    else p) p

/-! ### Parking (R156) -/

/-- Can a packet go on without a response that has not arrived? A ready operation can issue, a table lookup answers in
fixed time, and a routine runs unless its word waits. -/
def canGoOn (p : Pkt) : Bool :=
  (p.opNos.any fun i =>
    let e := opEnt p.image i
    let o := p.op i
    (o.phase == .ready && !opStaged e && !p.exc) ||
    (o.phase == .issued && opType e != 3 && opType e != 7)) ||
  p.routines.any fun r => !r.waits

/-- Does a response that parks a packet stand out? -/
def awaits (p : Pkt) : Bool :=
  p.opNos.any fun i => (p.op i).phase == .pending || (p.op i).phase == .stalled ||
    ((p.op i).phase == .issued && opType (opEnt p.image i) == 3)

/-- Park a packet that cannot go on; its context is free. -/
def pktPark (s : State) (c arr : Nat) : State :=
  match s.pkt? c arr with
  | some p =>
    if p.stage == .running && awaits p && !canGoOn p then
      (s.modPkt c arr fun p => { p with stage := .parked }).bump (Reg.PXA_PARK_COUNT c)
    else s
  | none => s

/-! ### Endings -/

/-- Has a packet issued operations that have not ended (R168)? -/
def Pkt.busy (p : Pkt) : Bool :=
  !p.routines.isEmpty || p.opNos.any fun i => (p.op i).phase == .issued || (p.op i).phase == .pending

/-- A packet with a verdict is done once what it has issued has run to its end (R168); one that Solitaire entry flushes, once its
routines have (R205). Until then it parks where it only waits. -/
def pktRest (s : State) (c arr : Nat) : State :=
  match s.pkt? c arr with
  | none => s
  | some p =>
    if p.flush && p.routines.isEmpty then s.modPkt c arr fun p => { p with verdict := some (.hole 4), stage := .done }
    else if p.verdict.isSome && !p.busy then s.modPkt c arr fun p => { p with stage := .done }
    else pktPark s c arr

/-- Operations that have not issued start no more: they count as skipped (R165, R168). -/
def noStart (p : Pkt) : Pkt :=
  { p with ops := p.opNos.foldl (fun (m : FMap OpSt) i =>
      let o := fget m {} i
      if o.phase == .waiting || o.phase == .ready || o.phase == .stalled then fset m i { phase := .skipped } else m) p.ops }

/-- A packet's routines stop: no further word of it issues (R203). -/
def stopRoutines (p : Pkt) : Pkt :=
  { p with routines := [], ops := p.routines.foldl (fun (m : FMap OpSt) r => fset m r.op { phase := .skipped }) p.ops }

/-- A packet ends with a verdict (R168): nothing further starts, and what is staged is discarded. -/
def pktEnd (s : State) (c arr : Nat) (v : Verdict) : State :=
  pktRest (s.modPkt c arr fun p => if p.verdict.isSome then p
    else { noStart p with verdict := some (if p.flush then .hole 4 else v), staged := [], adds := [] }) c arr

/-- The exception path (R169): `op` is the operation whose result caused it, `cause` and `status` as R182 records
them. A packet that has ended, or is on the path already, stays as it is. -/
def pktFail (s : State) (c arr op cause status : Nat) : State :=
  match s.pkt? c arr with
  | none => s
  | some p =>
    if p.verdict.isSome || p.exc then pktRest s c arr
    else
      let x := s.cluster c
      let s1 := (s.setCluster c { x with excStatus := pack 32 [(7, 0, p.template), (11, 8, op), (15, 12, cause),
        (23, 16, status)] }).bump (Reg.PXA_EXCEPTION_COUNT c)
      match gExcAction p.image with
      | 0 => pktEnd s1 c arr (.hole 3)
      | 1 => pktEnd s1 c arr .stateless
      | 2 => pktEnd s1 c arr (.punt 0x40 false)
      | _ => s1.modPkt c arr fun p => { stopRoutines p with
          exc := true, staged := [], adds := [], routines := [{ op := 16, pc := gExcEntry p.image }],
          stage := if p.stage == .parked then .resume else p.stage }

/-- A result ends its packet; on the exception path the result comes too late for that. -/
def pktResultEnd (s : State) (c arr : Nat) (v : Verdict) : State :=
  if (s.pkt? c arr).any (·.exc) then pktRest s c arr else pktEnd s c arr v

/-! ### Commit (R166, R200) -/

/-- Can a slice take an operation: it is powered, and not stopped by Solitaire mode (R504, R512)? -/
def sliceOn (s : State) (i : Nat) : Bool := s.domain (domSlice i) == .on && !s.hlt.solo

/-- Put an operation before a slice's order point; one aimed at a slice that is off is lost (R205). -/
def flowPush (s : State) (sl : Nat) (o : FlowOp) : State :=
  if sliceOn s sl then let x := s.slice sl; s.setSlice sl { x with orderQ := x.orderQ ++ [o] } else s

/-- The slice that owns a handle's index (R44). -/
def handleSlice (h : Nat) : Nat := h / 2 ^ 25 % 16

/-- Add to a counter pair of the counters region (R161). -/
def countPair (s : State) (k bytes : Nat) : State :=
  let s := counterPost s 7 true
  { s with flw := { s.flw with pktCount := fput s.flw.pktCount 0 k ((fget s.flw.pktCount 0 k + 1) % 2 ^ 64),
                               byteCount := fput s.flw.byteCount 0 k ((fget s.flw.byteCount 0 k + bytes) % 2 ^ 64) } }

/-- FRAME_LEN of a packet (M1, R158). -/
def Pkt.len (p : Pkt) : Nat := (p.m 1).toNat

/-- TCP flags of a packet from the slots that a flow LOOKUP's key used. -/
def pktTcpFlags (s : State) (p : Pkt) (op : Nat) : Nat :=
  tcpFlags p.window p.parsed (bit (s.reg (Reg.FLW_KEY_PROFILE (fld (opEnt p.image op) 33 28))) 6)

/-- Issue one staged operation of a committed packet. -/
def stagedIssue (s : State) (c : Nat) (p : Pkt) (i : Nat) : State :=
  let e := opEnt p.image i
  let o := p.op (fld e 29 26)
  let h := (o.word 1).toNat
  match opType e with
  | 2 =>
    let act : FlowAct := .update (bit e 30) (bit e 31) (bit e 32) (bit (o.word 0) 10) (pktTcpFlags s p (fld e 29 26))
      (BitVec.ofNat 32 ((p.m 12).toNat + 65536 * (p.m 13).toNat)) p.len
    if o.found then flowPush s (handleSlice h) { src := c, act := act, handle := h } else s
  | 5 => countPair s (fld e 45 26) (if bit e 46 then p.len else 0)
  | _ => if o.found then flowPush s (handleSlice h) { src := c, handle := h, act := .emit } else s

/-- The flow LOOKUPs whose records have staged writes, in staging order. -/
def stagedOps (ws : List (Nat × Nat × W32 × W32)) : List Nat :=
  ws.foldl (fun ks w => if ks.contains w.1 then ks else ks ++ [w.1]) []

/-- Commit a packet (R200): staged record words, staged counter adds, then the template's staged operations whose
conditions hold, in operation order, and the TCAM counters (R253). -/
def commitPkt (s : State) (c arr : Nat) : State :=
  match s.pkt? c arr with
  | none => s
  | some p =>
    if p.verdict.isSome then s
    else
    let goes := fun i => opStaged (opEnt p.image i) &&
      ((p.op i).phase == .ready || ((p.op i).phase == .waiting && condHolds p i))
    let ops := p.opNos.foldl (fun (m : FMap OpSt) i => if opStaged (opEnt p.image i) then
        fset m i { fget m {} i with phase := if goes i then .complete else .skipped } else m) p.ops
    let s1 := s.modPkt c arr fun p => { p with committed := true, ops := ops }
    let s2 := (stagedOps p.staged).foldl (fun s k =>
      let h := ((p.op k).word 1).toNat
      flowPush s (handleSlice h) { src := c, handle := h,
                                   act := .words ((p.staged.filter fun w => w.1 == k).map fun w => w.2) }) s1
    let s3 := p.adds.foldl (fun s a => countPair s a.1 (if a.2 then p.len else 0)) s2
    let s4 := (p.opNos.filter goes).foldl (fun s i => stagedIssue s c p i) s3
    p.tcmCounts.foldl (fun s k => tcamCount s c k p.len) s4

/-- After a result: an implicit commit once every operation that is not staged has completed, and the end of a packet
whose graph has run out (R166, R171). -/
def pktSettle (s : State) (c arr : Nat) : State :=
  match s.pkt? c arr with
  | none => s
  | some p =>
    if p.verdict.isSome || p.flush then pktRest s c arr
    else if !p.exc && p.stage != .queued &&
        (p.opNos.filter fun i => !opStaged (opEnt p.image i)).all fun i => (p.op i).closed then
      pktEnd (if gCommit p.image == 31 && !p.committed then commitPkt s c arr else s) c arr .forward
    else s

/-! ### Results -/

/-- Record an operation's status and result words; a word that waits for it goes on. A packet that has ended, or takes its exception
path, discards them (R168, R204). -/
def opSet (s : State) (c arr op code : Nat) (words : List W32) (fwd : Bool := false) : State :=
  s.modPkt c arr fun p => readyOps { p with
    ops := fset p.ops op (if p.exc || p.verdict.isSome then { phase := .skipped }
                          else { phase := .complete, code := code, words := words, fwd := fwd }),
    routines := p.routines.map fun r => { r with waits := false } }

/-- An operation completes with a status and result words; its packet goes on, parks or ends. -/
def opComplete (s : State) (c arr op code : Nat) (words : List W32) (fwd : Bool := false) : State :=
  pktPark (pktSettle (opSet s c arr op code words fwd) c arr) c arr

/-- An operation fails: its packet takes the exception path (R167). -/
def opFail (s : State) (c arr op cause code : Nat) : State :=
  pktFail (opSet s c arr op code [BitVec.ofNat 32 code]) c arr op cause code

end Sys2Proof.Machine
end

