-- ==== Sys2Proof/Machine/Rewrite.lean ====
section
/-!
DEFINITION. Machine/Rewrite.lean: the egress rewrite units (R278, R279) and what egress does to PTP event messages
(R425-R427).
-/

namespace Sys2Proof.Machine

open Sys2Proof

/-- Overwrite bytes of a frame from an offset. -/
def setAt (f : List Byte) (i : Nat) (bs : List Byte) : List Byte := f.take i ++ bs ++ f.drop (i + bs.length)

/-- Fold a sum of 16-bit words to 16 bits, one's complement. -/
def fold16 (n : Nat) : Nat := let t := n % 65536 + n / 65536; t % 65536 + t / 65536

/-- The incremental update of a checksum under RFC 1624. -/
def csumAdjust (old : Nat) (was now : List Byte) : Nat :=
  0xFFFF - fold16 (fold16 ((0xFFFF - old) + (0xFFFF - onesSum was) + onesSum now))

/-- A frame under rewriting: its bytes, its slots as they now stand, the slots that name pushed bytes, and the end of
the header window as the edits have moved it. -/
structure Rw where
  bytes : List Byte
  slots : FMap HdrSlot
  fresh : List Nat := []
  win   : Nat
deriving DecidableEq, Repr

/-- Causes of SWC_REWRITE_DROP_COUNT (R279): 0 TTL, 1 SLOT, 2 LENGTH, 3 TEMPLATE. -/
abbrev RwRes := Except Nat Rw

/-- Where a slot's header starts; slot 0 is the frame itself. -/
def Rw.at? (w : Rw) (slot : Nat) : Option Nat := if slot = 0 then some 0 else (ffind? w.slots slot).map (·.off)

/-- Is a slot's header IPv4 (4) or IPv6 (6)? A header that the template pushed is known by its version field. -/
def Rw.ip (w : Rw) (slot : Nat) : Nat :=
  match ffind? w.slots slot with
  | some h =>
    if w.fresh.contains slot then byteAt w.bytes h.off / 16
    else if h.check = 2 then 4 else if h.check = 3 then 6 else 0
  | none => 0

/-- Remove bytes: POP. -/
def Rw.pop (w : Rw) (i n : Nat) : Rw :=
  { w with bytes := w.bytes.take i ++ w.bytes.drop (i + n), win := w.win - n,
           slots := (w.slots.filter fun (e : Nat × HdrSlot) => !(decide (i ≤ e.2.off) && decide (e.2.off < i + n))).map
             fun (e : Nat × HdrSlot) => (e.1, if i + n ≤ e.2.off then { e.2 with off := e.2.off - n } else e.2) }

/-- Insert bytes: PUSH; `keep` is a slot that is to name the pushed bytes. -/
def Rw.push (w : Rw) (i : Nat) (bs : List Byte) (keep : Option Nat) : Rw :=
  { w with bytes := w.bytes.take i ++ bs ++ w.bytes.drop i, win := w.win + bs.length,
           fresh := match keep with | some k => k :: w.fresh | none => w.fresh,
           slots := w.slots.map fun (e : Nat × HdrSlot) =>
             (e.1, if some e.1 ≠ keep ∧ i ≤ e.2.off then { e.2 with off := e.2.off + bs.length } else e.2) }

/-- The IPv4 header checksum of a header as it stands. -/
def ipv4Csum (f : List Byte) (h : Nat) : Nat :=
  let n := 4 * (byteAt f h % 16)
  0xFFFF - onesSum (setAt (bytesAt f h n) 10 [0, 0])

/-- The update of a TCP or UDP checksum behind a slot's header (R278, CSUM). -/
def csumL4 (orig : List Byte) (o : Parsed) (w : Rw) (slot h : Nat) : RwRes :=
  let l4 := slot + 1
  match ffind? w.slots l4, ffind? o.slots l4, ffind? o.slots slot with
  | some now, some was, some l3 =>
    if (slot = 2 || slot = 6) && (now.check = 7 || now.check = 8) && !w.fresh.contains slot && !w.fresh.contains l4 then
      let c := now.off + (if now.check = 8 then 16 else 6)
      let old := beAt w.bytes c 2
      if old = 0 then .ok w
      else if w.win < c + 2 then .error 1
      else
        let a := if l3.check = 2 then (12, 8) else (8, 32)
        .ok { w with bytes := setAt w.bytes c (bytesBE 2 (csumAdjust old
          (bytesAt orig (l3.off + a.1) a.2 ++ bytesAt orig was.off 4)
          (bytesAt w.bytes (h + a.1) a.2 ++ bytesAt w.bytes now.off 4))) }
    else .ok w
  | _, _, _ => .ok w

/-- One operation of a rewrite template (R278, R279): `data` is the template's data, `srcs` the SET_SRC sources. -/
def rwOp (orig : List Byte) (o : Parsed) (data : List Byte) (srcs : List Nat) (w : Rw) (op : W32) : RwRes :=
  let kind := fld op 3 0
  let slot := fld op 6 4
  let off := fld op 14 7
  let len := fld op 21 15
  let dat := fld op 27 22
  if 8 ≤ kind || (kind = 4 && (5 ≤ fld op 31 28 || 8 < len)) || (1 ≤ kind && kind ≤ 3 && 64 < len) ||
      ((kind = 2 || kind = 3) && 64 < dat + len) then .error 3
  else match w.at? slot with
    | none => .error 1
    | some h =>
      let i := h + off
      match kind with
      | 1 => if w.win < i + len then .error 1 else .ok (w.pop i len)
      | 2 => if w.win < i then .error 1
             else .ok (w.push i ((data.drop dat).take len) (if slot ≠ 0 && off = 0 && len ≠ 0 then some slot else none))
      | 3 => if w.win < i + len then .error 1 else .ok { w with bytes := setAt w.bytes i ((data.drop dat).take len) }
      | 4 => if w.win < i + len then .error 1
             else .ok { w with bytes := setAt w.bytes i (bytesBE len (srcs.getD (fld op 31 28) 0)) }
      | 5 =>
        let t := h + (if w.ip slot = 4 then 8 else 7)
        if w.ip slot ≠ 4 && w.ip slot ≠ 6 then .ok w
        else if w.win < t + 1 then .error 1
        else if byteAt w.bytes t ≤ 1 then .error 0
        else .ok { w with bytes := setAt w.bytes t (bytesBE 1 (byteAt w.bytes t - 1)) }
      | 6 => if w.win < i + 2 then .error 1
             else .ok { w with bytes := setAt w.bytes i (bytesBE 2 ((w.bytes.length + 2 ^ 16 - h - dat) % 2 ^ 16)) }
      | _ =>
        if w.ip slot = 4 then
          if w.win < h + 12 || w.win < h + 4 * (byteAt w.bytes h % 16) then .error 1
          else csumL4 orig o { w with bytes := setAt w.bytes (h + 10) (bytesBE 2 (ipv4Csum w.bytes h)) } slot h
        else csumL4 orig o w slot h

/-- The operations of a template in order, until the first END. -/
def rwRun (orig : List Byte) (o : Parsed) (data : List Byte) (srcs : List Nat) : List W32 → Rw → RwRes
  | [], w => .ok w
  | op :: ops, w =>
    if fld op 3 0 = 0 then .ok w
    else match rwOp orig o data srcs w op with
      | .ok w1 => rwRun orig o data srcs ops w1
      | .error k => .error k

/-- Longest frame, with its FCS. -/
def maxFrame (s : State) : Nat := s.rf Reg.SWC_MAX_FRAME 13 0

/-- Rewrite a copy by a template image: its bytes, or the cause for which it is discarded (R278, R279). -/
def rewriteBytes (mx : Nat) (img : Unit128) (f : List Byte) (o : Parsed) (srcs : List Nat) : Except Nat (List Byte) :=
  let bs := bytesOf img
  let ops := (List.range 16).map fun i => (ofBytes 32 (bs.drop (4 * i)) : W32)
  match rwRun f o (bs.drop 64) srcs ops ⟨f, o.slots, [], min 256 f.length⟩ with
  | .ok w => if f.length + 64 < w.bytes.length || mx < w.bytes.length + 4 then .error 2 else .ok w.bytes
  | .error k => .error k

/-- The bytes of a copy as its egress pipeline's rewrite unit leaves them. -/
def copyBytes (s : State) (x : Frame) (c : Copy) : Except Nat (List Byte) :=
  if c.rewrite = 0 then .ok x.bytes
  else rewriteBytes (maxFrame s) (fget s.swc.rewrites 0 (256 * egressPipe c.port + c.rewrite)) x.bytes
    (x.parsed.getD {}) c.srcs

/-! ### PTP event messages at egress -/

/-- Where the PTP header of an event message stands, and the UDP checksum above it (R425). -/
def ptpFind (f : List Byte) : Option (Nat × Option Nat) :=
  let rec go : Nat → Nat → Option (Nat × Option Nat)
    | tags, i =>
      let t := beAt f i 2
      let h := i + 2
      if t = 0x88F7 then some (h, none)
      else if t = 0x0800 then
        if byteAt f h = 0x45 && beAt f (h + 6) 2 % 0x4000 = 0 && byteAt f (h + 9) = 17 && beAt f (h + 22) 2 = 319
        then some (h + 28, some (h + 26)) else none
      else if t = 0x86DD then
        if byteAt f (h + 6) = 17 && beAt f (h + 42) 2 = 319 then some (h + 48, some (h + 46)) else none
      else if t = 0x8100 || t = 0x88A8 then
        match tags with
        | 0 => none
        | n + 1 => go n (i + 4)
      else none
  match go 2 12 with
  | some (p, u) =>
    if p + 34 ≤ f.length && byteAt f (p + 1) % 16 = 2 && byteAt f p % 16 < 4 then some (p, u) else none
  | none => none

/-- Write bytes into a PTP message, with the UDP checksum updated unless it is 0 (R426). -/
def ptpSet (f : List Byte) (u : Option Nat) (i : Nat) (bs : List Byte) : List Byte :=
  let g := setAt f i bs
  match u with
  | some c =>
    let old := beAt f c 2
    if old = 0 then g else setAt g c (bytesBE 2 (csumAdjust old (bytesAt f i bs.length) bs))
  | none => g

/-- Add to the correctionField (R426): a sum beyond the signed 64-bit field is written as its greatest value. -/
def ptpCorrect (f : List Byte) (p : Nat) (u : Option Nat) (d : Nat) : List Byte :=
  let v : Int := (BitVec.ofNat 64 (beAt f (p + 8) 8)).toInt + d
  ptpSet f u (p + 8) (bytesBE 8 (if 2 ^ 63 ≤ v then 2 ^ 63 - 1 else (BitVec.ofInt 64 v).toNat))

/-- The transmit timestamp of a copy that begins now on a port, and its tick in units of 2^-16 ns (R422, R406). -/
def txStamp (s : State) (n : Nat) : DevTime × Nat :=
  let d := (Config.txDelay (quadMode s n)).toNat
  (DevTime.ofUnits (s.time.units + d), 2 ^ 16 * s.tmu.tick + s.tmu.tickFrac / 2 ^ 24 + d)

/-- The residence time correction of R426. -/
def ptpTransit (s : State) (n : Nat) (x : Frame) (stamp : Nat) (f : List Byte) : State × List Byte :=
  match ptpFind f with
  | some (p, u) =>
    if bit (s.reg (Reg.TMU_PTP_CFG n)) 0 && x.rxTime.isSome then
      let d := (stamp + 2 ^ 64 - x.rxTick % 2 ^ 64) % 2 ^ 64
      if 2 ^ 63 ≤ d then (s.bumpField Reg.TMU_PTP_SKIP_COUNT 15 0, f) else (s, ptpCorrect f p u d)
    else (s, f)
  | none => (s, f)

/-- The one-step Sync of R427. -/
def ptpOneStep (s : State) (x : Frame) (t : DevTime) (f : List Byte) : State × List Byte :=
  if x.oneStep then
    match ptpFind f with
    | some (p, u) =>
      if byteAt f p % 16 = 0 && p + 44 ≤ f.length then
        (s, ptpCorrect (ptpSet f u (p + 34) (bytesBE 6 t.sec ++ bytesBE 4 t.ns)) p u t.frac)
      else (s.bumpField Reg.TMU_PTP_SKIP_COUNT 31 16, f)
    | none => (s.bumpField Reg.TMU_PTP_SKIP_COUNT 31 16, f)
  else (s, f)

/-- The timestamp request of a copy (R428): KIND and TS_ID. -/
def tsRequest (s : State) (n : Nat) (x : Frame) (f : List Byte) : Option (Bool × Nat) :=
  if x.tsReq then some (false, x.tsId)
  else if bit (s.reg (Reg.TMU_PTP_CFG n)) 1 then (ptpFind f).map fun p => (true, beAt f (p.1 + 30) 2)
  else none

end Sys2Proof.Machine
end

