-- ==== Sys2Proof/Machine/Traffic.lean ====
section
/-!
DEFINITION. Machine/Traffic.lean: the traffic manager: selection and shaping, transmission, node and policer commands,
queue sampling (R312-R323, R332-R334).
-/

namespace Sys2Proof.Machine

open Sys2Proof

/-! ### Shapers (R320) -/

/-- The signed OVERHEAD of a node. -/
def nodeOverhead (e : BitVec 256) : Int := (BitVec.ofNat 8 (fld e 127 120)).toInt
/-- RATE and BURST of a node. -/
def nodeRate (e : BitVec 256) : Nat := fld e 95 64
def nodeBurst (e : BitVec 256) : Nat := fld e 119 96

/-- A copy's length as a node charges it. -/
def shapedLen (e : BitVec 256) (len : Nat) : Nat := ((len : Int) + nodeOverhead e).toNat

/-- A node's tokens now, in 1/1,024 byte. -/
def tokensNow (s : State) (level id : Nat) : Int :=
  let e := s.node level id
  let d := s.nodeDyn level id
  min ((1024 * nodeBurst e : Nat) : Int) (d.tokens + (1024 * (nodeRate e * (s.ns - d.last)) / 8000000 : Nat))

/-- Does a node's shaper allow it? -/
def shaperAllows (s : State) (level id : Nat) : Bool :=
  nodeRate (s.node level id) == 0 || decide (0 < tokensNow s level id)

/-- Charge a node's shaper for a copy. -/
def shaperCharge (s : State) (level id len : Nat) : State :=
  let e := s.node level id
  if nodeRate e = 0 then s
  else s.setNodeDyn level id { s.nodeDyn level id with
    tokens := tokensNow s level id - 1024 * (shapedLen e len : Nat), last := s.ns }

/-! ### Selection (R318, R319, R331) -/

/-- A queue that may send: its head copy's frame length, and the nodes below its port down to the queue. -/
structure Cand where
  queue : Nat
  len   : Nat
  path  : List (Nat × Nat)
deriving DecidableEq, Repr

/-- Frame length of a copy: stored bytes and the FCS (R320). -/
def copyLen (s : State) (c : Copy) : Nat := ((s.frame? c.frame).map (·.bytes.length)).getD 0 + 4

/-- Do the gates let a head copy go (R331)? -/
def gateAllows (s : State) (n cls len : Nat) : Bool :=
  let x := s.gatesOf n
  match x.oper with
  | some g =>
    let dur := ((len + 20) * 8 + portRate s n - 1) / max 1 (portRate s n)
    x.gates.testBit cls && gateOpen g x.armed cls (dur + 1) s.tmu.time.nanos dur
  | none => true

/-- A queue's candidate on a port, where it is eligible (R318). -/
def queueCand (s : State) (n : Nat) (ok : Copy → Bool) (q : Nat) (x : QueueSt) : Option Cand :=
  match queueHead x with
  | some c =>
    let path := queuePath s q
    let cls := queueClass s q
    if c.port == n && queuePort s q == n && path.all (fun p => shaperAllows s p.1 p.2) && !(n < 128 && classPaused s n cls) &&
        gateAllows s n cls (copyLen s c) && ok c
    then some ⟨q, copyLen s c, path.reverse.drop 1⟩ else none
  | none => none

/-- A node's place in the order of its siblings: by ID, then level. -/
def sibKey (p : Nat × Nat) : Nat := 4 * p.2 + p.1

/-- Insert a key in rising order without repeats. -/
def insertKey (k : Nat) : List Nat → List Nat
  | [] => [k]
  | j :: js => if k < j then k :: j :: js else if k = j then j :: js else j :: insertKey k js

/-- The number of quanta a child needs before it can send; a visit gives at least one. -/
def roundsFor (deficit : Int) (len quantum : Nat) : Nat := max 1 ((((len : Int) - deficit).toNat + quantum - 1) / max 1 quantum)

/-- A child in a round: its key, the candidate below it and the changes its own choice makes, its length and quantum. -/
structure Sib where
  key   : Nat
  cand  : Cand
  upd   : List (Nat × Nat × NodeDyn)
  len   : Nat
  quant : Nat
  dyn   : NodeDyn
deriving DecidableEq, Repr

/-- Deficit round robin among the children of highest priority: the choice and what it leaves (R319). -/
def drrChoose (parent : Nat × Nat) (pd : NodeDyn) (xs : List Sib) : Option (Cand × List (Nat × Nat × NodeDyn)) :=
  let took := fun (x : Sib) (d : Int) (others : List (Nat × Nat × NodeDyn)) =>
    some (x.cand, others ++ x.upd ++ [(x.key % 4, x.key / 4, { x.dyn with deficit := d }),
      (parent.1, parent.2, { pd with pointer := x.key + 1 })])
  match xs.find? fun x => x.key + 1 == pd.pointer && decide ((x.len : Int) ≤ x.dyn.deficit) with
  | some x => took x (x.dyn.deficit - x.len) []
  | none =>
    let order := xs.filter (fun x => decide (pd.pointer ≤ x.key)) ++ xs.filter (fun x => decide (x.key < pd.pointer))
    let k := (order.map fun x => roundsFor x.dyn.deficit x.len x.quant).foldl
      (fun (m : Option Nat) r => some (min (m.getD r) r)) none
    match k, order.findIdx? fun x => some (roundsFor x.dyn.deficit x.len x.quant) == k with
    | some k, some i =>
      match order[i]? with
      | some x =>
        took x (x.dyn.deficit + k * x.quant - x.len) (order.zipIdx.filterMap fun e =>
          if e.2 = i then none
          else some (e.1.key % 4, e.1.key / 4, { e.1.dyn with deficit :=
            e.1.dyn.deficit + (if e.2 < i then k else k - 1 : Nat) * e.1.quant }))
      | none => none
    | _, _ => none

/-- The choice beneath a node (R319): a candidate and what choosing it changes in the nodes' round-robin state. -/
def pickBelow (s : State) : Nat → Nat × Nat → List Cand → Option (Cand × List (Nat × Nat × NodeDyn))
  | 0, _, cs => cs.head?.map fun c => (c, [])
  | fuel + 1, node, cs =>
    match cs.find? fun c => c.path.isEmpty with
    | some c => some (c, [])
    | none =>
      let keys := (cs.filterMap fun c => c.path.head?.map sibKey).foldl (fun ks k => insertKey k ks) []
      let prio := fun k => fld (s.node (k % 4) (k / 4)) 45 43
      let top := keys.foldl (fun m k => max m (prio k)) 0
      let sibs := (keys.filter fun k => prio k == top).filterMap fun k =>
        let below := (cs.filter fun c => c.path.head?.map sibKey == some k).map fun c => { c with path := c.path.drop 1 }
        (pickBelow s fuel (k % 4, k / 4) below).map fun r =>
          let e := s.node (k % 4) (k / 4)
          (⟨k, r.1, r.2, shapedLen e r.1.len, 256 * max 1 (fld e 53 46), s.nodeDyn (k % 4) (k / 4)⟩ : Sib)
      drrChoose node (s.nodeDyn node.1 node.2) sibs

/-- Is a copy queued on or beneath a node? -/
def queuedBeneath (s : State) (level id : Nat) : Bool :=
  s.swc.queues.any fun e => (!e.2.onDie.isEmpty || !e.2.spilled.isEmpty) && (queuePath s e.1).contains (level, id)

/-- A node with nothing left beneath it keeps no deficit. -/
def restDeficit (s : State) (p : Nat × Nat) : State :=
  let d := s.nodeDyn p.1 p.2
  if d.deficit = 0 || queuedBeneath s p.1 p.2 then s else s.setNodeDyn p.1 p.2 { d with deficit := 0 }

/-- The head copy of a queue leaves it. -/
def queueShift (s : State) (q : Nat) : State :=
  let x := s.queue q
  s.setQueue q { x with onDie := x.onDie.drop 1 }

/-- Select a port's next copy and take it from its queue, charging every shaper on its path (R319, R320). -/
def selectCopy (s : State) (n : Nat) (ok : Copy → Bool) : State × Option Copy :=
  let cs := s.swc.queues.filterMap fun e => queueCand s n ok e.1 e.2
  match pickBelow s 4 (0, n) cs with
  | some (c, upd) =>
    let s1 := upd.foldl (fun s u => s.setNodeDyn u.1 u.2.1 u.2.2) s
    let head := queueHead (s.queue c.queue)
    let path := queuePath s c.queue
    let s2 := path.foldl (fun s p => shaperCharge s p.1 p.2 c.len) (queueShift s1 c.queue)
    (path.foldl restDeficit s2, head)
  | none => (s, none)

/-! ### Transmission (R266, R276-R279, R287, R290, R319, R331, R422-R428) -/

/-- A copy that has left its queue is dropped. -/
def copyDrop (s : State) (c : Copy) : State :=
  settle (dropCount (unchargeEg (notSent (cutVoqs s (sameCopy c)) c) c.port c.cells) c.queue 1) c.frame

/-- Drop the head copies of a port's queues that exceed the limit of the operative gate list (R331). -/
def dropOversize (s : State) (n : Nat) : State :=
  (s.swc.queues.filter fun e => queuePort s e.1 == n).foldl (fun s e =>
    let lim := gateSdu s n (queueClass s e.1)
    e.2.onDie.foldl (fun s _ =>
      match queueHead (s.queue e.1) with
      | some c => if lim ≠ 0 && lim < copyLen s c then
          copyDrop ((queueShift s e.1).bump Reg.TMG_GATE_OVERSIZE_COUNT) c else s
      | none => s) s) s

/-- A copy goes back in at a recirculation port (R143, R422): its frame's receive timestamp stays. -/
def recirculate (s : State) (n : Nat) (x : Frame) (bytes : List Byte) : State :=
  if admitIngress s n then
    (frameNew s { port := n, pipe := n - 132, fabric := ingressFabric n, bytes := bytes, front := false,
                  rxTime := x.rxTime, rxTick := x.rxTick, seenTime := s.time,
                  tailErr := if x.marked.isSome then some 0 else none }).1
  else s.bump (Reg.SWC_ING_DROP_COUNT n)

/-- The copy on a port's wire has been sent: its bytes go out, with the FCS inverted where it is tail-marked (R277). -/
def wireFinish (s : State) (n : Nat) : State :=
  match ffind? s.swc.wire n with
  | none => s
  | some w =>
    let s1 := unchargeEg { s with swc := { s.swc with wire := ferase s.swc.wire n } } n w.copy.cells
    match s.frame? w.copy.frame with
    | none => pfcBoundary s1 n
    | some x =>
      let fcs := fcsBytes w.bytes
      let s2 :=
        if n < 128 then
          let s3 := s1.emit (.frame n (w.bytes ++ if x.marked.isSome then fcs.map (~~~ ·) else fcs))
          if w.ts.isSome then txtsClose s3 n x.marked.isSome.toNat else s3
        else recirculate s1 n x w.bytes
      settle (pfcBoundary s2 n) w.copy.frame

/-- Can the copy on a port's wire end: its frame's tail is in, and all its cells have crossed? -/
def wireReady (s : State) (n : Nat) : Bool :=
  match ffind? s.swc.wire n with
  | some w => ((s.frame? w.copy.frame).map (·.tail)).getD true && !(voqCopies s).any fun v => sameCopy v.copy w.copy
  | none => true

/-- Begin a copy on a port's wire: rewrite, PTP, timestamp and its queue entry (R428). A first cell that fails its check keeps it from starting; a
later one marks it. -/
def wireStart (s : State) (n : Nat) (c : Copy) : State :=
  match s.frame? c.frame with
  | none => s
  | some x =>
    if x.cells.head?.any fun k => s.swc.badCells.contains k then
      settle (cellFail (copyDrop s c) c.frame (x.cells.headD 0)) c.frame
    else match copyBytes s x c with
      | .error k => copyDrop (s.bump (Reg.SWC_REWRITE_DROP_COUNT k)) c
      | .ok f =>
        let st := txStamp s n
        let front := n < 128
        let a := if front then ptpTransit s n x st.2 f else (s, f)
        let b := if front then ptpOneStep a.1 x st.1 a.2 else a
        let w : OnWire := { copy := c, endNs := if front then s.ns + ((f.length + 24) * 8 + portRate s n - 1) / max 1 (portRate s n)
                                                else s.ns,
                            time := st.1, bytes := b.2, ts := if front then tsRequest s n x b.2 else none }
        let s0 := { b.1 with swc := { b.1.swc with wire := fset b.1.swc.wire n w } }
        let s1 := match w.ts with
          | some (k, id) => txtsPush s0 n 0 k id w.time true
          | none => s0
        match badCell s1 c.frame with
        | some k => settle (cellFail s1 c.frame k) c.frame
        | none => s1

/-- TRANSMIT_START (R319): the copy on the wire ends, and the port's next copy begins. A host port writes to its punt
rings instead (R457). -/
def execTransmitStart (port : Fin 140) (s : State) : Out' :=
  let n := port.val
  if 128 ≤ n && n < 132 then .next s
  else if !wireReady s n then .next s
  else
    let s1 := match ffind? s.swc.wire n with
      | some w => wireFinish (s.reach w.endNs) n
      | none => s
    if portUp s1 n then
      let r := selectCopy (dropOversize (gatesRefresh s1 n) n) n fun _ => true
      .next (match r.2 with
        | some c => wireStart r.1 n c
        | none => r.1)
    else .next s1

/-! ### Node commands (R316, R317, R334) -/

/-- Is a node entry good (R316)? -/
def nodeOk (s : State) (e : BitVec 256) : Bool :=
  let level := fld e 1 0
  let id := fld e 21 3
  let pl := fld e 23 22
  let pid := fld e 42 24
  zeroFields e [(63, 59), (191, 148), (255, 244)] && id < nodeCount level && fld e 53 46 != 0 && fld e 58 57 != 3 &&
  decide (-64 ≤ nodeOverhead e) && (nodeRate e == 0 || nodeBurst e != 0) &&
  (if level = 0 then bit e 2 && pl == 0 && pid == 0
   else pl < level && pid < nodeCount pl && nodeValid s pl pid)

/-- Apply a node entry (R317): the failure's status code, 0 for none. -/
def nodeApply (s : State) (e : BitVec 256) : State × Nat :=
  let level := fld e 1 0
  let id := fld e 21 3
  let old := s.node level id
  let moved := fld e 42 22 != fld old 42 22 || (bit old 2 && !bit e 2)
  if moved && queuedBeneath s level id then (s, St.busy)
  else
    let fresh := bit e 2 && !bit old 2
    let shaped := fld e 127 64 != fld old 127 64
    let burst : Int := (1024 * nodeBurst e : Nat)
    let was : Int := if fresh || nodeRate old == 0 then 0 else tokensNow s level id
    let tok : Int := if nodeRate e == 0 then 0 else if shaped || fresh then
      (match fld e 58 57 with
       | 0 => burst
       | 1 => 0
       | _ => min was burst) else was
    let keep := put (put e 58 57 0) 243 192 0
    let s1 := { s with tmg := { s.tmg with nodes := fput s.tmg.nodes (nodeReset level id) (nodeKey level id) keep } }
    (s1.setNodeDyn level id { s.nodeDyn level id with tokens := tok, last := s.ns }, 0)

/-- The result of a traffic-manager command: the first failed entry and its status (R334). -/
def firstFail (fs : List (Nat × Nat)) : Nat :=
  match fs.head? with
  | some e => e.1 + 2 ^ 16 * e.2
  | none => 0

/-- TM_NODE_WRITE (R316, R317, R334). -/
def execTmNodeWrite (ring : Fin 1024) (slot : Nat) (s : State) : Out' :=
  onCmd s ring slot 0x78 fun c =>
    let es := entriesOf 256 (fld c.desc 207 192) c.buf
    if es.all (nodeOk s) then
      let r := es.zipIdx.foldl (fun (a : State × List (Nat × Nat)) e =>
        let x := nodeApply a.1 e.1; (x.1, if x.2 = 0 then a.2 else a.2 ++ [(e.2, x.2)])) (s, [])
      r.1.finish ring slot St.ok 0 (firstFail r.2)
    else s.badField ring slot

/-- On-die cells queued beneath a node. -/
def depthBeneath (s : State) (level id : Nat) : Nat :=
  (s.swc.queues.map fun e => if (queuePath s e.1).contains (level, id) then queueCells e.2 else 0).sum

/-- A node entry as TM_NODE_READ returns it (R316). -/
def nodeImage (s : State) (level id : Nat) : BitVec 256 :=
  put (put (s.node level id) 223 192
    (if nodeRate (s.node level id) = 0 then 0 else (BitVec.ofInt 32 ((tokensNow s level id) / 1024)).toNat)) 243 224
    (depthBeneath s level id)

/-- TM_NODE_READ (R334): a range past the level's last node is BAD_FIELD. -/
def execTmNodeRead (ring : Fin 1024) (slot : Nat) (s : State) : Out' :=
  onCmd s ring slot 0x79 fun c =>
    let level := fld c.desc 74 73
    let first := fld c.desc 255 224
    let n := fld c.desc 207 192
    if nodeCount level < first + n then s.badField ring slot 28
    else (s.output c ((List.range n).flatMap fun i => bytesOf (nodeImage s level (first + i)))).finish ring slot St.ok

/-- POLICER_PROFILE_WRITE (R321, R323, R334). -/
def execPolicerProfileWrite (ring : Fin 1024) (slot : Nat) (s : State) : Out' :=
  onCmd s ring slot 0x7A fun c =>
    let first := fld c.desc 255 224
    let n := fld c.desc 207 192
    let es := entriesOf 128 n c.buf
    if first = 0 || 4096 < first + n then s.badField ring slot 28
    else if es.all fun e => fld e 127 64 == 0 then
      (forAll s (List.range 16) fun s i =>
        let x := s.slice i
        s.setSlice i { x with profiles := (es.zipIdx first).foldl (fun m (e : BitVec 128 × Nat) => fput m 0 e.2 e.1) x.profiles }).finish
        ring slot St.ok
    else s.badField ring slot

/-! ### Queue sampling (R332) -/

/-- One sample of a queue, after which its peak and drops start again. -/
def sampleQueue (s : State) (q : Nat) : State :=
  let x := s.queue q
  let depth := queueCells x
  let delay := match (queueHead x).or (x.spilled.head?) with
    | some c => (tickDiff s.tick c.tick).toNat
    | none => 0
  let s1 := raiseOn s (s.rf Reg.TMG_EVENT_CTRL 9 0) Reg.TMG_EVENT_DROP_COUNT 0x7D
    [(82, 64, q), (143, 96, s.tick), (163, 144, depth), (187, 164, (x.spilled.map (·.segs)).sum),
     (219, 188, min delay (2 ^ 32 - 1)), (239, 220, x.peak), (255, 240, x.drops)]
  s1.setQueue q { x with peak := depth, drops := 0 }

/-- The valid entries of the sample list, in index order. -/
def sampleList (s : State) : List Nat := (List.range 4096).filter fun i => bit (s.reg (Reg.TMG_SAMPLE_LIST i)) 31

/-- A pass begins (R332): PERIOD_US after the one before, or later where that one was still running when this fell due. How long a
pass with an entry to read runs is not stated: free values say whether it overran, and by how much. -/
def passBegin (s : State) : State :=
  let f := s.free
  let late := s.tmg.sampleRan && f.1 % 2 == 1
  let s1 := match s.tmg.sampleLast with
    | some t => f.2.reach (t + 1000 * s.rf Reg.TMG_SAMPLE_CTRL 31 16 + if late then f.1 / 2 else 0)
    | none => f.2
  let s2 := { s1 with tmg := { s1.tmg with sampleLast := some s1.ns, sampleRan := !(sampleList s).isEmpty } }
  if late then intRaise (s2.bump Reg.TMG_SAMPLE_OVERRUN_COUNT) 10 2 else s2

/-- QUEUE_SAMPLE_PASS (R332): every valid entry of the sample list in index order. -/
def execQueueSamplePass (s : State) : Out' :=
  if bit (s.reg Reg.TMG_SAMPLE_CTRL) 0 then
    .next ((sampleList s).foldl (fun s i => sampleQueue s (s.rf (Reg.TMG_SAMPLE_LIST i) 18 0)) (passBegin s))
  else .next s

/-- A write of TMG_SAMPLE_CTRL (R332, R335): with ENABLE = 0 no pass runs or is due. -/
def sampleCtrlWrite (s : State) (v : W32) : State :=
  if fld v 31 16 = 0 then badWrite s
  else
    let s1 := s.setReg Reg.TMG_SAMPLE_CTRL (v &&& 0xFFFF0001)
    if bit v 0 then s1 else { s1 with tmg := { s1.tmg with sampleLast := none, sampleRan := false } }

end Sys2Proof.Machine
end

