-- ==== Sys2Proof/Machine/Deliver.lean ====
section
/-!
DEFINITION. Machine/Deliver.lean: how a frame goes on once its path is known: the stateless path, punting, and what its tail
brings (R138, R175, R220, R222, R252, R276, R282, R456, R457).
-/

namespace Sys2Proof.Machine

open Sys2Proof

/-- A frame that waited goes on; one whose tail has brought an error is dropped (R276). -/
def deliver (s : State) (f : Nat) (act : State → State) : State :=
  match s.frame? f with
  | none => s
  | some x =>
    if x.tail && x.tailErr.isSome then frameDrop s f
    else settle ((act s).modFrame f fun x => { x with held := false }) f

/-- The punt group of a reason (R457). -/
def puntGroup (reason : Nat) (kind : Bool) : Nat := if kind then 8 + reason / 32 % 8 else reason / 16 % 8

/-- Punt a copy of a frame (R457): it goes to its group's host port and class. -/
def puntFrame (s : State) (f : Nat) (m : PuntMeta) : State :=
  let w := s.reg (Reg.HIF_PUNT_MAP (puntGroup m.reason m.kind))
  sendCopy s { frame := f, port := 128 + fld w 1 0, queue := 1024 + 8 * fld w 1 0 + fld w 4 2, punt := some m }

/-- Send a frame where an outcome says (R222); a fault is counted for pipeline `p`. -/
def sendFate (s : State) (f p : Nat) (fate : Fate) (cls rewrite reason : Nat) (srcs : List Nat) : State :=
  match fate with
  | .port n => sendCopy s { frame := f, port := n, queue := 8 * n + cls, rewrite := rewrite, srcs := srcs }
  | .group g => sendGroup s f g cls rewrite srcs
  | .punt => puntFrame s f { reason := reason }
  | .fault => s.bump (Reg.FWD_NH_FAULT_COUNT p)
  | .drop | .tile => s

/-- FRAME_LEN and LEN_EXACT of a frame (R172): one longer than 256 bytes that starts without an L3 slot has its tail in. -/
def frameLen (x : Frame) (o : Parsed) : Nat × Bool :=
  let n := x.bytes.length
  if n ≤ 256 then (n + 4, true)
  else match o.slot 2 with
    | some h =>
      if h.check = 2 then (h.off + beAt x.bytes (h.off + 2) 2 + 4, false)
      else if h.check = 3 then (h.off + beAt x.bytes (h.off + 4) 2 + 44, false)
      else (n + 4, false)
    | none => (n + 4, true)

/-- What the outer headers of a frame alone show: the slots up to L4, and no tunnel (R136, R137, R175). -/
def Parsed.outer (o : Parsed) : Parsed :=
  { o with slots := fkeep o.slots (· ≤ 3), innerProto := 0, innerFrag := 0, vni := none, teid := none, tunnel := [], tunNum := 0 }

/-- Resolve a frame on the stateless path by what `o` shows of it, and send it (R220, R252). Its source is learned as R230 lays down:
not that of an injected frame. -/
def stateless (s : State) (f : Nat) (o : Parsed) : State :=
  match s.frame? f with
  | none => s
  | some x =>
    let s1 := if x.inject.isNone then learnFrame s x.pipe x.port x.bytes o else s
    let r := resolveStateless s1 x.pipe x.port x.bytes o
    let t := tcamApply r.1 x.pipe x.port (x.bytes.length + 4) x.bytes o r.2
    let s2 := sendFate t.1 f x.pipe t.2.1.fate t.2.1.cls t.2.1.rewrite t.2.1.reason []
    if t.2.2 then puntFrame s2 f { reason := 0x32 } else s2

/-- Does a frame longer than 256 bytes end within its outer L3 packet (R138)? -/
def tailOver (x : Frame) : Bool :=
  let o := x.parsed.getD {}
  256 < x.bytes.length && (o.slot 2).any (fun h => h.check == 2 || h.check == 3) && x.bytes.length < o.l3End

/-- What a frame's tail brings (R138, R276, R282): an error, or the copies of its group. `gone` where the frame has been dropped:
then only the check of its length is left. -/
def tailWork (s : State) (f : Nat) (gone : Bool) : State :=
  match s.frame? f with
  | none => s
  | some x =>
    let long := tailOver x
    let s1 := if long then s.bump (Reg.PRS_MALFORMED_COUNT x.pipe 6) else s
    if gone then s1
    else match x.tailErr with
      | some k => tailError s1 f k
      | none =>
        let act := s.rf (Reg.PRS_MALFORMED_ACTION x.pipe) 13 12
        if long && (act == 0 || act == 2) then tailError (s1.modFrame f fun x => { x with tailErr := some 2 }) f 2
        else match x.group with
          | some (g, cls, rw, srcs) => groupSend s1 f g cls rw srcs
          | none => s1

/-- FRAME_LEN of a packet is its frame's measured length, and LEN_EXACT is 1 (R158, R196). -/
def lenExact (p : Pkt) (n : Nat) : Pkt :=
  { p with words := fput (fput p.words 0 1 (BitVec.ofNat 16 (n + 4))) 0 2 (p.m 2 ||| 8) }

/-- The tail of a frame is in: the packet that has started on it learns its length (R196). -/
def tailWords (s : State) (f : Nat) : State :=
  match s.frame? f with
  | some x =>
    let y := s.cluster x.pipe
    if y.pkts.any fun p => p.frame == f && p.stage != .queued then
      s.setCluster x.pipe { y with pkts := y.pkts.map fun p =>
        if p.frame == f && p.stage != .queued then lenExact p x.bytes.length else p }
    else s
  | none => s

/-- FRAME_TAIL (R138, R268, R270, R276, R282, R460): the frame's last byte is stored, once its header window has been parsed and
each of its cells has been allocated. Of a frame that has been dropped nothing is left to store. -/
def execFrameTail (frame : Nat) (s : State) : Out' :=
  match s.frame? frame with
  | none => .next s
  | some x =>
    let gone := !x.held && x.group.isNone && !heldOnDie s frame && (pendingCopies s frame).isEmpty
    if x.tail || (256 < x.bytes.length && x.parsed.isNone) || !(gone || x.cells.length == needCells x) then .next s
    else
      let s1 := tailWords (tailIn s frame) frame
      let s2 := match x.inject with
        | some (r, i) => s1.finish r i St.ok
        | none => s1
      .next (settle (tailWork s2 frame gone) frame)

end Sys2Proof.Machine
end

