-- ==== Sys2Proof/Machine/Audit.lean ====
section
/-!
DEFINITION. Machine/Audit.lean: the audit log's staging (R491-R493), Hallmark's events (R496), the life-cycle state and the sessions
that a record names (R484, R487).
-/

namespace Sys2Proof.Machine

open Sys2Proof

/-- Life-cycle states (R484): MANUFACTURE 0, PROVISION 1, OPERATE 2, RETURN 3, END 4. -/
def State.lcs (s : State) : Nat := s.hmk.fuses.lcs

/-- The open session of a ring: one whose DURATION_S of ticks has passed is closed (R487). -/
def State.session? (s : State) (r : Nat) : Option Session := (ffind? s.hmk.sessions r).filter fun x => decide (s.tmu.tick < x.ends)

/-- Open sessions across the device (R487). -/
def openSessions (s : State) : Nat := (s.hmk.sessions.filter fun e => decide (s.tmu.tick < e.2.ends)).length

/-- An HMK event with its interrupt source (R496, R519): types 0xB8 to 0xBB. -/
def hmkEvent (s : State) (typ seq detail : Nat) : State :=
  intRaise (raiseOn s (s.rf Reg.HMK_EVENT_CTRL 9 0) Reg.HMK_EVENT_DROP_COUNT typ [(127, 64, seq), (135, 128, detail)]) 13
    (typ - 0xB8)

/-- Records not yet released. -/
def auditHeld (s : State) : Nat := s.hmk.seq + s.hmk.early.length - s.hmk.released

/-- Records on die. -/
def auditStaged (s : State) : Nat := s.hmk.staging.length + s.hmk.early.length

/-- Can the audit region be written: is every stack trained, and the device not in Solitaire mode (R492)? -/
def auditHbm (s : State) : Bool := (List.range 4).all (fun h => (s.stack h).trained) && !s.hlt.solo

/-- Does the audit log refuse privileged commands (R493)? -/
def auditFull (s : State) : Bool := 524224 ≤ auditHeld s || (192 ≤ auditStaged s && !auditHbm s)

/-- The HBM address of a record (R492). -/
def auditAddr (seq : Nat) : Nat := auditBase + 128 * (seq % 524288)

/-- What a record says beside SEQ, the times, the state and CHAIN (R491). Ring 0xFFFF and function 0xFF name the device. -/
structure AuditRec where
  kind    : Nat
  role    : Nat := 0
  key     : Nat := 0
  fn      : Nat := 0xFF
  ring    : Nat := 0xFFFF
  opcode  : Nat := 0
  status  : Nat := 0
  tag     : Nat := 0
  subject : List Byte := []
deriving DecidableEq, Repr

/-- SEQ of the record that is appended next; one of an event before the BOOT record follows it. -/
def nextSeq (s : State) : Nat := if s.hmk.boot == 2 then s.hmk.seq else s.hmk.early.length + 1

/-- A record but for SEQ, CHAIN and tile check. -/
def auditBody (s : State) (a : AuditRec) : Unit128 :=
  ofBytes 1024 (bytesLE 8 0 ++ bytesLE 6 s.tick ++ bytesLE 2 a.kind ++ bytesLE 6 s.tmu.time.sec ++ bytesLE 4 s.tmu.time.ns ++
    bytesLE 1 a.role ++ bytesLE 1 a.key ++ bytesLE 1 a.fn ++ bytesLE 1 s.lcs ++ bytesLE 2 a.ring ++ bytesLE 1 a.opcode ++
    bytesLE 1 a.status ++ bytesLE 2 0 ++ bytesLE 4 a.tag ++ (a.subject ++ List.replicate 52 0).take 52)

/-- The newest 256 of some records: the buffer holds no more (R492). -/
def newest (us : List Unit128) : List Unit128 := us.drop (us.length - 256)

/-- Number a record, chain it, seal it and stage it (R491, R492); AUDIT_HIGH_WATER is raised once (R493). -/
def auditPut (s : State) (u : Unit128) : State :=
  let h := s.hmk
  let u1 := put u 63 0 h.seq
  let ch := (Config.sha512 ((h.chain ++ List.replicate 32 0).take 32 ++ (bytesOf u1).take 92)).take 32
  let u2 := sealUnit (auditAddr h.seq) (put u1 991 736 (natLE ch))
  let s1 := { s with hmk := { h with staging := newest (h.staging ++ [u2]), seq := h.seq + 1, chain := ch } }
  if h.auditArmed && 471860 ≤ auditHeld s1 then
    hmkEvent { s1 with hmk := { s1.hmk with auditArmed := false } } 0xB8 h.seq 0
  else s1

/-- Append a record (R491). The BOOT record has SEQ 0: the records of events before it wait and follow it. -/
def auditAdd (s : State) (a : AuditRec) : State :=
  let u := auditBody s a
  if s.hmk.boot == 2 then auditPut s u else { s with hmk := { s.hmk with early := newest (s.hmk.early ++ [u]) } }

/-- The BOOT record, and after it the records that waited for it. -/
def auditBoot (s : State) (subject : List Byte) : State :=
  let s1 := auditPut s (auditBody s { kind := 1, subject := subject })
  s.hmk.early.foldl auditPut { s1 with hmk := { s1.hmk with early := [] } }

/-- A command with what its rights are judged by as it is checked at acceptance (R487). -/
def CmdEnt.under (c : CmdEnt) (s : State) (ring : Nat) : CmdEnt :=
  let ss := s.session? ring
  { c with lcs := s.lcs, role := (ss.map (·.role)).getD 0, keyIdx := (ss.map (·.key)).getD 0 }

/-- A record of a command of a ring, with the role and key of the session that it was accepted under. -/
def auditCmd (s : State) (ring : Nat) (c : CmdEnt) (kind status : Nat) (subject : List Byte) : State :=
  auditAdd s { kind := kind, role := c.role, key := c.keyIdx, fn := ringFn s ring, ring := ring,
               opcode := descOp c.desc, status := status, tag := fld c.desc 63 32, subject := subject }

/-- End a privileged command: its record and its completion. -/
def auditFinish (s : State) (ring slot : Nat) (c : CmdEnt) (status : Nat) (subject : List Byte) (detail : Nat := 0)
    (result : Nat := 0) : State :=
  (auditCmd s ring c 2 status subject).finish ring slot status detail result

/-- A refusal for want of a right (R491): coalesced into one DENIED record per ring and second; the count starts with the first. -/
def deniedAdd (s : State) (ring : Nat) (c : CmdEnt) : State :=
  let d := match ffind? s.hmk.denied ring with
    | some d => { d with count := d.count + 1 }
    | none => ⟨descOp c.desc, 1, St.denied, fld c.desc 63 32, ringFn s ring, s.ns⟩
  { s with hmk := { s.hmk with denied := fset s.hmk.denied ring d } }

/-- A SESSION record (R491): 0 open, 1 close, 2 expiry, and DURATION_S. -/
def sessionRec (s : State) (a : AuditRec) (what duration : Nat) : State :=
  auditAdd s { a with kind := 3, subject := bytesLE 1 what ++ bytesLE 4 duration }

/-- A record about a ring's session, where it has one. -/
def sessRecord (s : State) (ring : Nat) (x : Option Session) : AuditRec :=
  { kind := 3, role := (x.map (·.role)).getD 0, key := (x.map (·.key)).getD 0, fn := ringFn s ring, ring := ring }

/-- Forget a ring's session. -/
def sessionDrop (s : State) (ring : Nat) : State := { s with hmk := { s.hmk with sessions := ferase s.hmk.sessions ring } }

/-- The expiry of a ring's session is recorded (R487, R491). -/
def sessionLapse (s : State) (ring : Nat) : State :=
  match ffind? s.hmk.sessions ring with
  | some x => if x.ends ≤ s.tmu.tick then sessionRec (sessionDrop s ring) (sessRecord s ring (some x)) 2 x.lasts else s
  | none => s

/-- A ring's session closes (R487). -/
def sessionClose (s : State) (ring : Nat) : State := sessionDrop (sessionLapse s ring) ring

/-! ### Floors (R477, R478) -/

/-- The entries of a floor log, BOOT 0, VENDOR 1, CUSTOMER 2, and its floor. -/
def floorLog (s : State) (k : Nat) : List Nat := fget s.hmk.fuses.floors [] k
def floorOf (s : State) (k : Nat) : Nat := (floorLog s k).getLast?.getD 0

/-- The status with which a floor refuses a version, 0 for none. -/
def floorStatus (s : State) (k v : Nat) : Nat :=
  if v < floorOf s k then St.rollback
  else if floorOf s k < v && 128 ≤ (floorLog s k).length then St.noSpace
  else St.ok

/-- Burn the next entry of a floor log for a version above its floor; FLOOR_STEPS_LOW is raised at 120 steps. -/
def floorBurn (s : State) (k v : Nat) : State :=
  if v ≤ floorOf s k then s
  else
    let log := floorLog s k ++ [v]
    let s1 := { s with hmk := { s.hmk with fuses := { s.hmk.fuses with floors := fset s.hmk.fuses.floors k log } } }
    let s2 := auditAdd s1 { kind := 5, subject := bytesLE 1 k ++ bytesLE 1 log.length ++ bytesLE 2 v }
    if log.length = 120 then hmkEvent s2 0xB9 (nextSeq s) k else s2

/-! ### Rights (R490) -/

/-- The rows of R490 that a ring command can need. -/
inductive Action where
  /-- Datapath, table, set-up and power commands, KEY_STATE_READ, SOLITAIRE_ENTER, BOOT_IMAGE_LOAD, CODE_KEY_LOAD, tokens. -/
  | plain
  | keys
  | patchVendor
  | patchCustomer
  | keel
  | soloExit
  | bist
  /-- IDENT_CERT_READ, ATTEST and the audit commands: open in every state. -/
  | always
deriving DecidableEq, Repr

/-- What an action needs: any host ring, an open session of a role, or it is refused. -/
inductive Right where
  | host | operator | installer | maker | never
deriving DecidableEq, Repr

/-- The table of R490. -/
def rightFor (lcs : Nat) : Action → Right
  | .always => .host
  | .plain => if lcs < 4 then .host else .never
  | .keys | .patchVendor | .soloExit =>
    match lcs with | 0 => .maker | 1 => .operator | 2 => .operator | 3 => .maker | _ => .never
  | .patchCustomer => match lcs with | 1 => .operator | 2 => .operator | _ => .never
  | .keel => match lcs with | 0 => .maker | 1 => .installer | 2 => .installer | 3 => .maker | _ => .never
  | .bist => match lcs with | 0 => .host | 1 => .installer | 3 => .maker | _ => .never

/-- Does a command have the right to an action? An installer's session gives the operator's rights too (R487). -/
def CmdEnt.may (c : CmdEnt) (a : Action) : Bool :=
  match rightFor c.lcs a with
  | .host => true
  | .operator => c.role == 1 || c.role == 2
  | .installer => c.role == 2
  | .maker => c.role == 3
  | .never => false

/-- Would a command of a ring have the right to an action as things stand? -/
def permits (s : State) (ring : Nat) (a : Action) : Bool := (CmdEnt.under { slot := 0, desc := 0 } s ring).may a

/-- Is an action privileged in the present state: does its entry name a role? -/
def privileged (s : State) (a : Action) : Bool :=
  match rightFor s.lcs a with
  | .host | .never => false
  | _ => true

end Sys2Proof.Machine
end

