-- ==== Sys2Proof/Machine/CmdTable.lean ====
section
/-!
DEFINITION. Machine/CmdTable.lean: the descriptors of the ring commands: reserved bits and ranges of bytes 0x08 to 0x3F (R91, R123,
R148, R180, R214, R235, R258, R294, R334, R347, R379, R392, R401, R438, R459, R495, R521), the bytes that a command reads before it is
checked (R451), and the right it needs (R490).
-/

namespace Sys2Proof.Machine

open Sys2Proof

/-- The reserved fields of the descriptor of an opcode; none where the opcode is unknown. -/
def cmdReserved (op : Nat) : Option (List (Nat × Nat)) :=
  if 0x20 ≤ op && op ≤ 0x28 then some [(127, 123), (511, 235)]
  else if op = 0x40 || op = 0x41 then some [(127, 81), (511, 192)]
  else if op = 0x44 || op = 0x45 then some [(127, 76), (223, 208), (511, 256)]
  else if 0x46 ≤ op && op ≤ 0x48 then some [(73, 72), (127, 75), (223, 208), (511, 256)]
  else if op = 0x50 || op = 0x51 then some [(127, 80), (511, 192)]
  else if op = 0x52 || op = 0x53 then some [(127, 73), (511, 224)]
  else if 0x70 ≤ op && op ≤ 0x74 then some [(127, 88), (511, 224)]
  else if 0x78 ≤ op && op ≤ 0x7C then some [(127, 75), (223, 208), (511, 256)]
  else if 0x80 ≤ op && op ≤ 0x83 then some [(127, 102), (511, 192)]
  else if op = 0x90 then some [(127, 68), (511, 192)]
  else if op = 0x98 || op = 0x99 then some [(71, 70), (75, 75), (79, 79), (511, 89)]
  else if op = 0x9A then some [(127, 71), (511, 192)]
  else if 0xA0 ≤ op && op ≤ 0xA2 then some [(127, 65), (511, 288)]
  else if 0xB0 ≤ op && op ≤ 0xBA then some [(127, 80), (511, 304)]
  else if op = 0xC0 then some [(167, 167), (511, 184)]
  else if 0xD0 ≤ op && op ≤ 0xD7 then some [(207, 195), (511, 240)]
  else none

/-- Does a command use its buffer, which must then be 128-byte aligned? -/
def cmdBuffer (op : Nat) (d : Desc) : Bool :=
  [0x20, 0x21, 0x22, 0x23, 0x25, 0x26, 0x28, 0x40, 0x41, 0x44, 0x45, 0x46, 0x47, 0x48, 0x50, 0x51, 0x52, 0x70, 0x71, 0x72, 0x78, 0x79,
   0x7A, 0x7B, 0x7C, 0x80, 0x82, 0x90, 0x9A, 0xB0, 0xB1, 0xB2, 0xB3, 0xB4, 0xB6, 0xB7, 0xB8, 0xBA, 0xD3, 0xD4, 0xD5, 0xD6,
   0xD7].contains op || (op == 0x24 && bit d 120)

/-- BUF_LEN of a Hallmark command that names a buffer of one length (R495): the certificate's buffer may be shorter than 2,048 bytes. -/
def hmkLenBad (s : State) (op : Nat) (d : Desc) : Bool :=
  let n := fld d 223 192
  match op with
  | 0xB1 => n < s.hmk.fuses.cert.length || 2048 < n
  | 0xB2 => n != 896
  | 0xB3 => n != 32
  | 0xB4 => n != 1152
  | 0xB6 => n != 1152 && n != 1664
  | 0xB7 => n != 512
  | 0xB8 => n != 128 * fld d 303 288
  | 0xBA => n != 624
  | _ => false

/-- May an inject's QUEUE be named: a valid queue whose port is an existing front port (R459, R460)? -/
def injectQueueOk (s : State) (q : Nat) : Bool := nodeValid s 3 q && queuePort s q < 128 && portExists s (queuePort s q)

/-- Bank size in bytes (R89). -/
def flgBytes (s : State) : Nat := if bit (s.reg Reg.FLW_FILIGREE_CTRL) 0 then 65536 * 8 else 131072 * 8

/-- Does a FILIGREE_LOAD name the active bank of a slice, in DUAL mode (R89)? -/
def flgActive (s : State) (d : Desc) : Bool :=
  bit (s.reg Reg.FLW_FILIGREE_CTRL) 0 && (maskList 16 (fld d 111 96)).any fun i => (s.slice i).bank == bit d 122

/-- The ranges of a descriptor's fields: whether each is broken, and the byte offset of its field. -/
def cmdRanges (s : State) (op : Nat) (d : Desc) : List (Bool × Nat) :=
  let zero := fun (hi lo : Nat) => fld d hi lo == 0
  let count := fun (hi lo top : Nat) => fld d hi lo == 0 || top < fld d hi lo
  let align := (cmdBuffer op d && fld d 134 128 != 0, 16)
  let solo := (fld d 193 192 == 3, 24)
  match op with
  | 0x22 => [(bit d 121, 15), align]
  | 0x23 => [align, (zero 234 224, 28)]
  | 0x26 => [(zero 111 96, 12), (flgActive s d, 15), align, (fld d 223 192 % 8 != 0 || flgBytes s < fld d 223 192, 24)]
  | 0x27 => [(zero 111 96, 12)]
  | 0x28 => [(zero 75 64, 8), align]
  | 0x40 | 0x41 => [(zero 71 64, 8), (23 < fld d 80 76, 9), align]
  | 0x44 | 0x45 => [(zero 71 64, 8), align, (count 207 192 1024, 24)]
  | 0x46 | 0x47 | 0x48 => [(zero 71 64, 8), align, (count 207 192 256, 24)]
  | 0x50 | 0x51 => [(zero 79 72, 9), align]
  | 0x52 | 0x53 => [(zero 71 64, 8), align]
  | 0x70 | 0x71 => [align, (count 223 208 1024 || 65536 < fld d 207 192 + fld d 223 208, 26)]
  | 0x72 => [(zero 71 64, 8), align, (zero 207 192 || 255 < fld d 207 192, 24)]
  | 0x73 => [(139 < fld d 79 72, 9), (zero 87 80, 10)]
  | 0x78 | 0x79 => [align, (count 207 192 1024, 24)]
  | 0x7A => [align, (count 207 192 1024, 24), (zero 255 224 || 4096 < fld d 255 224 + fld d 207 192, 28)]
  | 0x7B | 0x7C => [(!(fld d 71 64 < 128 && portExists s (fld d 71 64)), 8), align]
  | 0x90 => [(zero 67 64, 8), align]
  | 0x98 => [(zero 69 68, 8)]
  | 0x99 => [(!(fld d 87 80 < 128 && portExists s (fld d 87 80)), 10)]
  | 0xB8 => [align, (hmkLenBad s op d, 24), (count 303 288 1024, 36)]
  | 0xC0 => [(fld d 69 64 != 0, 8), (fld d 141 128 < 14 || s.rf Reg.SWC_MAX_FRAME 13 0 < fld d 141 128 + 4, 16),
             (bit d 145 && !injectQueueOk s (fld d 164 146), 18)]
  | 0xD0 | 0xD1 | 0xD2 => [solo]
  | 0xD5 | 0xD6 | 0xD7 => [align, solo]
  | 0xD3 | 0xD4 => [align, solo, (4095 < fld d 223 208, 26), (count 239 224 1024 || 4096 < fld d 223 208 + fld d 239 224, 28)]
  | _ => [align, (hmkLenBad s op d, 24)]

/-- The lowest byte offset of a bad header field of a posted descriptor (R450, R451): DONE, a reserved bit, a STATUS. -/
def headerBad (d : Desc) : Option Nat :=
  if bit d 8 || fld d 15 11 != 0 then some 1 else if fld d 23 16 != 0 then some 2 else none

/-- The lowest byte offset of a bad field in bytes 0x08 to 0x3F (R563, step 5). -/
def fieldBad (s : State) (d : Desc) : Option Nat :=
  let res := ((cmdReserved (descOp d)).getD []).filterMap fun f => if fld d f.1 f.2 != 0 then some (f.2 / 8) else none
  lowest (res ++ ((cmdRanges s (descOp d) d).filter (·.1)).map (·.2))

/-- Bytes that HIF stages before the command is checked (R451), 0 for none. -/
def stageLen (s : State) (d : Desc) : Nat :=
  match descOp d with
  | 0x20 => 48
  | 0x22 | 0x23 => 128
  | 0x24 => if bit d 120 then 48 else 0
  | 0x25 => 64
  | 0x26 | 0x52 | 0xB0 | 0xB6 => fld d 223 192
  | 0x28 => 16
  | 0x40 => 1024
  | 0x44 | 0x70 | 0x78 => 32 * (if descOp d = 0x70 then fld d 223 208 else fld d 207 192)
  | 0x46 => 192 * fld d 207 192
  | 0x50 | 0x90 => 256
  | 0x72 | 0x80 => 128
  | 0x7A => 16 * fld d 207 192
  | 0x7B => 64 + 8 * fld (ofBytes 512 (hostRead s (descBuf d) 64) : Desc) 154 144
  | 0xB2 | 0xBA => 32
  | 0xB4 => 1152
  | 0xB7 => 512
  | 0xD3 => 32 * fld d 239 224
  | 0xD6 => 384
  | _ => 0

/-- The actions of R490 that a command needs. MCS_PATCH_SWITCH acts on the region of each staged patch it names. -/
def cmdActions (s : State) (d : Desc) : List Action :=
  match descOp d with
  | 0x80 | 0x81 | 0x83 => [.keys]
  | 0x52 => [.patchVendor]
  | 0x53 =>
    let cs := (maskList 8 (fld d 71 64)).filter fun k => (s.cluster k).staged
    if cs.isEmpty then [.patchVendor]
    else cs.map fun k => if (s.cluster k).stagedRegion then .patchCustomer else .patchVendor
  | 0xB1 | 0xB2 | 0xB8 | 0xB9 | 0xBA => [.always]
  | 0xD2 => [.soloExit]
  | 0xD3 => [.keel]
  | 0xD7 => [.bist]
  | _ => [.plain]

/-- Is a command privileged (R490): its entry names a role, or it is a ticket? -/
def cmdPrivileged (s : State) (d : Desc) : Bool := descOp d == 0xB6 || (cmdActions s d).any (privileged s)

/-- Does a command's own chapter judge its rights (R563, step 6)? -/
def rightsLater (op : Nat) : Bool := [0x52, 0x80, 0x81, 0x82, 0x83].contains op

/-- Does the ring lack a right that the command needs at step 6 of R563? -/
def rightsLack (s : State) (r : Nat) (d : Desc) : Bool :=
  !rightsLater (descOp d) && !(cmdActions s d).all (permits s r)

/-- Is an opcode valid on a ring of a type (R445, R450)? -/
def opValid (s : State) (r op : Nat) : Bool := (cmdReserved op).isSome && ((op == 0xC0) == (ringType s r == 1))

/-- Does a VF's ring lack the opcode's class (R443)? -/
def classLack (s : State) (r op : Nat) : Bool :=
  ringFn s r != 0 && !bit (s.reg (Reg.HIF_VF_CFG (ringFn s r))) (op / 16)

/-- The first check of R563 that a command fails: its status and DETAIL. While Hallmark is in BOOT only opcodes 0xB0 to 0xBF are
taken (R474). -/
def acceptRefusal (s : State) (r : Nat) (d : Desc) : Option (Nat × Nat) :=
  let op := descOp d
  match headerBad d with
  | some k => some (St.badField, k)
  | none =>
    if s.hmk.boot = 1 && op / 16 ≠ 0xB then some (St.busy, 0)
    else if !opValid s r op then some (St.badOpcode, 0)
    else if classLack s r op then some (St.denied, 0)
    else if cmdPrivileged s d && auditFull s then some (St.noSpace, 0)
    else match fieldBad s d with
      | some k => some (St.badField, k)
      | none =>
        if rightsLack s r d then some (St.denied, 0)
        else if !(cmdDomains d).all (fun k => s.domain k == .on) then some (St.busy, 0)
        else none

/-- Has an earlier table command that names one of some stacks not yet completed (R369)? It completes once every stack it names has
switched. -/
def tablesBusy (s : State) (hs : List Nat) : Bool :=
  (List.range 4).any fun h => match (s.stack h).command with
    | some (r, i) => hs.contains h || (s.cmd? r i).any fun c => (maskList 4 (fld c.desc 67 64)).any hs.contains
    | none => false

/-- Does a command's target take it (R451)? A graph template whose old image still runs (R164), a port with a gate list that waits to be
armed (R329) and stacks with a slot table that waits for the wrap (R369) take no further write; the time unit (R433) and Hallmark (R488)
run one command at a time; any other target takes a command at once. -/
def targetTakes (s : State) (d : Desc) : Bool :=
  match descOp d with
  | 0x50 => (maskList 8 (fld d 79 72)).all fun k => (s.cluster k).retiring.all fun r => r.template != fld d 71 64
  | 0x7B => (s.gatesOf (fld d 71 64)).written.isNone
  | 0x90 => !tablesBusy s (maskList 4 (fld d 67 64))
  | op => (op / 16 != 0xA && op / 16 != 0xB) || s.hif.rings.all fun e => e.2.cmds.all fun c =>
      c.phase == .fetched || c.phase == .done || descOp c.desc / 16 != op / 16

end Sys2Proof.Machine
end

