-- ==== Sys2Proof/Machine/FlowKey.lean ====
section
/-!
DEFINITION. Machine/FlowKey.lean: flow records and keys: canonical form, hash, home slice, NAT pools, key vectors
(R31-R45, R50, R63-R65, R86, R110-R113).
-/

namespace Sys2Proof.Machine

open Sys2Proof

/-! ### Record fields (R32) -/

abbrev Rec := Unit128

def Rec.key (r : Rec) : Key := BitVec.ofNat 384 (fld r 383 0)
def Rec.valid (r : Rec) : Bool := bit r 384
def Rec.orient (r : Rec) : Bool := bit r 385
def Rec.gen (r : Rec) : Nat := fld r 388 386
def Rec.pinned (r : Rec) : Bool := bit r 389
def Rec.nat (r : Rec) : Bool := bit r 390
def Rec.tmpl (r : Rec) : Nat := fld r 399 392
def Rec.proto (r : Rec) : Nat := fld r 295 288
def Rec.pool (r : Rec) : Nat := fld r 671 668
def Rec.lastSeen (r : Rec) : Nat := fld r 975 928

/-- A record word of 32 bits (R198). -/
def Rec.word (r : Rec) (k : Nat) : W32 := BitVec.ofNat 32 (fld r (32 * k + 31) (32 * k))

/-- The handle of a record at an index (R45). -/
def Rec.handle (r : Rec) (idx : Nat) : Nat := 2 ^ 29 * r.gen + idx

/-- HBM byte address of a record (R44). -/
def recAddr (idx : Nat) : Nat := 128 * idx

/-! ### Keys (R36, R37) -/

def Key.typ (k : Key) : Nat := fld k 303 296
def Key.proto (k : Key) : Nat := fld k 295 288
def Key.zone (k : Key) : Nat := fld k 319 304

/-- The endpoints of a key. -/
def Key.lo (k : Key) : Endpoint := ⟨bytesLE 16 (fld k 127 0), netFld k 271 256⟩
def Key.hi (k : Key) : Endpoint := ⟨bytesLE 16 (fld k 255 128), netFld k 287 272⟩

/-- Is a key in canonical form (R92)? -/
def Key.canonical (k : Key) : Bool := decide (k.lo.num ≤ k.hi.num)

/-- A key of two endpoints in canonical form; `tunnel` are the VNI bytes in wire order. -/
def mkKey (a b : Endpoint) (proto typ zone : Nat) (tunnel : List Byte) (vlan : Nat) : Key :=
  let o := ordered a b
  ofBytes 384 (o.1.addr ++ o.2.addr ++ bytesBE 2 o.1.port ++ bytesBE 2 o.2.port ++ bytesLE 1 proto ++ bytesLE 1 typ ++
    bytesLE 2 zone ++ (tunnel ++ List.replicate 4 0).take 4 ++ bytesLE 4 vlan)

/-- An IPv4 address in the 16-byte form of R36. -/
def v4Field (a : Nat) : List Byte := List.replicate 12 0 ++ bytesBE 4 a

/-! ### The flow hash (R40) -/

/-- The hash key in force (R41): in FIXED mode before the first ENABLE the value written, else the one that was drawn at the reset or
stood at ENABLE. -/
def flowKey (s : State) : BitVec 128 :=
  if bit (s.reg Reg.FLW_HASH_CTRL) 0 && !bit (s.reg Reg.FLW_CTRL) 0 then s.flw.fixedKey else s.flw.hashKey

def flowHash (s : State) (k : Key) : W64 := sipHash24 (flowKey s) (bytesOf k)
def hHome (h : W64) : Nat := fld h 3 0
def hPair (h : W64) : Nat := fld h 25 4
def hSet (h : W64) : Nat := fld h 37 26
def hFp (h : W64) : Nat := fld h 61 38

/-! ### NAT pools (R110-R112) -/

def poolUsed (s : State) (n : Nat) : Bool := bit (s.reg (Reg.FLW_NAT_CFG n)) 0
def poolDet (s : State) (n : Nat) : Bool := bit (s.reg (Reg.FLW_NAT_CFG n)) 1
def poolShift (s : State) (n : Nat) : Nat := s.rf (Reg.FLW_NAT_CFG n) 5 2
def poolOuts (s : State) (n : Nat) : Nat := s.rf (Reg.FLW_NAT_CFG n) 31 16 + 1
def poolBase (s : State) (n : Nat) : Nat := (s.reg (Reg.FLW_NAT_OUT_BASE n)).toNat
def poolPortLo (s : State) (n : Nat) : Nat := s.rf (Reg.FLW_NAT_PORTS n) 15 0
def poolPerAddr (s : State) (n : Nat) : Nat := s.rf (Reg.FLW_NAT_PORTS n) 31 16
def poolZone (s : State) (n : Nat) : Nat := s.rf (Reg.FLW_NAT_SUB n) 31 16
/-- Blocks of a pool. -/
def poolG (s : State) (n : Nat) : Nat := poolOuts s n * poolPerAddr s n

/-- The block of a pool's configuration that holds an outside address and port. -/
def blockAt (s : State) (n addr port : Nat) : Option Nat :=
  let top := poolPortLo s n + poolPerAddr s n * 2 ^ poolShift s n
  if poolBase s n ≤ addr && addr < poolBase s n + poolOuts s n && poolPortLo s n ≤ port && port < top
  then some ((addr - poolBase s n) * poolPerAddr s n + (port - poolPortLo s n) / 2 ^ poolShift s n)
  else none

/-- The block of a valid pool that holds an outside address and port. -/
def poolBlock (s : State) (n addr port : Nat) : Option Nat := if poolUsed s n then blockAt s n addr port else none

/-- The pool and block of a zone that hold an outside address and port (R112). -/
def poolOf (s : State) (zone addr port : Nat) : Option (Nat × Nat) :=
  (List.range 16).findSome? fun n =>
    if poolZone s n = zone then (poolBlock s n addr port).map fun g => (n, g) else none

/-! ### Building a key (R63-R65, R112) -/

/-- A key as the cluster builds it: pool-side, source lower, home slice. -/
structure Built where
  key    : Key
  pool   : Bool
  srcLow : Bool
  home   : Nat
  inner  : Bool
deriving DecidableEq, Repr

/-- Can a profile build no key (R65)? -/
def noKey (o : Parsed) (inner : Bool) : Bool :=
  (if useInner o inner then o.innerFrag == 2 else o.frag == 2) || !(isV4 o inner || isV6 o inner)

/-- Build a key under a profile. A key built without ports is checked against the pools with port 0, which no pool holds (R111; DESIGN
CHOICE, log 158). -/
def buildKey (s : State) (prof : Nat) (f : List Byte) (o : Parsed) : Option Built :=
  let w := s.reg (Reg.FLW_KEY_PROFILE prof)
  let inner := bit w 6
  if noKey o inner then none
  else
    let ports := bit w 0 && hasPorts f o inner
    let src : Endpoint := ⟨l3Addr f o inner false, if ports then l4Port f o inner false else 0⟩
    let dst : Endpoint := ⟨l3Addr f o inner true, if ports then l4Port f o inner true else 0⟩
    let zone := if fld w 2 1 = 1 then fld w 23 8 else 0
    let typ := (if isV4 o inner then 1 else 2) + (if ports then 0 else 2)
    let tunnel := if bit w 3 then (match o.vni with | some v => bytesBE 3 v | none => []) else []
    let vlan := if bit w 4 then o.vlan.getD 0 else 0
    let k := mkKey src dst (l4Proto o inner) typ zone tunnel vlan
    let side := if bit w 5 && isV4 o inner then poolOf s zone (natBE dst.addr) dst.port else none
    some ⟨k, side.isSome, decide (src.num ≤ dst.num),
      match side with | some (_, g) => g % 16 | none => hHome (flowHash s k), inner⟩

/-- The key vector of a walk (R86); `metas` are its words 26 to 31. -/
def keyVector (f : List Byte) (o : Parsed) (b : Built) (port tmpl : Nat) (metas : List Nat) : List Nat :=
  let words := fun (bs : List Byte) => (List.range 8).map fun i => natBE ((bs.drop (2 * i)).take 2)
  let ports := b.key.typ = 1 || b.key.typ = 2
  let tos := tosByte f o b.inner
  let tun := natBE (bytesLE 3 (fld b.key 343 320))
  words (l3Addr f o b.inner false) ++ words (l3Addr f o b.inner true) ++
  [if ports then l4Port f o b.inner false else 0, if ports then l4Port f o b.inner true else 0,
   b.key.proto + 256 * b.key.typ, port, o.vlan.getD 0, b.key.zone,
   tos / 4 + 64 * (tos % 4) + 256 * tcpFlags f o b.inner, tmpl, tun / 65536, tun % 65536] ++ metas

/-! ### The outside key (R50) -/

/-- The outside key of a binding: the remote endpoint, the NAT64 remote address, and the outside address and port. -/
def outsideKey (s : State) (pool proto typ : Nat) (remote : Endpoint) (remote64 addr port : Nat) : Key :=
  let ra := if typ = 2 then v4Field remote64 else remote.addr
  let pr := if typ = 2 && proto = 58 then 1 else proto
  let rp := if pr = 1 then port else remote.port
  mkKey ⟨v4Field addr, port⟩ ⟨ra, rp⟩ pr 1 (poolZone s pool) [] 0

/-- The remote endpoint of a record. -/
def Rec.remote (r : Rec) : Endpoint := if r.orient then r.key.lo else r.key.hi
/-- The endpoint that sent the setup packet. -/
def Rec.inside (r : Rec) : Endpoint := if r.orient then r.key.hi else r.key.lo

/-- The outside key of a NAT record. -/
def Rec.outside (s : State) (r : Rec) : Key :=
  outsideKey s r.pool r.proto r.key.typ r.remote (netFld r 575 544) (netFld r 511 480) (netFld r 527 512)

/-- Does a record answer to a key, by the entry that led to it (R50, R52)? -/
def Rec.answers (s : State) (r : Rec) (isAlias : Bool) (k : Key) : Bool :=
  r.valid && (if isAlias then r.nat && r.outside s == k else r.key == k)

/-- Is a packet in the reply direction of a record (R38)? -/
def Rec.reply (r : Rec) (srcLow : Bool) : Bool := r.key.lo != r.key.hi && (r.orient == srcLow)

end Sys2Proof.Machine
end

