-- ==== Sys2Proof/Machine/FlowStore.lean ====
section
/-!
DEFINITION. Machine/FlowStore.lean: a slice's tag pairs, stash and hot cache, tile-check and ECC failures, deletion,
export records and the failed-pair check (R44-R56, R73, R82, R105-R108, R118-R125).
-/

namespace Sys2Proof.Machine

open Sys2Proof

def State.modSlice (s : State) (i : Nat) (f : Slice → Slice) : State := s.setSlice i (f (s.slice i))

/-- Charge record operations (R74). -/
def charge (s : State) (i n : Nat) : State := if n = 0 then s else s.bump64 (Reg.FLW_HBM_OPS_LO i) n

/-- Raise a flow event; every event sets the slice's interrupt source (R118, R519). -/
def flwEvent (s : State) (i typ : Nat) (fs : List (Nat × Nat × Nat)) : State :=
  intRaise (raiseOn s (s.rf Reg.FLW_EVENT_CTRL 25 16) (Reg.FLW_EVENT_DROP_COUNT i) typ fs) 5 i

/-- FLOW_TILE_FAIL of an object with its DETAIL (R121). -/
def tileFailEvent (s : State) (i obj detail : Nat) : State :=
  flwEvent s i 0x32 [(95, 64, obj), (99, 96, i), (103, 100, detail)]

/-- The first pass that begins from now on (R108); a pass begins with the last visit of the pass before. -/
def nextPass (s : State) (i : Nat) : Nat :=
  let x := s.slice i
  if bit (s.reg Reg.FLW_AGE_CTRL) 0 || x.sweepNext != 0 then x.swept + 1 else x.swept

/-- Enter a pair in the failed-pair list; one that finds the list full sets FULL_CHECK instead (R108). A listed pair that fails again
enters anew: a pass that begins from now on has to check it (DEDUCED, log 152). -/
def listPair (s : State) (i p : Nat) : State :=
  let x := s.slice i
  if x.failed.any fun e => e.pair == p then s.setSlice i { x with failed := x.failed.map fun e => if e.pair == p then ⟨p, nextPass s i⟩ else e }
  else if x.failed.length < 64 then s.setSlice i { x with failed := x.failed ++ [⟨p, nextPass s i⟩] }
  else s.setSlice i { x with fullCheck := some (nextPass s i) }

/-! ### HBM operations of a slice (R74, R364) -/

/-- A record operation on a 128-byte unit arrives at its pseudo-channel. -/
def postUnit (s : State) (i u : Nat) (write : Bool) : State := memPost s (i % 4) (128 * u) write 4

/-- Write a record straight to HBM. -/
def hbmWrite (s : State) (i idx : Nat) (r : Unit128) : State := (postUnit s i idx true).setUnit idx r

/-! ### Where a record stands (R51, R73, R97) -/

/-- The hot line of an index: line number and line. -/
def Slice.line? (x : Slice) (idx : Nat) : Option (Nat × HotLine) := x.hot.find? fun e => e.2.idx == idx

/-- The pending write-back of an index. -/
def Slice.pending? (x : Slice) (idx : Nat) : Option Unit128 := (x.wbuf.find? fun e => e.1 == idx).map (·.2)

/-- Where a record's authoritative copy stands. -/
inductive Place where
  | hot | wbuf | hbm
deriving DecidableEq, Repr

/-- The authoritative copy of a record. -/
def recCopy (s : State) (i idx : Nat) : Unit128 × Place :=
  match (s.slice i).line? idx, (s.slice i).pending? idx with
  | some l, _ => (l.2.record, .hot)
  | none, some r => (r, .wbuf)
  | none, none => (s.unit idx, .hbm)

/-- Does a record's tile check hold? -/
def recOk (idx : Nat) (r : Unit128) : Bool := unitOk (recAddr idx) r

/-- Drop an index's hot line with its tags. -/
def Slice.dropLine (x : Slice) (idx : Nat) : Slice :=
  match x.line? idx with
  | some l => { x with hot := ferase x.hot l.1, tags := x.tags.filter fun t => t.line != l.1 }
  | none => x

/-- Put a record in the write-back buffer, in place of an older write-back of it. -/
def Slice.putBack (x : Slice) (idx : Nat) (r : Unit128) : Slice :=
  { x with wbuf := (x.wbuf.filter fun e => e.1 != idx) ++ [(idx, r)] }

/-- Write a record where its authoritative copy stands; its tile check is set and a hot line is marked modified. -/
def writeRec (s : State) (i idx : Nat) (r : Unit128) : State :=
  let r' := sealUnit (recAddr idx) r
  let x := s.slice i
  match x.line? idx, x.pending? idx with
  | some l, _ => s.setSlice i { x with hot := fset x.hot l.1 { l.2 with record := r', modified := true } }
  | none, some _ => s.setSlice i { x with wbuf := x.wbuf.map fun (e : Nat × Unit128) => if e.1 == idx then (idx, r') else e }
  | none, none => hbmWrite s i idx r'

/-! ### Tag pairs (R46, R48, R49) -/

/-- A way entry (R46). -/
structure Way where
  idx     : Nat
  fp      : Nat
  isAlias : Bool
deriving DecidableEq, Repr

/-- The HBM unit of a tag pair (R44). -/
def tagUnit (i p : Nat) : Nat := tagBase / 128 + 2 ^ 22 * i + p

/-- The ways of a line. -/
def lineWays (l : BitVec 512) : List (Option Way) :=
  (List.range 8).map fun w =>
    if bit l w then some ⟨fld l (56 * w + 60) (56 * w + 32), fld l (56 * w + 84) (56 * w + 61), bit l (56 * w + 85)⟩
    else none

/-- The line that holds the ways, with its check for its address. -/
def waysLine (addr : Nat) (ws : List (Option Way)) : BitVec 512 :=
  sealLine addr (ws.zipIdx.foldl (fun (l : BitVec 512) (e : Option Way × Nat) =>
    match e.1 with
    | some w => put (putBit l e.2 true) (56 * e.2 + 87) (56 * e.2 + 32) (w.idx + 2 ^ 29 * w.fp + 2 ^ 53 * w.isAlias.toNat)
    | none => l) 0)

/-- A line of a 128-byte unit. -/
def unitLine (u : Unit128) (k : Nat) : BitVec 512 := BitVec.ofNat 512 (fld u (512 * k + 511) (512 * k))

/-- Write a pair's 16 ways. -/
def setPair (s : State) (i p : Nat) (ws : List (Option Way)) : State :=
  let u := tagUnit i p
  (postUnit s i u true).setUnit u (BitVec.ofNat 1024 ((waysLine (128 * u) (ws.take 8)).toNat +
    2 ^ 512 * (waysLine (128 * u + 64) (ws.drop 8)).toNat))

/-- The lines of a pair whose check fails. -/
def badLinesOf (s : State) (i p : Nat) : List Nat :=
  let u := tagUnit i p
  (List.range 2).filter fun k => !lineOk (128 * u + 64 * k) (unitLine (s.unit u) k)

/-- A pair's ways; a line whose check fails counts as empty. -/
def pairWays (s : State) (i p : Nat) : List (Option Way) :=
  let bad := badLinesOf s i p
  let u := s.unit (tagUnit i p)
  (List.range 2).flatMap fun k => if bad.contains k then List.replicate 8 none else lineWays (unitLine u k)

/-- A way is treated as empty once the record it names reads VALID = 0 (R54). -/
def wayDead (s : State) (i : Nat) (w : Way) : Bool :=
  let r : Rec := (recCopy s i w.idx).1
  recOk w.idx r && !r.valid

/-- A pair's ways without those treated as empty. -/
def liveWays (s : State) (i p : Nat) : List (Option Way) :=
  (pairWays s i p).map fun o => o.bind fun w => if wayDead s i w then none else some w

/-- The oldest stash entry of a pair. -/
def stashOldest (x : Slice) (p : Nat) : Option StashEnt := x.stash.find? fun e => e.pair == p && !e.bad

/-- Free ways take the oldest stash entries of the pair, in way order (R49). -/
def takeStash (x : Slice) (p : Nat) : List (Option Way) → List (Option Way) × Slice
  | [] => ([], x)
  | some w :: ws => let r := takeStash x p ws; (some w :: r.1, r.2)
  | none :: ws =>
    match stashOldest x p with
    | some e =>
      let r := takeStash { x with stash := x.stash.erase e } p ws
      (some ⟨e.idx, e.fp, e.isAlias⟩ :: r.1, r.2)
    | none => let r := takeStash x p ws; (none :: r.1, r.2)

/-- Write a pair from ways some of which have freed; freed ways take stash entries in the same write. -/
def writePair (s : State) (i p : Nat) (ws : List (Option Way)) : State :=
  let r := takeStash (s.slice i) p ws
  setPair (s.setSlice i r.2) i p r.1

/-- A pair is read: each line that fails its check is written back empty, its ways taking stash entries, and reported;
the pair enters the failed-pair list (R55). -/
def fixPair (s : State) (i p : Nat) : State :=
  let bad := badLinesOf s i p
  if bad.isEmpty then s
  else
    let s1 := writePair s i p (liveWays s i p)
    listPair (forAll s1 bad fun s _ =>
      tileFailEvent (s.bumpField (Reg.FLW_TILE_FAIL_COUNT i) 23 16) i p 2) i p

/-- Index of the first free way in a list. -/
def freeWay (ws : List (Option Way)) : Option Nat := ws.findIdx? (·.isNone)

/-- The way a new entry takes (R48): in the line with fewer valid ways, the even one where they tie. -/
def newWay (ws : List (Option Way)) : Option Nat :=
  let n0 := ((ws.take 8).filter (·.isSome)).length
  let n1 := ((ws.drop 8).filter (·.isSome)).length
  if n0 ≤ n1 then freeWay (ws.take 8) else (freeWay (ws.drop 8)).map (8 + ·)

/-- Enter a tag entry (R48): in its pair, or in the stash; none where both are full. The write of the pair removes the ways treated as
empty (R54); the new entry takes its way first, and what is free besides takes stash entries (R49; DEDUCED, log 153). -/
def tagAdd (s : State) (i p : Nat) (w : Way) : Option State :=
  let s1 := fixPair s i p
  let ws := liveWays s1 i p
  match newWay ws with
  | some k => some (writePair s1 i p (ws.set k (some w)))
  | none =>
    let x := s1.slice i
    if x.stash.length < 65536 then
      some ((s1.setSlice i { x with stash := x.stash ++ [⟨p, w.fp, w.idx, w.isAlias, false⟩] }).peak
        (Reg.FLW_STASH_PEAK i) (x.stash.length + 1))
    else none

/-- Clear the tag entry of an index from its pair or from the stash. -/
def tagClear (s : State) (i p idx : Nat) (isAlias : Bool) : State :=
  let s1 := fixPair s i p
  let ws := liveWays s1 i p
  if ws.any fun o => o.any fun w => w.idx == idx && w.isAlias == isAlias then
    writePair s1 i p (ws.map fun o => o.bind fun w => if w.idx == idx && w.isAlias == isAlias then none else some w)
  else s1.modSlice i fun x => { x with
    stash := x.stash.filter fun e => !(e.pair == p && e.idx == idx && e.isAlias == isAlias) }

/-- Is the tag entry of an index in its pair or in the stash? -/
def tagThere (s : State) (i p idx : Nat) (isAlias : Bool) : Bool :=
  ((liveWays s i p).any fun o => o.any fun w => w.idx == idx && w.isAlias == isAlias) ||
  (s.slice i).stash.any fun e => e.pair == p && e.idx == idx && e.isAlias == isAlias

/-- The keys of a record with their ALIAS bit: the primary, and the outside key of a NAT record (R50). -/
def recKeys (s : State) (r : Rec) : List (Bool × Key) :=
  (false, r.key) :: (if r.nat then [(true, r.outside s)] else [])

/-- FLOW_HIGH_WATER after a change of the record count (R82). -/
def hwCheck (s : State) (i : Nat) : State :=
  let x := s.slice i
  if 30198989 ≤ x.records && x.hwArmed then
    flwEvent (s.setSlice i { x with hwArmed := false }) i 0x34 [(99, 96, i), (133, 108, x.records)]
  else if x.records ≤ 28521267 then s.setSlice i { x with hwArmed := true }
  else s

/-! ### Failures (R54, R56) -/

/-- The tag entry through which a record was reached. -/
inductive Via where
  | hot
  | stash (pair : Nat) (isAlias : Bool)
  | pair (pair : Nat) (isAlias : Bool)
  | none
deriving DecidableEq, Repr

/-- A record fails its tile check (R54). A sweep visit that finds a failing hot copy has found it in the hot cache: the record count falls
(DESIGN CHOICE, log 154). -/
def recFail (s : State) (i idx : Nat) (place : Place) (via : Via) : State :=
  let s1 := s.modSlice i fun x =>
    let y := x.dropLine idx
    { y with wbuf := y.wbuf.filter fun e => e.1 != idx, unwritten := y.unwritten.filter (· != idx) }
  let s2 := charge (hbmWrite s1 i idx (sealUnit (recAddr idx) 0)) i 1
  let s3 := match via with
    | .stash p a => s2.modSlice i fun x => { x with
        stash := x.stash.filter fun e => !(e.pair == p && e.idx == idx && e.isAlias == a) }
    | .pair p _ => writePair s2 i p (liveWays s2 i p)
    | _ => s2
  let known := via != .none || place == .hot
  let s4 := if known then hwCheck (s3.modSlice i fun x => { x with records := x.records - 1 }) i else s3
  if place == .hot then tileFailEvent (s4.bumpField (Reg.FLW_TILE_FAIL_COUNT i) 7 0) i idx 0
  else tileFailEvent (s4.bumpField (Reg.FLW_TILE_FAIL_COUNT i) 15 8) i idx 1

/-- Report a cleared hot tag or stash entry whose record belongs to pair `p` (R56). -/
def eccFail (s : State) (i p : Nat) : State :=
  listPair (tileFailEvent (s.bumpField (Reg.FLW_TILE_FAIL_COUNT i) 31 24) i p 3) i p

/-- The pair of the record that a hot tag named: of its key, or for an alias tag of its outside key (DEDUCED, log 155); `p` where the line
holds none. -/
def tagPair (s : State) (x : Slice) (t : HotTag) (p : Nat) : Nat :=
  match ffind? x.hot t.line with
  | some l =>
    let r : Rec := l.record
    hPair (flowHash s (if t.isAlias then r.outside s else r.key))
  | none => p

/-- A search of a tag set and of a pair's stash entries clears the entries whose ECC finds a double-bit error (R56): each is reported, and
the pair of the record it named enters the failed-pair list. -/
def eccSearch (s : State) (i set p : Nat) : State :=
  let x := s.slice i
  let bt := (x.tags.filter fun t => t.set == set && t.bad).map fun t => tagPair s x t p
  let bs := (x.stash.filter fun e => e.pair == p && e.bad).map (·.pair)
  forAll (s.setSlice i { x with
    tags := x.tags.filter fun t => !(t.set == set && t.bad)
    stash := x.stash.filter fun e => !(e.pair == p && e.bad) }) (bt ++ bs) fun s q => eccFail s i q

/-- Double-bit errors come up in hot tags and stash entries, by their place in their lists (R56). -/
def eccMark (s : State) (i : Nat) (tags stash : List Nat) : State :=
  s.modSlice i fun x => { x with
    tags := x.tags.zipIdx.map fun (e : HotTag × Nat) => if tags.contains e.2 then { e.1 with bad := true } else e.1
    stash := x.stash.zipIdx.map fun (e : StashEnt × Nat) => if stash.contains e.2 then { e.1 with bad := true } else e.1 }

/-! ### Export records (R122-R125) -/

/-- The address of an endpoint in an export record: 4 bytes of IPv4 or 16 of IPv6. -/
def expAddr (v6 : Bool) (e : Endpoint) : List Byte := if v6 then e.addr else e.addr.drop 12

/-- A record's export record with its flowEndReason (R125). -/
def expRecord (s : State) (r : Rec) (reason : Nat) : List Byte :=
  let v6 := r.key.typ = 2 || r.key.typ = 4
  let now := s.seconds
  let start := now - (now + 2 ^ 16 - fld r 991 976) % 2 ^ 16
  let nat := fun (n hi lo : Nat) => if r.nat then bytesBE n (netFld r hi lo) else List.replicate n 0
  expAddr v6 r.inside ++ expAddr v6 r.remote ++ bytesBE 2 r.inside.port ++ bytesBE 2 r.remote.port ++
  bytesBE 1 r.proto ++ bytesBE 1 reason ++ nat 4 511 480 ++ nat 2 527 512 ++ (if v6 then nat 4 575 544 else []) ++
  bytesBE 8 (fld r 775 736) ++ bytesBE 8 (fld r 831 776) ++ bytesBE 8 (fld r 871 832) ++ bytesBE 8 (fld r 927 872) ++
  bytesBE 4 start ++ bytesBE 8 ((tickTime s r.lastSeen).nanos / 1000000)

/-- Length of an IPFIX message (R124). -/
def ExpMsg.size (m : ExpMsg) : Nat := 20 + (m.records.map List.length).sum

/-- Emit a record's export record under its EXPORT_PROFILE (R122, R124): the message in hand is closed where the record
would take it above MSG_MAX or belongs to another Data Set. -/
def emitRecord (s : State) (r : Rec) (reason : Nat) : State :=
  let n := fld r 667 656
  if n = 0 then s
  else
    let prof := fget s.flw.expProf 0 n
    let setId := if r.key.typ = 2 || r.key.typ = 4 then fld prof 47 32 else fld prof 31 16
    let bs := expRecord s r reason
    let s := memPostIn s 8 0x1624000000 0x1DC000000 true ((bs.length + 31) / 32)
    let seq := fget s.flw.expSeq 0 n
    let fresh : ExpMsg := ⟨setId, [bs], s.ns, seq⟩
    let f := { s.flw with expSeq := fput s.flw.expSeq 0 n ((seq + 1) % 2 ^ 32) }
    match ffind? f.expMsgs n with
    | none => { s with flw := { f with expMsgs := fset f.expMsgs n fresh } }
    | some m =>
      if m.setId = setId && m.size + bs.length ≤ s.rf Reg.FLW_EXPORT_CTRL 13 0 then
        { s with flw := { f with expMsgs := fset f.expMsgs n { m with records := m.records ++ [bs] } } }
      else { s with flw := { f with expClosed := f.expClosed ++ [(n, m)], expMsgs := fset f.expMsgs n fresh } }

/-! ### Deletion (R105, R106) -/

/-- The fields of FLOW_ENDED (R120). -/
def endedFields (r : Rec) (handle cause : Nat) : List (Nat × Nat × Nat) :=
  [(95, 64, handle), (99, 96, cause), (107, 100, r.tmpl), (111, 108, r.pool), (151, 112, fld r 775 736),
   (207, 152, fld r 831 776), (247, 208, fld r 871 832), (303, 248, fld r 927 872), (351, 304, r.lastSeen),
   (367, 352, fld r 991 976), (399, 368, fld r 511 480), (415, 400, fld r 527 512), (447, 416, fld r 479 448)]

/-- flowEndReason of a cause (R125). -/
def endReason (cause : Nat) : Nat := match cause with | 1 => 3 | 2 => 4 | _ => 1

/-- The block of a NAT record's binding, whether or not its pool is still valid (R105): 2^20 × pool + block. -/
def recBlock (s : State) (r : Rec) : Option Nat :=
  (blockAt s r.pool (netFld r 511 480) (netFld r 527 512)).map (2 ^ 20 * r.pool + ·)

/-- The free-index stack moves a group of 32 handles to or from HBM where its depth passes a multiple of 32 above the 4,096 entries held on
die (R45; DEDUCED, log 159). -/
def freeMove (s : State) (i : Nat) (push : Bool) : State :=
  let n := (s.slice i).free.length
  if 4096 < n + (!push).toNat && n % 32 == 0 then memPostIn s (i % 4) 0x1624000000 0x1DC000000 push 4 else s

/-- Delete a valid record with a cause (R105). Each key's pair is charged as one cold lookup, whether or not its entry is found there
(DESIGN CHOICE, log 160). -/
def delRecord (s : State) (i idx : Nat) (r : Rec) (cause : Nat) : State :=
  let keys := recKeys s r
  let s1 := keys.foldl (fun s k => tagClear s i (hPair (flowHash s k.2)) idx k.1) s
  let dead := sealUnit (recAddr idx) (putBit r 384 false)
  let s2 := match (s1.slice i).line? idx with
    | some _ => (postUnit s1 i idx true).modSlice i fun x => (x.dropLine idx).putBack idx dead
    | none => writeRec s1 i idx dead
  let s3 := charge s2 i (2 * keys.length + 1)
  let s4 := s3.modSlice i fun x => { x with
    blocks := match (if r.nat then recBlock s r else none) with
      | some b => fput x.blocks 0 b (fget x.blocks 0 b - 1)
      | none => x.blocks
    free := (2 ^ 29 * ((r.gen + 1) % 8) + idx) :: x.free
    records := x.records - 1
    unwritten := x.unwritten.filter (· != idx) }
  let s4 := freeMove s4 i true
  let en := s.reg Reg.FLW_EVENT_CTRL
  let s5 := if bit en 0 || (bit en 1 && r.nat) then flwEvent s4 i 0x31 (endedFields r (r.handle idx) cause) else s4
  hwCheck (emitRecord s5 r (endReason cause)) i

/-- An orphan is deleted whatever its PINNED bit and class (R108). -/
def delOrphan (s : State) (i idx : Nat) (r : Rec) : State :=
  (delRecord s i idx r 3).modSlice i fun x => { x with orphans := satAdd 65535 x.orphans 1 }

/-! ### The check of failed pairs (R108) -/

/-- Is the pair of a key to be checked? -/
def pairListed (x : Slice) (p : Nat) : Bool := x.fullCheck.isSome || x.failed.any fun e => e.pair == p

/-- The keys of a record whose pair is to be checked; all of a record whose entry could not be written. -/
def keysListed (s : State) (i idx : Nat) (r : Rec) (evicting : Bool) : List (Bool × Key) :=
  let x := s.slice i
  (recKeys s r).filter fun k => pairListed x (hPair (flowHash s k.2)) || (evicting && x.unwritten.contains idx)

/-- Read the pairs of keys to be checked; each is charged as one ageing-sweep read. -/
def readListed (s : State) (i : Nat) (ks : List (Bool × Key)) : State :=
  ks.foldl (fun s k =>
    let p := hPair (flowHash s k.2)
    charge (fixPair (postUnit s i (tagUnit i p) false) i p) i 1) s

/-- The keys of a list whose tag entry is missing. -/
def keysMissing (s : State) (i idx : Nat) (ks : List (Bool × Key)) : List (Bool × Key) :=
  ks.filter fun k => !tagThere s i (hPair (flowHash s k.2)) idx k.1

/-- Write a missing entry again, charged as a setup; none where its pair and the stash are full. -/
def tagAgain (s : State) (i idx : Nat) (k : Bool × Key) : Option State :=
  let h := flowHash s k.2
  (tagAdd s i (hPair h) ⟨idx, hFp h, k.1⟩).map fun s => charge s i 3

/-- Write the missing entries of a hot record that is visited; one that finds no room stays missing. -/
def tagsAgainVisit (s : State) (i idx : Nat) (ks : List (Bool × Key)) : State :=
  ks.foldl (fun s k => match tagAgain s i idx k with
    | some s' => s'
    | none => (s.bump (Reg.FLW_TAG_FULL_COUNT i)).modSlice i fun x => { x with
        unwritten := if x.unwritten.contains idx then x.unwritten else idx :: x.unwritten }) s

/-- Write the missing entries of a record that is evicted; none where one finds no room. -/
def tagsAgainEvict (s : State) (i idx : Nat) (ks : List (Bool × Key)) : Option State :=
  ks.foldl (fun o k => o.bind fun s => tagAgain s i idx k) (some s)

/-! ### Fills and evictions (R51, R53, R73) -/

/-- Evict a hot line (R53, R108); `free` is true where a setup's charge includes its write-back (R74). -/
def evict (s : State) (i idx : Nat) (free : Bool) : State :=
  match (s.slice i).line? idx with
  | none => s
  | some l =>
    let r : Rec := l.2.record
    let out := fun (s : State) =>
      let s1 := s.modSlice i fun x =>
        let y := x.dropLine idx
        if l.2.modified then y.putBack idx r else y
      let s1 := if l.2.modified then postUnit s1 i idx true else s1
      if l.2.modified && !free then charge s1 i 1 else s1
    if recOk idx r then
      let ks := keysListed s i idx r true
      if ks.isEmpty then out s
      else
        let s1 := readListed s i ks
        match tagsAgainEvict s1 i idx (keysMissing s1 i idx ks) with
        | some s2 => out (s2.modSlice i fun x => { x with unwritten := x.unwritten.filter (· != idx) })
        | none => delOrphan s1 i idx r
    else out s

/-- Does an in-flight entry name an index: is it keyed by it, or does the record there answer to its key (R67)? -/
def Flight.names (s : State) (i : Nat) (f : Flight) (idx : Nat) : Bool :=
  f.idx == some idx ||
    (let r : Rec := (recCopy s i idx).1
     f.key.any fun k => decide (idx % 2 ^ 25 < (s.slice i).wmark) && recOk idx r && (Rec.answers s r false k || Rec.answers s r true k))

/-- Does an open in-flight entry name an index? -/
def inFlight (s : State) (i idx : Nat) : Bool := (s.slice i).flights.any fun f => f.names s i idx

/-- The lowest line of the hot cache that holds no record, where one is left: a fill takes it (DESIGN CHOICE, log 156). -/
def freeLine : Nat → FMap HotLine → Option Nat
  | n, [] => if n < 32768 then some n else none
  | n, e :: m => if e.1 = n then freeLine (n + 1) m else some n

/-- The clock's sweep (R53): pass over lines that in-flight entries name, spare a referenced line once. -/
def clockPick (named : Nat → Bool) (x : Slice) : Nat → Slice × Option Nat
  | 0 => (x, none)
  | fuel + 1 =>
    let c := x.clock
    let y := { x with clock := (c + 1) % 32768 }
    match ffind? x.hot c with
    | none => clockPick named y fuel
    | some l =>
      if named l.idx then clockPick named y fuel
      else if l.referenced then clockPick named { y with hot := fset y.hot c { l with referenced := false } } fuel
      else (y, some l.idx)

/-- The record whose tag of a set is the least recently used, passing over those that in-flight entries name. -/
def lruOf (s : State) (i set : Nat) : Option Nat :=
  let x := s.slice i
  (x.tags.filter fun t => t.set == set).findSome? fun t =>
    (ffind? x.hot t.line).bind fun l => if inFlight s i l.idx then none else some l.idx

/-- Make room for a tag in a set; none where every tag of the full set is named by an in-flight entry. -/
def setRoom (s : State) (i set need : Nat) (free : Bool) : Option State :=
  let x := s.slice i
  if (x.tags.filter fun t => t.set == set).length + need ≤ 16 then some s
  else (lruOf s i set).map fun idx => evict s i idx free

/-- Make room for a record: tags in its sets, then a line. The Bool says whether the charge's one included write-back
is still unused. -/
def hotRoom (s : State) (i : Nat) (sets : List Nat) (free : Bool) : Option (State × Nat) :=
  let wb := fun (a b : State) => decide ((a.slice i).wbuf = (b.slice i).wbuf)
  let go := sets.foldl (fun (o : Option (State × Bool)) set => o.bind fun (e : State × Bool) =>
    let need := (sets.filter (· == set)).length
    (setRoom e.1 i set need e.2).map fun s' => (s', e.2 && wb e.1 s')) (some (s, free))
  go.bind fun e =>
    match freeLine 0 (e.1.slice i).hot with
    | some n => some (e.1, n)
    | none =>
      let c := clockPick (inFlight e.1 i) (e.1.slice i) 65537
      match c.2 with
      | none => none
      | some idx =>
        let s' := evict (e.1.setSlice i c.1) i idx e.2
        (freeLine 0 (s'.slice i).hot).map fun n => (s', n)

/-- Fill a record into the hot cache. Where no victim can be taken it is not filled, and a modified record goes straight
back to HBM, charged as one dirty eviction (R73); that of a setup takes the write-back that the setup's charge includes (DESIGN CHOICE, log
157). The clock starts at line 0, and a fill counts as a reference of its line (DESIGN CHOICE, log 156). -/
def fillHot (s : State) (i idx : Nat) (r : Unit128) (modified setup : Bool) : State :=
  let r' := sealUnit (recAddr idx) r
  let hs := (recKeys s r').map fun (k : Bool × Key) => (k.1, flowHash s k.2)
  match hotRoom s i (hs.map fun (e : Bool × W64) => hSet e.2) setup with
  | some (s1, n) => s1.modSlice i fun x => { x with
      hot := fset x.hot n ⟨idx, r', modified, true⟩
      tags := x.tags ++ hs.map fun (e : Bool × W64) => ⟨hSet e.2, hFp e.2, n, e.1, false⟩ }
  | none =>
    if modified then
      charge (hbmWrite (s.modSlice i fun x => { x with wbuf := x.wbuf.filter fun e => e.1 != idx }) i idx r') i
        (if setup then 0 else 1)
    else s

/-- A host command that names a record by its handle references its line; its tags are not used (R53). -/
def lineRef (s : State) (i idx : Nat) : State :=
  s.modSlice i fun x =>
    match x.line? idx with
    | some l => { x with hot := fset x.hot l.1 { l.2 with referenced := true } }
    | none => x

/-- A hit uses a hot record: its line is referenced and its tags become the most recently used (R53). -/
def touch (s : State) (i idx : Nat) : State :=
  s.modSlice i fun x =>
    match x.line? idx with
    | some l => { x with
        hot := fset x.hot l.1 { l.2 with referenced := true }
        tags := (x.tags.filter fun t => t.line != l.1) ++ x.tags.filter fun t => t.line == l.1 }
    | none => x

end Sys2Proof.Machine
end

