-- ==== Sys2Proof/Machine/HostIf.lean ====
section
/-!
DEFINITION. Machine/HostIf.lean: rings, doorbells, commands and completions, punt, inject, export, MSI-X moderation and the resets of
PCIe functions (R442-R465, R533, R563).
-/

namespace Sys2Proof.Machine

open Sys2Proof

/-! ### Ring errors and staging (R269, R451, R453) -/

/-- A HIF event with its interrupt source (R455, R519): RING_ERROR or PERF_OVERFLOW. -/
def hifEvent (s : State) (typ : Nat) (fs : List (Nat × Nat × Nat)) : State :=
  intRaise (raiseOn s (s.rf Reg.HIF_EVENT_CTRL 9 0) Reg.HIF_EVENT_DROP_COUNT typ fs) 12 (typ - 0xC0)

/-- Cells of the buffer that a handle names. -/
def handleCells (s : State) (h : Nat) : Nat := poolCells s (h / 2 ^ 20)

/-- Free staging buffers, with their charge to port 128 (R269). -/
def stageFree (s : State) (bufs : List Nat) : State :=
  bufs.foldl (fun s h => poolFree (if (badFree s h 2).isNone then unchargeIn s 128 (handleCells s h) else s) 17 h 2) s

/-- Cells of the buffer that a request for a pool would be served with (R301). -/
def stagePeek (s : State) (p : Nat) : Nat :=
  if p = 0 || (poolFind s p).isSome then poolCells s p
  else match fallback s p with
    | some (q, _) => poolCells s q
    | none => poolCells s p

/-- May HIF charge some cells (R269)? -/
def stageAllows (s : State) (k : Nat) : Bool := s.inCells 128 + k ≤ ingGuar s 128 || 64 + k ≤ sharedFree s

/-- Allocate staging buffers until they hold `n` cells: the buffers held, and whether they suffice. -/
def stageTake (pool : Nat) : Nat → State → List Nat → Nat → State × List Nat × Bool
  | 0, s, bufs, _ => (s, bufs, true)
  | fuel + 1, s, bufs, n =>
    if n = 0 then (s, bufs, true)
    else if !stageAllows s (stagePeek s pool) then (s, bufs, false)
    else match poolAlloc s 17 pool .hif with
      | (s1, some h) => stageTake pool fuel (chargeIn s1 128 (handleCells s1 h)) (bufs ++ [h]) (n - handleCells s1 h)
      | (s1, none) => (s1, bufs, false)

/-- Is a function's bus mastering off (R444)? -/
def busOff (s : State) (fn : Nat) : Bool := s.hif.busOff.contains fn

/-- A ring goes into ERROR (R453): it fetches and accepts nothing more, and under BUS_MASTER_OFF nothing more is written. -/
def ringError (s : State) (r cause : Nat) : State :=
  let x := s.ring r
  if !x.enabled || x.error then s
  else
    let s1 := s.setRing r { x with
      error := true, cause := cause, cmds := x.cmds.map fun c => { c with mute := c.mute || cause == 4 } }
    hifEvent s1 0xC0 [(73, 64, r), (76, 74, cause), (95, 80, x.dev)]

/-! ### Enabling and disabling (R446, R449) -/

/-- May a ring's VECTOR be used by its function (R446, R462)? -/
def ringVecOk (s : State) (r : Nat) : Bool :=
  vectorOwners s (ringVec s r) == (if ringFn s r = 0 then [] else [ringFn s r])

/-- Is a write of ENABLE = 1 accepted (R446)? -/
def ringMayEnable (s : State) (r : Nat) : Bool :=
  let c := s.reg (Reg.HIF_RING_CFG r)
  let x := s.ring r
  !x.enabled && x.idle && fld c 2 0 ≤ 4 && 4 ≤ fld c 7 3 && fld c 7 3 ≤ 16 && fld c 14 8 ≤ 64 && ringVecOk s r &&
    (fld c 2 0 ≤ 1 || fld c 23 22 == 0)

/-- A write of HIF_RING_CTRL.ENABLE = 1 (R446). -/
def ringEnable (s : State) (r : Nat) : State :=
  if ringMayEnable s r then s.setRing r { enabled := true, idle := false, phase := true } else badWrite s

/-- RING_ENABLE (R446). -/
def execRingEnable (ring : Fin 1024) (s : State) : Out' := onBar s (ringEnable s ring)

/-- A write of HIF_RING_CTRL.ENABLE = 0 (R449, R487): what has been fetched and not accepted is written back BUSY. -/
def ringDisable (s : State) (r : Nat) : State :=
  let s0 := sessionClose s r
  let x := s0.ring r
  if !x.enabled then s0
  else
    let s1 := stageFree s0 ((x.cmds.filter fun c => c.phase == .fetched).flatMap (·.bufs))
    s1.setRing r { x with
      enabled := false, posted := []
      cmds := x.cmds.map fun c =>
        if c.phase == .fetched then { c with phase := .done, status := St.busy, detail := 0, result := 0, bufs := [] } else c }

/-- RING_DISABLE (R449). -/
def execRingDisable (ring : Fin 1024) (s : State) : Out' := onBar s (ringDisable s ring)

/-- RING_IDLE (R449): nothing remains outstanding from a disabled ring. -/
def execRingIdle (ring : Fin 1024) (s : State) : Out' :=
  let x := s.ring ring
  .next (if !x.enabled && x.cmds.isEmpty then s.setRing ring { x with idle := true } else s)

/-! ### Doorbells (R443, R447, R448, R464, R531) -/

/-- The ring that a doorbell page of a function reaches: a PF page of a VF's ring reaches none. -/
def pageRing (s : State) (fn page : Nat) : Option Nat :=
  if fn = 0 then (if page < 1024 && ringFn s page == 0 then some page else none)
  else if 64 ≤ page then none
  else ((List.range 1024).filter fun r => ringFn s r == fn)[page]?

/-- The oldest slot of a ring that has not been written back. -/
def ringOldest (x : Ring) : Nat :=
  match x.cmds.head?, x.posted.head? with
  | some c, _ => c.slot
  | none, some p => p.slot
  | none, none => x.dev

/-- May a ring's position move to an index (R448)? -/
def indexOk (s : State) (r idx : Nat) : Bool :=
  let x := s.ring r
  let n := ringSize s r
  let gap := fun (a b : Nat) => (a + n - b % n) % n
  if ringType s r = 4 then gap idx x.host ≤ gap x.dev x.host
  else
    let o := ringOldest x
    (idx == x.dev || gap x.dev o ≤ gap idx o) && gap x.host o + gap idx x.host ≤ n - 1

/-- A write of HIF_DB (R447, R448, R464). -/
def doorbell (s : State) (fn page : Nat) (v : W32) : State :=
  match pageRing s fn page with
  | none => s
  | some r =>
    let x := s.ring r
    let idx := fld v 15 0
    if !x.enabled || x.error || ringSize s r ≤ idx || (bit v 17 && !indexOk s r idx) then s.bump Reg.HIF_DOORBELL_ERR_COUNT
    else
      let s1 := if bit v 17 then s.setRing r { x with host := idx } else s
      if bit v 16 then vectorTry (s1.setVector (ringVec s r) { s1.vector (ringVec s r) with armed := true }) (ringVec s r) else s1

/-- DOORBELL_UPDATE (R447, R448): a doorbell write with UPDATE = 1. -/
def execDoorbellUpdate (fn : Fin 65) (page : Fin 1024) (value : W32) (s : State) : Out' :=
  onBar2 s (doorbell s fn page (putBit value 17 true))

/-- DOORBELL_ARM (R447, R464): a doorbell write with ARM = 1. -/
def execDoorbellArm (fn : Fin 65) (page : Fin 1024) (value : W32) (s : State) : Out' :=
  onBar2 s (doorbell s fn page (putBit value 16 true))

/-! ### Fetching (R451, R453, R458) -/

/-- Does HIF serve rings of a type: command and inject rings from BOOT on (R474)? -/
def hifServes (s : State) (typ : Nat) : Bool := 2 ≤ typ || s.hmk.boot == 1 || s.hmk.boot == 2

/-- Has a ring a descriptor to fetch? -/
def ringPosted (s : State) (r : Nat) : Bool :=
  let x := s.ring r
  x.enabled && !x.error && ringType s r ≤ 3 && x.dev != x.host && hifServes s (ringType s r)

/-- Does a posted buffer break the posting rules (R458)? -/
def postBad (d : Desc) : Bool :=
  fld d 63 0 != 0 || fld d 511 143 != 0 || fld d 70 64 != 0 || fld d 134 128 != 0 || fld d 142 128 < 256 || 16384 < fld d 142 128

/-- The COMMAND ring that HIF serves next (R451): in a rotating order over those with descriptors posted, up to 16 in a turn. -/
def ringServed (s : State) : Option Nat :=
  let q := s.hif.serve
  let rs := (s.hif.rings.map (·.1)).filter fun r => ringPosted s r && ringType s r == 0
  if q.2 < 16 && rs.contains q.1 then some q.1
  else match rs.find? (q.1 < ·) with
    | some r => some r
    | none => rs.head?

/-- A descriptor of a COMMAND ring is served. -/
def serveNote (s : State) (r : Nat) : State :=
  let q := s.hif.serve
  { s with hif := { s.hif with serve := if q.1 = r && q.2 < 16 then (r, q.2 + 1) else (r, 1) } }

/-- DESCRIPTOR_FETCH (R451, R453, R458): HIF fetches a ring's next posted descriptor; a COMMAND ring's in its turn. -/
def execDescriptorFetch (ring : Fin 1024) (s0 : State) : Out' :=
  let r := ring.val
  let turns := ringType s0 r == 0
  let s := if turns then serveNote s0 r else s0
  let x := s.ring r
  if !ringPosted s0 r || (turns && ringServed s0 != some r) then .next s0
  else if busOff s (ringFn s r) then .next (ringError s r 4)
  else
    let d : Desc := ofBytes 512 (hostRead s (slotAddr s r x.dev) 64)
    let y := { x with dev := (x.dev + 1) % ringSize s r }
    if ringType s r ≤ 1 then .next (s.setRing r { y with cmds := x.cmds ++ [{ slot := x.dev, desc := d }] })
    else if postBad d then .next (ringError s r 5)
    else .next (s.setRing r { y with posted := x.posted ++ [⟨x.dev, fld d 127 64, fld d 142 128⟩] })

/-- FETCH_ERROR (R453): a descriptor fetch fails, with its cause. -/
def execFetchError (ring : Fin 1024) (cause : Fin 4) (s : State) : Out' :=
  .next (if ringPosted s ring then ringError s ring cause else s)

/-! ### Acceptance (R451, R563) -/

/-- The command that a ring has next to accept. -/
def nextFetched (s : State) (r : Nat) : Option CmdEnt := (s.ring r).cmds.find? fun c => c.phase == .fetched

/-- COMMAND_STAGE (R269, R451): HIF stages the buffer of the ring's next command, or waits for a buffer it may charge. `dmaFail` says
that the buffer read fails; of an inject it foretells the read that follows its admission. -/
def execCommandStage (ring : Fin 1024) (slot : Nat) (dmaFail : Bool) (s : State) : Out' :=
  let r := ring.val
  match nextFetched s r with
  | none => .next s
  | some c =>
    let n := stageLen s c.desc
    let x := s.ring r
    if c.slot ≠ slot || c.staged || !x.enabled || x.error || (acceptRefusal s r c.desc).isSome then .next s
    else if descOp c.desc = 0xC0 then .next (s.modCmd r slot fun c => { c with staged := true, dmaFail := dmaFail })
    else if n = 0 then .next s
    else if busOff s (ringFn s r) then .next (ringError s r 4)
    else
      let have_ := (c.bufs.map (handleCells s)).sum
      let t := stageTake (s.rf Reg.HIF_STAGE_CTRL 3 0) ((n + 255) / 256) s c.bufs ((n + 255) / 256 - have_)
      if t.2.2 then
        let bs := if dmaFail then [] else hostRead s (descBuf c.desc) n
        .next ((chainLinks t.1 (chainCells t.1 t.2.1) bs true false).modCmd r slot fun c => { c with
          staged := true, bufs := t.2.1, dmaFail := dmaFail, buf := bs })
      else .next ((t.1.modCmd r slot fun c => { c with bufs := t.2.1 }).bump Reg.HIF_STAGE_WAIT_COUNT)

/-- Does FENCE hold back a command (R451): its own, or that of an earlier command that has not completed? -/
def fenced (x : Ring) (c : CmdEnt) : Bool :=
  let before := x.cmds.takeWhile fun d => d.slot != c.slot
  (bit c.desc 10 && !before.isEmpty) || before.any fun d => bit d.desc 10

/-- A command refused at acceptance, with what is recorded and counted of it (R491, R493, R563). -/
def refuseAccept (s : State) (r : Nat) (c : CmdEnt) (st detail : Nat) : State :=
  let s1 := s.finish r c.slot st detail
  let known := opValid s r (descOp c.desc)
  if st = St.denied then deniedAdd s1 r c
  else if st = St.noSpace then intRaise (s1.bump Reg.HMK_AUDIT_REFUSED_COUNT) 13 5
  else if known && cmdPrivileged s c.desc && !auditFull s then auditCmd s1 r (c.under s r) 2 st []
  else s1

/-- The first cell of a command's staging buffers that fails its check (R266, R298). -/
def stagedBad (s : State) (c : CmdEnt) : Option Nat := (c.bufs.flatMap (handleList s)).find? (s.swc.badCells.contains ·)

/-- COMMAND_ACCEPT (R451, R563): the ring's next command is checked once its target can take it, and accepted where nothing refuses it. -/
def execCommandAccept (ring : Fin 1024) (s : State) : Out' :=
  let r := ring.val
  let x := s.ring r
  match nextFetched s r with
  | none => .next s
  | some c =>
    if !x.enabled || x.error || !hifServes s (ringType s r) || fenced x c || !targetTakes s c.desc then .next s
    else match acceptRefusal s r c.desc with
      | some (st, k) => .next (refuseAccept s r c st k)
      | none =>
        if stageLen s c.desc ≠ 0 && !c.staged then .next s
        else if c.dmaFail && descOp c.desc ≠ 0xC0 then .next (refuseAccept s r c St.dmaError 0)
        else if let some k := stagedBad s c then .next (refuseAccept (cellEvent (cellCount s k) k false) r c St.dmaError 0)
        else .next ({ s with order := s.order + 1 }.modCmd r c.slot fun c => { c.under s r with
          phase := .accepted, no := s.order })

/-! ### Completion (R450, R451, R463) -/

/-- The header of a completed descriptor: DONE, STATUS and DETAIL beside what the host posted. -/
def doneHeader (c : CmdEnt) : W64 :=
  put (put (putBit (BitVec.ofNat 64 c.desc.toNat) 8 true) 23 16 c.status) 31 24 c.detail

/-- Write the completion of a command that has ended (R451, R463): RESULT, then the header with DONE = 1. -/
def completeCmd (s : State) (r slot : Nat) : State :=
  match s.cmd? r slot with
  | none => s
  | some c =>
    if c.phase ≠ .done then s
    else
      let x := s.ring r
      let s1 := stageFree (s.setRing r { x with cmds := x.cmds.filter fun d => d.slot != slot }) c.bufs
      if c.mute then s1
      else
        let a := slotAddr s r slot
        let s2 := hostWrite (hostWrite s1 (a + 8) (bytesOf c.result)) a (bytesOf (doneHeader c))
        let s3 := s2.bump64 Reg.HIF_CMD_COUNT_LO 1
        if bit c.desc 9 then vectorCount s3 (ringVec s r) else s3

/-- COMPLETION_WRITE (R451, R463). -/
def execCompletionWrite (ring : Fin 1024) (slot : Nat) (s : State) : Out' := .next (completeCmd s ring slot)

/-! ### Punt (R456-R458) -/

/-- The bytes of a copy for a host port: as the frame arrived where it was punted, else as its rewrite template makes them. -/
def puntBytes (s : State) (x : Frame) (c : Copy) : Except Nat (List Byte) :=
  if c.punt.isSome then .ok x.bytes else copyBytes s x c

/-- The punt ring of a host-port queue. -/
def puntRing (s : State) (q : Nat) : Nat := s.rf (Reg.HIF_PUNT_RING (q - 1024)) 9 0

/-- Can a queue's head copy be written: its ring is an enabled PUNT ring that holds buffers for the whole frame (R458)? -/
def puntReady (s : State) (c : Copy) : Bool :=
  let r := puntRing s c.queue
  let x := s.ring r
  1024 ≤ c.queue && c.queue < 1056 && x.enabled && !x.error && ringType s r == 2 && !busOff s (ringFn s r) &&
  match s.frame? c.frame with
  | some f =>
    match puntBytes s f c with
    | .ok bs => bs.length ≤ (x.posted.map (·.len)).sum
    | .error _ => true
  | none => true

/-- The metadata of a punted frame, from bit 64 of its first descriptor (R458). A frame forwarded to a host port carries no reason
that the spec states. -/
def puntMeta (s : State) (x : Frame) (c : Copy) (len : Nat) : List (Nat × Nat × Nat) :=
  let m := c.punt.getD { reason := Config.freeNat s.freeCtr }
  let o := x.parsed.getD {}
  let t := x.rxTime.getD {}
  [(71, 64, x.port), (79, 72, m.reason), (80, 80, m.kind.toNat), (83, 81, x.pipe), (85, 84, o.cls), (89, 86, o.sub),
   (90, 90, x.rxTime.isSome.toNat), (91, 91, x.handle.isSome.toNat)] ++ t.fields 96 ++
  [(205, 192, len), (255, 224, x.handle.getD 0), (287, 256, o.hash), (303, 288, x.m8)]

/-- Write a frame's bytes to the posted buffers in order, with each buffer's write-back; the buffers left. -/
def puntFill (r : Nat) (info : List (Nat × Nat × Nat)) : List Posted → State → List Byte → Bool → State × List Posted
  | [], s, _, _ => (s, [])
  | p :: ps, s, bs, first =>
    let part := bs.take p.len
    let rest := bs.drop p.len
    let d : Desc := pack 512 ([(8, 8, 1), (9, 9, (!rest.isEmpty).toNat), (10, 10, first.toNat), (29, 16, part.length)] ++
      if first then info else [])
    let s1 := hostWrite (hostWrite s p.addr part) (slotAddr s r p.slot) (bytesOf d)
    if rest.isEmpty then (s1, ps) else puntFill r info ps s1 rest false

/-- The rest of a host-port copy's life: its charge and its frame's cells are released. -/
def puntDone (s : State) (c : Copy) : State := settle (unchargeEg s c.port c.cells) c.frame

/-- Write a copy that has left its queue to its punt ring. A cell that fails its check drops it (R290). -/
def puntCopy (s : State) (c : Copy) : State :=
  match s.frame? c.frame with
  | none => s
  | some x =>
    match badCell s c.frame with
    | some k => settle (cellFail (copyDrop s c) c.frame k) c.frame
    | none =>
      match puntBytes s x c with
      | .error k => copyDrop (s.bump (Reg.SWC_REWRITE_DROP_COUNT k)) c
      | .ok bs =>
        let r := puntRing s c.queue
        let t := puntFill r (puntMeta s x c bs.length) (s.ring r).posted { s with freeCtr := s.freeCtr + 1 } bs true
        let s1 := puntDone (t.1.setRing r { t.1.ring r with posted := t.2 }) c
        if bit (s.reg (Reg.HIF_RING_CFG r)) 15 then vectorCount s1 (ringVec s r) else s1

/-- PUNT_WRITE (R457, R458): the queue's head copy is written to its ring once enough buffers are posted, where its host port's
scheduler has it next among those that can be written. -/
def execPuntWrite (queue : Fin 32) (s : State) : Out' :=
  let t := selectCopy s (128 + queue.val / 8) (puntReady s)
  match t.2 with
  | some c => .next (if c.queue = 1024 + queue.val then puntCopy t.1 c else s)
  | none => .next s

/-! ### Inject (R459, R460, R504) -/

/-- The frame that an inject stores: the buffer's bytes, padded to 60. -/
def injectFrame (s : State) (c : CmdEnt) (ring : Nat) : Frame :=
  let d := c.desc
  let bs := hostRead s (fld d 127 64) (fld d 141 128)
  let p := fld d 144 142
  { port := 128 + s.rf (Reg.HIF_RING_CFG ring) 23 22, pipe := p, fabric := 2 * p + 1,
    bytes := bs ++ List.replicate (60 - bs.length) 0, front := false, seenTime := s.tmu.time,
    inject := some (ring, c.slot), direct := if bit d 145 then some (fld d 164 146) else none,
    tsReq := bit d 165, oneStep := bit d 166, tsId := fld d 183 168 }

/-- INJECT (R459, R460, R504): admission, then the frame's bytes; its completion is written once its last byte is stored. -/
def execInject (ring : Fin 1024) (slot : Nat) (s : State) : Out' :=
  onCmd s ring slot 0xC0 fun c =>
    let n := 128 + s.rf (Reg.HIF_RING_CFG ring) 23 22
    if s.domain (domPipe (fld c.desc 144 142)) != .on then s.finish ring slot St.busy
    else if !admitIngress s n then (s.bump (Reg.SWC_ING_DROP_COUNT n)).finish ring slot St.noSpace
    else if c.dmaFail || c.mute then s.finish ring slot St.dmaError
    else (frameNew (s.modCmd ring slot fun c => { c with phase := .running }) (injectFrame s c ring)).1

/-! ### Export (R124, R461) -/

/-- An IPFIX message with its header (R124). -/
def ipfixBytes (s : State) (prof : BitVec 128) (m : ExpMsg) : List Byte :=
  bytesBE 2 10 ++ bytesBE 2 m.size ++ bytesBE 4 s.seconds ++ bytesBE 4 m.seq ++ bytesBE 4 (fld prof 95 64) ++
  bytesBE 2 m.setId ++ bytesBE 2 (m.size - 16) ++ m.records.flatten

/-- Write a closed message to its profile's ring, or discard it (R461). -/
def exportWrite (s : State) (n : Nat) (m : ExpMsg) : State :=
  let prof := fget s.flw.expProf 0 n
  let r := fld prof 57 48
  let x := s.ring r
  match x.posted with
  | p :: ps =>
    if x.enabled && !x.error && ringType s r == 3 && m.size ≤ p.len && !busOff s (ringFn s r) then
      let d : Desc := pack 512 [(8, 8, 1), (29, 16, m.size), (75, 64, n), (95, 80, m.records.length)]
      let s0 := memPostIn s 8 0x1624000000 0x1DC000000 false ((m.size + 31) / 32)
      let s1 := hostWrite (hostWrite s0 p.addr (ipfixBytes s0 prof m)) (slotAddr s0 r p.slot) (bytesOf d)
      let s2 := s1.setRing r { x with posted := ps }
      if bit (s.reg (Reg.HIF_RING_CFG r)) 15 then vectorCount s2 (ringVec s r) else s2
    else s.bump Reg.HIF_EXPORT_DROP_COUNT
  | [] => s.bump Reg.HIF_EXPORT_DROP_COUNT

/-- EXPORT_MESSAGE_CLOSE (R124, R461): the oldest message of a profile that has been closed is written; else the one in hand closes
1 ms after its first record. -/
def execExportMessageClose (profile : Fin 4096) (s : State) : Out' :=
  let n := profile.val
  match s.flw.expClosed.find? fun e => e.1 == n with
  | some e => .next (exportWrite { s with flw := { s.flw with expClosed := s.flw.expClosed.erase e } } n e.2)
  | none =>
    match ffind? s.flw.expMsgs n with
    | some m =>
      let s1 := s.reach (m.opened + 1000000)
      .next (exportWrite { s1 with flw := { s1.flw with expMsgs := ferase s1.flw.expMsgs n } } n m)
    | none => .next s

/-! ### Moderation (R463) -/

/-- VECTOR_TIMEOUT (R463): the time since a vector's first pending entry has run out. -/
def execVectorTimeout (vector : Fin 64) (s : State) : Out' :=
  match (s.vector vector).since with
  | some t => .next (vectorTry (s.reach (t + 1000 * s.rf (Reg.HIF_VEC_MOD vector) 31 16)) vector)
  | none => .next s

/-! ### Functions, their resets and the link (R442-R444, R533) -/

/-- What a function's configuration space says of it: Device ID, class code, and the sizes of its 64-bit, non-prefetchable BAR0 and BAR2
(0 where it has none). -/
structure FnIdent where
  device : Nat
  cls    : Nat
  bar0   : Nat
  bar2   : Nat
deriving DecidableEq, Repr

/-- The identity of a function (R442, R443): the PF, or a VF. DMA of a ring carries the requester ID of the function that `ringFn` names. -/
def fnIdent (fn : Nat) : FnIdent :=
  if fn = 0 then ⟨0x9128, 0x028000, 64 * 2 ^ 20, 4 * 2 ^ 20⟩ else ⟨0x9129, 0x028000, 0, 512 * 2 ^ 10⟩

/-- The rings that a function-level reset of a function covers. -/
def fnRings (s : State) (fn : Nat) : List Nat := (List.range 1024).filter fun r => fn == 0 || ringFn s r == fn

/-- Clear a function's MSI-X state, and with the PF's that of every VF (R444): its table's entries return to their reset value, nothing is
pending, and its vectors count nothing and are not armed. -/
def msixClear (s : State) (fn : Nat) : State :=
  let s1 := { s with hif := { s.hif with
    pba := s.hif.pba.filter fun e => fn != 0 && e / 64 != fn
    vfMsix := fkeep s.hif.vfMsix fun k => fn != 0 && k / 2048 != fn - 1
    vectors := fkeep s.hif.vectors fun v => fn != 0 && !(vectorOwners s v).contains fn } }
  if fn = 0 then { s1 with regs := fkeep s1.regs fun a => a < 0xD80000 || 0xD80400 ≤ a } else s1

/-- A function-level reset (R444, R487): of the PF, of every ring and vector. -/
def functionReset (s : State) (fn : Nat) : State := msixClear (forAll s (fnRings s fn) ringDisable) fn

/-- FUNCTION_LEVEL_RESET (R444). -/
def execFunctionLevelReset (fn : Fin 65) (s : State) : Out' := .next (functionReset s fn)

/-- A ring writes nothing more (R453). -/
def ringMute (s : State) (r : Nat) : State :=
  let x := s.ring r
  s.setRing r { x with cmds := x.cmds.map fun c => { c with mute := true } }

/-- BUS_MASTER_DISABLE (R444, R453): each enabled ring of the function goes into ERROR, and none of its rings writes anything more. -/
def execBusMasterDisable (fn : Fin 65) (s : State) : Out' :=
  let f := fn.val
  let s1 := if busOff s f then s else { s with hif := { s.hif with busOff := f :: s.hif.busOff } }
  .next (forAll s1 ((List.range 1024).filter fun r => ringFn s r == f) fun s r => ringMute (ringError s r 4) r)

/-- PCIE_HOT_RESET (R533): a hot reset, or a loss of the link, resets every function. -/
def execPcieHotReset (s : State) : Out' :=
  let s1 := forAll s (List.range 65) functionReset
  .next { s1 with hif := { s1.hif with linkUp := false }, pkg := { s1.pkg with hostReset := true } }

/-- PCIE_LINK_TRAINED (R442): the link comes up at a speed and a width. -/
def execPcieLinkTrained (speed : Fin 4) (width : Fin 17) (flit : Bool) (s : State) : Out' :=
  if s.pkg.inReset || s.hlt.shutdown then .next s
  else .next { s with hif := { s.hif with speed := speed, width := width, flit := flit, linkUp := true } }

end Sys2Proof.Machine
end

