-- ==== Sys2Proof/Machine/Line.lean ====
section
/-!
DEFINITION. Machine/Line.lean: the line interface: ports, lanes, frames received, and the Loupes (R383-R406, R416, R417, R542, R554).
-/

namespace Sys2Proof.Machine

open Sys2Proof

/-! ### Ports and lanes (R383-R389) -/

/-- The octet and the slot of a port or lane. -/
def octOf (n : Nat) : Nat := n / 8
def slotOf (n : Nat) : Nat := n % 8

/-- LIF_PORT_CFG of a port. -/
def portCfgAddr (n : Nat) : Nat := Reg.LIF_PORT_CFG (octOf n) (slotOf n)

/-- RS-FEC is in use in a mode (R384): mode 6 has it unless FEC25 takes it away. -/
def fecOn (mode : Nat) (cfg : W32) : Bool := mode != 7 && mode != 0 && (mode != 6 || !bit cfg 3)

/-- Are an octet's SerDes and its MAC and PCS powered (R499)? -/
def lineOn (s : State) (o : Nat) : Bool := s.domain (1 + o) == .on && s.domain (17 + o / 4) == .on

/-- Do the references that an octet needs run: its own, and its island's (R554)? -/
def refOk (s : State) (o : Nat) : Bool := !s.lif.refLost.contains o && !s.lif.refLost.contains (o / 4 * 4)

/-- Change every lane of a port. -/
def modLanes (s : State) (n : Nat) (f : LaneSt → LaneSt) : State :=
  (portLanes s n).foldl (fun s l => s.setLane l (f (s.lane l))) s

/-- A LIF event of an octet; one discarded at a full ring sets an interrupt source too (R395, R416, R519). -/
def lifEvent (s : State) (o typ : Nat) (fs : List (Nat × Nat × Nat)) : State :=
  match eventWrite s (s.rf (Reg.LIF_EVENT_CTRL o) 9 0) typ fs with
  | (s1, true) => s1
  | (s1, false) => intRaise (s1.bump (Reg.LIF_EVENT_DROP_COUNT o)) 2 o

/-- LINK_UP or LINK_DOWN of a port (R395). -/
def linkEvent (s : State) (n typ cause : Nat) : State :=
  intRaise (lifEvent s (octOf n) typ [(71, 64, n), (74, 72, cause), (75, 75, (s.port n).fec.toNat), (78, 76, quadMode s n),
    (143, 96, s.tick)]) 1 (octOf n)

/-- What a port advertises (R383, R387): the technology of its mode, KR or CR as MEDIUM chooses; 10GBASE has KR alone. -/
def anTech (s : State) (n : Nat) (cfg : W32) : Tech := { mode := quadMode s n, copper := bit cfg 2 && quadMode s n != 7 }

/-- The state a port starts in: AN, TRAINING or ALIGN as its configuration skips (R386). -/
def startState (cfg : W32) : Nat := if bit cfg 0 then 1 else if bit cfg 1 then 2 else 3

/-- A port starts an attempt: its configuration and that of its lanes is taken in (R386, R542). -/
def portStart (s : State) (n : Nat) : State :=
  if !lineOn s (octOf n) then s
  else
    let cfg := s.reg (portCfgAddr n)
    let x := s.port n
    let s0 := s.setPort n { x with state := startState cfg, cfg := cfg, fec := fecOn (quadMode s n) cfg, waiting := false,
                                   localFault := false, remoteFault := false }
    let t := anTech s n cfg
    let s1 := if bit cfg 0 then s0.emit (.advert n t.mode t.copper (fecOn (quadMode s n) cfg)) else s0
    (portLanes s1 n).foldl (fun s l => s.setLane l { s.lane l with
      trained := false, valid := false, cfg := s.reg (Reg.LIF_LANE_CFG (octOf l) (slotOf l)) }) s1

/-- A frame in flight on receive ends with a receive error (R277, R388). -/
def rxCut (s : State) (n : Nat) : State :=
  match (s.swc.frames.filter fun e => e.2.port == n && e.2.front).getLast? with
  | some (f, x) =>
    if x.tail || x.tailErr == some 1 then s
    else (s.modFrame f fun x => { x with tailErr := some 1 }).bump (Reg.LIF_RX_ERR_COUNT (octOf n) (slotOf n))
  | none => s

/-- The copy being sent is abandoned (R287, R428). -/
def txAbandon (s : State) (n : Nat) : State :=
  match ffind? s.swc.wire n with
  | none => s
  | some w =>
    let s1 := unchargeEg { s with swc := { s.swc with wire := ferase s.swc.wire n } } n w.copy.cells
    let s2 := ((cutVoqs s1 (sameCopy w.copy)).setPfc n { s1.pfcOf n with waiting := [] }).bump Reg.SWC_LINK_ABORT_COUNT
    settle (if w.ts.isSome then txtsClose s2 n 2 else s2) w.copy.frame

/-- A port leaves UP (R388). -/
def portLeave (s : State) (n cause : Nat) : State :=
  let s1 := s.setPort n { s.port n with cause := cause }
  let s2 := txAbandon (rxCut (s1.bump (Reg.LIF_FLAP_COUNT (octOf n) (slotOf n))) n) n
  modLanes (linkEvent s2 n 0x99 cause) n fun l => { l with valid := false }

/-- As `portLeave`, for a port that is UP. -/
def leaveUp (s : State) (n cause : Nat) : State := if (s.port n).state = 5 then portLeave s n cause else s

/-- A port is taken to DISABLED: its lanes stop. -/
def portOff (s : State) (n : Nat) : State :=
  let s1 := modLanes s n fun l => { l with signal := false, cdr := false, lock := false, trained := false, valid := false }
  s1.setPort n { s1.port n with state := 0, waiting := false, fec := false, localFault := false, remoteFault := false }

/-- A port enters ALIGN: its lanes must publish a delay anew (R405). -/
def portAlign (s : State) (n : Nat) : State :=
  modLanes (s.setPort n { s.port n with state := 3 }) n fun l => { l with valid := false }

/-- An attempt of a port ends without success, and a back-off begins (R387). -/
def attemptFails (s : State) (n : Nat) : State :=
  (s.setPort n { s.port n with waiting := true, since := s.ns }).bump (Reg.LIF_AN_FAIL_COUNT (octOf n) (slotOf n))

/-- AN_COMPLETE (R386, R387): the pages have been exchanged. A partner that advertises the port's technology takes it on; any other
ends the attempt. -/
def execAnComplete (partner : Partner) (s : State) : Out' :=
  let n := partner.port.val
  let x := s.port n
  if !(portExists s n && x.state = 1 && !x.waiting) then .next s
  else
    let s1 := modLanes s n fun l => { l with signal := true }
    .next (if !partner.techs.contains (anTech s n x.cfg) then attemptFails s1 n
      else if bit x.cfg 1 then s1.setPort n { x with state := 2 } else portAlign s1 n)

/-- AN_FAIL (R387): a negotiation or training attempt fails, and a back-off begins. -/
def execAnFail (port : Fin 128) (s : State) : Out' :=
  let n := port.val
  let x := s.port n
  .next (if portExists s n && (x.state = 1 || x.state = 2) && !x.waiting then attemptFails s n else s)

/-- AN_BACKOFF_EXPIRE (R387): the port tries again, and the next back-off is twice as long, 1,280 ms at most. -/
def execAnBackoffExpire (port : Fin 128) (s : State) : Out' :=
  let n := port.val
  let x := s.port n
  if !(portExists s n && x.waiting) then .next s
  else
    let s1 := s.reach (x.since + 1000000 * x.backoff)
    .next (portStart (s1.setPort n { x with backoff := min 1280 (2 * x.backoff) }) n)

/-- TRAINING_COMPLETE (R386). -/
def execTrainingComplete (port : Fin 128) (s : State) : Out' :=
  let n := port.val
  let x := s.port n
  if !(portExists s n && x.state = 2 && !x.waiting) then .next s
  else .next (portAlign (modLanes s n fun l => { l with signal := true, cdr := true, trained := true }) n)

/-- PORT_ALIGNED (R386, R405, R554): every lane has lock and the PCS has alignment, without a fault. -/
def execPortAligned (port : Fin 128) (s : State) : Out' :=
  let n := port.val
  let x := s.port n
  if !(portExists s n && x.state = 3 && !x.localFault && !x.remoteFault && refOk s (octOf n)) then .next s
  else .next (modLanes (s.setPort n { x with state := 4, since := s.ns }) n fun l => { l with signal := true, cdr := true, lock := true })

/-- LINK_UP (R386, R389, R405): UP_HOLD_MS of clean link have passed, and every lane has published its delay. -/
def execLinkUp (port : Fin 128) (s : State) : Out' :=
  let n := port.val
  let x := s.port n
  if !(portExists s n && x.state = 4 && (portLanes s n).all fun l => (s.lane l).valid) then .next s
  else
    let s1 := s.reach (x.since + 1000000 * fld x.cfg 13 4)
    .next (linkEvent (s1.setPort n { x with state := 5, backoff := 10 }) n 0x98 0)

/-- What a lane's loss leaves of its status. -/
def laneLost (l : LaneSt) : LaneLoss → LaneSt
  | .signal => { l with signal := false, cdr := false, lock := false }
  | .lock => { l with cdr := false, lock := false }
  | .alignment => l

/-- A port whose link is lost starts again (R388). -/
def linkLost (s : State) (n cause : Nat) : State := portStart (leaveUp s n cause) n

/-- The port that a lane serves. -/
def lanePort (s : State) (l : Nat) : Option Nat := (List.range 8).findSome? fun k =>
  let n := l - k
  if k ≤ l && portExists s n && l < n + modeLanes (quadMode s n) then some n else none

/-- Has a lane what the cause says it loses? -/
def laneHad (l : LaneSt) : LaneLoss → Bool
  | .signal => l.signal
  | .lock => l.lock
  | .alignment => false

/-- LINK_DOWN (R388): a lane loses signal or lock, or its PCS alignment. A port in ALIGN, HOLD or UP starts again; each further
lane that loses what it has is counted. -/
def execLinkDown (lane : Fin 128) (cause : LaneLoss) (s : State) : Out' :=
  match lanePort s lane with
  | none => .next s
  | some n =>
    let up := decide (3 ≤ (s.port n).state)
    if !(up || laneHad (s.lane lane) cause) then .next s
    else
      let s1 := s.setLane lane (laneLost (s.lane lane) cause)
      let s2 := if cause == .alignment then s1 else s1.bump (Reg.LIF_LANE_LOCK_LOSS_COUNT (octOf lane) (slotOf lane))
      .next (if up then linkLost s2 n (if cause == .signal then 1 else 2) else s2)

/-- A port's own receiver sees a local fault or no longer does: it sends remote fault to its partner for as long (R388). -/
def localFaultSet (s : State) (n : Nat) (on : Bool) : State :=
  let s1 := s.setPort n { s.port n with localFault := on }
  if (s.port n).localFault == on then s1 else s1.emit (.remoteFault n on)

/-- A fault takes a port from UP or HOLD back to ALIGN (R388). -/
def faultBack (s : State) (n cause : Nat) : State :=
  if 4 ≤ (s.port n).state then portAlign (leaveUp s n cause) n else s

/-- LINK_FAULT (R386, R388): a local fault or a received remote fault begins or ends. -/
def execLinkFault (port : Fin 128) (fault : FaultKind) (s : State) : Out' :=
  let n := port.val
  let x := s.port n
  if !(portExists s n && 3 ≤ x.state) then .next s
  else match fault with
    | .localFault => .next (faultBack (localFaultSet s n true) n 3)
    | .remoteFault => .next (faultBack (s.setPort n { x with remoteFault := true }) n 4)
    | .localEnd => .next (localFaultSet s n false)
    | .remoteEnd => .next (s.setPort n { x with remoteFault := false })

/-- The octets that lose their clock with a reference (R554). -/
def refOctets (o : Nat) : List Nat := if o % 4 = 0 then [o, o + 1, o + 2, o + 3] else [o]

/-- The front ports of an octet. -/
def octPorts (s : State) (o : Nat) : List Nat := ((List.range 8).map (8 * o + ·)).filter (portExists s)

/-- A lane loses the lock it has, and is counted. -/
def laneUnlock (s : State) (l : Nat) : State :=
  if (s.lane l).cdr || (s.lane l).lock then
    (s.setLane l (laneLost (s.lane l) .lock)).bump (Reg.LIF_LANE_LOCK_LOSS_COUNT (octOf l) (slotOf l))
  else s

/-- REFCLK_LOSS (R554): a lane-group reference fails; the lanes it clocks lose lock, and their ports in ALIGN, HOLD or UP start again. -/
def execRefclkLoss (octet : Fin 16) (s : State) : Out' :=
  let o := octet.val
  if s.lif.refLost.contains o then .next s
  else
    let s1 := { s with lif := { s.lif with refLost := o :: s.lif.refLost } }
    let s2 := ((refOctets o).flatMap fun o => (List.range 8).map (8 * o + ·)).foldl laneUnlock s1
    .next (((refOctets o).flatMap (octPorts s)).foldl (fun s n => if (s.port n).state < 3 then s else linkLost s n 2) s2)

/-- REFCLK_RETURN (R554). -/
def execRefclkReturn (octet : Fin 16) (s : State) : Out' :=
  .next { s with lif := { s.lif with refLost := s.lif.refLost.filter (· != octet.val) } }

/-! ### Modes and administration (R392-R394, R542) -/

/-- Mode of quad `q` of an octet. -/
def State.mode (s : State) (o q : Nat) : Nat := fget s.lif.modes 0 (2 * o + q)

/-- The modes that a PORT_MODE_WRITE gives the quads of its octet. -/
def newMode (s : State) (d : Desc) (q : Nat) : Nat :=
  if bit d (68 + q) then (if q = 0 then fld d 74 72 else fld d 78 76) else s.mode (fld d 67 64) q

/-- The ports of a quad of an octet. -/
def quadPorts (s : State) (o q : Nat) : List Nat := (octPorts s o).filter fun n => n / 4 % 2 == q

/-- Remove a port (R393): it goes to DISABLED with cause MODE_CHANGE, which stands in the status of its slot. -/
def portRemove (s : State) (n : Nat) : State :=
  let g := s.gatesOf n
  let s1 := (portOff (leaveUp s n 5) n).setGates n {}
  let s2 := match g.command with
    | some (r, i) => let f := s1.free
                     f.2.finish r i (f.1 % 256)
    | none => s1
  modLanes (s2.setPort n { cause := if (s.port n).state = 0 then (s.port n).cause else 5 }) n fun l => { l with clean := [], corner := 0 }

/-- Create a port, which starts at once (R386, R542). -/
def portCreate (s : State) (n : Nat) : State :=
  let c := portCfgAddr n
  let p := Reg.TMU_PTP_CFG n
  portStart ((s.setReg c (regDefault c)).setReg p (regDefault p)) n

/-- PORT_MODE_WRITE (R392, R393, R542). -/
def execPortModeWrite (ring : Fin 1024) (slot : Nat) (s : State) : Out' :=
  onCmd s ring slot 0x98 fun c =>
    let o := fld c.desc 67 64
    let m0 := newMode s c.desc 0
    let m1 := newMode s c.desc 1
    let qs := [0, 1].filter fun q => newMode s c.desc q != s.mode o q
    let gone := qs.flatMap (quadPorts s o)
    if fld c.desc 69 68 = 0 then s.badField ring slot 8
    else if (m0 == 4) != (m1 == 4) || (s.mode o 0 = 4 && fld c.desc 69 68 ≠ 3) then s.badField ring slot 9
    else if gone.any fun n => s.egCells n != 0 || s.portSegs n != 0 then s.finish ring slot St.busy
    else
      let s1 := gone.foldl portRemove s
      let s2 := { s1 with lif := { s1.lif with modes := fput (fput s1.lif.modes 0 (2 * o) m0) 0 (2 * o + 1) m1 } }
      ((qs.flatMap (quadPorts s2 o)).foldl portCreate s2).finish ring slot St.ok

/-- PORT_ADMIN (R392, R394). -/
def execPortAdmin (ring : Fin 1024) (slot : Nat) (s : State) : Out' :=
  onCmd s ring slot 0x99 fun c =>
    let n := fld c.desc 87 80
    if !portExists s n then s.badField ring slot 10
    else if bit c.desc 88 then
      (if (s.port n).state = 0 then portStart (s.setPort n { s.port n with admin := true }) n else s).finish ring slot St.ok
    else
      let s1 := portOff (leaveUp s n 0) n
      (s1.setPort n { s1.port n with admin := false, cause := if (s.port n).state = 0 then (s.port n).cause else 0 }).finish ring slot St.ok

/-! ### Frames received (R267, R268, R276, R324-R326, R385, R390, R391, R404, R422) -/

/-- Existing ports of a pipeline. -/
def pipePorts (s : State) (p : Nat) : Nat := ((List.range 16).filter fun i => portExists s (16 * p + i)).length

/-- Bytes of a port's frames that stand in receive staging, ahead of the parser, with the 4 of their FCS (R391). -/
def stagedBytes (s : State) (n : Nat) : Nat :=
  (s.swc.frames.map fun e => if e.2.port = n && e.2.front && e.2.parsed.isNone then e.2.bytes.length + 4 else 0).sum

/-- Does a port lack 256 bytes of free staging (R391)? -/
def overruns (s : State) (n : Nat) : Bool := 65536 / max 1 (pipePorts s (n / 16)) < stagedBytes s n + 256

/-- PFC priority of a frame (R325): the PCP of its outer VLAN tag, or DEFAULT_PRIO. -/
def framePrio (s : State) (n : Nat) (f : List Byte) : Nat :=
  if beAt f 12 2 = 0x8100 || beAt f 12 2 = 0x88A8 then byteAt f 14 / 32 else s.rf (Reg.TMG_PFC_CFG n) 18 16

/-- The receive delay of a port (R404). -/
def rxDelay (s : State) (n : Nat) : Nat := (portLanes s n).foldl (fun m l => max m (s.lane l).delay) 0

/-- The receive timestamp of a frame that arrives now, and its tick in units of 2^-16 ns. -/
def rxStamp (s : State) (n : Nat) : DevTime × Nat :=
  let d := rxDelay s n
  (DevTime.ofUnits (s.time.units - d), 2 ^ 16 * s.tmu.tick + s.tmu.tickFrac / 2 ^ 24 - d)

/-- A MAC control frame (R390): PFC acts, PAUSE is counted, others are discarded. -/
def macControl (s : State) (n : Nat) (f : List Byte) : State :=
  match beAt f 14 2 with
  | 0x0101 => pfcTake s n (beAt f 16 2) ((List.range 8).map fun i => beAt f (18 + 2 * i) 2)
  | 0x0001 => s.bump (Reg.TMG_PFC_RX_COUNT n)
  | _ => s.bump (Reg.LIF_CTRL_DROP_COUNT (octOf n) (slotOf n))

/-- Is the FCS at a frame's end right? -/
def fcsOk (f : List Byte) : Bool := f.drop (f.length - 4) == fcsBytes (f.take (f.length - 4))

/-- A frame that the line interface hands on: admitted, or dropped at ingress (R268). -/
def frameIn (s : State) (n : Nat) (bytes : List Byte) (err : Option Nat) : State :=
  let t := rxStamp s n
  if !admitIngress s n then s.bump (Reg.SWC_ING_DROP_COUNT n)
  else (frameNew s { port := n, pipe := n / 16, fabric := ingressFabric n, bytes := bytes, prio := framePrio s n bytes,
                     rxTime := some t.1, rxTick := t.2, seenTime := s.time, tailErr := err }).1

/-- Add to a counter what an event brings it, if anything. -/
def State.tally (s : State) (a k : Nat) : State := if k = 0 then s else s.bumpBy a k

/-- What the RS-FEC decoder counts over a frame (R385, R396): codewords it could not correct, codewords it corrected, and the symbols
corrected on each lane of the port. -/
def fecCount (s : State) (n : Nat) (line : LineErr) : State :=
  if (s.port n).fec then
    let s1 := (s.tally (Reg.LIF_FEC_UNCORR_COUNT (octOf n) (slotOf n)) line.codewords).tally
      (Reg.LIF_FEC_CORR_COUNT (octOf n) (slotOf n)) line.corrected
    ((portLanes s n).zip line.symErrs).foldl (fun s e => s.tally (Reg.LIF_LANE_SYM_ERR_COUNT (octOf e.1) (slotOf e.1)) e.2) s1
  else s

/-- A frame with a line error (R276, R385, R388, R390): it is ended with a receive error. One shorter than the window that has only a PCS
error is discarded. -/
def frameBroken (s : State) (n : Nat) (bytes : List Byte) (line : LineErr) (hit : Bool) : State :=
  let mx := s.rf Reg.SWC_MAX_FRAME 13 0
  let s1 := (s.bump (Reg.LIF_RX_ERR_COUNT (octOf n) (slotOf n))).tally (Reg.LIF_RUNT_COUNT (octOf n) (slotOf n))
    (decide (bytes.length < 64)).toNat
  let kept := if line.linkLost then bytes else bytes.take (bytes.length - 4)
  if !hit && !line.linkLost && kept.length < 256 then s1 else frameIn s1 n (kept.take (mx - 4)) (some 1)

/-- FRAME_RECEIVE (R264, R267, R268, R276, R324-R326, R385, R386, R390, R391, R404, R422): a frame with its FCS arrives at a port; no bytes
stand for codewords outside any frame. A port that lacks staging discards the frame at its first byte; a MAC control frame whose FCS is
wrong counts there alone. -/
def execFrameReceive (port : Fin 128) (bytes : List Byte) (line : LineErr) (s : State) : Out' :=
  let n := port.val
  let o := octOf n
  let i := slotOf n
  let mx := s.rf Reg.SWC_MAX_FRAME 13 0
  if !portUp s n then .next s
  else
    let s1 := fecCount s n line
    let hit := (s.port n).fec && line.codewords != 0
    let bad := line.rxError || line.linkLost || hit
    let control := beAt bytes 12 2 == 0x8808
    if bytes.isEmpty && !line.rxError && !line.linkLost then .next s1
    else if overruns s1 n then .next (s1.bump (Reg.LIF_OVERRUN_COUNT o i))
    else if control && !fcsOk bytes then .next (s1.bump (Reg.LIF_FCS_ERR_COUNT o i))
    else if bad then .next (frameBroken s1 n bytes line hit)
    else if bytes.length < 64 then .next (s1.bump (Reg.LIF_RUNT_COUNT o i))
    else if control then .next (macControl s1 n bytes)
    else if mx < bytes.length then .next (frameIn s1 n (bytes.take (mx - 4)) (some 4))
    else if fcsOk bytes then .next (frameIn s1 n (bytes.take (bytes.length - 4)) none)
    else .next (frameIn (s1.bump (Reg.LIF_FCS_ERR_COUNT o i)) n (bytes.take (bytes.length - 4)) (some 0))

/-! ### The Loupes (R398-R405, R416) -/

/-- Is a lane's signalling PAM4 (R383)? -/
def pam4 (mode : Nat) : Bool := 1 ≤ mode && mode ≤ 5

/-- Eyes of a lane. -/
def laneEyes (s : State) (l : Nat) : Nat := if pam4 (quadMode s l) then 3 else 1

/-- Symbol rate of a mode, in kBd (R383): PAM4 carries two bits in a symbol. -/
def modeBaud (m : Nat) : Nat := if m = 5 then 26562500 else if m = 6 then 25781250 else if m = 7 then 10312500 else 53125000

/-- Nanoseconds of one dwell: DWELL symbols (R399). -/
def dwellNs (s : State) (l : Nat) : Nat :=
  let k := modeBaud (quadMode s l)
  (1000000 * 2 ^ s.rf (Reg.LIF_LOUPE_CTRL (octOf l) (slotOf l)) 20 16 + k - 1) / k

/-- LOUPE_DWELL (R399, R400, R416): one dwell of the margin monitor at a corner of an eye. The corners come in turn, and a dwell counts
no more symbols than it has. -/
def execLoupeDwell (lane : Fin 128) (eye : Fin 3) (corner : Fin 4) (count : Nat) (s0 : State) : Out' :=
  let l := lane.val
  let k := 4 * eye.val + corner.val
  let up := (lanePort s0 l).any fun n => (s0.port n).state == 5
  let s1 := s0.reach ((s0.lane l).dwellAt + dwellNs s0 l)
  let x := { s0.lane l with dwellAt := s1.ns, corner := (k + 1) % (4 * laneEyes s0 l) }
  let s := s1.setLane l x
  let top := 2 ^ s.rf (Reg.LIF_LOUPE_CTRL (octOf l) (slotOf l)) 15 10
  if !up || x.scan.isSome || laneEyes s0 l ≤ eye.val || (s0.lane l).corner % (4 * laneEyes s0 l) ≠ k ||
      2 ^ s.rf (Reg.LIF_LOUPE_CTRL (octOf l) (slotOf l)) 20 16 < count then .next s0
  else if top < count then
    let m : W32 := pack 32 [(1, 0, eye.val), (3, 2, corner.val), (31, 4, min count (2 ^ 28 - 1))]
    let s1 := s.setLane l { x with margin := m, low := true, clean := if x.low then x.clean.filter (· != k) else [] }
    if x.low then .next s1
    else .next (intRaise (lifEvent s1 (octOf l) 0x9A [(70, 64, l), (72, 71, eye.val), (74, 73, corner.val),
      (111, 80, min count (2 ^ 32 - 1))]) 2 (octOf l))
  else if x.low && count < top then
    let cs := if x.clean.contains k then x.clean else k :: x.clean
    .next (s.setLane l (if cs.length = 4 * laneEyes s l then { x with low := false, clean := [] } else { x with clean := cs }))
  else .next s

/-- The mean of the measurements of a window (R402, R403): a measurement is the time a marker took from the pins to the exit of the PCS. -/
def meanDelay (marks : List Marker) : Nat := (marks.map fun m => m.exit - m.pins).sum / marks.length % 2 ^ 32

/-- RX_DELAY_PUBLISH (R402-R405): a lane publishes its receive delay, every 128 µs; without a measurement the previous value stands. -/
def execRxDelayPublish (lane : Fin 128) (marks : List Marker) (s : State) : Out' :=
  let l := lane.val
  let x := s.lane l
  match lanePort s l with
  | none => .next s
  | some n =>
    let s0 := s.reach (x.pubAt + 128000)
    if (s.port n).state < 3 then .next s
    else if marks.isEmpty then .next (s0.setLane l { x with pubAt := s0.ns })
    else
      let v := meanDelay marks
      let moved := x.measured && (65536 < v - x.delay || 65536 < x.delay - v)
      let s1 := s0.setLane l { x with delay := v, valid := true, measured := true, pubAt := s0.ns }
      .next (if moved then s1.bump (Reg.LIF_DELAY_STEP_COUNT (octOf n) (slotOf n)) else s1)

/-- The 6,144 bytes of an eye map (R401): an NRZ map fills 2,048 of them. -/
def eyeMap (s : State) (l : Nat) (map : List W16) : List Byte :=
  let k := 1024 * laneEyes s l
  let cs := (map ++ List.replicate k 0).take k ++ List.replicate (3072 - k) 0
  cs.flatMap fun w => bytesOf w

/-- LANE_EYE_READ (R401): an accepted command starts the scan; when every point of the scan has had its
dwell, the map is written and the command completes. -/
def execLaneEyeRead (ring : Fin 1024) (slot : Nat) (map : List W16) (s : State) : Out' :=
  match s.cmd? ring slot with
  | none => .next s
  | some c =>
    let l := fld c.desc 70 64
    let x := s.lane l
    let off := match lanePort s l with
      | some n => (s.port n).state == 0
      | none => true
    if descOp c.desc ≠ 0x9A then .next s
    else if c.phase == .accepted then
      if (s.next? ring).any (·.slot != slot) then .next s else
      if off || x.scan.isSome then .next (s.finish ring slot St.busy)
      else .next ((s.modCmd ring slot fun c => { c with phase := .running }).setLane l { x with scan := some (ring.val, slot), scanAt := s.ns })
    else if c.phase == .running && x.scan == some (ring.val, slot) then
      let s1 := s.reach (x.scanAt + 1024 * laneEyes s l * dwellNs s l)
      .next (((s1.setLane l { x with scan := none }).output c (eyeMap s l map)).finish ring slot St.ok)
    else .next s

end Sys2Proof.Machine
end

