-- ==== Sys2Proof/Machine/FlowSetup.lean ====
section
/-!
DEFINITION. Machine/FlowSetup.lean: the policer (R322), the Filigree walk (R87, R88), index and NAT port allocation
(R45, R113, R114), and the building of records (R78, R83, R92).
-/

namespace Sys2Proof.Machine

open Sys2Proof

/-! ### The policer (R71, R322) -/

/-- Write LAST_SEEN and, where the record is policed, refill and charge its bucket; the Bool is policer excess. -/
def police (s : State) (i : Nat) (r : Rec) (len now : Nat) : Rec × Bool :=
  let seen : Rec := put r 975 928 now
  let n := fld r 539 528
  if n = 0 then (seen, false)
  else
    let p := fget (s.slice i).profiles 0 n
    let d := (tickDiff now r.lastSeen).toNat
    let t := min (fld p 63 32) (fld r 447 416 + fld p 31 0 * d / 8000000)
    if len ≤ t then (put seen 447 416 (t - len), false) else (put seen 447 416 t, true)

/-! ### Filigree (R87-R89) -/

/-- Does an accepted FILIGREE_LOAD that has not ended name a slice (R89, R95)? -/
def flgLoading (s : State) (i : Nat) : Bool :=
  s.hif.rings.any fun (e : Nat × Ring) => e.2.cmds.any fun c =>
    descOp c.desc == 0x26 && (fld c.desc 111 96).testBit i && (c.phase == .accepted || c.phase == .running)

/-- Is Filigree in DUAL mode? -/
def flgDual (s : State) : Bool := bit (s.reg Reg.FLW_FILIGREE_CTRL) 0

/-- A node of an image; memory that holds none reads 0. -/
def flgNode (x : Slice) (bank : Bool) (n : Nat) : W64 := fget x.nodes 0 (2 ^ 17 * bank.toNat + n)

/-- Nodes of a bank's image. -/
def flgCount (x : Slice) (bank : Bool) : Nat := if bank then x.count1 else x.count0

/-- Is a node's kind or a reserved field such that a walk faults on it? -/
def nodeBad (n : W64) : Bool :=
  match fld n 1 0 with
  | 0 => fld n 63 57 != 0
  | 1 => fld n 63 31 != 0 || 15 < fld n 10 7 + fld n 13 11
  | 2 => fld n 63 41 != 0
  | _ => true

/-- The node after a test or a cut node. -/
def nodeNext (v : List Nat) (n : Nat) (nd : W64) : Nat :=
  let w := v.getD (fld nd 6 2) 0
  if fld nd 1 0 = 0 then
    let m := w &&& fld nd 39 24
    if (if bit nd 7 then m ≤ fld nd 23 8 else m = fld nd 23 8) then n + 1 else fld nd 56 40
  else fld nd 30 14 + (w >>> fld nd 10 7) % 2 ^ (fld nd 13 11 + 1)

/-- The walk (R88): the leaf, or the node at which it faulted; that of a walk without a leaf within 24 nodes is the node it would read next
(DESIGN CHOICE, log 163). -/
def flgWalk (x : Slice) (v : List Nat) : Nat → Nat → W64 ⊕ Nat
  | 0, n => .inr n
  | fuel + 1, n =>
    if flgCount x x.bank ≤ n then .inr n
    else
      let nd := flgNode x x.bank n
      if nodeBad nd then .inr n
      else if fld nd 1 0 = 2 then .inl nd
      else flgWalk x v fuel (nodeNext v n nd)

/-- Leaf fields. -/
def leafTmpl (l : W64) : Nat := fld l 9 2
def leafRefuse (l : W64) : Bool := bit l 10
def leafParam (l : W64) : Nat := fld l 22 11
def leafRule (l : W64) : Nat := fld l 40 23

/-! ### Setup templates (R84) -/

abbrev Tmpl := BitVec 512

/-- A setup template as slice `i` holds it. -/
def State.tmpl (s : State) (i n : Nat) : Tmpl := fget (s.slice i).templates 0 n
def Tmpl.valid (t : Tmpl) : Bool := bit t 256
def Tmpl.nat (t : Tmpl) : Bool := bit t 262
def Tmpl.refuse (t : Tmpl) : Nat := fld t 267 266
def Tmpl.busy (t : Tmpl) : Nat := fld t 269 268
def Tmpl.event (t : Tmpl) : Bool := bit t 270

/-- The record a template makes of a key, before index, times and NAT binding (R83): the leaf PARAM goes where
PARAM_USE says. -/
def tmplRecord (t : Tmpl) (n : Nat) (k : Key) (orient : Bool) (param : Nat) : Rec :=
  let r : Rec := pack 1024 [(383, 0, k.toNat), (384, 384, 1), (385, 385, orient.toNat), (389, 389, fld t 261 261),
    (390, 390, fld t 262 262), (391, 391, fld t 263 263), (399, 392, n), (411, 408, fld t 260 257),
    (447, 416, fld t 335 304), (479, 448, fld t 303 272), (735, 480, fld t 255 0)]
  match fld t 265 264 with
  | 1 => put r 539 528 param
  | 2 => put r 667 656 param
  | 3 => put r 683 672 param
  | _ => r

/-! ### Indices (R45) -/

/-- The next index and generation of a slice; none once every index has been allocated and the stack is empty. -/
def nextIndex (s : State) (i : Nat) : Option Nat :=
  let x := s.slice i
  match x.free with
  | h :: _ => some h
  | [] => if x.wmark < 2 ^ 25 then some (2 ^ 25 * i + x.wmark) else none

/-- Take it. -/
def takeIndex (s : State) (i : Nat) : State :=
  match (s.slice i).free with
  | _ :: hs => freeMove (s.modSlice i fun x => { x with free := hs }) i false
  | [] => s.modSlice i fun x => { x with wmark := x.wmark + 1 }

/-! ### NAT (R113-R116) -/

/-- Does an alias entry of the pair or the stash carry an outside key's fingerprint? -/
def aliasThere (s : State) (i : Nat) (k : Key) : Bool :=
  let h := flowHash s k
  ((pairWays s i (hPair h)).any fun o => o.any fun w => w.isAlias && w.fp == hFp h) ||
  (s.slice i).stash.any fun e => e.isAlias && e.pair == hPair h && e.fp == hFp h

/-- The outcome of a NAT choice: an address and port with the block, or the block and DETAIL of its exhaustion. -/
inductive NatPick where
  | port (addr port block : Nat)
  | none (block detail : Nat)
deriving DecidableEq, Repr

/-- Try the candidates from the `t`th on, `left` of them; each after the first is charged and counted. -/
def natTry (s : State) (i : Nat) (okey : Nat → Key) (addr first size start block : Nat) : Nat → Nat → State × NatPick
  | 0, _ => (s, .none block 0)
  | left + 1, t =>
    let port := first + (start + t) % size
    let k := okey port
    let p := hPair (flowHash s k)
    let s1 := fixPair (postUnit s i (tagUnit i p) false) i p
    let s2 := if t = 0 then s1 else (charge s1 i 1).bump (Reg.FLW_NAT_RETRY_COUNT i)
    if aliasThere s2 i k then natTry s2 i okey addr first size start block left (t + 1)
    else (s2, .port addr port block)

/-- The choice of an outside port for a record in slice `i` (R113). -/
def natChoose (s : State) (i : Nat) (r : Rec) : State × NatPick :=
  let n := r.pool
  let h := flowHash s r.key
  let per := poolG s n / 16
  let cfg := s.reg (Reg.FLW_NAT_SUB n)
  let u := ((natBE r.inside.addr >>> fld cfg 6 0 : Nat) : Int) - (s.reg (Reg.FLW_NAT_IN_BASE n)).toNat
  let m := if poolDet s n then (u % 2 ^ 32).toNat % per else hFp h % per
  let start := if poolDet s n then r.inside.port else hSet h
  let g := 16 * m + i
  let limit := s.rf (Reg.FLW_NAT_LIMIT n) 15 0
  if limit != 0 && limit ≤ fget (s.slice i).blocks 0 (2 ^ 20 * n + g) then (s, .none g 1)
  else
    let addr := poolBase s n + g / poolPerAddr s n
    let first := poolPortLo s n + g % poolPerAddr s n * 2 ^ poolShift s n
    let r64 := if r.key.typ = 2 then natBE (r.remote.addr.drop 12) else 0
    natTry s i (fun p => outsideKey s n r.proto r.key.typ r.remote r64 addr p) addr first (2 ^ poolShift s n) start g 4 0

/-- A NAT setup fails (R114): the first refusal in a slice and pool raises NAT_EXHAUSTED. -/
def natFail (s : State) (i pool block detail : Nat) : State :=
  let x := s.slice i
  let s1 := s.bump (Reg.FLW_NAT_EXHAUSTED_COUNT i)
  if x.natRaised.contains pool then s1
  else flwEvent (s1.modSlice i fun x => { x with natRaised := pool :: x.natRaised }) i 0x35
    [(83, 64, block), (99, 96, i), (103, 100, detail), (107, 104, pool)]

/-! ### Building a record (R78, R83, R92) -/

/-- A setup's result: the handle built, or the refusal reason of R80. -/
inductive Built' where
  | handle (h : Nat)
  | refused (reason : Nat)
deriving DecidableEq, Repr

/-- FLOW_CREATED (R119). -/
def createdFields (r : Rec) (handle rule : Nat) : List (Nat × Nat × Nat) :=
  [(351, 64, fld r 287 0), (359, 352, r.proto), (367, 360, r.key.typ), (383, 368, r.key.zone), (415, 384, handle),
   (423, 416, r.tmpl), (441, 424, rule), (442, 442, r.orient.toNat), (443, 443, r.nat.toNat), (447, 444, r.pool),
   (479, 448, if r.nat then fld r 511 480 else 0), (495, 480, if r.nat then fld r 527 512 else 0)]

/-- Enter a record's tag entries (R48, R50). -/
def enterTags (s : State) (i idx : Nat) (r : Rec) : Option State :=
  (recKeys s r).foldl (fun o k => o.bind fun s =>
    let h := flowHash s k.2
    tagAdd s i (hPair h) ⟨idx, hFp h, k.1⟩) (some s)

/-- The NAT binding of a record to build: the state after the choice, and the record with its binding and block. -/
def natBind (s : State) (i : Nat) (r : Rec) : State × Option (Rec × Option Nat) :=
  if !r.nat then (s, some (r, none))
  else if !poolUsed s r.pool then (natFail s i r.pool 0 2, none)
  else
    match natChoose s i r with
    | (s1, .none g d) => (natFail s1 i r.pool g d, none)
    | (s1, .port a p g) =>
      let r64 := if r.key.typ = 2 then natBE (r.remote.addr.drop 12) else 0
      (s1, some (putNet (putNet (putNet r 511 480 a) 527 512 p) 575 544 r64, some (2 ^ 20 * r.pool + g)))

/-- Build a record in a slice: index, NAT port, record, hot cache and tag entries, in this order (R78). A refusal leaves none of them,
nor what the fill moved (R81); `event` is its template's CREATE_EVENT (R117). -/
def buildRecord (s : State) (i : Nat) (r0 : Rec) (rule : Nat) (event : Bool) :
    State × Built' :=
  match nextIndex s i with
  | none => (s, .refused 2)
  | some h =>
    let idx := h % 2 ^ 29
    match natBind s i r0 with
    | (s1, none) => (s1, .refused 4)
    | (s1, some (r1, block)) =>
      let r2 : Rec := put (put (put r1 388 386 (h / 2 ^ 29)) 975 928 s.tick) 991 976 s.seconds
      match enterTags (fillHot (takeIndex s1 i) i idx r2 true true) i idx r2 with
      | none => (s1, .refused 3)
      | some s2 =>
        let s3 := s2.modSlice i fun x => { x with
          records := x.records + 1
          blocks := match block with
            | some b => fput x.blocks 0 b (fget x.blocks 0 b + 1)
            | none => x.blocks
          natRaised := if r2.nat then x.natRaised.filter (· != r2.pool) else x.natRaised
          expired := x.expired.filter fun k => !((recKeys s r2).any fun e => e.2 == k) }
        let s4 := charge (s3.bump64 (Reg.FLW_SETUP_COUNT_LO i) 1) i (if r2.nat then 5 else 3)
        let s5 := if event then flwEvent s4 i 0x30 (createdFields r2 h rule) else s4
        (hwCheck s5 i, .handle h)

/-- Count a refusal (R80); a TAG_FULL counts twice over (R48, R94). -/
def refuseCount (s : State) (i reason : Nat) : State :=
  let s1 := s.bump (Reg.FLW_REFUSE_COUNT i reason)
  if reason = 3 then s1.bump (Reg.FLW_TAG_FULL_COUNT i) else s1

end Sys2Proof.Machine
end

