-- ==== Sys2Proof/Machine/FlowHost.lean ====
section
/-!
DEFINITION. Machine/FlowHost.lean: the search of R52 made in one step, and the host's record commands at a slice (R90-R93, R100,
R105, R564).
-/

namespace Sys2Proof.Machine

open Sys2Proof

/-! ### The search (R52) -/

/-- A record that a search has found: index, ALIAS of the entry, contents, where its copy stands, and the charge of
the search (R74). -/
structure RecFound where
  idx     : Nat
  isAlias : Bool
  record  : Rec
  place   : Place
  cost    : Nat
deriving DecidableEq, Repr

/-- Read candidate records in order until one answers to the key; one that fails its tile check is handled (R54). `post` says whether the
reads are still to be queued to MEM. -/
def candTry (s : State) (i : Nat) (k : Key) (via : Bool → Via) (cost : Nat) (post : Bool) : List (Nat × Bool) → State × Option RecFound
  | [] => (s, none)
  | (idx, a) :: cs =>
    let r := recCopy s i idx
    let s := if post && r.2 == .hbm then postUnit s i idx false else s
    if !recOk idx r.1 then candTry (recFail s i idx r.2 (via a)) i k via cost post cs
    else if Rec.answers s r.1 a k then (s, some ⟨idx, a, r.1, r.2, cost⟩)
    else candTry s i k via cost post cs

/-- The hot tags of a set that carry a fingerprint. -/
def hotCands (x : Slice) (set fp : Nat) : List (Nat × Bool) :=
  (x.tags.filter fun t => t.set == set && t.fp == fp).filterMap fun t =>
    (ffind? x.hot t.line).map fun l => (l.idx, t.isAlias)

/-- The stash entries of a pair that carry a fingerprint. -/
def stashCands (x : Slice) (p fp : Nat) : List (Nat × Bool) :=
  (x.stash.filter fun e => e.pair == p && e.fp == fp).map fun e => (e.idx, e.isAlias)

/-- The ways that carry a fingerprint. -/
def wayCands (ws : List (Option Way)) (fp : Nat) : List (Nat × Bool) :=
  ws.filterMap fun o => o.bind fun w => if w.fp == fp then some (w.idx, w.isAlias) else none

/-- The hot cache is searched (R52, first two steps). -/
def hotSearch (s : State) (i : Nat) (k : Key) : State × Option RecFound :=
  let h := flowHash s k
  let s1 := eccSearch s i (hSet h) (hPair h)
  candTry s1 i k (fun _ => .hot) 0 false (hotCands (s1.slice i) (hSet h) (hFp h))

/-- A record waiting in the write-back buffer that answers to a key (R73); one that is hot again is authoritative there (R51). -/
def pendingFor (s : State) (i : Nat) (k : Key) : Option RecFound :=
  ((s.slice i).wbuf.find? fun e => ((s.slice i).line? e.1).isNone && recOk e.1 e.2 && (Rec.answers s e.2 false k || Rec.answers s e.2 true k)).map
    fun e => ⟨e.1, !Rec.answers s e.2 false k, e.2, .wbuf, 0⟩

/-- The whole search in one step. -/
def findKey (s : State) (i : Nat) (k : Key) : State × Option RecFound :=
  let h := flowHash s k
  match hotSearch s i k with
  | (s1, some f) => (s1, some f)
  | (s1, none) =>
    match pendingFor s1 i k with
    | some f => (s1, some f)
    | none =>
      match candTry s1 i k (Via.stash (hPair h)) 1 true (stashCands (s1.slice i) (hPair h) (hFp h)) with
      | (s2, some f) => (s2, some f)
      | (s2, none) =>
        let ws := liveWays s2 i (hPair h)
        candTry (fixPair (postUnit s2 i (tagUnit i (hPair h)) false) i (hPair h)) i k (Via.pair (hPair h)) 2 true (wayCands ws (hFp h))

/-- The record that a handle names; none where the handle is stale (R45). -/
def byHandle (s : State) (i handle : Nat) : State × Option RecFound :=
  let idx := handle % 2 ^ 29
  if (s.slice i).wmark ≤ idx % 2 ^ 25 then (s, none)
  else
    let r := recCopy s i idx
    let v : Rec := r.1
    let s := if r.2 == .hbm then postUnit s i idx false else s
    if !recOk idx r.1 then (recFail s i idx r.2 .none, none)
    else if v.valid && v.gen == handle / 2 ^ 29 then (s, some ⟨idx, false, r.1, r.2, if r.2 == .hbm then 2 else 0⟩)
    else (s, none)

/-- The charge of a host command that finds its handle stale (R74): a cold lookup where it read HBM; one that names an index never used
reads nothing (DESIGN CHOICE, log 161). -/
def staleCost (s : State) (i handle : Nat) : Nat :=
  let idx := handle % 2 ^ 29
  if (s.slice i).wmark ≤ idx % 2 ^ 25 then 0 else if (recCopy s i idx).2 == .hbm then 2 else 0

/-! ### Fields of the flow commands (R91) -/

def fcHandle (d : Desc) : Nat := fld d 95 64
def fcSlices (d : Desc) : Nat := fld d 111 96
def fcTmpl (d : Desc) : Nat := fld d 119 112
def fcByKey (d : Desc) : Bool := bit d 120
def fcPool (d : Desc) : Bool := bit d 121
def fcBank (d : Desc) : Bool := bit d 122
def fcMask (d : Desc) : Nat := fld d 234 224

/-- The key in a command's buffer. -/
def bufKey (c : CmdEnt) : Key := ofBytes 384 c.buf

/-- The record image in a command's buffer. -/
def bufRec (c : CmdEnt) : Rec := ofBytes 1024 c.buf

/-- Reserved bits of a record (R32, R33). -/
def recReserved : List (Nat × Nat) := [(383, 364), (415, 412), (543, 540), (639, 627)]

/-- The home slice of a key that the host supplies (R40, R564). -/
def hostHome (s : State) (k : Key) (pool : Bool) : Option Nat :=
  if pool then
    (([k.lo, k.hi].findSome? fun e => poolOf s k.zone (natBE e.addr) e.port).map fun b => b.2 % 16)
  else some (hHome (flowHash s k))

/-- Does a slice serve commands: READY, ON, and not in Solitaire mode (R92, R512)? -/
def sliceUp (s : State) (i : Nat) : Bool := (s.slice i).ready && sliceOn s i

/-! ### The commands at the slice -/

/-- A host command reaches a record: one that is not on die is filled (R90), a hot one is used (R53). -/
def hostFill (s : State) (i : Nat) (f : RecFound) (byKey : Bool) : State :=
  match f.place with
  | .hbm => fillHot s i f.idx f.record false false
  | .hot => if byKey then touch s i f.idx else lineRef s i f.idx
  | .wbuf => s

/-- The charge of an operation's reads, which one that has made them before it attached has paid (R67, R74). -/
def FlowOp.owes (o : FlowOp) (n : Nat) : Nat := if o.cold then 0 else n

/-- FLOW_LOOKUP at its slice. It counts in neither FLW_HIT_COUNT nor FLW_COLD_COUNT (DESIGN CHOICE, log 162); one that finds no record is
charged as a lookup that misses (DESIGN CHOICE, log 209). -/
def atLookup (s : State) (i ring slot : Nat) (o : FlowOp) (c : CmdEnt) : State :=
  match findKey s i (bufKey c) with
  | (s1, some f) =>
    let s2 := hostFill (charge s1 i (o.owes f.cost)) i f true
    (s2.output c (bytesOf f.record)).finish ring slot St.ok 0 (f.record.handle f.idx)
  | (s1, none) => (charge s1 i (o.owes 1)).finish ring slot St.notFound

/-- FLOW_READ at its slice. -/
def atRead (s : State) (i ring slot : Nat) (c : CmdEnt) : State :=
  match byHandle s i (fcHandle c.desc) with
  | (s1, some f) =>
    let s2 := hostFill (charge s1 i f.cost) i f false
    (s2.output c (bytesOf f.record)).finish ring slot St.ok
  | (s1, none) => (charge s1 i (staleCost s i (fcHandle c.desc))).finish ring slot St.staleHandle

/-- The record that FLOW_INSTALL takes from its image (R92): without VALID, GEN, tracker states, counters, times and
binding. -/
def installRec (m : Rec) : Rec :=
  pack 1024 [(383, 0, fld m 383 0), (384, 384, 1), (385, 385, fld m 385 385), (389, 389, fld m 389 389),
    (390, 390, fld m 390 390), (391, 391, fld m 391 391), (399, 392, fld m 399 392), (411, 408, fld m 411 408),
    (447, 416, fld m 447 416), (479, 448, fld m 479 448), (539, 528, fld m 539 528), (626, 576, fld m 626 576),
    (735, 640, fld m 735 640)]

/-- FLOW_INSTALL at its slice. -/
def atInstall (s : State) (i ring slot : Nat) (o : FlowOp) (c : CmdEnt) : State :=
  let r := installRec (bufRec c)
  match findKey s i r.key with
  | (s1, some f) =>
    let s2 := charge s1 i (o.owes f.cost)
    (if f.place == .hot then touch s2 i f.idx else s2).finish ring slot St.exists_ 0 (f.record.handle f.idx)
  | (s1, none) =>
    match buildRecord s1 i r 0 (s1.tmpl i r.tmpl).event with
    | (s2, .handle h) => s2.finish ring slot St.ok 0 h
    | (s2, .refused n) => (charge (refuseCount s2 i n) i 1).finish ring slot St.refused n

/-- The fields that MODIFY_MASK selects (R93). -/
def modifyFields (m : Nat) : List (Nat × Nat) :=
  let at_ := fun (k : Nat) (fs : List (Nat × Nat)) => if m.testBit k then fs else []
  at_ 0 [(389, 389)] ++ at_ 1 [(391, 391)] ++ at_ 2 [(411, 408)] ++ at_ 3 [(479, 448)] ++ at_ 4 [(539, 528)] ++
  at_ 5 [(597, 576), (607, 598)] ++ at_ 6 [(626, 608)] ++ at_ 7 [(647, 640)] ++ at_ 8 [(655, 648)] ++
  at_ 9 [(667, 656)] ++ at_ 10 [(735, 672)]

/-- The record after FLOW_MODIFY (R93, R100). -/
def modifyRec (r m : Rec) (mask now : Nat) : Rec :=
  let r1 : Rec := (modifyFields mask).foldl (fun (r : Rec) f => put r f.1 f.2 (fld m f.1 f.2)) r
  if r.pinned && !r1.pinned then put r1 975 928 now else r1

/-- FLOW_MODIFY at its slice; a record not on die is filled modified (R90). The current tick is that of its place (R66, R100). -/
def atModify (s : State) (i ring slot : Nat) (o : FlowOp) (c : CmdEnt) : State :=
  match byHandle s i (fcHandle c.desc) with
  | (s1, some f) =>
    let r := modifyRec f.record (bufRec c) (fcMask c.desc) o.tick
    let s2 := charge s1 i f.cost
    (if f.place == .hbm then fillHot s2 i f.idx r true false else lineRef (writeRec s2 i f.idx r) i f.idx).finish
      ring slot St.ok
  | (s1, none) => (charge s1 i (staleCost s i (fcHandle c.desc))).finish ring slot St.staleHandle

/-- FLOW_DELETE at its slice (R105): the search is charged as a cold lookup (R74), and the deletion as R106 lays down. -/
def atDelete (s : State) (i ring slot : Nat) (o : FlowOp) (c : CmdEnt) : State :=
  if fcByKey c.desc then
    match findKey s i (bufKey c) with
    | (s1, some f) => (delRecord (charge s1 i (o.owes 2)) i f.idx f.record 2).finish ring slot St.ok
    | (s1, none) => (charge s1 i (o.owes 2)).finish ring slot St.notFound
  else
    match byHandle s i (fcHandle c.desc) with
    | (s1, some f) => (delRecord (charge s1 i 2) i f.idx f.record 2).finish ring slot St.ok
    | (s1, none) => (charge s1 i 2).finish ring slot St.staleHandle

/-- A record command takes its place in slice order (R90). -/
def atSlice (s : State) (i ring slot : Nat) (o : FlowOp) : State :=
  match s.cmd? ring slot with
  | none => s
  | some c =>
    match descOp c.desc with
    | 0x20 => atLookup s i ring slot o c
    | 0x21 => atRead s i ring slot c
    | 0x22 => atInstall s i ring slot o c
    | 0x23 => atModify s i ring slot o c
    | _ => atDelete s i ring slot o c

/-- A record command whose slice does not serve it (R92); a refusal of FLOW_INSTALL counts (R80). -/
def notServed (s : State) (i ring slot op : Nat) : State :=
  if op = 0x22 then (refuseCount s i 1).finish ring slot St.refused 1 else s.finish ring slot St.notFound

end Sys2Proof.Machine
end

