-- ==== Sys2Proof/Machine/FlowPath.lean ====
section
/-!
DEFINITION. Machine/FlowPath.lean: the order point of a slice, in-flight entries, the hit, cold and new-flow paths,
updates and the sweep (R66-R83, R88, R96-R109).
-/

namespace Sys2Proof.Machine

open Sys2Proof

/-! ### Results of a flow LOOKUP (R167, R190) -/

/-- The 16 result words of a record. -/
def lookupWords (r : Rec) (handle : Nat) (new reply excess : Bool) : List W32 :=
  [pack 32 [(8, 8, (!new).toNat), (9, 9, new.toNat), (10, 10, reply.toNat), (11, 11, excess.toNat)],
   BitVec.ofNat 32 handle] ++ ((List.range 11).map fun k => r.word (12 + k)) ++ [0, 0, 0]

/-- A record's result reaches the packet; policer excess ends it as a hole with cause POLICER. -/
def giveRecord (s : State) (c arr op : Nat) (r : Rec) (handle : Nat) (new reply excess : Bool) : State :=
  let ws := lookupWords r handle new reply excess
  let s1 := s.modPkt c arr fun p => if p.exc || p.verdict.isSome then p else { p with handle := p.handle.or (some handle) }
  if excess then pktResultEnd (opSet s1 c arr op St.ok ws) c arr (.hole 0) else opComplete s1 c arr op St.ok ws

/-- A miss. -/
def giveMiss (s : State) (c arr op : Nat) : State := opComplete s c arr op St.ok []

/-- A refused or busy setup: the outcome of R79 or R81 ends the packet. -/
def giveOutcome (s : State) (c arr op code outcome reason : Nat) : State :=
  let s1 := opSet s c arr op code [BitVec.ofNat 32 code]
  match outcome with
  | 2 => pktResultEnd s1 c arr .stateless
  | 3 => pktResultEnd s1 c arr (.punt reason false)
  | _ => pktResultEnd s1 c arr (.hole 1)

/-- A LOOKUP has gone to HBM: its packet sees PENDING, and parks where it cannot go on (R156, R157). -/
def givePending (s : State) (c arr op : Nat) : State :=
  pktPark (s.modPkt c arr fun p => if (p.op op).phase == .issued then { p with
    ops := fset p.ops op { p.op op with phase := .pending, code := St.pending } } else p) c arr

/-- Is an operation a LOOKUP? -/
def FlowAct.isLookup : FlowAct → Bool
  | .lookup _ _ _ _ _ _ _ _ => true
  | _ => false

/-- Does an operation request setup? A pool-side lookup never does (R112). -/
def FlowAct.wants : FlowAct → Bool
  | .lookup _ _ _ setup pool _ _ _ => setup && !pool
  | _ => false

/-- A record serves a lookup with the tick of its order point (R70, R72, R83): it is policed, LAST_SEEN is written, and
the packet has its result. `store` writes the record. -/
def serve (s : State) (i : Nat) (o : FlowOp) (f : RecFound) (new : Bool) (tick : Nat) (store : State → Rec → State) : State :=
  match o.act with
  | .lookup c p op _ _ srcLow _ len =>
    let e := police s i f.record len tick
    let reply := !new && (if f.isAlias then f.record.key.lo != f.record.key.hi else f.record.reply srcLow)
    giveRecord (store s e.1) c p op e.1 (f.record.handle f.idx) new reply e.2
  | _ => s

/-! ### In-flight entries (R67, R68) -/

/-- In-flight entries of a slice. -/
def flightMax : Nat := 8192

/-- The key of an operation that names one, and the index of one that names a record. -/
def FlowOp.index (o : FlowOp) : Option Nat := if o.key.isNone then some (o.handle % 2 ^ 29) else none

/-- The record that an operation names: by its index, or by a key whose search finds it. -/
def FlowOp.names? (s : State) (i : Nat) (o : FlowOp) : Option Nat :=
  match o.key with
  | some k => (findKey s i k).2.map (·.idx)
  | none => o.index

/-- The entry an operation attaches to (R66, R67, R69, R109): that of its key; else one that names the record which it names itself, be it
by an index or by another key. -/
def flightFor (s : State) (i : Nat) (o : FlowOp) : Option Flight :=
  let idx := o.names? s i
  (s.slice i).flights.find? fun f => (o.key.isSome && o.key == f.key) || idx.any (f.names s i)

def modFlight (s : State) (i id : Nat) (g : Flight → Flight) : State :=
  s.modSlice i fun x => { x with flights := x.flights.map fun f => if f.id == id then g f else f }

/-- Is the record at an index intact and not VALID? -/
def recVoid (s : State) (i idx : Nat) : Bool :=
  let r : Rec := (recCopy s i idx).1
  recOk idx r && !r.valid

/-- The entry that an operation opens: keyed by its key, or by its index (R67, R97), and numbered by its place in slice order. -/
def newFlight (s : State) (i : Nat) (o : FlowOp) (ph : FlightPhase) : Flight :=
  { id := o.no, key := o.key, idx := o.index, phase := ph, opener := o, tick := o.tick, void := o.index.any (recVoid s i) }

/-- Open an in-flight entry. -/
def openFlight (s : State) (i : Nat) (o : FlowOp) (ph : FlightPhase) : State :=
  let x := s.slice i
  (s.setSlice i { x with flights := x.flights ++ [newFlight s i o ph] }).peak
    (Reg.FLW_INFLIGHT_PEAK i) (x.flights.length + 1)

/-- A lookup is counted as cold (R74). -/
def countCold (s : State) (i : Nat) : State := s.bump64 (Reg.FLW_COLD_COUNT_LO i) 1

/-- A lookup that misses behind an expiry of the same pass is counted (R109). -/
def countRehit (s : State) (i : Nat) (o : FlowOp) : State :=
  if o.rehit then s.bump (Reg.FLW_EXPIRED_REHIT_COUNT i) else s

/-! ### Operations at the order point -/

/-- A lookup at the order point (R70, R72, R73): a hot hit, a record in the write-back buffer, or an in-flight entry whose reads begin with
the records of its stash entries. -/
def runLookup (s : State) (i : Nat) (o : FlowOp) (k : Key) : State :=
  match o.act with
  | .lookup c p op _ _ _ _ _ =>
    match hotSearch s i k with
    | (s1, some f) =>
      serve (if o.cold then countCold s1 i else s1.bump64 (Reg.FLW_HIT_COUNT_LO i) 1) i o f false o.tick fun s r => touch (writeRec s i f.idx r) i f.idx
    | (s1, none) =>
      match pendingFor s1 i k with
      | some f => serve (countCold s1 i) i o f false o.tick fun s r => fillHot s i f.idx r true false
      | none =>
        let h := flowHash s1 k
        let cs := stashCands (s1.slice i) (hPair h) (hFp h)
        let ph : FlightPhase := if cs.isEmpty then .pairRead else .recRead true cs
        givePending (memFlight (openFlight s1 i o ph) i (tagUnit i (hPair h)) ph) c p op
  | _ => s

/-- A counter of a record grows, and saturates at all ones (R34). -/
def satField (r : Rec) (hi lo n : Nat) : Rec := put r hi lo (satAdd (2 ^ (hi + 1 - lo) - 1) (fld r hi lo) n)

/-- Which of the four counters are at all ones, in the order of R121. -/
def saturated (r : Rec) : Nat :=
  let full := fun (hi lo : Nat) => (fld r hi lo == 2 ^ (hi + 1 - lo) - 1).toNat
  full 775 736 + 2 * full 831 776 + 4 * full 871 832 + 8 * full 927 872

/-- The TCP tracker (R103): the states of direction d and of the other one, and bits [7:0] of the flags. -/
def tcpTrack (st other flags : Nat) : Nat × Nat :=
  if flags.testBit 2 then (5, other)
  else
    let ack := flags.testBit 4
    let a := if flags.testBit 1 && st = 0 then 1 else st
    let b := if ack && a = 1 && !flags.testBit 1 then 2 else a
    let d := if flags.testBit 0 && b < 3 then 3 else b
    (d, if ack && other = 3 then 4 else other)

/-- The record after an UPDATE (R103, R162). -/
def updateRec (r : Rec) (counters tcp app reply : Bool) (flags : Nat) (appVal : W32) (len : Nat) : Rec :=
  let r1 := if counters then
    (if reply then satField (satField r 871 832 1) 927 872 len else satField (satField r 775 736 1) 831 776 len) else r
  let r2 : Rec := if tcp && r.proto = 6 then
      let e := if reply then tcpTrack (fld r 407 404) (fld r 403 400) flags
               else tcpTrack (fld r 403 400) (fld r 407 404) flags
      if reply then put (put r1 407 404 e.1) 403 400 e.2 else put (put r1 403 400 e.1) 407 404 e.2
    else r1
  if app then put r2 479 448 appVal.toNat else r2

/-- Staged record words applied in staging order (R198). -/
def wordsRec (r : Rec) (ws : List (Nat × W32 × W32)) : Rec :=
  ws.foldl (fun (r : Rec) w =>
    put r (32 * w.1 + 31) (32 * w.1) ((r.word w.1 &&& ~~~w.2.2) ||| (w.2.1 &&& w.2.2)).toNat) r

/-- An UPDATE, staged record words or an EXPORT at the order point (R109, R162, R200): each applies only while the
record's generation matches. -/
def runUpdate (s : State) (i : Nat) (o : FlowOp) : State :=
  match byHandle s i o.handle with
  | (s1, none) => match o.act with
    | .update _ _ _ _ _ _ _ => s1.bump (Reg.FLW_STALE_UPDATE_COUNT i)
    | _ => s1
  | (s1, some f) => match o.act with
    | .update cnt tcp app reply flags v len =>
      let r := updateRec f.record cnt tcp app reply flags v len
      let s2 := writeRec s1 i f.idx r
      if cnt && saturated f.record = 0 && saturated r != 0 && bit (s.reg Reg.FLW_EVENT_CTRL) 2 then
        flwEvent s2 i 0x33 [(95, 64, o.handle), (99, 96, i), (103, 100, saturated r)]
      else s2
    | .words ws => writeRec s1 i f.idx (wordsRec f.record ws)
    | .emit => emitRecord s1 f.record 2
    | _ => s1

/-! ### The sweep (R96-R104, R108) -/

/-- The effective timeout class of a record and the cause of an expiry under it (R104). -/
def ageClass (s : State) (r : Rec) : Nat × Nat :=
  let c := s.reg Reg.FLW_TCP_AGE_CTRL
  let a := fld r 403 400
  let b := fld r 407 404
  if bit c 8 && r.proto = 6 then
    if a = 5 || b = 5 || (a = 4 && b = 4) then (fld c 7 4, 1)
    else if a = 3 || a = 4 || b = 3 || b = 4 then (fld c 3 0, 1)
    else (fld r 411 408, 0)
  else (fld r 411 408, 0)

/-- Does a visit with the tick of its order point expire a record (R98)? -/
def expires (s : State) (r : Rec) (now : Nat) : Bool :=
  let t := s.rf (Reg.FLW_TIMEOUT (ageClass s r).1) 16 0
  let d := tickDiff now r.lastSeen
  !r.pinned && t != 0 && decide (d < 0 ∨ ((giga * t : Nat) : Int) ≤ d)

/-- The interim export of a record that a visit keeps (R122). -/
def interim (s : State) (i : Nat) (r : Rec) : State :=
  let x := s.slice i
  let iv := fld (fget s.flw.expProf 0 (fld r 667 656)) 15 0
  let age : Nat := (s.seconds + 2 ^ 16 - fld r 991 976) % 2 ^ 16
  if fld r 667 656 != 0 && iv != 0 && !x.firstPass &&
      (age : Int) / iv != ((age : Int) - x.lastPassS) / iv then emitRecord s r 2 else s

/-- A visit examines a record (R97, R98, R108). -/
def sweepRecord (s : State) (i idx now : Nat) : State :=
  let e := recCopy s i idx
  let r : Rec := e.1
  if !recOk idx r then recFail s i idx e.2 .none
  else if !r.valid then s
  else
    let ks := keysListed s i idx r false
    let s2 := readListed s i ks
    let miss := keysMissing s2 i idx ks
    if !miss.isEmpty && e.2 != .hot then delOrphan s2 i idx r
    else
      let s3 := tagsAgainVisit s2 i idx miss
      if expires s3 r now then
        ((delRecord s3 i idx r (ageClass s3 r).2).bump (Reg.FLW_EXPIRED_COUNT i)).modSlice i fun x => { x with
          expired := x.expired ++ (recKeys s r).map fun k => k.2 }
      else interim s3 i r

/-- A pass that has taken `took` seconds completes with its last visit (R96, R108, R127). -/
def passDone (s : State) (i took : Nat) : State :=
  s.modSlice i fun x =>
    { x with
      passNo := x.passNo + 1, lastPassS := min 65535 took, firstPass := false, expired := []
      failed := x.failed.filter fun e => x.passNo < e.frees
      fullCheck := x.fullCheck.bind fun n => if n ≤ x.passNo then none else some n }

/-- The last visit of a pass completes it. -/
def visitEnd (s : State) (i : Nat) (o : FlowOp) : State :=
  match o.act with
  | .sweep (some took) => passDone s i took
  | _ => s

/-- A visit has read its record from HBM (R97): it examines it, unless the record was not VALID at its place and has been built since. -/
def visitRead (s : State) (i : Nat) (f : Flight) : State :=
  let idx := f.opener.handle % 2 ^ 29
  if f.void && recOk idx (recCopy s i idx).1 && !recVoid s i idx then s else sweepRecord s i idx f.opener.tick

/-- A visit at the order point (R97): a copy in the directory is examined at once; any other visit reads the record from HBM, in an entry
keyed by the index. -/
def runSweep (s : State) (i : Nat) (o : FlowOp) : State :=
  let idx := o.handle % 2 ^ 29
  if (recCopy s i idx).2 == .hbm then postUnit (openFlight (charge s i 1) i o .idxRead) i idx false
  else visitEnd (sweepRecord s i idx o.tick) i o

/-! ### Admission (R66-R69) -/

/-- Run an operation that attaches to no entry. -/
def runOp (s : State) (i : Nat) (o : FlowOp) : State :=
  match o.act with
  | .lookup _ _ _ _ _ _ _ _ => match o.key with | some k => runLookup s i o k | none => s
  | .host ring slot => if sliceUp s i then atSlice s i ring slot o
      else notServed s i ring slot (((s.cmd? ring slot).map fun c => descOp c.desc).getD 0)
  | .sweep _ => runSweep s i o
  | _ => runUpdate s i o

/-- An operation by another key of an entry's record reads HBM for itself before the reads show that it attaches (R67, R74). -/
def ownReads (s : State) (i : Nat) (f : Flight) (o : FlowOp) : State × FlowOp :=
  match o.key with
  | some k =>
    if o.key == f.key || o.cold then (s, o)
    else match findKey s i k with
      | (s1, some e) => if e.cost = 0 then (s, o) else (charge s1 i e.cost, { o with cold := true })
      | (_, none) => (s, o)
  | none => (s, o)

/-- Has a record of an operation's key expired before it in this pass (R109)? -/
def expiredBefore (s : State) (i : Nat) (o : FlowOp) : Bool := o.key.any ((s.slice i).expired.contains ·)

/-- Take an operation that has its place: it attaches to the entry of its key or record, or runs. -/
def admitOp (s : State) (i : Nat) (o0 : FlowOp) : State :=
  let o := { o0 with rehit := o0.rehit || expiredBefore s i o0 }
  match flightFor s i o with
  | some f =>
    let a := ownReads s i f o
    let s1 := modFlight a.1 i f.id fun f => { f with attached := f.attached ++ [a.2] }
    match o.act with
    | .lookup c p op _ _ _ _ _ => givePending s1 c p op
    | _ => s1
  | none => runOp s i o

/-- An operation takes its place in slice order at the order point, with the tick of now (R66). -/
def orderPoint (s : State) (i : Nat) (o : FlowOp) : State :=
  let n := (s.slice i).flightNo
  admitOp (s.modSlice i fun x => { x with flightNo := n + 1 }) i { o with no := n, tick := s.tick }

/-- Remove an in-flight entry. -/
def dropFlight (s : State) (i id : Nat) : State :=
  s.modSlice i fun x => { x with flights := x.flights.filter fun f => f.id != id, setupQ := x.setupQ.filter (· != id) }

/-- An entry closes: what is attached runs in order (R67). -/
def closeFlight (s : State) (i : Nat) (f : Flight) : State :=
  f.attached.foldl (fun s o => admitOp s i o) (dropFlight s i f.id)

/-- An entry closes on a refused or busy setup (R69): attached lookups that requested setup take the same outcome,
other lookups miss, everything else runs in order. -/
def closeOutcome (s : State) (i : Nat) (f : Flight) (code outcome reason : Nat) : State :=
  let one := fun (s : State) (o : FlowOp) =>
    match o.act with
    | .lookup c p op _ _ _ _ _ =>
      let s1 := countCold s i
      if o.act.wants then giveOutcome s1 c p op code outcome reason else giveMiss s1 c p op
    | _ => admitOp s i o
  let rehit := fun (s : State) (o : FlowOp) => if o.act.isLookup then countRehit s i o else s
  f.attached.foldl (fun s o => one (rehit s o) o) (one (charge (dropFlight s i f.id) i (f.opener.owes 1)) f.opener)

/-- A setup is refused (R80, R81): `t` is the template whose REFUSE_OUTCOME it takes. -/
def closeRefused (s : State) (i : Nat) (f : Flight) (reason : Nat) (t : Tmpl) : State :=
  closeOutcome (refuseCount s i reason) i f St.refused (if t.refuse = 0 then 1 else t.refuse) (0x20 + reason)

/-! ### The cold and new-flow paths (R72, R77-R81) -/

/-- The first fault of a walk since the last image load is recorded (R88, R95). -/
def walkFaulted (s : State) (i n : Nat) : State :=
  s.modSlice i fun x => if x.walkFault then x else { x with walkFault := true, faultNode := n / 64 % 2 ^ 11 }

/-- No record answers to an entry's key: the lookup misses, or its walk begins (R77). -/
def missBranch (s : State) (i : Nat) (f : Flight) : State :=
  match f.opener.act with
  | .lookup c p op _ _ _ vec _ =>
    let s0 := countRehit s i f.opener
    if !f.opener.act.wants then closeFlight (giveMiss (charge (countCold s0 i) i (f.opener.owes 1)) c p op) i f
    else
      let x := s0.slice i
      if flgLoading s0 i && !flgDual s0 then closeRefused s0 i f 1 (s0.tmpl i 0)
      else
        match flgWalk x vec 24 0 with
        | .inr n => closeRefused (walkFaulted s0 i n) i f 6 (s0.tmpl i 0)
        | .inl leaf =>
          let t := s0.tmpl i (leafTmpl leaf)
          if leafRefuse leaf then closeRefused s0 i f 5 t
          else if !t.valid then closeRefused s0 i f 7 (s0.tmpl i 0)
          else modFlight s0 i f.id fun f => { f with phase := .held leaf t false }
  | _ => dropFlight s i f.id

/-- An entry goes on to read candidate records, in order. -/
def readCands (s : State) (i : Nat) (f : Flight) (stash : Bool) (cs : List (Nat × Bool)) : State :=
  memFlight (modFlight s i f.id fun f => { f with phase := .recRead stash cs }) i 0 (.recRead stash cs)

/-- The entry that an entry whose reads have shown its index attaches behind (R66, R67): an earlier one that names that index. -/
def behind (s : State) (i : Nat) (f : Flight) (idx : Nat) : Option Flight :=
  (s.slice i).flights.find? fun g => decide (g.id < f.id) && g.names s i idx

/-- The candidates of an entry are read one after another; after the stash's the tag pair is read. -/
def recStep (s : State) (i : Nat) (f : Flight) (stash : Bool) (cs : List (Nat × Bool)) : State :=
  let k := f.key.getD 0
  let p := hPair (flowHash s k)
  match cs with
  | [] => s
  | c :: rest =>
    match candTry s i k (if stash then Via.stash p else Via.pair p) (if stash then 1 else 2) false [c] with
    | (s1, some e) =>
      match behind s1 i f e.idx with
      | some g => modFlight (dropFlight (charge s1 i (f.opener.owes e.cost)) i f.id) i g.id fun g => { g with
          attached := g.attached ++ { f.opener with cold := true } :: f.attached }
      | none =>
        closeFlight (serve (countCold (charge s1 i (f.opener.owes e.cost)) i) i f.opener e false f.tick fun s r =>
          if e.place == .hot then touch (writeRec s i e.idx r) i e.idx else fillHot s i e.idx r true false) i f
    | (s1, none) =>
      if !rest.isEmpty then readCands s1 i f stash rest
      else if stash then memFlight (modFlight s1 i f.id fun f => { f with phase := .pairRead }) i (tagUnit i p) .pairRead
      else missBranch s1 i f

/-! ### Events -/

/-- The flight of a slice under a number. -/
def State.flight? (s : State) (i id : Nat) : Option Flight := (s.slice i).flights.find? fun f => f.id == id

/-- The oldest operation that a source has before a slice's order point and that is of a kind. -/
def orderHead (x : Slice) (src : Nat) (kind : FlowAct → Bool) : Option FlowOp :=
  x.orderQ.find? fun o => o.src == src && kind o.act

/-- A slice that is not READY: every lookup misses and every setup is refused (R57); an UPDATE finds no record. -/
def notReady (s : State) (i : Nat) (o : FlowOp) : State :=
  match o.act with
  | .lookup c p op _ _ _ _ _ =>
    let s1 := countCold s i
    if o.act.wants then
      let r := (s.tmpl i 0).refuse
      giveOutcome (refuseCount s1 i 1) c p op St.refused (if r = 0 then 1 else r) 0x21
    else giveMiss s1 c p op
  | .update _ _ _ _ _ _ _ => s.bump (Reg.FLW_STALE_UPDATE_COUNT i)
  | _ => s

/-- SLICE_LOOKUP (R56, R66, R68, R70): the oldest LOOKUP of a source is admitted at the order point, unless every in-flight
entry is open. -/
def execSliceLookup (slice : Fin 16) (source : SliceRead) (s : State) : Out' :=
  let i := slice.val
  let s := eccMark (strike s source.upsets) i source.tags source.stash
  let x := s.slice i
  match orderHead x source.source.val FlowAct.isLookup with
  | none => .next s
  | some o =>
    let s1 := s.setSlice i { x with orderQ := x.orderQ.erase o }
    if !x.ready then .next (notReady s1 i o)
    else if flightMax ≤ x.flights.length then .next s
    else .next (orderPoint s1 i o)

/-- UPDATE (R103, R200): the oldest UPDATE, staged record words or EXPORT of a source is admitted. -/
def execUpdate (slice : Fin 16) (source : Fin 8) (s : State) : Out' :=
  let i := slice.val
  let x := s.slice i
  match orderHead x source.val fun a => !a.isLookup with
  | none => .next s
  | some o =>
    let s1 := s.setSlice i { x with orderQ := x.orderQ.erase o }
    .next (if x.ready then orderPoint s1 i o else notReady s1 i o)

/-- The tag pair of an entry has been read (R52, R55, R72): fingerprints are compared; a failed line counts as empty and is repaired. -/
def pairReadDone (s : State) (i : Nat) (f : Flight) : State :=
  if f.phase == .pairRead then
    let h := flowHash s (f.key.getD 0)
    let cs := wayCands (liveWays s i (hPair h)) (hFp h)
    let s1 := fixPair s i (hPair h)
    if cs.isEmpty then missBranch s1 i f else readCands s1 i f false cs
  else s

/-- The record that an entry reads has been read (R52, R54, R72, R97). -/
def recReadDone (s : State) (i : Nat) (f : Flight) : State :=
  match f.phase with
  | .recRead stash cs => recStep s i f stash cs
  | .idxRead => visitEnd (closeFlight (visitRead s i f) i f) i f.opener
  | _ => s

/-- TAG_PAIR_READ_DONE (R52, R55, R72). -/
def execTagPairReadDone (slice : Fin 16) (entry : Nat) (s : State) : Out' :=
  match s.flight? slice entry with
  | some f => .next (pairReadDone s slice f)
  | none => .next s

/-- RECORD_READ_DONE (R52, R54, R72, R97). -/
def execRecordReadDone (slice : Fin 16) (entry : Nat) (s : State) : Out' :=
  match s.flight? slice entry with
  | some f => .next (recReadDone s slice f)
  | none => .next s

/-- The unit that an entry reads (R72, R73, R97). -/
def Flight.reads (s : State) (i : Nat) (f : Flight) : Option Nat :=
  match f.phase with
  | .pairRead => some (tagUnit i (hPair (flowHash s (f.key.getD 0))))
  | .recRead _ (c :: _) => some c.1
  | .idxRead => some (f.opener.handle % 2 ^ 29)
  | _ => none

/-- Does an earlier entry wait for room in the setup queue (R78, R79)? -/
def heldBefore (x : Slice) (id : Nat) : Bool :=
  x.flights.any fun g => decide (g.id < id) && (match g.phase with | .held _ _ met => met | _ => false)

/-- SETUP_QUEUE_ENTER (R78, R79): the walk's result enters the setup queue, or takes the BUSY_OUTCOME of its template
where the queue is full; HOLD waits, and those that wait enter in slice order. -/
def execSetupQueueEnter (slice : Fin 16) (entry : Nat) (s : State) : Out' :=
  let i := slice.val
  match s.flight? i entry with
  | some f => match f.phase with
    | .held leaf t met =>
      let q := (s.slice i).setupQ
      if q.length < 1024 && heldBefore (s.slice i) f.id then .next s
      else if q.length < 1024 then
        .next (((modFlight s i f.id fun f => { f with phase := .setup leaf t }).modSlice i fun x => { x with
          setupQ := x.setupQ ++ [f.id] }).peak (Reg.FLW_SETUPQ_PEAK i) (q.length + 1))
      else
        let s1 := if met then s else s.bump (Reg.FLW_BUSY_COUNT i)
        if (Tmpl.busy t) = 0 then .next (modFlight s1 i f.id fun f => { f with phase := .held leaf t true })
        else .next (closeOutcome s1 i f St.busy (Tmpl.busy t) 0x28)
    | _ => .next s
  | none => .next s

/-- The entry of the setup queue that comes first in slice order (R78). -/
def setupHead (x : Slice) : Option Nat := lowest x.setupQ

/-- SETUP_DONE (R78, R83): the setup unit serves its queue in slice order. The setup packet is the first hit on the record. -/
def execSetupDone (slice : Fin 16) (s : State) : Out' :=
  let i := slice.val
  match setupHead (s.slice i) with
  | none => .next s
  | some id =>
    match s.flight? i id with
    | none => .next (s.modSlice i fun x => { x with setupQ := x.setupQ.filter (· != id) })
    | some f => match f.phase, f.opener.act with
      | .setup leaf t, .lookup _ _ _ _ _ srcLow _ _ =>
        let r := tmplRecord t (leafTmpl leaf) (f.key.getD 0) (!srcLow) (leafParam leaf)
        match buildRecord s i r (leafRule leaf) (Tmpl.event t) with
        | (s1, .refused n) => .next (closeRefused s1 i f n t)
        | (s1, .handle h) =>
          let idx := h % 2 ^ 29
          let c := recCopy s1 i idx
          .next (closeFlight (serve s1 i f.opener ⟨idx, false, c.1, c.2, 0⟩ true s.tick fun s r => writeRec s i idx r) i f)
      | _, _ => .next (dropFlight s i id)

/-- WRITE_BACK_DONE (R73): a pending write-back reaches HBM. -/
def execWriteBackDone (slice : Fin 16) (index : Nat) (s : State) : Out' :=
  let i := slice.val
  match (s.slice i).pending? index with
  | some r => .next ((s.modSlice i fun x => { x with wbuf := x.wbuf.filter fun e => e.1 != index }).setUnit index r)
  | none => .next s

/-- SWEEP_VISIT (R96, R97): the sweeper visits its next index, INTERVAL cycles after the visit before. -/
def execSweepVisit (slice : Fin 16) (s : State) : Out' :=
  let i := slice.val
  let x := s.slice i
  let due := x.sweepFrom + (s.rf Reg.FLW_AGE_CTRL 20 1 * 20 + 26) / 27
  if sliceUp s i && bit (s.reg Reg.FLW_AGE_CTRL) 0 && x.sweepNext < x.wmark && x.flights.length < flightMax then
    let s1 := s.reach due
    let last := decide (x.wmark ≤ x.sweepNext + 1)
    let took := (s1.ns - x.passStart + giga - 1) / giga
    let o : FlowOp := { src := 9, act := .sweep (if last then some took else none), handle := 2 ^ 25 * i + x.sweepNext }
    .next ((orderPoint s1 i o).modSlice i fun y => { y with
      sweepNext := if last then 0 else x.sweepNext + 1
      sweepFrom := s1.ns
      swept := if last then x.swept + 1 else x.swept
      passStart := if last then s1.ns else x.passStart })
  else .next s

end Sys2Proof.Machine
end

