-- ==== Sys2Proof/Machine/Array.lean ====
section
/-!
DEFINITION. Machine/Array.lean: the processing array: graph templates, acceptance, start, operations, table results, aborts,
parking and ordered release (R152-R182, R227-R229, R240, R241, R253).
-/

namespace Sys2Proof.Machine

open Sys2Proof

/-! ### Graph templates (R159-R164, R180) -/

def Cluster.template (x : Cluster) (t : Nat) : BitVec 2048 := fget x.templates 0 t

/-- Key profiles of a LOOKUP's target that are not reserved (R163, R227, R253). -/
def profileOk (target prof : Nat) : Bool :=
  match target with
  | 0 => true
  | 2 => prof < 4
  | _ => prof < 16

/-- The ancestors of an operation, as a mask (R163). -/
def ancestors (g : BitVec 2048) : Nat → Nat → Nat
  | 0, _ => 0
  | fuel + 1, i =>
    let d := opDeps (opEnt g i)
    (maskList 16 d).foldl (fun m j => m ||| ancestors g fuel j) d

/-- The flow LOOKUP that an UPDATE, CIPHER, EXPORT or FROM_RECORD REWRITE names (R162). -/
def lookupOp (e : BitVec 96) : Option Nat :=
  match opType e with
  | 2 | 3 | 6 => some (fld e 29 26)
  | 4 => if bit e 34 then some (fld e 38 35) else none
  | _ => none

/-- Is the entry of operation `i` of a template good (R163)? -/
def opOk (g : BitVec 2048) (i : Nat) : Bool :=
  let e := opEnt g i
  let named := fun j => (opDeps e).testBit j
  let isFlow := fun j => j < i && opFlow (opEnt g j)
  let isLookup := fun j => j < i && opLookup (opEnt g j)
  opType e != 0 &&
  (!opLookup e || profileOk (fld e 27 26) (fld e 33 28)) &&
  ((maskList 16 (opDeps e)).all fun j => j < i && !opStaged (opEnt g j)) &&
  (match opCond e with
   | 0 => true
   | 1 | 3 => named (opCondArg e) && isLookup (opCondArg e)
   | 2 | 4 | 5 => named (opCondArg e) && isFlow (opCondArg e)
   | _ => true) &&
  (match lookupOp e with
   | some j => named j && isFlow j
   | none => true)

/-- Is a template image good (R163)? An image with VALID = 0 and OP_COUNT 0 or above 16 has its 16 entries at most checked. -/
def templateOk (g : BitVec 2048) : Bool :=
  let n := gCount g
  let ops := List.range (min n 16)
  let k := gCommit g
  let anc := ancestors g 16 k
  !(gValid g && (n == 0 || 16 < n)) && gDomain g != 3 && ops.all (opOk g) &&
  ((ops.filter fun i => opFlow (opEnt g i) && bit (opEnt g i) 34).length ≤ 1) &&
  (k == 31 || (k < min n 16 && opType (opEnt g k) == 7 &&
    (ops.all fun i => !opLookup (opEnt g i) || anc.testBit i) &&
    (ops.all fun i => !opStaged (opEnt g i) ||
      (maskList 16 (opDeps (opEnt g i))).all fun j => j == k || anc.testBit j)))

/-- The bits of an operation entry that its type defines (R160, R162). -/
def opBits (t : Nat) : Nat :=
  match t with
  | 1 => 35 | 2 => 33 | 3 => 32 | 4 => 39 | 5 => 47 | 6 => 30 | 7 => 41 | _ => 26

/-- A template image without its reserved bits, which take no value (R8, R159, R162). -/
def templateBits (g : BitVec 2048) : BitVec 2048 :=
  pack 2048 ((59, 0, fld g 59 0) :: (List.range 16).map fun i =>
    let e := opEnt g i
    (96 * i + 607, 96 * i + 512, e.toNat % 2 ^ opBits (opType e)))

/-- Packets of a cluster's window that started under a template's image now in force. -/
def startedOn (x : Cluster) (t : Nat) : List Nat :=
  (x.pkts.filter fun p => p.template == t && p.stage != .queued).map (·.arr)

/-- Finish a GRAPH_TEMPLATE_WRITE once no cluster keeps an old image for it (R164). -/
def templateDone (s : State) (ring slot : Nat) : State :=
  if (List.range 8).any fun c => (s.cluster c).retiring.any fun r => r.ring == ring && r.slot == slot then s
  else s.finish ring slot St.ok

/-- GRAPH_TEMPLATE_WRITE (R163, R164, R180). -/
def execGraphTemplateWrite (ring : Fin 1024) (slot : Nat) (s : State) : Out' :=
  onCmd s ring slot 0x50 fun c =>
    let t := fld c.desc 71 64
    let cs := maskList 8 (fld c.desc 79 72)
    let g := templateBits (ofBytes 2048 c.buf)
    if cs.isEmpty then s.badField ring slot 9
    else if !templateOk g then s.badField ring slot
    else if cs.any fun k => (s.cluster k).retiring.any (·.template == t) then s
    else
      let s1 := forAll s cs fun s k =>
        let x := s.cluster k
        let left := startedOn x t
        s.setCluster k { x with
          templates := fput x.templates 0 t g
          retiring := if left.isEmpty then x.retiring else x.retiring ++ [⟨ring, slot, t, left⟩] }
      templateDone (s1.modCmd ring slot fun c => { c with phase := .running }) ring slot

/-- GRAPH_TEMPLATE_READ (R180). -/
def execGraphTemplateRead (ring : Fin 1024) (slot : Nat) (s : State) : Out' :=
  onCmd s ring slot 0x51 fun c =>
    match maskList 8 (fld c.desc 79 72) with
    | [] => .badField s ring slot 9
    | k :: _ => (s.output c (bytesOf ((s.cluster k).template (fld c.desc 71 64)))).finish ring slot St.ok

/-! ### Acceptance (R146, R147, R153, R154, R164) -/

/-- Does a frame stand in its cluster's window? -/
def inWindow (s : State) (c f : Nat) : Bool := (s.cluster c).pkts.any (·.frame == f)

/-- Does a frame wait for its engine queue? -/
def waitsForArray (s : State) (f : Nat) (x : Frame) : Bool :=
  x.held && x.parsed.any (·.stateful) && !inWindow s x.pipe f

/-- Is a frame held behind an earlier frame of its pipeline that waits for its engine queue (R147)? -/
def heldBehind (s : State) (c f : Nat) : Bool :=
  s.swc.frames.any fun e => e.1 < f && e.2.pipe == c && waitsForArray s e.1 e.2

/-- METHOD and ENGINE_TABLE of a pipeline. -/
def engineTable (s : State) (c : Nat) : Nat := s.rf (Reg.PRS_SPREAD_CTRL c) 7 4

/-- Packets in an engine queue. -/
def engineQueue (x : Cluster) (e : Nat) : Nat := (x.pkts.filter fun p => p.engine == e && p.stage == .queued).length

/-- The engine queue that takes a frame (R147), and the round-robin pointer after it; none where the parser stalls. -/
def chooseEngine (s : State) (c hash : Nat) : Option (Nat × Nat) :=
  let x := s.cluster c
  let n := (s.pipe c).nextEngine
  if bit (s.reg (Reg.PRS_SPREAD_CTRL c)) 0 then
    (((List.range 32).map fun i => (n + i) % 32).find? fun e => engineQueue x e < 32).map fun e => (e, (e + 1) % 32)
  else
    let e := indirLookup s c (engineTable s c) hash % 32
    if engineQueue x e < 32 then some (e, n) else none

/-- The ordering domain of a packet (R173). -/
def pktDomain (s : State) (c : Nat) (g : BitVec 2048) (port : Nat) (f : List Byte) (o : Parsed) : Nat × Nat :=
  let bucket := (1, (o.hash >>> indirRot s c (engineTable s c)) % 512)
  match gDomain g with
  | 0 => match buildKey s (gProfile g) f o with
    | some b => (0, fld (flowHash s b.key) 63 32)
    | none => bucket
  | 1 => bucket
  | _ => (2, port)

/-- A packet of a cluster waits in an engine queue, and takes its place (R153). -/
def placeTake (s : State) (c f e : Nat) (x : Frame) (o : Parsed) (g : BitVec 2048) : State :=
  let y := s.cluster c
  let w := x.bytes.take 256
  let p : Pkt := { arr := y.arrivals, frame := f, template := o.template, engine := e, image := g, window := w, parsed := o,
                   domain := pktDomain s c g x.port w o }
  (s.setCluster c { y with pkts := y.pkts ++ [p], arrivals := y.arrivals + 1 }).peak (Reg.PXA_WINDOW_PEAK c) (y.pkts.length + 1)

/-- ENGINE_QUEUE_ACCEPT (R147, R153, R154, R164, R176): the parser's oldest stateful frame is accepted, or held for a cycle. In
Solitaire mode it leaves as a flushed hole (R512). -/
def execEngineQueueAccept (frame : Nat) (s : State) : Out' :=
  match s.frame? frame with
  | none => .next s
  | some x =>
    let c := x.pipe
    let o := x.parsed.getD {}
    if !waitsForArray s frame x || heldBehind s c frame then .next s
    else if s.hlt.solo then .next (frameDrop (s.bump (Reg.PXA_HOLE_COUNT c 4)) frame)
    else
      let g := (s.cluster c).template o.template
      if !gValid g then .next (frameDrop (s.bump (Reg.PXA_BAD_TEMPLATE_COUNT c)) frame)
      else if 4096 ≤ (s.cluster c).pkts.length then .next (s.bump (Reg.PXA_WINDOW_FULL_CYCLES c))
      else match chooseEngine s c o.hash with
        | none => .next (s.bump (Reg.PRS_ENGINE_STALL_COUNT c))
        | some (e, n) => .next (placeTake (s.setPipe c { s.pipe c with nextEngine := n }) c frame e x o g)

/-! ### Start and resume (R155, R156, R158, R172) -/

/-- Contexts in use: of an engine, of a cluster. -/
def engineCtx (x : Cluster) (e : Nat) : Nat := (x.pkts.filter fun p => p.engine == e && p.stage == .running).length
def clusterCtx (x : Cluster) : Nat := (x.pkts.filter fun p => p.stage == .running).length

/-- Contexts of an engine that are free. -/
def ctxFree (y : Cluster) (e : Nat) : List Nat :=
  (List.range 8).filter fun k => !(y.pkts.any fun q => q.engine == e && q.stage == .running && q.ctx == k)

/-- A packet takes a free context of its engine (R155): which one is open. -/
def takeCtx (s : State) (c arr e : Nat) : State :=
  let f := s.free
  let ks := ctxFree (s.cluster c) e
  f.2.modPkt c arr fun p => { p with ctx := ks.getD (f.1 % ks.length) 0 }

/-- The packet whose context an engine serves next (R152): the first in its rotating order with a routine that can try its word. -/
def ctxTurn (y : Cluster) (e : Nat) : Option Pkt :=
  ((List.range 8).map fun i => (fget y.ctxNext 0 e + i) % 8).findSome? fun k => y.pkts.find? fun q =>
    q.engine == e && q.ctx == k && q.stage == .running && q.routines.any fun r => !r.waits

/-- An engine has served a packet's context: its order goes on to the next. -/
def ctxServed (s : State) (c : Nat) (p : Pkt) : State :=
  let y := s.cluster c
  s.setCluster c { y with ctxNext := fput y.ctxNext 0 p.engine ((p.ctx + 1) % 8) }

/-- The metadata words at the start (R158). -/
def startWords (x : Frame) (o : Parsed) (template : Nat) : FMap W16 :=
  let len := frameLen x o
  let slotOff := fun (l : Nat) => match o.slot l with
    | some h => h.off
    | none => 255
  let ns := if x.rxTime.isSome then (x.rxTime.getD {}).ns else x.seenTime.ns
  let vs : List Nat := [x.port + 256 * template, len.1,
    o.frag + 4 * (o.slot 4).isSome.toNat + 8 * len.2.toNat + 256 * tosByte x.bytes o false,
    slotOff 2 + 256 * slotOff 3, o.hash % 65536, o.hash / 65536, ns % 65536, ns / 65536]
  vs.zipIdx.foldl (fun (m : FMap W16) e => fput m 0 e.2 (BitVec.ofNat 16 e.1)) []

/-- A packet starts on a context: it runs under the template image and the page map now in force (R164, R212). A graph of which
nothing can run ends at once (R166, R171). -/
def pktBegin (s : State) (c arr : Nat) (x : Frame) : State :=
  let y := s.cluster c
  let s1 := s.modPkt c arr fun p =>
    let g := y.template p.template
    readyOps { p with stage := .running, image := g, map := y.active, domain := pktDomain s c g x.port p.window p.parsed,
                      words := startWords x p.parsed p.template }
  pktSettle ((s1.bump64 (Reg.PXA_START_COUNT_LO c) 1).peak (Reg.PXA_CTX_PEAK c) (clusterCtx y + 1)) c arr

/-- May the head of an engine queue start: its engine has a free context, and a frame longer than 256 bytes without an L3 slot has
its tail in (R155, R172)? -/
def mayStart (s : State) (y : Cluster) (q : Pkt) : Bool :=
  q.stage == .queued && engineCtx y q.engine < 8 &&
  !(y.pkts.any fun r => r.arr < q.arr && r.engine == q.engine && r.stage == .queued) &&
  (s.frame? q.frame).any fun x => x.tail || x.bytes.length ≤ 256 || (q.parsed.slot 2).isSome

/-- The packet that the dispatcher serves next (R155): the oldest resuming one whose engine has a free context, else the head of an
engine queue, in a rotating order over the engines. -/
def nextStart (s : State) (c : Nat) : Option Pkt :=
  let y := s.cluster c
  (y.pkts.find? fun q => q.stage == .resume && engineCtx y q.engine < 8).or
    (((List.range 32).map fun i => (y.startNext + i) % 32).findSome? fun e => y.pkts.find? fun q => q.engine == e && mayStart s y q)

/-- PACKET_START (R155, R172): the packet that the dispatcher serves next takes a free context of its engine. -/
def execPacketStart (cluster : Fin 8) (pkt : Nat) (s : State) : Out' :=
  let c := cluster.val
  let y := s.cluster c
  match nextStart s c with
  | none => .next s
  | some p =>
    if p.arr != pkt then .next s
    else if p.stage == .resume then
      .next (((takeCtx s c pkt p.engine).modPkt c pkt fun p => { p with stage := .running }).peak (Reg.PXA_CTX_PEAK c) (clusterCtx y + 1))
    else match s.frame? p.frame with
      | some x => .next (pktBegin (takeCtx (s.setCluster c { y with startNext := (p.engine + 1) % 32 }) c pkt p.engine) c pkt x)
      | none => .next s

/-- PACKET_RESUME (R156, R197): the response that a parked packet awaits has arrived. -/
def execPacketResume (cluster : Fin 8) (pkt : Nat) (s : State) : Out' :=
  match s.pkt? cluster pkt with
  | some p => if p.stage == .parked && canGoOn p then .next (s.modPkt cluster pkt fun p => { p with stage := .resume }) else .next s
  | none => .next s

/-! ### Operations (R161, R162, R165, R172, R177, R241) -/

/-- A phase for an operation. -/
def opPhase (s : State) (c arr op : Nat) (ph : OpPhase) : State :=
  s.modPkt c arr fun p => { p with ops := fset p.ops op { p.op op with phase := ph } }

/-- An operation whose target does not admit it waits in the dispatcher (R177). -/
def opStall (s : State) (c arr op : Nat) : State := pktPark (opPhase s c arr op .stalled) c arr

/-- A flow LOOKUP issues (R63-R65, R68, R86, R157). -/
def issueFlow (s : State) (c : Nat) (p : Pkt) (op : Nat) (e : BitVec 96) : State :=
  match buildKey s (fld e 33 28) p.window p.parsed with
  | none => opFail s c p.arr op 0 St.noKey
  | some b =>
    if !sliceOn s b.home then opFail s c p.arr op 3 St.targetOff
    else if flightMax ≤ (s.slice b.home).flights.length then opStall s c p.arr op
    else
      let metas := (List.range 6).map fun j => (p.m (gMeta p.image j)).toNat
      let vec := keyVector p.window p.parsed b ((p.m 0).toNat % 256) p.template metas
      let act : FlowAct := .lookup c p.arr op (bit e 34) b.pool b.srcLow vec p.len
      flowPush (opPhase s c p.arr op .issued) b.home { src := c, act := act, key := some b.key }

/-- The lock of a table LOOKUP's target: EXACT 1, LPM 2, TCAM 3. -/
def targetLock (target : Nat) : Nat := target - 1

/-- The search key of a table LOOKUP, built at the cycle it issues (R227, R248); an LPM LOOKUP reads its address from the window. -/
def tableKey (s : State) (c : Nat) (p : Pkt) (e : BitVec 96) : Nat :=
  let prof := fld e 33 28
  match fld e 27 26 with
  | 1 => (exactKey (s.reg (Reg.FWD_EXACT_PROFILE c prof)) p.window p.parsed ((p.m 0).toNat % 256) (p.m 8).toNat).toNat
  | 3 => (tcamKey s c (s.reg (Reg.TCM_PROFILE c prof)) p.window p.parsed ((p.m 0).toNat % 256) (p.m 8).toNat (p.m 9).toNat).toNat
  | _ => 0

/-- A table LOOKUP issues, unless the table is locked (R228, R241, R253). -/
def issueTable (s : State) (c : Nat) (p : Pkt) (op : Nat) (e : BitVec 96) : State :=
  if s.domain (domPipe c) != .on then opFail s c p.arr op 3 St.targetOff
  else if (lockOf s c (targetLock (fld e 27 26))).isSome then opStall s c p.arr op
  else s.modPkt c p.arr fun p => { p with ops := fset p.ops op { p.op op with phase := .issued, key := tableKey s c p e } }

/-- Depth of a cluster's cipher request queue (R337). -/
def cipDepth (s : State) (c : Nat) : Nat := (fget s.cip.queues [] c).length

/-- Is a half of the cipher engine powered? -/
def cipherOn (s : State) : Bool := s.domain 55 == .on || s.domain 56 == .on

/-- A request enters a queue. -/
def cipPush (s : State) (c : Nat) (r : CipReq) : State :=
  { s with cip := { s.cip with queues := fset s.cip.queues c (fget s.cip.queues [] c ++ [r]), reqNo := s.cip.reqNo + 1 } }

/-- A CIPHER issues into its cluster's queue (R162, R172, R337). -/
def issueCipher (s : State) (c : Nat) (p : Pkt) (op : Nat) (e : BitVec 96) : State :=
  let o := p.op (fld e 29 26)
  if !((s.frame? p.frame).map (·.tail)).getD false then s
  else if !(o.found && bit (o.word 2) 7) then opFail (s.bump (Reg.CIP_FAIL_COUNT 1)) c p.arr op 1 (St.cipher 1)
  else if !cipherOn s then opFail s c p.arr op 3 St.targetOff
  else if 512 ≤ cipDepth s c then opStall s c p.arr op
  else
    let r : CipReq := { cluster := c, pkt := p.arr, op := op, mode := fld e 31 30, slot := fld (o.word 8) 21 0,
                        gen := fld (o.word 8) 31 22, no := s.cip.reqNo }
    let s2 := cipPush (opPhase s c p.arr op .issued) c r
    pktPark (s2.peak Reg.CIP_QUEUE_PEAK (cipDepth s2 c)) c p.arr

/-- A REWRITE is recorded (R162, R170). -/
def issueRewrite (s : State) (c : Nat) (p : Pkt) (op : Nat) (e : BitVec 96) : State :=
  let o := p.op (fld e 38 35)
  let t := if bit e 34 then (if o.found then some (fld (o.word 10) 15 8) else none) else some (fld e 33 26)
  opComplete (match t with
    | some n => s.modPkt c p.arr fun p => { p with rewrites := p.rewrites ++ [(op, n)] }
    | none => s) c p.arr op St.ok []

/-- Does the target of an operation that waits in the dispatcher now admit it (R177, R241)? One that would fail is admitted. -/
def opAdmits (s : State) (c : Nat) (p : Pkt) (e : BitVec 96) : Bool :=
  match opType e with
  | 1 =>
    if fld e 27 26 = 0 then (buildKey s (fld e 33 28) p.window p.parsed).all fun b =>
      !sliceOn s b.home || (s.slice b.home).flights.length < flightMax
    else s.domain (domPipe c) != .on || (lockOf s c (targetLock (fld e 27 26))).isNone
  | 3 => !cipherOn s || cipDepth s c < 512
  | _ => true

/-- May an operation issue now (R165, R172, R177)? -/
def opMay (s : State) (c : Nat) (p : Pkt) (i : Nat) : Bool :=
  let e := opEnt p.image i
  let ph := (p.op i).phase
  !opStaged e && p.verdict.isNone && !p.exc && !p.flush &&
  ((p.stage == .running && ph == .ready && (opType e != 3 || ((s.frame? p.frame).map (·.tail)).getD false)) ||
   ((p.stage == .running || p.stage == .parked) && ph == .stalled && opAdmits s c p e))

/-- The operation that a cluster's dispatcher issues next (R165): of the oldest packet, the lowest. -/
def opNext (s : State) (c : Nat) : Option (Nat × Nat) :=
  (s.cluster c).pkts.findSome? fun p => (p.opNos.find? (opMay s c p)).map fun i => (p.arr, i)

/-- OP_ISSUE (R165, R177): a ready operation that is not staged issues, oldest packet and lowest operation first. -/
def execOpIssue (cluster : Fin 8) (pkt : Nat) (op : Fin 16) (s : State) : Out' :=
  let c := cluster.val
  match s.pkt? c pkt with
  | none => .next s
  | some p =>
    let e := opEnt p.image op
    if opNext s c != some (pkt, op.val) then .next s
    else match opType e with
      | 1 => .next (if fld e 27 26 = 0 then issueFlow s c p op e else issueTable s c p op e)
      | 3 => .next (issueCipher s c p op e)
      | 4 => .next (issueRewrite s c p op e)
      | _ => .next (s.modPkt c pkt fun p => { p with
          ops := fset p.ops op { p.op op with phase := .issued }
          routines := p.routines ++ [{ op := op, pc := fld e 40 26 }] })

/-! ### Table results (R190, R227, R229, R253) -/

/-- Words 0 to 4 of a table result (R229) for an applied action word. -/
def appliedWords (a : Applied) (flags : List (Nat × Nat × Nat)) : List W32 :=
  let w := a.word
  let cls := wordClass w
  let rw := wordRewrite w
  let base := fun (fs : List (Nat × Nat × Nat)) (w1 w2 : Nat) =>
    [pack 32 ((8, 8, 1) :: fs ++ flags), BitVec.ofNat 32 w1, BitVec.ofNat 32 (w2 + 2 ^ 24 * rw),
     BitVec.ofNat 32 w.toNat, BitVec.ofNat 32 (w.toNat / 2 ^ 32)]
  match a.fate with
  | .port n => base [] (8 * n + cls) n
  | .group g => base [(10, 10, 1)] 0 (2 ^ 8 * g)
  | .drop => base [(11, 11, 1)] 0 0
  | .punt => base [(12, 12, 1)] 0 0
  | .fault => base [(14, 14, 1)] 0 0
  | .tile => [pack 32 [(9, 9, 1)]]

/-- A result without a match: TILE_FAIL where a line failed. -/
def noMatch (tile : Bool) : List W32 := [pack 32 [(9, 9, tile.toNat)]]

/-- A result that an action word gives, with its word 5. -/
def wordResult (a : Applied) (flags : List (Nat × Nat × Nat)) (w5 : W32) : List W32 × Bool :=
  if a.fate == .tile then (noMatch true, false) else (appliedWords a flags ++ [w5], true)

/-- The result of an EXACT LOOKUP. -/
def exactResult (s : State) (c : Nat) (p : Pkt) (key : Nat) : State × List W32 × Bool :=
  match exactSearch s c (BitVec.ofNat 96 key) with
  | (s1, .hit (_, e)) =>
    let r := applyWord s1 c e.action p.parsed.hash
    (r.1, wordResult r.2 [(13, 13, (bit e.action 29).toNat)] (BitVec.ofNat 32 e.static.toNat))
  | (s1, .fail) => (s1, noMatch true, false)
  | (s1, .none) => (s1, noMatch false, false)

/-- The result of an LPM LOOKUP. -/
def lpmResult (s : State) (c : Nat) (p : Pkt) (prof : Nat) : State × List W32 × Bool :=
  let slot := p.parsed.slot (if bit (BitVec.ofNat 6 prof) 1 then 6 else 2)
  let dst := prof % 2 == 0
  match slot with
  | none => (s, noMatch false, false)
  | some h =>
    if h.check != 2 && h.check != 3 then (s, noMatch false, false)
    else
      let v6 := h.check == 3
      let a := if v6 then beAt p.window (h.off + (if dst then 24 else 8)) 16
               else beAt p.window (h.off + (if dst then 16 else 12)) 4
      match lpmSearch s c v6 a with
      | (s1, .hit r) =>
        match nexthopSearch s1 c r.nh with
        | (s2, .hit w) =>
          let x := applyWord s2 c w p.parsed.hash
          (x.1, wordResult x.2 [] (BitVec.ofNat 32 (r.len + 2 ^ 8 * r.nh)))
        | (s2, _) => (s2, noMatch true, false)
      | (s1, .fail) => (s1, noMatch true, false)
      | (s1, .none) => (s1, noMatch false, false)

/-- The result of a TCAM LOOKUP, and the counter pair that its commit counts. -/
def tcamResult (s : State) (c : Nat) (p : Pkt) (prof key : Nat) : State × List W32 × Bool × Option Nat :=
  match tcamSearch s c prof (BitVec.ofNat 640 key) with
  | (s1, .hit (h, tie)) =>
    let a := h.ent.action
    let flags := [(11, 11, fld a 33 33), (12, 12, fld a 34 34), (13, 13, 0)]
    let tail : List W32 := [pack 32 [(15, 0, h.ent.id), (31, 16, h.ent.prio)],
      pack 32 [(11, 0, fld a 63 52), (12, 12, fld a 35 35), (15, 13, fld a 38 36)], pack 32 [(0, 0, tie.toNat)]]
    let pair := if bit a 39 then some (fld a 51 40) else none
    if bit a 32 then
      let x := applyWord s1 c (BitVec.ofNat 64 (fld a 31 0)) p.parsed.hash
      if x.2.fate == .tile then (x.1, noMatch true, false, none)
      else (x.1, appliedWords x.2 flags ++ tail, true, pair)
    else (s1, [pack 32 ((8, 8, 1) :: flags), 0, 0, 0, 0] ++ tail, false, pair)
  | (s1, .fail) => (s1, noMatch true, false, none)
  | (s1, .none) => (s1, noMatch false, false, none)

/-- A table result reaches its packet; one that has ended discards it (R168). -/
def giveTable (s : State) (c arr op : Nat) (ws : List W32) (fwd : Bool) (pair : Option Nat) : State :=
  let s1 := match pair with
    | some k => s.modPkt c arr fun p => { p with tcmCounts := p.tcmCounts ++ [k] }
    | none => s
  opComplete s1 c arr op St.ok ws fwd

/-- TABLE_LOOKUP_RESULT (R229, R253). -/
def execTableLookupResult (cluster : Fin 8) (pkt : Nat) (op : Struck (Fin 16)) (s0 : State) : Out' :=
  let s := strike s0 op.upsets
  let op := op.it
  let c := cluster.val
  match s.pkt? c pkt with
  | none => .next s
  | some p =>
    let e := opEnt p.image op
    let prof := fld e 33 28
    if !((p.op op).phase == .issued && opLookup e) then .next s
    else match fld e 27 26 with
      | 1 => let r := exactResult s c p (p.op op).key
             .next (giveTable r.1 c pkt op r.2.1 r.2.2 none)
      | 2 => let r := lpmResult s c p prof
             .next (giveTable r.1 c pkt op r.2.1 r.2.2 none)
      | 3 => let r := tcamResult s c p prof (p.op op).key
             .next (giveTable r.1 c pkt op r.2.1 r.2.2.1 r.2.2.2)
      | _ => .next s

/-! ### Aborts (R202-R205, R240) -/

/-- Does a packet hold, or await, a result of a table: 0 EXACT, 1 LPM, 2 TCAM? -/
def usesTable (p : Pkt) (l : Nat) : Bool :=
  p.opNos.any fun i =>
    let e := opEnt p.image i
    opLookup e && fld e 27 26 == l + 1 && ((p.op i).phase == .issued || (p.op i).phase == .complete)

/-- Has a CIPHER's request been removed, so that no result will come (R353)? -/
def cipOrphan (s : State) (c : Nat) (p : Pkt) (i : Nat) : Bool :=
  opType (opEnt p.image i) == 3 && (p.op i).phase == .issued &&
  !((fget s.cip.queues [] c).any fun r => r.pkt == p.arr && r.op == i) &&
  !(s.cip.cores.any fun e => e.2.req.cluster == c && e.2.req.pkt == p.arr && e.2.req.op == i)

/-- A CIPHER whose request has been removed is over as its packet's abort is taken. -/
def orphansEnd (s : State) (c : Nat) (p : Pkt) : State :=
  s.modPkt c p.arr fun q => { q with ops := (p.opNos.filter (cipOrphan s c p)).foldl (fun m i => fset m i { phase := .skipped }) q.ops }

/-- After a late abort a CIPHER whose request has been removed fails; the spec gives its status nowhere. -/
def orphansFail (s : State) (c : Nat) (p : Pkt) : State :=
  (p.opNos.filter (cipOrphan s c p)).foldl (fun s i => let f := s.free
                                                       opFail f.2 c p.arr i 1 (f.1 % 256)) s

/-- PACKET_ABORT (R203-R205): an abort is taken at the packet's engine. It is not applied after a commit; on the exception path it ends
the packet as a failure there does. -/
def execPacketAbort (cluster : Fin 8) (pkt : Nat) (s : State) : Out' :=
  let c := cluster.val
  match s.pkt? c pkt with
  | none => .next s
  | some p =>
    if !p.abort then .next s
    else
      let s1 := s.modPkt c pkt fun p => { p with abort := false }
      if p.committed then .next (pktSettle (orphansFail (s1.bump (Reg.MCS_LATE_ABORT_COUNT c)) c p) c pkt)
      else if p.verdict.isSome then .next (pktRest (orphansEnd s1 c p) c pkt)
      else
        let f := (orphansEnd s1 c p).free
        let s2 := (f.2.modPkt c pkt stopRoutines).bump (Reg.MCS_ABORT_COUNT c)
        .next (if p.exc then pktEnd s2 c pkt (.hole 3) else pktFail s2 c pkt (f.1 % 16) 2 (f.1 / 16 % 256))

/-- Does a checked command lock a table: 0 EXACT, 1 LPM, 2 TCAM (R240, R258)? -/
def claspWants (s : State) (c : CmdEnt) (l : Nat) : Bool :=
  let t := tblOf c.desc
  let n := fld c.desc 207 192
  let cursor := fld c.desc 255 224
  descLock c.desc == l && match descOp c.desc with
  | 0x44 => (tableEntries n c.buf).all (entOk t)
  | 0x45 => !cursorBad t cursor
  | 0x46 => (maskList 8 (fld c.desc 71 64)).all fun p => (tcmEntries n c.buf).all (tcmEntOk s p)
  | 0x47 => true
  | 0x48 => cursor + n ≤ 4096
  | _ => false

/-- CLASP_LOCK (R240): a command with CLASP takes the lock of its table in a pipeline, and packets of the cluster that hold or
await a result of that table are aborted. -/
def execClaspLock (pipe : Fin 8) (table : Fin 3) (ring : Fin 1024) (slot : Nat) (s : State) : Out' :=
  let p := pipe.val
  let l := table.val
  match s.next? ring with
  | none => .next s
  | some c =>
    if c.slot == slot && bit c.desc 74 && (fld c.desc 71 64).testBit p && claspWants s c l && (lockOf s p l).isNone &&
        !c.landedIn p && tableTurn s c p && (cmdDomains c.desc).all (fun d => s.domain d == .on) then
      .next (abortWhere (setLock s p l (some (ring.val, slot))) p fun q => usesTable q l)
    else .next s

/-! ### Release (R171, R174, R175, R212) -/

/-- A forwarding result of an operation: the port with its queue, or a fate of an action word. -/
inductive Result where
  | to (port queue : Nat)
  | fate (f : Fate) (cls : Nat)
deriving DecidableEq, Repr

/-- The forwarding result that an operation supplies (R171, R194). -/
def opResult (p : Pkt) (i : Nat) : Option Result :=
  let e := opEnt p.image i
  let o := p.op i
  match p.setouts.reverse.find? fun x => x.1 == i with
  | some x => some (.to x.2.1 x.2.2)
  | none =>
    if opFlow e then (if o.found then some (.to (fld (o.word 10) 7 0) (fld (o.word 9) 18 0)) else none)
    else if opLookup e && o.phase == .complete && o.fwd then
      let w := o.word 0
      let tcam := fld e 27 26 = 3
      let cls := wordClass (BitVec.ofNat 64 (o.word 3).toNat)
      let act := BitVec.ofNat 64 (o.word 3).toNat
      if bit w 14 then some (.fate .fault cls)
      else if bit act 30 then some (.fate .drop cls)
      else if bit act 31 then some (.fate .punt cls)
      else if bit w 10 then some (.fate (.group (fld (o.word 2) 23 8)) cls)
      else if tcam || bit w 8 then some (.to (fld (o.word 2) 7 0) (fld (o.word 1) 18 0))
      else none
    else none

/-- The rewrite template that an operation supplies. -/
def opRewrite (p : Pkt) (i : Nat) : Option Nat :=
  let e := opEnt p.image i
  let o := p.op i
  match p.rewrites.find? fun x => x.1 == i with
  | some x => some x.2
  | none =>
    if opFlow e then (if o.found then some (fld (o.word 10) 15 8) else none)
    else if opLookup e && o.phase == .complete && o.fwd then some (fld (o.word 2) 31 24) else none

/-- The highest-numbered operation that supplies something; the exception routine stands above them all. -/
def lastOf {α : Type} (f : Nat → Option α) : Option α := (f 16).or ((List.range 16).reverse.findSome? f)

/-- The sources of SET_SRC (R278): of the record that a FROM_RECORD REWRITE names, else of the highest flow LOOKUP with one. -/
def srcValues (p : Pkt) : List Nat :=
  let from' := (p.rewrites.reverse.findSome? fun x =>
    let e := opEnt p.image x.1
    if x.1 < 16 && opType e == 4 && bit e 34 then some (fld e 38 35) else none)
  let any' := (List.range 16).reverse.find? fun i => opFlow (opEnt p.image i) && (p.op i).found
  let w := match from'.or any' with
    | some i => fun k => ((p.op i).word k).toNat
    | none => fun _ => 0
  [revBytes 4 (w 5), revBytes 2 (w 6 % 65536), w 11 + 2 ^ 32 * w 12,
   (p.m 8).toNat + 2 ^ 16 * (p.m 9).toNat + 2 ^ 32 * (p.m 10).toNat + 2 ^ 48 * (p.m 11).toNat, revBytes 4 (w 7)]

/-- A packet with verdict FORWARD goes to the switch core (R171, R175). One without a port that exists is dropped. -/
def forwardPkt (s : State) (c : Nat) (p : Pkt) : State :=
  let rw := (lastOf (opRewrite p)).getD 0
  match lastOf (opResult p) with
  | some (.to n q) =>
    if 140 ≤ n then s.bump Reg.TMG_BAD_QUEUE_COUNT
    else sendCopy s { frame := p.frame, port := n, queue := q, rewrite := rw, srcs := srcValues p }
  | some (.fate f cls) => sendFate s p.frame c f cls rw 0x31 (srcValues p)
  | none => s.bump Reg.TMG_BAD_QUEUE_COUNT

/-- Finish an MCS_PATCH_SWITCH once no cluster keeps an old map for it (R212, R213). -/
def switchDone (s : State) (ring slot : Nat) (region version : Nat) (hash : List Byte) : State :=
  let waits := fun (c : Nat) => match (s.cluster c).switching with
    | some w => w.1 == ring && w.2.1 == slot && !w.2.2.isEmpty
    | none => false
  if (List.range 8).any waits then s
  else match s.cmd? ring slot with
    | some c => auditFinish s ring slot c St.ok (bytesLE 1 region ++ bytesLE 2 version ++ hash)
    | none => s

/-- A patch's version in its region's half of a version word (R218). -/
def regionVersion (region : Bool) (w : W32) : Nat := if region then fld w 31 16 else fld w 15 0

/-- A packet's place is free: writes and switches that waited for it go on (R164, R175, R212). -/
def placeFree (s : State) (c arr : Nat) : State :=
  let x := s.cluster c
  let rs := x.retiring.map fun (r : Retire) => { r with left := r.left.filter (· != arr) }
  let gone := rs.filter fun r => r.left.isEmpty
  let sw := x.switching.map fun (w : Nat × Nat × List Nat) => (w.1, w.2.1, w.2.2.filter (· != arr))
  let swOver := sw.filter fun w => w.2.2.isEmpty
  let s1 := s.setCluster c { x with pkts := x.pkts.filter fun p => p.arr != arr, retiring := rs.filter (fun r => !r.left.isEmpty),
                                    switching := sw.filter fun w => !w.2.2.isEmpty }
  let s2 := gone.foldl (fun s r => templateDone s r.ring r.slot) s1
  match swOver with
  | some w => switchDone s2 w.1 w.2.1 x.stagedRegion.toNat (regionVersion x.stagedRegion x.version) x.stagedHash
  | none => s2

/-- A frame is again as it arrived (R170): a CIPHER output that replaced it is undone. Where no cell is to be had for what was longer,
it is dropped. -/
def asArrived (s : State) (f : Nat) (act : State → State) : State :=
  match s.frame? f with
  | none => s
  | some x => match x.arrived with
    | none => act s
    | some (bs, o) =>
      let r := frameFit s f { x with arrived := none } bs o
      if r.2 then act r.1 else frameDrop r.1 f

/-- A frame takes with it what its punt would tell of its packet (R458). -/
def frameNote (s : State) (p : Pkt) : State :=
  match s.frame? p.frame with
  | some x => s.setFrame p.frame { x with handle := p.handle, m8 := (p.m 8).toNat }
  | none => s

/-- A packet that is no hole leaves the array. -/
def leaveWith (s : State) (c : Nat) (p : Pkt) (act : State → State) : State :=
  deliver (frameNote (s.bump64 (Reg.PXA_RELEASE_COUNT_LO c) 1) p) p.frame act

/-- What a packet's leaving does (R175). -/
def leave (s : State) (c : Nat) (p : Pkt) : Verdict → State
  | .hole k => frameDrop (s.bump (Reg.PXA_HOLE_COUNT c k)) p.frame
  | .forward => leaveWith s c p fun s => forwardPkt s c p
  | .stateless => leaveWith s c p fun s => asArrived s p.frame fun s => stateless s p.frame p.parsed.outer
  | .punt r k => leaveWith s c p fun s => asArrived s p.frame fun s => puntFrame s p.frame ⟨r, k⟩

/-- Has a packet's turn to leave come (R174): it is done, and every earlier packet of its domain has left? A flushed one leaves
without regard to order (R179). -/
def mayLeave (y : Cluster) (p : Pkt) : Bool :=
  p.stage == .done && p.verdict.isSome && (p.flush || !(y.pkts.any fun q => q.arr < p.arr && q.domain == p.domain))

/-- Does a packet take a release slot: it does not leave as a hole (R174)? -/
def takesSlot (p : Pkt) : Bool :=
  match p.verdict with
  | some (.hole _) => false
  | _ => true

/-- PACKET_RELEASE (R173-R175): a done packet leaves once every earlier packet of its domain has left; of those that take a release
slot, the one that arrived first. -/
def execPacketRelease (cluster : Fin 8) (pkt : Nat) (s : State) : Out' :=
  let c := cluster.val
  let y := s.cluster c
  match s.pkt? c pkt with
  | none => .next s
  | some p =>
    match p.verdict with
    | some v =>
      if mayLeave y p && !(takesSlot p && y.pkts.any fun q => q.arr < pkt && takesSlot q && mayLeave y q) then
        .next (leave (placeFree s c pkt) c p v)
      else .next s
    | none => .next s

end Sys2Proof.Machine
end

