-- ==== Sys2Proof/Machine/Keel.lean ====
section
/-!
DEFINITION. Machine/Keel.lean: the keel table of Solitaire mode (R512-R516), and what the parser's decision does with a frame
(R128, R129, R136, R137, R142, R460).
-/

namespace Sys2Proof.Machine

open Sys2Proof

/-- An HLT event (R522). -/
def hltEvent (s : State) (typ cause : Nat) (hottest : Int) : State :=
  raiseOn s (s.rf Reg.HLT_EVENT_CTRL 9 0) Reg.HLT_EVENT_DROP_COUNT typ
    [(65, 64, cause), (69, 66, s.hlt.causes.foldl (fun m c => m ||| 2 ^ c) 0), (77, 70, (ofSigned 8 hottest).toNat)]

/-! ### Lookup (R513-R515) -/

/-- The keel key of a frame: the fields that HLT_KEEL_CTRL selects, and its L3 (R513). -/
def keelKey (s : State) (port : Nat) (f : List Byte) (o : Parsed) : BitVec 96 :=
  let v4 := isV4 o false
  let v6 := isV6 o false
  let sel := fun (i v : Nat) => if bit (s.reg Reg.HLT_KEEL_CTRL) i then v else 0
  pack 96 [(7, 0, sel 0 port), (19, 8, sel 1 (o.vlan.getD 0)), (25, 20, sel 2 (tosByte f o false / 4)), (33, 26, sel 3 o.proto),
    (49, 34, sel 4 (l4Port f o false true)), (81, 50, sel 5 (natBE ((l3Addr f o false true).drop 12))),
    (83, 82, if v4 then 1 else if v6 then 2 else 0)]

/-- A keel entry's key and fields (R514). -/
def keelEntKey (e : BitVec 256) : Nat := fld e 95 0
def keelPort (e : BitVec 256) : Nat := fld e 103 96
def keelValid (e : BitVec 256) : Bool := bit e 160

/-- A search finds the entries that ECC cannot correct: each is cleared and counted (R514). -/
def keelScrub (s : State) : State :=
  s.hlt.keelBad.foldl (fun s i =>
    let s1 := { s with hlt := { s.hlt with
      keel := ferase s.hlt.keel i, keelBad := s.hlt.keelBad.filter (· != i), keelGone := s.hlt.keelGone.filter (· % 4096 != i) } }
    intRaise (s1.bump Reg.HLT_KEEL_ECC_COUNT) 15 2) s

/-- The entry of a key in a pipeline's copy. -/
def keelFind (s : State) (p k : Nat) : Option (BitVec 256) :=
  (s.hlt.keel.find? fun e => keelValid e.2 && keelEntKey e.2 == k && !s.hlt.keelGone.contains (4096 * p + e.1)).map (·.2)

/-- The keel path sends a frame nowhere (R515): what is left of it is the copy that its class action may have punted (R136). -/
def keelEnd (s : State) (f : Nat) : State := settle (s.modFrame f fun x => { x with held := false }) f

/-- A frame that the keel path drops. -/
def keelDrop (s : State) (f : Nat) : State := keelEnd (s.bump Reg.HLT_KEEL_DROP_COUNT) f

/-- Forward a frame as its entry directs (R515). -/
def keelSend (s : State) (f : Nat) (e : BitVec 256) : State :=
  if !portExists s (keelPort e) then keelDrop s f
  else deliver s f fun s =>
    let s1 := sendCopy s { frame := f, port := keelPort e, queue := 8 * keelPort e + fld e 106 104, rewrite := fld e 114 107 }
    if bit e 150 then puntFrame s1 f { reason := 0x50 } else s1

/-- The per-port default of a miss (R515): a front port drops or punts, an injected frame is dropped. What a recirculation
port does is not stated. -/
def keelMiss (s : State) (f port : Nat) : State :=
  let r := if port < 128 then (bit (s.reg (Reg.HLT_SOLO_PORT (port / 32))) (port % 32), s)
           else if port < 132 then (false, s)
           else ((s.free.1 % 2 == 1), s.free.2)
  if r.1 then deliver r.2 f fun s => puntFrame s f { reason := 0x50 } else keelEnd r.2 f

/-- Look a frame up in the keel table (R513, R515): a hit that names a key slot asks the cipher engine first. -/
def keelLookup (s : State) (f : Nat) (x : Frame) (o : Parsed) : State :=
  let s1 := keelScrub s
  match keelFind s1 x.pipe (keelKey s1 x.port (x.bytes.take 256) o).toNat with
  | none => keelMiss (s1.bump Reg.HLT_KEEL_MISS_COUNT) f x.port
  | some e =>
    let s2 := s1.bump Reg.HLT_KEEL_HIT_COUNT
    if !portExists s2 (keelPort e) then keelDrop s2 f
    else if bit e 115 then
      if !cipherOn s2 then keelDrop s2 f
      else cipPush s2 8 { cluster := 8, pkt := f, op := 0, mode := fld e 117 116, slot := fld e 139 118, gen := fld e 149 140,
                          no := s2.cip.reqNo, entry := e }
    else keelSend s2 f e

/-! ### The parser's decision -/

/-- A frame with DIRECT goes to its queue with rewrite template 0 (R460). -/
def sendDirect (s : State) (f q : Nat) : State :=
  deliver s f fun s => sendCopy s { frame := f, port := queuePort s q, queue := q }

/-- A frame whose class action or path is stateless: the keel table in Solitaire mode, else the stateless path (R512, R513). -/
def pathStateless (s : State) (f : Nat) (x : Frame) (o : Parsed) : State :=
  if s.hlt.solo then keelLookup s f x o else deliver s f fun s => stateless s f o

/-- A class action (R136) on a frame that is not NORMAL. -/
def classAct (s : State) (f : Nat) (x : Frame) (o : Parsed) : State :=
  let m : PuntMeta := { reason := classReason o }
  match classAction s x.pipe o with
  | 0 => frameDrop s f
  | 1 => pathStateless s f x o.outer
  | 2 => deliver s f fun s => puntFrame s f m
  | _ => pathStateless (puntFrame s f m) f x o.outer

/-- Does an earlier frame of a frame's port still wait for the parser, or for its tail before its group's copies leave (R21, R282)? -/
def behindPort (s : State) (f : Nat) (x : Frame) : Bool :=
  s.swc.frames.any fun e => e.1 < f && e.2.port == x.port &&
    ((e.2.held && e.2.parsed.isNone) || (e.2.group.isSome && e.2.parsed.all fun o => !o.stateful))

/-- PARSE_DECISION (R21, R128, R129, R136, R137, R142, R147, R460): the parser decides a frame's path. The frames of a port are decided in
the order of arrival, and those of a pipeline wait behind one that it holds for an engine queue. -/
def execParseDecision (frame : Struck Nat) (s0 : State) : Out' :=
  let s := strike s0 frame.upsets
  let frame := frame.it
  match s.frame? frame with
  | none => .next s
  | some x =>
    if !x.held || x.parsed.isSome || heldBehind s x.pipe frame || behindPort s frame x || s.domain (domPipe x.pipe) != .on then .next s
    else
      let o := parseFrame s x.pipe x.port x.bytes
      match x.direct with
      | some q =>
        let slots := { o with cls := 0, sub := 0, stateful := false }
        .next (sendDirect (s.modFrame frame fun x => { x with parsed := some slots }) frame q)
      | none =>
        let o1 := if s.hlt.solo then { o with stateful := false } else o
        let x1 := { x with parsed := some o1 }
        let s1 := countParsed (s.setFrame frame x1) x.pipe o1
        .next (if o1.cls != 0 then classAct s1 frame x1 o1
               else if o1.stateful then s1
               else pathStateless s1 frame x1 o1)

end Sys2Proof.Machine
end

