-- ==== Sys2Proof/Machine/Transform.lean ====
section
/-!
DEFINITION. Machine/Transform.lean: the cipher transforms on a frame's bytes (R349) and the replay check (R352). The AEAD is that of
RFC 4106 for ESP and of the GCM-AES-XPN suites of IEEE 802.1AE for MACsec, over an uninterpreted AES-GCM.
-/

namespace Sys2Proof.Machine

open Sys2Proof

/-- AES-GCM sealing with the lengths it has: as many bytes as the text, and a tag of 16. -/
def gcmSealed (key iv aad text : List Byte) : List Byte × List Byte :=
  let r := Config.gcmSeal key iv aad text
  ((r.1 ++ List.replicate text.length 0).take text.length, (r.2 ++ List.replicate 16 0).take 16)

/-- AES-GCM opening with the length it has. -/
def gcmOpened (key iv aad text tag : List Byte) : Option (List Byte) :=
  (Config.gcmOpen key iv aad text tag).map fun t => (t ++ List.replicate text.length 0).take text.length

/-- A frame after its transform: its bytes, and what stands elsewhere for it: bytes cut from, and inserted at, an offset. -/
structure Xf where
  bytes : List Byte
  cut   : Nat × Nat := (0, 0)
  ins   : Nat × Nat := (0, 0)
  l3End : Nat
deriving DecidableEq, Repr

/-- Where an offset of the frame lies after a transform (R349): moved by the bytes removed or inserted before it. -/
def Xf.move (x : Xf) (off : Nat) : Nat :=
  off - (min off (x.cut.1 + x.cut.2) - min off x.cut.1) + (if x.ins.1 ≤ off then x.ins.2 else 0)

/-- The parsed headers of a frame after its transform. -/
def Xf.parsed (x : Xf) (o : Parsed) : Parsed :=
  { o with slots := o.slots.map fun (e : Nat × HdrSlot) => (e.1, { e.2 with off := x.move e.2.off }),
           l3End := x.l3End, l3Data := x.move o.l3Data, l3Next := x.move o.l3Next }

/-- The key bytes in use, and the salt of ESP. -/
def KeySlot.aesKey (k : KeySlot) : List Byte := k.key.take (if k.key256 then 32 else 16)

/-- The last sequence number (R351). -/
def KeySlot.final (k : KeySlot) : Nat := if k.esn then 2 ^ 64 - 1 else 2 ^ 32 - 1

/-- The rekey threshold in force (R351). -/
def KeySlot.limit (k : KeySlot) : Nat := if k.threshold ≠ 0 then k.threshold else if k.esn then 2 ^ 63 - 2 ^ 32 else 2 ^ 31

/-- Is a slot's usage outbound? -/
def KeySlot.outbound (k : KeySlot) : Bool := k.usage == 0 || k.usage == 2

/-! ### Lengths of the L3 header -/

/-- Correct the length of the L3 header at `h` for a packet that ends at `e`, and an IPv4 header's checksum. -/
def fixL3 (f : List Byte) (h e : Nat) (v6 : Bool) : List Byte :=
  if v6 then setAt f (h + 4) (bytesBE 2 (e - h - 40))
  else let g := setAt f (h + 2) (bytesBE 2 (e - h))
       setAt g (h + 10) (bytesBE 2 (ipv4Csum g h))

/-- The L3 slot of a frame whose packet ESP can take: IPv4 or IPv6, not a fragment, and whole in the frame. -/
def espL3 (f : List Byte) (o : Parsed) : Option HdrSlot :=
  (o.slot 2).filter fun h => (h.check == 2 || h.check == 3) && o.frag == 0 && decide (o.l3Data ≤ o.l3End) &&
    decide (o.l3End ≤ f.length)

/-! ### ESP (RFC 4303, RFC 4106) -/

/-- AAD and nonce of ESP. -/
def espAad (k : KeySlot) (seq : Nat) : List Byte := bytesBE 4 k.spi ++ bytesBE (if k.esn then 8 else 4) seq
def espNonce (k : KeySlot) (iv : List Byte) : List Byte := k.salt.take 4 ++ iv

/-- Padding to a multiple of 4 with the trailer (RFC 4303). -/
def espTrailer (n next : Nat) : List Byte :=
  let p := (4 - (n + 2) % 4) % 4
  ((List.range p).map fun i => BitVec.ofNat 8 (i + 1)) ++ bytesBE 1 p ++ bytesBE 1 next

/-- ESP_OUT: none where the frame has no packet that it can take. -/
def espOut (k : KeySlot) (seq : Nat) (f : List Byte) (o : Parsed) : Option Xf :=
  (espL3 f o).map fun h =>
    let v6 := h.check == 3
    let i := if k.tunnel then h.off else o.l3Data
    let next := if k.tunnel then (if v6 then 41 else 4) else byteAt f o.l3Next
    let body := (f.take o.l3End).drop i
    let text := body ++ espTrailer body.length next
    let iv := bytesBE 8 seq
    let r := gcmSealed k.aesKey (espNonce k iv) (espAad k seq) text
    let esp := bytesBE 4 k.spi ++ bytesBE 4 seq ++ iv ++ r.1 ++ r.2
    let e := i + esp.length
    let out := f.take i ++ esp
    let fixed := if k.tunnel then out else fixL3 (setAt out o.l3Next (bytesBE 1 50)) h.off e v6
    { bytes := fixed, ins := (i, 16), l3End := e }

/-- Where the ESP header of an inbound frame stands, in the L4 slot, with a text of whole words behind it. -/
def espAt (f : List Byte) (o : Parsed) : Option Nat :=
  match espL3 f o, o.slot 3 with
  | some _, some h =>
    if o.proto = 50 && h.off + 36 ≤ o.l3End && (o.l3End - h.off) % 4 == 0 then some h.off else none
  | _, _ => none

/-- Is padding sound: bytes 1, 2, 3 and so on, as many as the trailer says (RFC 4303)? -/
def padOk (t : List Byte) : Bool :=
  let n := t.length
  let p := byteAt t (n - 2)
  p + 2 ≤ n && (List.range p).all fun i => byteAt t (n - 2 - p + i) == i + 1

/-- ESP_IN: whether the ICV verifies, and the frame where the padding and the next header are good too. -/
def espIn (k : KeySlot) (seq : Nat) (f : List Byte) (o : Parsed) : Option (Option Xf) :=
  match espAt f o, o.slot 2 with
  | some e, some h =>
    let iv := bytesAt f (e + 8) 8
    let text := (f.take (o.l3End - 16)).drop (e + 16)
    (gcmOpened k.aesKey (espNonce k iv) (espAad k seq) text (bytesAt f (o.l3End - 16) 16)).map fun t =>
      let next := byteAt t (t.length - 1)
      let body := t.take (t.length - 2 - byteAt t (t.length - 2))
      if !padOk t then none
      else if k.tunnel then
        if next ≠ 4 && next ≠ 41 then none
        else
          let g := setAt (f.take h.off ++ body) (h.off - 2) (bytesBE 2 (if next = 4 then 0x0800 else 0x86DD))
          some { bytes := g, cut := (h.off, e + 16 - h.off), l3End := h.off + body.length }
      else
        let g := setAt (f.take e ++ body) o.l3Next (bytesBE 1 next)
        some { bytes := fixL3 g h.off (e + body.length) (h.check == 3), cut := (e, 16), l3End := e + body.length }
  | _, _ => none

/-! ### MACsec (IEEE 802.1AE, GCM-AES-XPN) -/

/-- The nonce of an XPN suite: SSCI and the 64-bit PN, under the salt. -/
def xpnNonce (k : KeySlot) (pn : Nat) : List Byte :=
  ((bytesBE 4 k.ssci ++ bytesBE 8 pn).zip (k.salt.take 12)).map fun x => x.1 ^^^ x.2

/-- Bytes of user data that stay in clear. -/
def confBytes (k : KeySlot) (n : Nat) : Nat :=
  match k.conf with
  | 0 => 0
  | 1 => min n 30
  | 2 => min n 50
  | _ => n

/-- A SecTAG: EtherType, TCI and AN, SL, PN and the SCI. -/
def secTag (k : KeySlot) (pn n : Nat) : List Byte :=
  bytesBE 2 0x88E5 ++ bytesBE 1 (k.an + (if k.conf = 3 then 0 else 12) + (if k.sciTx then 32 else 0)) ++
    bytesBE 1 (if n < 48 then n else 0) ++ bytesBE 4 pn ++ (if k.sciTx then bytesBE 8 k.sci else [])

/-- MACSEC_TX. -/
def macsecTx (k : KeySlot) (pn : Nat) (f : List Byte) (o : Parsed) : Xf :=
  let data := f.drop 12
  let tag := secTag k pn data.length
  let c := confBytes k data.length
  let r := gcmSealed k.aesKey (xpnNonce k pn) (f.take 12 ++ tag ++ data.take c) (data.drop c)
  { bytes := f.take 12 ++ tag ++ data.take c ++ r.1 ++ r.2, ins := (12, tag.length), l3End := o.l3End + tag.length }

/-- A SecTAG as received: its length, TCI, PN and the user data behind it, where it is well formed. -/
structure SecTag where
  len  : Nat
  tci  : Nat
  pn   : Nat
  sci  : Nat
  data : Nat
deriving DecidableEq, Repr

def secTagOf (f : List Byte) : Option SecTag :=
  let tci := byteAt f 14
  let sl := byteAt f 15
  let len := if tci.testBit 5 then 16 else 8
  let n := f.length - (12 + len + 16)
  let data := if sl = 0 then n else sl
  if beAt f 12 2 = 0x88E5 && !tci.testBit 7 && tci.testBit 3 == tci.testBit 2 && sl < 48 && 0 < data && data ≤ n then
    some ⟨len, tci, beAt f 16 4, beAt f 20 8, data⟩
  else none

/-- Does E agree with a slot's CONF? -/
def SecTag.agrees (t : SecTag) (k : KeySlot) : Bool := t.tci.testBit 3 == (k.conf != 3)

/-- MACSEC_RX: none where the ICV does not verify. -/
def macsecRx (k : KeySlot) (pn : Nat) (f : List Byte) (o : Parsed) : Option (Option Xf) :=
  (secTagOf f).bind fun t =>
    let i := 12 + t.len
    let data := (f.drop i).take t.data
    let c := confBytes k data.length
    (gcmOpened k.aesKey (xpnNonce k pn) (f.take i ++ data.take c) (data.drop c) (bytesAt f (i + t.data) 16)).map fun x =>
      some { bytes := f.take 12 ++ data.take c ++ x, cut := (12, t.len), l3End := o.l3End - t.len }

/-! ### What an inbound frame carries -/

/-- The 32-bit number of an inbound frame, where its header is well formed. -/
def inNumber (usage : Nat) (f : List Byte) (o : Parsed) : Option Nat :=
  if usage = 1 then (espAt f o).map fun e => beAt f (e + 4) 4 else (secTagOf f).map (·.pn)

/-- Does an inbound frame belong to a slot's SA (R349): by its SPI, or by its AN and, where it carries one, its SCI? -/
def saMatch (k : KeySlot) (f : List Byte) (o : Parsed) : Bool :=
  if k.usage = 1 then (espAt f o).any fun e => beAt f e 4 == k.spi
  else (secTagOf f).any fun t => t.tci % 4 == k.an && (!t.tci.testBit 5 || t.sci == k.sci)

/-- The sequence number that a 32-bit number stands for (R352). -/
def inferSeq (k : KeySlot) (n : Nat) : Int :=
  if !k.esn then n
  else
    let v := max k.window 1
    let tl := k.top % 2 ^ 32
    let th : Int := (k.top / 2 ^ 32 : Nat)
    if v - 1 ≤ tl then (if tl + 1 ≤ n + v then 2 ^ 32 * th + n else 2 ^ 32 * (th + 1) + n)
    else if tl + 1 + 2 ^ 32 ≤ n + v then 2 ^ 32 * (th - 1) + n else 2 ^ 32 * th + n

/-- The replay check (R352): none for a replay, and for a number above the last one, which no counter reaches (R351). -/
def replayCheck (k : KeySlot) (n : Nat) : Option Int :=
  let q := inferSeq k n
  let back := ((k.top : Int) - q).toNat
  if q = 0 || k.pending.contains q || decide ((k.final : Int) < q) then none
  else if q ≤ k.top && (k.window ≤ back || bit k.bits back) then none
  else some q

/-- The window after a number has been verified (R352). -/
def windowMove (k : KeySlot) (q : Int) : KeySlot :=
  if (k.top : Int) < q then
    { k with top := q.toNat, bits := (k.bits <<< (q - k.top).toNat) ||| 1#64 }
  else { k with bits := putBit k.bits ((k.top : Int) - q).toNat true }

/-! ### Sealed slots (R343) -/

/-- The plain content of a slot's SEALED field: 96 bytes, whose layout is the model's (log 170). -/
def KeySlot.plain (k : KeySlot) (pinned : Bool) : List Byte :=
  let st := match k.state with | .idle => 0 | .active => 1 | .exhausted => 2 | .erasing => 3
  let head := pack 64 [(1, 0, st), (11, 2, k.gen), (13, 12, k.usage), (14, 14, k.key256.toNat), (15, 15, k.esn.toNat),
    (16, 16, k.tunnel.toNat), (17, 17, k.sciTx.toNat), (19, 18, k.conf), (26, 20, k.window), (27, 27, pinned.toNat),
    (29, 28, k.an), (53, 32, k.pair)]
  let fix := fun (n : Nat) (l : List Byte) => (l ++ List.replicate n 0).take n
  fix 96 (bytesOf head ++ bytesLE 4 k.spi ++ bytesLE 4 k.ssci ++ bytesLE 8 k.sci ++ fix 32 k.key ++ fix 12 k.salt ++
    bytesLE 8 k.threshold ++ bytesLE 8 (if k.outbound then k.counter else k.top) ++ bytesLE 8 k.bits.toNat)

/-- The AAD of a slot's seal: its 8-byte HBM address. -/
def slotAad (k : Nat) : List Byte := bytesLE 8 (locketBase + 128 * k)

/-- A slot as HBM holds it: SLOT and WRITE_COUNT, which are the IV, SEALED, TAG and TILE_CHECK. -/
def slotUnit (storage : BitVec 256) (k : Nat) (x : KeySlot) (pinned : Bool) : Unit128 :=
  let iv := bytesLE 4 k ++ bytesLE 8 x.writes
  let r := gcmSealed (bytesOf storage) iv (slotAad k) (x.plain pinned)
  sealUnit (locketBase + 128 * k) (ofBytes 1024 (iv ++ r.1 ++ r.2))

/-- Does the tag of a slot's unit verify? -/
def slotTagOk (storage : BitVec 256) (k : Nat) (u : Unit128) : Bool :=
  let b := bytesOf u
  (gcmOpened (bytesOf storage) (b.take 12) (slotAad k) (bytesAt b 12 96) (bytesAt b 108 16)).isSome

/-- A sequence number as the 64-bit number of the AAD and nonce. -/
def seqWord (q : Int) : Nat := (q % 2 ^ 64).toNat

end Sys2Proof.Machine
end

