-- ==== Sys2Proof/Machine/Cipher.lean ====
section
/-!
DEFINITION. Machine/Cipher.lean: the cipher engine's requests and the Locket key store (R337-R358).
-/

namespace Sys2Proof.Machine

open Sys2Proof

/-! ### Events and slots -/

/-- A key event (R357) with its interrupt source (R519). -/
def cipEvent (s : State) (typ slot gen cause counter : Nat) : State :=
  intRaise (raiseOn s (s.rf Reg.CIP_EVENT_CTRL 9 0) Reg.CIP_EVENT_DROP_COUNT typ
    [(85, 64, slot), (95, 86, gen), (97, 96, cause), (191, 128, counter)]) 7 (typ - 0x88)

/-- Mark a cached slot as changed since its fetch. -/
def cipTouch (s : State) (k : Nat) : State :=
  if s.cip.dirty.contains k then s else { s with cip := { s.cip with dirty := k :: s.cip.dirty } }

/-- A single-bit error of a cached slot is corrected as the entry is used (R344, R358). -/
def cipMend (s : State) (k : Nat) : State :=
  if s.cip.cached.contains k && ffind? s.cip.upset k == some 1 then
    { s with cip := { s.cip with upset := ferase s.cip.upset k } }.bumpField Reg.CIP_ECC_COUNT 15 0
  else s

/-- Write a slot, sealed, to its unit of HBM (R343, R344), which HBM does not take in Solitaire mode (R512). -/
def slotStore (s : State) (k : Nat) : State :=
  if s.hlt.solo then s
  else
    let s1 := s.setUnit (locketBase / 128 + k) (slotUnit s.cip.storage k (s.keySlot k) (s.cip.pinned.contains k))
    memPost { s1 with cip := { s1.cip with broken := ferase s1.cip.broken k } } 6 (locketBase + 128 * k) true 4

/-- Write a slot: WRITE_COUNT goes up with it. -/
def slotWrite (s : State) (k : Nat) : State :=
  let x := s.keySlot k
  slotStore (s.setKeySlot k { x with writes := x.writes + 1 }) k

/-- Forget what the cache and the fetches hold of a slot. -/
def cipForget (s : State) (k : Nat) : State :=
  { s with cip := { s.cip with cached := s.cip.cached.filter (· != k), pinned := s.cip.pinned.filter (· != k),
                               dirty := s.cip.dirty.filter (· != k), fetching := s.cip.fetching.filter (· != k),
                               upset := ferase s.cip.upset k } }

/-- A slot is zeroised, its HBM copy with it, and IDLE at its next generation, and free for allocation (R345, R353). -/
def cipZero (s : State) (k : Nat) : State :=
  let x := s.keySlot k
  let s1 := slotWrite ((cipForget s k).setKeySlot k { gen := (x.gen + 1) % 1024, writes := x.writes, install := x.install + 1 }) k
  { s1 with cip := { s1.cip with freed := if k < s.cip.fresh then k :: s1.cip.freed.filter (· != k) else s1.cip.freed } }

/-! ### Results of a request (R167, R355) -/

/-- Is a request's packet still one that a result can reach (R168, R204, R205)? -/
def reqLive (s : State) (r : CipReq) : Bool :=
  match s.pkt? r.cluster r.pkt with
  | some p => p.verdict.isNone && !p.exc && !p.flush
  | none => false

/-- The result of a request is discarded (R168, R204): its operation is over. -/
def cipDiscard (s : State) (r : CipReq) : State :=
  if r.cluster = 8 then s else opComplete s r.cluster r.pkt r.op St.ok []

/-- A request fails with status k (R355). -/
def cipFail (s : State) (r : CipReq) (k : Nat) : State :=
  let s1 := s.bump (Reg.CIP_FAIL_COUNT k)
  if r.cluster = 8 then (if (s1.frame? r.pkt).isSome then keelDrop s1 r.pkt else s1)
  else if reqLive s1 r then opFail s1 r.cluster r.pkt r.op 1 (St.cipher k)
  else cipDiscard s1 r

/-- A request leaves its queue. -/
def reqDrop (s : State) (r : CipReq) : State :=
  let rest := (fget s.cip.queues [] r.cluster).filter fun q => q.no != r.no
  { s with cip := { s.cip with queues := fput s.cip.queues [] r.cluster rest } }

/-! ### Acceptance (R338, R351, R352, R354) -/

/-- Is a core's half powered (R499)? -/
def coreOn (s : State) (core : Nat) : Bool := s.domain (if core < 16 then 55 else 56) == .on

/-- The frame of a request, and what the parser found in it. -/
def reqFrame (s : State) (r : CipReq) : Option (Nat × Frame) :=
  let f := if r.cluster = 8 then some r.pkt else (s.pkt? r.cluster r.pkt).map (·.frame)
  f.bind fun n => (s.frame? n).map fun x => (n, x)

/-- Requests that wait in a queue. -/
def reqAll (s : State) : List CipReq := s.cip.queues.flatMap fun e => e.2

/-- Has a request entered its queue for good: has its frame's tail arrived (R172)? -/
def reqIn (s : State) (r : CipReq) : Bool := r.cluster != 8 || (reqFrame s r).all fun x => x.2.tail

/-- What a request meets at a core: a failure, a slot to fetch, a slot whose cached entry fails, or its number under a slot. -/
inductive Accept where
  | fail (k : Nat)
  | fetch (slot : Nat)
  | broken (slot : Nat)
  | go (slot : Nat) (seq : Int)
deriving DecidableEq, Repr

/-- Can a slot be used at all: is it pinned where Solitaire mode asks for it, and cached? -/
def slotAt (s : State) (k : Nat) : Option Accept :=
  if s.hlt.solo && !s.cip.pinned.contains k then some (.fail 7)
  else if !s.cip.cached.contains k then some (.fetch k)
  else if ffind? s.cip.upset k == some 2 then some (.broken k)
  else none

/-- The replay check of an inbound request on a slot whose SA it is. -/
def acceptIn (s : State) (k n : Nat) (f : List Byte) : Accept :=
  let x := s.keySlot k
  if x.state == .erasing then .fail 3
  else if x.state == .exhausted then .fail 5
  else if x.usage = 3 && !(secTagOf f).any (·.agrees x) then .fail 11
  else match replayCheck x n with
    | none => .fail 9
    | some q => .go k q

/-- The checks of acceptance (R338, R349, R354, R355). -/
def acceptCheck (s : State) (r : CipReq) (f : List Byte) (o : Parsed) : Accept :=
  match slotAt s r.slot with
  | some a => a
  | none =>
    let x := s.keySlot r.slot
    if x.state == .erasing then .fail 3
    else if x.gen ≠ r.gen then .fail 2
    else if x.state == .idle then .fail 1
    else if x.usage ≠ r.mode then .fail 4
    else if x.state == .exhausted then .fail 5
    else if x.outbound then
      if x.usage = 0 && (espL3 f o).isNone then .fail 11 else .go r.slot (x.counter + 1 : Nat)
    else match inNumber x.usage f o with
      | none => .fail 11
      | some n =>
        if saMatch x f o then acceptIn s r.slot n f
        else if x.pair = r.slot then .fail 10
        else match slotAt s x.pair with
          | some a => a
          | none =>
            let y := s.keySlot x.pair
            if y.state == .idle || y.usage ≠ x.usage || !saMatch y f o then .fail 10 else acceptIn s x.pair n f

/-- The slots that the checks of a request read: its own, and its partner where the packet belongs to no SA of its own. -/
def acceptReads (s : State) (r : CipReq) (f : List Byte) (o : Parsed) : List Nat :=
  let x := s.keySlot r.slot
  if !x.outbound && (inNumber x.usage f o).isSome && !saMatch x f o && x.pair ≠ r.slot then [r.slot, x.pair] else [r.slot]

/-- What a request meets, where its frame is there. -/
def reqMeets (s : State) (r : CipReq) : Option Accept :=
  (reqFrame s r).map fun x => acceptCheck s r x.2.bytes (x.2.parsed.getD {})

/-- Does a request wait for a slot: its own, or the partner that it needs? -/
def reqAwaits (s : State) (k : Nat) (r : CipReq) : Bool := r.slot == k || reqMeets s r == some (.fetch k) || reqMeets s r == some (.broken k)

/-! ### Slots that fail and slots that leave (R344, R345, R353) -/

/-- The subject of a key command's record: slot and generation (R491). -/
def keySubject (k gen : Nat) : List Byte := bytesLE 4 k ++ bytesLE 2 gen

/-- The erase commands of a slot that has been zeroised complete with its new generation. -/
def eraseClose (s : State) (k : Nat) : State :=
  let g := (s.keySlot k).gen
  let mine := s.cip.erasing.filter fun e => e.1 == k
  let s1 := { s with cip := { s.cip with erasing := s.cip.erasing.filter fun e => e.1 != k } }
  mine.foldl (fun s e => match s.cmd? e.2.1 e.2.2 with
    | some c => auditFinish s e.2.1 e.2.2 c St.ok (keySubject k g) 0 (2 ^ 22 * g)
    | none => s) s1

/-- A slot fails (R345): it is zeroised, and the requests that wait for it fail. -/
def slotFailed (s : State) (k cause : Nat) : State :=
  let x := s.keySlot k
  let s1 := cipEvent s 0x8A k x.gen cause (if x.outbound then x.counter else x.top)
  let s2 := if cause = 2 then s1.bumpField Reg.CIP_ECC_COUNT 31 16 else s1
  ((reqAll s).filter (reqAwaits s k)).foldl (fun s r => cipFail (reqDrop s r) r 6) (eraseClose (cipZero s2 k) k)

/-- A victim leaves the key cache, sealed back where it has changed (R344); one that ECC cannot correct fails. -/
def cipEvict (s : State) (k : Nat) : State :=
  if ffind? s.cip.upset k == some 2 then slotFailed s k 2
  else
    let s1 := if s.cip.dirty.contains k then slotWrite (cipMend s k) k else s
    { s1 with cip := { s1.cip with cached := s1.cip.cached.filter (· != k), dirty := s1.cip.dirty.filter (· != k),
                                   upset := ferase s1.cip.upset k } }

/-- A slot enters the key cache; where it is full, which unpinned slot makes room is open. -/
def cipCache (s : State) (k : Nat) : State :=
  let s1 := if s.cip.cached.length < 65536 then s
    else
      let f := s.free
      let vs := s.cip.cached.filter fun v => !s.cip.pinned.contains v
      match vs[f.1 % max 1 vs.length]? with
      | some v => cipEvict f.2 v
      | none => f.2
  { s1 with cip := { s1.cip with cached := if s1.cip.cached.contains k then s1.cip.cached else k :: s1.cip.cached,
                                 fetching := s1.cip.fetching.filter (· != k) } }

/-- Events of a slot as it reaches a number (R351): its threshold, and its end, which an erase under way
outlasts (R354). -/
def slotReach (s : State) (k : Nat) (q : Int) : State :=
  let x := s.keySlot k
  let n := if x.outbound then x.counter else x.top
  let s1 := if q = x.limit then cipEvent s 0x88 k x.gen 0 n else s
  if q = x.final then
    cipEvent (s1.setKeySlot k { x with state := if x.state == .erasing then .erasing else .exhausted }) 0x89 k x.gen 0 n
  else s1

/-- An accepted request takes its core, with the snapshot of its slot and of its frame; an outbound one takes its number. -/
def cipTake (s : State) (core : Nat) (r : CipReq) (f : Nat) (fr : Frame) (k : Nat) (q : Int) : State :=
  let x := s.keySlot k
  let j : CipJob := ⟨r, k, x, q, f, fr.bytes, fr.parsed.getD {}⟩
  let s1 := { s with cip := { s.cip with cores := fset s.cip.cores core j } }
  if x.outbound then slotReach (cipTouch (s1.setKeySlot k { x with counter := q.toNat }) k) k q
  else s1.setKeySlot k { x with pending := q :: x.pending }

/-- A fetch of a slot starts, unless one is under way; HBM serves none in Solitaire mode (R512). -/
def cipFetch (s : State) (k : Nat) : State :=
  if s.cip.fetching.contains k || s.hlt.solo then s
  else (memPost { s with cip := { s.cip with fetching := k :: s.cip.fetching } } 6 (locketBase + 128 * k) false 4).bump
    Reg.CIP_CACHE_MISS_COUNT

/-- The requests in the scheduler's order (R337): queue by queue from the cluster whose turn it is, the keel table's last. -/
def reqOrder (s : State) : List CipReq :=
  ((List.range 8).map fun i => (s.cip.turn + i) % 8).flatMap (fun c => fget s.cip.queues [] c) ++ fget s.cip.queues [] 8

/-- Is a request held back by an earlier one that names its slot (R338)? -/
def reqBehind (s : State) (r : CipReq) : Bool := (reqAll s).any fun t => t.slot == r.slot && t.no < r.no && reqIn s t

/-- Can the scheduler do something for a request: start a fetch, or hand it to a core, where one is free? -/
def reqReady (s : State) (core : Bool) (r : CipReq) : Bool :=
  reqIn s r && !reqBehind s r && !s.cip.fetching.contains r.slot &&
  match reqMeets s r with
  | some (.fetch k) => !s.cip.fetching.contains k
  | _ => core

/-- A request whose frame has a cell that fails its check ends without a result (R202, R290). -/
def reqSpoiled (s : State) (r : CipReq) (f cell : Nat) : State :=
  let s1 := reqDrop (cellFail s f cell) r
  if r.cluster = 8 then keelDrop s1 f
  else match s1.pkt? r.cluster r.pkt with
    | some p => if p.verdict.isSome && !p.committed then cipDiscard s1 r else s1
    | none => s1

/-- A request is taken by the scheduler. -/
def reqServe (s : State) (core : Nat) (r : CipReq) : State :=
  match reqFrame s r with
  | none => cipDiscard (reqDrop s r) r
  | some (f, x) =>
    match badCell s f with
    | some cell => reqSpoiled s r f cell
    | none =>
      let o := x.parsed.getD {}
      let s0 := (acceptReads s r x.bytes o).foldl cipMend s
      let s1 := (reqDrop s0 r).bump64 Reg.CIP_ACCEPT_COUNT_LO 1
      match acceptCheck s r x.bytes o with
      | .fetch k => cipFetch s k
      | .broken k => slotFailed s k 2
      | .fail k => cipFail s1 r k
      | .go k q => cipTake s1 core r f x k q

/-- CIPHER_ACCEPT (R337, R338, R344, R350-R355): in a cycle of the scheduler the first request in its order that can go on does: it
starts the fetch that it needs, or takes the lowest-numbered free core. -/
def execCipherAccept (core : Fin 32) (upsets : List Upset) (s0 : State) : Out' :=
  let s := strike s0 upsets
  let isFree := fun (i : Nat) => coreOn s i && (ffind? s.cip.cores i).isNone
  let lowest := isFree core.val && !(List.range core.val).any isFree
  let t := { s with cip := { s.cip with turn := (s.cip.turn + 1) % 8 } }
  .next (match (reqOrder s).find? (reqReady s lowest) with
    | some r => reqServe t core.val r
    | none => t)

/-- How the HBM copy of a slot fails its check (R345): 1 its tile check, 0 its tag. A unit that nothing has written since LOCKET_READY,
or since every key was zeroised, holds an IDLE slot as it was sealed then. -/
def fetchCause (s : State) (k : Nat) : Option Nat :=
  match ffind? s.cip.broken k, ffind? s.hbm (locketBase / 128 + k) with
  | some cause, _ => some cause
  | none, some u =>
    if !unitOk (locketBase + 128 * k) u then some 1 else if slotTagOk s.cip.storage k u then none else some 0
  | none, none => none

/-- KEY_FETCH_DONE (R343-R345, R354): a slot's HBM copy has been read, and fails or enters the cache. -/
def execKeyFetchDone (key : BitVec 22) (s : State) : Out' :=
  let k := key.toNat
  .next (if !s.cip.fetching.contains k || s.hlt.solo then s
         else match fetchCause s k with
           | some cause => slotFailed s k cause
           | none => cipCache s k)

/-! ### Completion (R349-R352) -/

/-- A job's transform: whether an inbound ICV verifies, and the frame where nothing else fails. -/
def jobRun (j : CipJob) : Bool × Option Xf :=
  let q := seqWord j.seq
  let inb := fun (r : Option (Option Xf)) => match r with
    | none => (false, none)
    | some x => (true, x)
  match j.snap.usage with
  | 0 => (true, espOut j.snap q j.bytes j.parsed)
  | 1 => inb (espIn j.snap q j.bytes j.parsed)
  | 2 => (true, some (macsecTx j.snap q j.bytes j.parsed))
  | _ => inb (macsecRx j.snap q j.bytes j.parsed)

/-- The replay state of an inbound job's slot (R352); a slot rewritten since keeps its own (R354). -/
def jobWindow (s : State) (j : CipJob) (verified : Bool) : State :=
  let x := s.keySlot j.slot
  if j.snap.outbound || x.install ≠ j.snap.install then s
  else
    let y := { x with pending := x.pending.filter (· != j.seq) }
    if verified then slotReach (cipTouch (s.setKeySlot j.slot (windowMove y j.seq)) j.slot) j.slot j.seq
    else s.setKeySlot j.slot y

/-- Write a transform's output into a frame's cells (R349, R350); the frame as it arrived is kept for a packet that leaves as STATELESS or
PUNT (R170). -/
def cellsFit (s : State) (f : Nat) (x : Frame) (y : Xf) : State × Bool :=
  frameFit s f { x with arrived := x.arrived.or (some (x.bytes, x.parsed)) } y.bytes (some (y.parsed (x.parsed.getD {})))

/-- The result of a completed job reaches its packet, or its keel entry forwards the frame. -/
def jobGive (s : State) (j : CipJob) (f : Nat) : State :=
  if j.req.cluster = 8 then keelSend s f j.req.entry
  else pktPark (opComplete s j.req.cluster j.req.pkt j.req.op St.ok [0]) j.req.cluster j.req.pkt

/-- Does a job's result still have a taker? At Solitaire entry the results of accepted requests are discarded (R356). -/
def jobWanted (s : State) (j : CipJob) : Bool := if j.req.cluster = 8 then true else !s.hlt.solo && reqLive s j.req

/-- The status with which a job fails (R355), 0 for none. -/
def jobStatus (s : State) (r : Bool × Option Xf) : Nat :=
  if !r.1 then 8
  else match r.2 with
    | none => 11
    | some y => if maxFrame s < y.bytes.length + 4 then 12 else 0

/-- CIPHER_COMPLETE (R339, R349-R352, R355, R356): a core's request ends, with the frame as it stood at acceptance. -/
def execCipherComplete (core : Fin 32) (s : State) : Out' :=
  match ffind? s.cip.cores core.val with
  | none => .next s
  | some j =>
    let r := jobRun j
    let s1 := jobWindow { s with cip := { s.cip with cores := ferase s.cip.cores core.val } } j r.1
    let st := jobStatus s1 r
    .next (match st, r.2, (s1.frame? j.frame).filter (fun _ => jobWanted s1 j) with
      | 0, some y, some x =>
        let t := cellsFit s1 j.frame x y
        if t.2 then jobGive t.1 j j.frame else cipFail t.1 j.req 13
      | 0, _, _ => cipDiscard s1 j.req
      | _, _, _ => cipFail s1 j.req st)

/-! ### Erasing (R353) -/

/-- Does a packet wait in the dispatcher with a CIPHER that names a slot: ready or stalled (R353)? -/
def pktNames (p : Pkt) (k : Nat) : Bool :=
  p.opNos.any fun i =>
    let e := opEnt p.image i
    let o := p.op (fld e 29 26)
    opType e == 3 && ((p.op i).phase == .ready || (p.op i).phase == .stalled) && o.found && bit (o.word 2) 7 &&
      fld (o.word 8) 21 0 == k

/-- A slot becomes ERASING: requests that no core has accepted are removed and their packets aborted. A request of a packet that has
committed fails, since no abort is applied to it. -/
def eraseStart (s : State) (k : Nat) : State :=
  let rs := (reqAll s).filter fun r => r.slot == k
  let s0 := s.setKeySlot k { s.keySlot k with state := .erasing }
  let s1 := { s0 with cip := { s0.cip with fetching := s0.cip.fetching.filter (· != k) } }
  let s2 := forAll s1 (List.range 8) fun s c => abortWhere s c fun p =>
    pktNames p k || rs.any fun r => r.cluster == c && r.pkt == p.arr
  rs.foldl (fun s r =>
    let s := reqDrop s r
    match s.pkt? r.cluster r.pkt with
    | some p => if r.cluster = 8 || p.committed then cipFail s r 3 else if p.verdict.isSome then cipDiscard s r else s
    | none => cipFail s r 3) s2

/-- Have the accepted requests of a slot drained? -/
def eraseDrained (s : State) (k : Nat) : Bool := !s.cip.cores.any fun e => e.2.slot == k

/-- An erase ends: the slot is zeroised and its commands complete with the new generation. -/
def eraseEnd (s : State) (k : Nat) : State := eraseClose (cipZero s k) k

/-- KEY_ERASE_COMPLETE (R353): the accepted requests of an ERASING slot have drained. -/
def execKeyEraseComplete (key : BitVec 22) (s : State) : Out' :=
  let k := key.toNat
  .next (if (s.keySlot k).state == .erasing && eraseDrained s k then eraseEnd s k else s)

/-! ### Key commands (R346-R348) -/

/-- Fields of a key descriptor. -/
def keyOf (d : Desc) : Nat := fld d 85 64
def keyGen (d : Desc) : Nat := fld d 95 86

/-- The status with which a slot refuses a command that names it (R348), 0 for none. -/
def keyRefuse (s : State) (c : CmdEnt) (a : Action) : Nat :=
  let x := s.keySlot (keyOf c.desc)
  if !c.may a then St.denied
  else if !s.cip.ready || !cipherOn s || x.state == .erasing then St.busy
  else if x.gen ≠ keyGen c.desc || x.state == .idle then St.keyStale
  else St.ok

/-- End a key command that is privileged, with its record. -/
def keyEnd (s : State) (ring slot : Nat) (c : CmdEnt) (st k gen result : Nat) : State :=
  if st = St.denied then (deniedAdd s ring c).finish ring slot st
  else auditFinish s ring slot c st (keySubject k gen) (if st = St.badField then 0xFF else 0) result

/-- KEY_ERASE (R347, R348, R353). -/
def execKeyErase (ring : Fin 1024) (slot : Nat) (s : State) : Out' :=
  onCmd s ring slot 0x81 fun c =>
    let k := keyOf c.desc
    let st := keyRefuse s c .keys
    if st ≠ St.ok then keyEnd s ring slot c st k (keyGen c.desc) 0
    else
      let s1 := eraseStart (s.modCmd ring slot fun c => { c with phase := .running }) k
      { s1 with cip := { s1.cip with erasing := s1.cip.erasing ++ [(k, ring.val, slot)] } }

/-- A command that reads a slot needs it in the key cache (R344): it waits for the fetch, and an entry that ECC cannot correct fails
first (R345), so that the command then meets the slot as that leaves it. -/
def onSlot (s : State) (k : Nat) (f : State → State) : State :=
  if !s.cip.cached.contains k then cipFetch s k
  else f (if ffind? s.cip.upset k == some 2 then slotFailed s k 2 else cipMend s k)

/-- What KEY_STATE_READ tells of a slot (R347): state, generation, usage, pinned flag, counter and window top, in a layout that is the
model's (log 171). Never key material. -/
def keyState (s : State) (k : Nat) : List Byte :=
  let x := s.keySlot k
  let st := match x.state with | .idle => 0 | .active => 1 | .exhausted => 2 | .erasing => 3
  bytesLE 1 st ++ bytesLE 2 x.gen ++ bytesLE 1 x.usage ++ bytesLE 1 (s.cip.pinned.contains k).toNat ++ bytesLE 3 0 ++
    bytesLE 8 x.counter ++ bytesLE 8 x.top ++ bytesLE 40 0

/-- KEY_STATE_READ (R347, R348). -/
def execKeyStateRead (ring : Fin 1024) (slot : Nat) (s : State) : Out' :=
  onCmd s ring slot 0x82 fun c =>
    let k := keyOf c.desc
    let st := keyRefuse s c .plain
    if st = St.denied then (deniedAdd s ring c).finish ring slot st
    else if st = St.busy then s.finish ring slot st
    else onSlot s k fun t =>
      let st := keyRefuse t c .plain
      if st ≠ St.ok then t.finish ring slot st
      else (t.output c (keyState t k)).finish ring slot St.ok

/-- Pin a cached slot, or unpin it. -/
def cipPin (s : State) (k : Nat) (on : Bool) : State :=
  { s with cip := { s.cip with pinned :=
      if !on then s.cip.pinned.filter (· != k) else if s.cip.pinned.contains k then s.cip.pinned else k :: s.cip.pinned } }

/-- KEY_PIN (R344, R347, R348). -/
def execKeyPin (ring : Fin 1024) (slot : Nat) (s : State) : Out' :=
  onCmd s ring slot 0x83 fun c =>
    let k := keyOf c.desc
    let st := keyRefuse s c .keys
    let on := bit c.desc 97
    if st = St.denied || st = St.busy then keyEnd s ring slot c st k (keyGen c.desc) 0
    else onSlot s k fun t =>
      let st := keyRefuse t c .keys
      let full := on && !t.cip.pinned.contains k && 1024 ≤ t.cip.pinned.length
      if st ≠ St.ok then keyEnd t ring slot c st k (keyGen c.desc) 0
      else if full then keyEnd t ring slot c St.noSpace k (keyGen c.desc) 0
      else keyEnd (cipPin t k on) ring slot c St.ok k (keyGen c.desc) 0

/-- The installer hash in force: the newest installer slot's, where it is not revoked (R487). -/
def activeInstaller (s : State) : List Byte :=
  match s.hmk.fuses.installer.getLast? with
  | some e => if s.hmk.fuses.revInst.contains e.1 || s.hmk.fuses.wiped then [] else e.2
  | none => []

/-- A blob unsealed under a key-import key (R346); none where its tag does not verify, the key is revoked, or none can be
derived (R485). -/
def blobOpen (s : State) (kik : Nat) (b : List Byte) : Option (List Byte) :=
  if s.hmk.fuses.revKik.contains kik || s.hmk.fuses.wiped then none
  else gcmOpened (Config.kik s.hmk.fuses.root (activeInstaller s) kik) (bytesAt b 48 12) (b.take 48) (bytesAt b 60 48) (bytesAt b 108 16)

/-- The slot content that a blob installs (R346, R351, R352): no more is known of the window below START than that START itself has
been verified. -/
def blobSlot (old : KeySlot) (b : BitVec 1024) (m : List Byte) (low : Nat) : KeySlot :=
  let start := fld b 319 256
  let x : KeySlot := { old with
    state := .active, usage := fld b 1 0, key256 := bit b 2, esn := bit b 3, tunnel := bit b 4, sciTx := bit b 6,
    conf := fld b 8 7, window := fld b 15 9, pair := fld b 37 16, spi := netFld b 95 64, ssci := fld b 127 96,
    sci := netFld b 191 128, an := fld b 193 192, key := m.take 32, salt := (m.drop 32).take 12, threshold := fld b 383 320,
    counter := start, top := start, bits := putBit (BitVec.ofNat 64 low) 0 (start != 0), pending := [],
    install := old.install + 1 }
  { x with state := if x.final ≤ start then .exhausted else .active }

/-- BAD_FIELD of a blob before it is unsealed (R348). -/
def blobBad (s : State) (d : Desc) (b : BitVec 1024) : Bool :=
  let x := s.keySlot (keyOf d)
  fld b 63 38 != 0 || fld b 255 194 != 0 || fld b 1023 992 != 0 || 64 < fld b 15 9 || (2 ≤ fld b 1 0 && !bit b 3) ||
  (!bit d 96 && x.state != .idle && x.usage != fld b 1 0)

/-- The first status of R348 that holds for a KEY_WRITE. -/
def keyWriteStatus (s : State) (c : CmdEnt) (bs : List Byte) : Nat :=
  let d := c.desc
  let b : BitVec 1024 := ofBytes 1024 bs
  let k := keyOf d
  let x := s.keySlot k
  let alloc := bit d 96
  if blobBad s d b then St.badField
  else match blobOpen s (fld d 101 98) bs with
    | none => St.authFail
    | some m =>
      let new := blobSlot x b m 0
      if (m.drop 44).any (· != 0) then St.badField
      else if !c.may .keys then St.denied
      else if !s.cip.ready || !cipherOn s || (!alloc && x.state == .erasing) then St.busy
      else if !alloc && (x.gen ≠ keyGen d || x.state == .idle) then St.keyStale
      else if !alloc && x.aesKey == new.aesKey && fld b 319 256 ≤ (if x.outbound then x.counter else x.top) then St.nonceReuse
      else if (alloc && s.cip.freed.isEmpty && 4194304 ≤ s.cip.fresh) ||
          (bit b 5 && 1024 ≤ s.cip.pinned.length && !(!alloc && s.cip.pinned.contains k)) then St.noSpace
      else St.ok

/-- The slot on top of the free-slot stack. -/
def slotTop (s : State) : Nat := s.cip.freed.headD s.cip.fresh

/-- Take a slot from the free-slot stack (R347). -/
def slotTake (s : State) : State × Nat :=
  match s.cip.freed with
  | k :: ks => ({ s with cip := { s.cip with freed := ks } }, k)
  | [] => ({ s with cip := { s.cip with fresh := s.cip.fresh + 1 } }, s.cip.fresh)

/-- A KEY_WRITE that no check refuses installs its blob (R346, R347, R354). -/
def keyInstall (s : State) (ring slot : Nat) (c : CmdEnt) (b : BitVec 1024) (m : List Byte) : State :=
  let t := if bit c.desc 96 then slotTake s else (s, keyOf c.desc)
  let k := t.2
  let f := t.1.free
  let old := f.2.keySlot k
  let s1 := cipTouch (f.2.setKeySlot k (blobSlot old b m f.1)) k
  keyEnd (if bit b 5 then cipPin s1 k true else s1) ring slot c St.ok k old.gen (k + 2 ^ 22 * old.gen)

/-- KEY_WRITE (R346-R348, R354). -/
def execKeyWrite (ring : Fin 1024) (slot : Nat) (s : State) : Out' :=
  onCmd s ring slot 0x80 fun c =>
    let bs := c.buf.take 128
    let b : BitVec 1024 := ofBytes 1024 bs
    let st := keyWriteStatus s c bs
    let stop := fun (t : State) (st : Nat) => keyEnd t ring slot c st (keyOf c.desc) (keyGen c.desc) 0
    if [St.badField, St.authFail, St.denied, St.busy].contains st || (bit c.desc 96 && st != St.ok) then stop s st
    else onSlot s (if bit c.desc 96 then slotTop s else keyOf c.desc) fun t =>
      match keyWriteStatus t c bs, blobOpen t (fld c.desc 101 98) bs with
      | 0, some m => keyInstall t ring slot c b m
      | st, _ => stop t st

/-- LOCKET_READY (R342): under the storage key that the boot ROM has drawn, every slot has been written IDLE to a trained HBM: its
first write. -/
def execLocketReady (s : State) : Out' :=
  .next (if s.cip.ready || s.hmk.boot == 0 || s.hmk.boot == 3 || !(List.range 4).all fun h => (s.stack h).trained then s
         else { s with cip := { s.cip with
           ready := true, wipes := s.cip.wipes + 1, slots := s.cip.slots.map fun e => (e.1, { e.2 with writes := e.2.writes + 1 }) } })

/-! ### Zeroising (R356, R485, R489) -/

/-- Every slot that `keep` does not keep is zeroised and made IDLE at its next generation. -/
def cipZeroBut (s : State) (keep : Nat → Bool) : State :=
  let g := (s.cip.idleGen + 1) % 1024
  let x0 : KeySlot := { gen := g, writes := s.cip.wipes + 1 }
  let was := (s.cip.slots.filter fun e => e.2.state != .idle && !keep e.1).map (·.1)
  let slots' := s.cip.slots.foldl (fun (m : FMap KeySlot) e =>
    fput m x0 e.1 (if keep e.1 then e.2
      else { gen := (e.2.gen + 1) % 1024, writes := e.2.writes + 1, install := e.2.install + 1 })) []
  let s1 := { s with cip := { s.cip with
      idleGen := g, wipes := s.cip.wipes + 1, slots := slots', cached := s.cip.cached.filter keep,
      pinned := s.cip.pinned.filter keep, dirty := s.cip.dirty.filter keep, fetching := s.cip.fetching.filter keep,
      broken := fkeep s.cip.broken keep, upset := fkeep s.cip.upset keep, freed := was ++ s.cip.freed } }
  let held := (s.hbm.filter fun e => locketBase / 128 ≤ e.1 && e.1 < auditBase / 128).map fun e => e.1 - locketBase / 128
  let units := (s.cip.slots.map (·.1) ++ held).eraseDups.filter fun k => !keep k
  let s2 := units.foldl slotStore s1
  ((s2.cip.erasing.map (·.1)).eraseDups.filter fun k => !keep k).foldl eraseClose s2

/-- At Solitaire entry every request that no core has accepted is removed (R356). -/
def cipSoloEnter (s : State) : State :=
  let keel := fget s.cip.queues [] 8
  keel.foldl (fun s r => keelDrop s r.pkt) { s with cip := { s.cip with queues := [], fetching := [] } }

/-- At Solitaire exit the unpinned slots are zeroised and the pinned ones sealed back (R356). -/
def cipSoloExit (s : State) : State :=
  let pins := s.cip.pinned
  let s1 := cipZeroBut s fun k => pins.contains k
  pins.foldl slotWrite { s1 with cip := { s1.cip with dirty := [] } }

end Sys2Proof.Machine
end

