-- ==== Sys2Proof/Machine/FlowCmds.lean ====
section
/-!
DEFINITION. Machine/FlowCmds.lean: the flow engine's commands and its start (R41, R57, R58, R62, R84-R93, R96, R111, R123,
R543).
-/

namespace Sys2Proof.Machine

open Sys2Proof

/-! ### Record commands (R90-R92) -/

/-- A record command reaches its home slice: it attaches behind an in-flight entry of its key or record, or runs. It waits
while every in-flight entry is open (R68). -/
def toSlice (s : State) (ring slot i : Nat) (c : CmdEnt) (key : Option Key) : State :=
  let o : FlowOp := { src := 8, act := .host ring slot, key := key, handle := fcHandle c.desc }
  if !sliceUp s i then notServed s i ring slot (descOp c.desc)
  else
    let x := s.slice i
    if (flightFor s i o).isSome then orderPoint (s.modCmd ring slot fun c => { c with phase := .running }) i o
    else if flightMax ≤ x.flights.length then s
    else orderPoint s i o

/-- Is a key of the host's bad: a set reserved bit, a reserved KEY_TYPE (R32, R35), or not in canonical form (R92)? -/
def keyBad (k : Key) : Bool := fld k 383 364 != 0 || k.typ == 0 || decide (4 < k.typ) || !k.canonical

/-- A record command that names its record by key. -/
def byKeyCmd (s : State) (ring slot : Nat) (c : CmdEnt) (k : Key) (pool : Bool) : State :=
  if keyBad k then s.badField ring slot
  else match hostHome s k pool with
    | some i => toSlice s ring slot i c (some k)
    | none => s.finish ring slot St.notFound

/-- A record command that names its record by handle. -/
def byHandleCmd (s : State) (ring slot : Nat) (c : CmdEnt) : State :=
  toSlice s ring slot (handleSlice (fcHandle c.desc)) c none

/-- FLOW_LOOKUP (R90, R92, R564). -/
def execFlowLookup (ring : Fin 1024) (slot : Nat) (s : State) : Out' :=
  onCmd s ring.val slot 0x20 fun c => byKeyCmd s ring.val slot c (bufKey c) (fcPool c.desc)

/-- FLOW_READ (R90). -/
def execFlowRead (ring : Fin 1024) (slot : Nat) (s : State) : Out' :=
  onCmd s ring.val slot 0x21 fun c => byHandleCmd s ring.val slot c

/-- FLOW_INSTALL (R33, R91, R92): BAD_FIELD with POOL_SIDE, a reserved record bit or a reserved KEY_TYPE. -/
def execFlowInstall (ring : Fin 1024) (slot : Nat) (s : State) : Out' :=
  onCmd s ring.val slot 0x22 fun c =>
    let r := bufRec c
    if fcPool c.desc then s.badField ring.val slot 15
    else if !zeroFields r recReserved then s.badField ring.val slot
    else byKeyCmd s ring.val slot c r.key false

/-- FLOW_MODIFY (R33, R93). -/
def execFlowModify (ring : Fin 1024) (slot : Nat) (s : State) : Out' :=
  onCmd s ring.val slot 0x23 fun c =>
    if fcMask c.desc = 0 then s.badField ring.val slot 28
    else if !zeroFields (bufRec c) recReserved then s.badField ring.val slot
    else byHandleCmd s ring.val slot c

/-- FLOW_DELETE (R90, R105). -/
def execFlowDelete (ring : Fin 1024) (slot : Nat) (s : State) : Out' :=
  onCmd s ring.val slot 0x24 fun c =>
    if fcByKey c.desc then byKeyCmd s ring.val slot c (bufKey c) (fcPool c.desc) else byHandleCmd s ring.val slot c

/-! ### Templates, profiles, Filigree images -/

/-- Reserved bits of a setup template, those of the record bits its ACTIONS_IMAGE falls on included (R84). -/
def tmplReserved : List (Nat × Nat) := [(271, 271), (511, 336), (63, 60), (159, 147)]

/-- FLOW_TEMPLATE_WRITE (R84, R85). -/
def execFlowTemplateWrite (ring : Fin 1024) (slot : Nat) (s : State) : Out' :=
  onCmd s ring.val slot 0x25 fun c =>
    let t : Tmpl := ofBytes 512 c.buf
    if !zeroFields t tmplReserved then s.badField ring.val slot
    else (forAll s (List.range 16) fun s i => s.modSlice i fun x => { x with templates := fput x.templates 0 (fcTmpl c.desc) t }).finish
      ring.val slot St.ok

/-- EXPORT_PROFILE_WRITE (R123): profiles 1 to 4,095. -/
def execExportProfileWrite (ring : Fin 1024) (slot : Nat) (s : State) : Out' :=
  onCmd s ring.val slot 0x28 fun c =>
    let n := fld c.desc 75 64
    let p : BitVec 128 := ofBytes 128 c.buf
    if n = 0 then s.badField ring.val slot 8
    else if !zeroFields p [(63, 58), (127, 96)] || fld p 31 16 < 256 || fld p 47 32 < 256 then s.badField ring.val slot
    else ({ s with flw := { s.flw with expProf := fput s.flw.expProf 0 n p } }).finish ring.val slot St.ok

/-- BUF_LEN of a flow command. -/
def fcLen (d : Desc) : Nat := fld d 223 192

/-- Write an image into a bank of a slice from node 0. -/
def flgLoad (s : State) (i : Nat) (bank : Bool) (ns : List W64) : State :=
  s.modSlice i fun x =>
    let base := 2 ^ 17 * bank.toNat
    { x with
      nodes := ns.zipIdx.foldl (fun (m : FMap W64) (e : W64 × Nat) => fput m 0 (base + e.2) e.1) x.nodes
      count0 := if bank then x.count0 else ns.length
      count1 := if bank then ns.length else x.count1
      walkFault := false, faultNode := 0 }

/-- FILIGREE_LOAD (R89): the image goes into the named slices; BANK is ignored in SINGLE mode, and the active bank cannot
be loaded in DUAL mode. -/
def execFiligreeLoad (ring : Fin 1024) (slot : Nat) (s : State) : Out' :=
  onCmd s ring.val slot 0x26 fun c =>
    let is := maskList 16 (fcSlices c.desc)
    let dual := flgDual s
    let bank := dual && fcBank c.desc
    if is.isEmpty then s.badField ring.val slot 12
    else if flgActive s c.desc then s.badField ring.val slot 15
    else (forAll s is fun s i => flgLoad s i bank (words64 c.buf)).finish ring.val slot St.ok

/-- FILIGREE_SWITCH (R89): walks that start from now on use the other bank. -/
def execFiligreeSwitch (ring : Fin 1024) (slot : Nat) (s : State) : Out' :=
  onCmd s ring.val slot 0x27 fun c =>
    let is := maskList 16 (fcSlices c.desc)
    if is.isEmpty then s.badField ring.val slot 12
    else if !flgDual s then s.badField ring.val slot
    else (forAll s is fun s i => s.modSlice i fun x => { x with bank := !x.bank }).finish ring.val slot St.ok

/-! ### Registers with an effect of their own -/

/-- A write of FLW_FILIGREE_CTRL (R89): a change of DUAL empties both banks of every slice; the fault fields stand until an image is
loaded (R95). -/
def flgModeWrite (s : State) (value : W32) : State :=
  if s.pkg.sealed then sealedWrite s
  else
    let s1 := s.setReg Reg.FLW_FILIGREE_CTRL (put 0 0 0 (fld value 0 0))
    if bit value 0 == flgDual s then s1
    else { s1 with flw := { s1.flw with slices := s1.flw.slices.map fun (e : Nat × Slice) =>
      (e.1, { e.2 with nodes := [], count0 := 0, count1 := 0, bank := false }) } }

/-- FILIGREE_MODE_WRITE (R89). -/
def execFiligreeModeWrite (value : W32) (s : State) : Out' := onBar s (flgModeWrite s value)

/-- Do two pools' outside addresses overlap? -/
def poolsOverlap (s : State) (a b : Nat) (count : Nat) : Bool :=
  decide (poolBase s a < poolBase s b + poolOuts s b ∧ poolBase s b < poolBase s a + count)

/-- May pool `n` be set VALID with this CFG (R111)? -/
def poolFits (s : State) (n : Nat) (cfg : W32) : Bool :=
  let outs := fld cfg 31 16 + 1
  let g := outs * poolPerAddr s n
  let others := (List.range 16).filter fun k => k != n && poolUsed s k
  g != 0 && g % 16 == 0 && 5 ≤ fld cfg 5 2 && fld cfg 5 2 ≤ 12 && poolPortLo s n != 0 &&
  poolPortLo s n + poolPerAddr s n * 2 ^ fld cfg 5 2 ≤ 65536 &&
  decide (g + (others.map (poolG s)).sum ≤ 2 ^ 20) &&
  !others.any fun k => poolZone s k == poolZone s n && poolsOverlap s n k outs

/-- A write of FLW_NAT_CFG_n (R111). -/
def natCfgWrite (s : State) (n : Nat) (value : W32) : State :=
  let v := value &&& 0xFFFF003F#32
  if s.pkg.sealed then sealedWrite s
  else if bit v 0 && !poolFits s n v then badWrite s
  else s.setReg (Reg.FLW_NAT_CFG n) v

/-- NAT_POOL_VALID (R111). -/
def execNatPoolValid (pool : Fin 16) (value : W32) (s : State) : Out' := onBar s (natCfgWrite s pool value)

/-- A write of FLW_AGE_CTRL (R96, R99). When ENABLE goes to 1 the next visit is INTERVAL cycles later. -/
def ageCtrlWrite (s : State) (value : W32) : State :=
  let v := value &&& 0x1FFFFF#32
  if fld v 20 1 < 8 then badWrite s
  else
    let s1 := s.setReg Reg.FLW_AGE_CTRL v
    if bit v 0 && !bit (s.reg Reg.FLW_AGE_CTRL) 0 then
      { s1 with flw := { s1.flw with slices := s1.flw.slices.map fun (e : Nat × Slice) =>
        (e.1, { e.2 with sweepFrom := s.ns, passStart := if e.2.sweepNext = 0 then s.ns else e.2.passStart }) } }
    else s1

/-- SWEEP_ENABLE (R96, R99). -/
def execSweepEnable (value : W32) (s : State) : Out' := onBar s (ageCtrlWrite s value)

/-! ### The start (R41, R57, R58, R543) -/

/-- Host commands that stand in a slice's in-flight entries end as at a slice that does not serve them. -/
def flightsDrop (s : State) (i : Nat) : State :=
  let x := s.slice i
  let ops := x.flights.flatMap fun f => f.opener :: f.attached
  ops.foldl (fun s o => match o.act with
    | .host ring slot => notServed s i ring slot (((s.cmd? ring slot).map fun c => descOp c.desc).getD 0)
    | _ => s) (s.setSlice i { x with flights := [], setupQ := [], orderQ := [] })

/-- A slice starts (R57, R58): READY is clear; what waits before its order point, its Filigree image, its count of passes and its count
of orphans stand. -/
def sliceStart (s : State) (i : Nat) : State :=
  let q := (s.slice i).orderQ
  (flightsDrop s i).modSlice i fun x =>
    { starting := true, orderQ := q, flightNo := x.flightNo, nodes := x.nodes, bank := x.bank, count0 := x.count0,
      count1 := x.count1, walkFault := x.walkFault, faultNode := x.faultNode,
      passNo := x.passNo, swept := x.passNo, lastPassS := x.lastPassS, orphans := x.orphans,
      templates := x.templates, profiles := x.profiles }

/-- Is every stack trained? -/
def allTrained (s : State) : Bool := (List.range 4).all fun h => (s.stack h).trained

/-- A write of FLW_CTRL (R41, R57, R62): the first ENABLE fixes the hash key, and the slices start once every stack is trained
(R543). -/
def flwCtrlWrite (s : State) (value : W32) : State :=
  if s.pkg.sealed then sealedWrite s
  else if bit (s.reg Reg.FLW_CTRL) 0 then if bit value 0 then s else badWrite s
  else if !bit value 0 then s
  else
    let s1 := { s with flw := { s.flw with hashKey := flowKey s } }.setReg Reg.FLW_CTRL 1
    if allTrained s then forAll s1 (List.range 16) sliceStart else s1

/-- FLW_ENABLE (R41, R57). -/
def execFlwEnable (value : W32) (s : State) : Out' := onBar s (flwCtrlWrite s value)

/-- FLW_INIT_START (R543): every stack is trained after ENABLE, and the slices start. -/
def execFlwInitStart (s : State) : Out' :=
  if bit (s.reg Reg.FLW_CTRL) 0 && allTrained s &&
      (List.range 16).all fun i => !(s.slice i).starting && !(s.slice i).ready then
    .next (forAll s (List.range 16) sliceStart)
  else .next s

/-- SLICE_READY (R57, R96): the slice has written its tag pairs empty. What has reached it until then has missed. -/
def execSliceReady (slice : Fin 16) (s : State) : Out' :=
  let i := slice.val
  let base := tagBase / 128 + 2 ^ 22 * i
  if (s.slice i).starting && sliceOn s i then
    let s1 := (s.slice i).orderQ.foldl (fun s o => notReady s i o) (s.modSlice i fun x => { x with orderQ := [] })
    .next ({ s1 with hbm := fkeep s.hbm fun u => u < base || base + 2 ^ 22 ≤ u }.modSlice i fun x => { x with
      starting := false, ready := true, sweepFrom := s.ns, passStart := s.ns })
  else .next s

end Sys2Proof.Machine
end

