-- ==== Sys2Proof/Machine/Solitaire.lean ====
section
/-!
DEFINITION. Machine/Solitaire.lean: entry into Solitaire mode and the loss of a stack (R58, R179, R286, R356, R378, R511, R512,
R518).
-/

namespace Sys2Proof.Machine

open Sys2Proof

/-- The hottest reading of the latest samples, 0 before the first. -/
def hottest (s : State) : Int :=
  match (s.hlt.dieTemp.map (·.2)) ++ s.hlt.hbmTemp.map (·.2) with
  | [] => 0
  | t :: ts => ts.foldl max t

/-- A packet of a window at Solitaire entry (R179, R205): a committed one whose routines run leaves, as a flushed hole, once they have
ended. -/
def pktFlush (s : State) (c arr : Nat) : State :=
  match s.pkt? c arr with
  | none => s
  | some p =>
    if p.committed && !p.routines.isEmpty then s.modPkt c arr fun p => { p with flush := true }
    else leave (placeFree s c arr) c p (.hole 4)

/-- The windows of a cluster are flushed. -/
def windowFlush (s : State) (c : Nat) : State :=
  ((s.cluster c).pkts.map (·.arr)).foldl (fun s a => pktFlush s c a) s

/-- The spilled copies of every queue. -/
def spilledCopies (s : State) : List Copy := s.swc.queues.flatMap fun e => e.2.spilled

/-- Every spilled frame is lost, and its queue leaves spill state (R286). A copy that still waits to be written stays, on die. -/
def spillLost (s : State) : State :=
  let cs := (spilledCopies s).filter (·.cells == 0)
  let back := (spilledCopies s).filter (·.cells != 0)
  let fs := (cs.map (·.frame)).eraseDups
  let s1 := cs.foldl notSent s
  let s2 := ((s.swc.queues.filter fun e => !e.2.spilled.isEmpty).map (·.1)).foldl (fun s q => cutQueue s q fun c => c.segs != 0) s1
  let s3 := back.foldl (fun s c => dieInsert s { c with segs := 0, segAt := [] }) s2
  let s4 := swcEvent (s3.bumpBy Reg.SWC_SPILL_LOST_COUNT fs.length) 0x6A [(159, 128, fs.length)]
  fs.foldl settle s4

/-- A SOLITAIRE audit record (R491): 0 entry, 1 exit, and the cause. -/
def soloRecord (s : State) (exit cause : Nat) : State :=
  auditAdd s { kind := 7, subject := bytesLE 1 exit ++ bytesLE 1 cause }

/-- Note a cause as active. -/
def causeOn (s : State) (cause : Nat) : State :=
  let add := fun (l : List Nat) => if l.contains cause then l else cause :: l
  { s with hlt := { s.hlt with active := add s.hlt.active, causes := if s.hlt.solo then add s.hlt.causes else s.hlt.causes } }

/-- What stops as the mode is entered (R512): windows, slices, spill, and what no core of the cipher engine has accepted. -/
def soloStop (s : State) : State :=
  cipSoloEnter (spillLost (forAll (forAll s (List.range 8) windowFlush) (List.range 16) flightsDrop))

/-- A further cause in Solitaire mode (R518): it is noted, and an exit under way is abandoned. Of the causes of one cycle CAUSE is the
lowest. -/
def soloCause (s : State) (cause : Nat) : State :=
  let h := s.hlt
  let low := fun (k : Nat) => if h.soloAt = s.ns then min k cause else k
  { s with hlt := { h with exiting := none, cause := low h.cause, lastCause := low h.lastCause } }

/-- Solitaire entry for a cause (R511, R512, R518): 0 STACK_LOST, 1 THERMAL, 2 REVERIFY, 3 HOST. In Solitaire mode a further cause is
only noted. -/
def soloEnter (s : State) (cause : Nat) : State :=
  let s1 := causeOn s cause
  if s.hlt.solo then soloCause s1 cause
  else
    let h := s1.hlt
    let s2 := soloStop { s1 with hlt := { h with solo := true, soloAt := s1.ns, cause := cause, causes := [cause],
                                                 soloEntries := h.soloEntries + 1, lastCause := cause } }
    let s3 := soloRecord (s2.bump Reg.HLT_SOLO_COUNT) 0 cause
    intRaise (hltEvent s3 0xD0 cause (hottest s3)) 15 0

/-- Fields of a MEM event (R380). -/
def memFields (l : HbmLoc) (addr req cause : Nat) : List (Nat × Nat × Nat) :=
  [(65, 64, l.stack), (70, 66, l.pc), (71, 71, l.sid), (75, 72, l.bank), (90, 76, l.row), (95, 91, req), (164, 128, addr),
   (166, 165, cause)]

/-- A MEM event of a stack with its interrupt source (R380, R519). -/
def memEvent (s : State) (h typ k : Nat) (fs : List (Nat × Nat × Nat)) : State :=
  intRaise (raiseOn s (s.rf (Reg.MEM_EVENT_CTRL h) 9 0) (Reg.MEM_EVENT_DROP_COUNT h) typ fs) 11 (4 * h + k)

/-- The content of a unit so that its tile checks fail: both lines' of a tag pair, the one of any other unit. -/
def spoiled (u : Nat) (v : Unit128) : Unit128 :=
  let inTags := tagBase / 128 ≤ u && u < tagBase / 128 + 2 ^ 26
  let flip := fun (v : Unit128) (i : Nat) => putBit v i (!bit v i)
  if inTags then
    let v1 := if lineOk (128 * u) (BitVec.ofNat 512 v.toNat) then flip v 480 else v
    if lineOk (128 * u + 64) (BitVec.ofNat 512 (v.toNat >>> 512)) then flip v1 992 else v1
  else if unitOk (128 * u) v then flip v 992 else v

/-- The requester treats the failure as a tile-check failure of what the read covered (R377): of a record, a tag pair or an audit
record, of a key slot, or of the cells of the spilled frames whose segment it is. -/
def readFails (s : State) (addr : Nat) : State :=
  let u := addr / 128
  if 0x1200000000 ≤ addr && addr < 0x1600000000 then
    let hit := (spilledCopies s).filter fun c => c.segAt.contains ((addr - 0x1200000000) / 2048)
    { s with swc := { s.swc with badSpill := (hit.map (·.frame) ++ s.swc.badSpill).eraseDups } }
  else if locketBase ≤ addr && addr < auditBase then
    let k := (addr - locketBase) / 128
    { s with cip := { s.cip with broken := if (ffind? s.cip.broken k).isSome then s.cip.broken else fset s.cip.broken k 1 } }
  else s.setUnit u (spoiled u (s.unit u))

/-- A transaction queued for a lost stack ends as a failed read (R378): a slice's entry goes on as from a failed unit, and a key slot
that was being fetched fails. -/
def txnFailed (s : State) (h : Nat) (t : MemTxn) : State :=
  if t.write then s
  else
    let s1 := readFails s t.addr
    if t.req < 4 then
      let i := 4 * h + t.req
      match (s1.slice i).flights.find? fun f => f.reads s1 i == some (t.addr / 128) with
      | some f => if f.phase == .pairRead then pairReadDone s1 i f else recReadDone s1 i f
      | none => s1
    else if t.req = 6 && s1.cip.fetching.contains ((t.addr - locketBase) / 128) then slotFailed s1 ((t.addr - locketBase) / 128) 1
    else s1

/-- A stack is lost (R378): 0 TRAINING, 1 THERMAL, 2 ERRORS. Its transactions end as failed reads, and Solitaire mode is entered. -/
def stackLost (s : State) (h cause : Nat) : State :=
  let x := s.stack h
  if x.lost then s
  else
    let cs := x.channels.map fun (e : Nat × Channel) => (e.1, { e.2 with waiting := [], queue := [], holder := none })
    let s1 := s.setStack h { x with lost := true, cause := cause, channels := cs }
    let s2 := (x.channels.flatMap fun (e : Nat × Channel) => e.2.queue ++ e.2.waiting).foldl (fun s t => txnFailed s h t) s1
    soloEnter (memEvent s2 h 0x91 1 [(65, 64, h), (166, 165, cause)]) 0

end Sys2Proof.Machine
end

