-- ==== Sys2Proof/Machine/Spares.lean ====
section
/-!
DEFINITION. Machine/Spares.lean: the rotating spares (R410-R417).
-/

namespace Sys2Proof.Machine

open Sys2Proof

/-- Live macros of a group (R410). -/
def groupMacros (g : Nat) : Nat :=
  if g < 128 then 16 else if g < 144 then 74 else if g < 152 then 96 else if g < 192 then 16 else if g < 200 then 8
  else if g < 212 then 16 else 8

/-- The power domain of a group (R410, R499). -/
def groupDomain (g : Nat) : Nat :=
  if g < 128 then 53 else if g < 144 then domSlice (g - 128) else if g < 152 then domPipe (g - 144)
  else if g < 168 then domSlice (g - 152) else if g < 184 then 54 else if g < 188 then 55 else if g < 192 then 56
  else if g < 200 then domCluster (g - 192) else if g < 204 then 53 else if g < 212 then domPipe (g - 204)
  else if g < 220 then domCluster (g - 212) else if g = 220 then 62 else if g = 221 then 61 else if g = 222 then 55 else 63

/-- The groups of a domain. -/
def domainGroups (d : Nat) : List Nat := (List.range 224).filter fun g => groupDomain g == d

def State.spare (s : State) (g : Nat) : SpareSt := fget s.lif.spares {} g
def State.setSpare (s : State) (g : Nat) (x : SpareSt) : State :=
  { s with lif := { s.lif with spares := fput s.lif.spares {} g x } }

/-- A SPARE event (R416): discarded at a full ring, it is counted in DROPS, which saturates. -/
def spareEvent (s : State) (typ g m passes : Nat) : State :=
  match eventWrite s (s.rf Reg.HLT_SPARE_CTRL 13 4) typ [(71, 64, g), (78, 72, m), (111, 80, passes)] with
  | (s1, true) => s1
  | (s1, false) => { s1 with lif := { s1.lif with spareDrops := satAdd 65535 s1.lif.spareDrops 1 } }

/-- A pass over every live macro of a group is complete (R413). -/
def sparePass (s : State) (g : Nat) : State :=
  let x := s.spare g
  let p := (x.passes + 1) % 2 ^ 23
  spareEvent (s.setSpare g { x with passes := p }) 0xB1 g 0 p

/-- The island clock of a group in MHz (R23, R410), and the words of one of its macros. -/
def groupMHz (g : Nat) : Nat :=
  if (184 ≤ g && g < 192) || g = 222 then 1250 else if g = 220 || g = 221 then 1000 else if g = 223 then 500 else 1350
def groupWords (g : Nat) : Nat := if 212 ≤ g then 256 else 1024

/-- Time goes on until a slice is some cycles into its macro (R411). -/
def spareReach (s : State) (g cycles : Nat) : State :=
  s.reach ((s.spare g).since + (1000 * cycles + groupMHz g - 1) / groupMHz g)

/-- SPARE_MACRO_START (R411): the test slice starts to copy its next live macro to the spare, MACRO_INTERVAL_US after the one before. -/
def execSpareMacroStart (group : Fin 224) (s : State) : Out' :=
  let x := s.spare group
  if bit (s.reg Reg.HLT_SPARE_CTRL) 0 && x.phase = 0 && x.retired.isNone && s.domain (groupDomain group) == .on then
    let s1 := s.reach (x.since + 1000 * s.rf Reg.HLT_SPARE_CTRL 31 16)
    .next (s1.setSpare group { x with phase := 1, since := s1.ns })
  else .next s

/-- SPARE_SWAP (R411): the spare takes the traffic, and the freed macro is marched. -/
def execSpareSwap (group : Fin 224) (s : State) : Out' :=
  let x := s.spare group
  .next (if x.phase = 1 then (spareReach s group (groupWords group)).setSpare group { x with phase := 2 } else s)

/-- SPARE_MARCH_DONE (R411-R413): March C- passes, and the copy back starts; or it fails, the macro is retired and the slice stops: the
pass, of which it is the only failing macro, is complete. -/
def execSpareMarchDone (group : Fin 224) (ok : Bool) (s : State) : Out' :=
  let g := group.val
  let x := s.spare g
  if x.phase ≠ 2 then .next s
  else
  let s0 := spareReach s g (11 * groupWords g + 1)
  if ok then .next (s0.setSpare g { x with phase := 3 })
  else
    let s1 := s0.setSpare g { x with phase := 0, retired := some x.live }
    let s2 := { s1 with hlt := { s1.hlt with groups := fset s1.hlt.groups g x.live } }
    .next (sparePass (intRaise (spareEvent s2 0xB0 g x.live x.passes) 0 2) g)

/-- SPARE_SWAP_BACK (R411, R413): the tested macro serves traffic again. -/
def execSpareSwapBack (group : Fin 224) (s : State) : Out' :=
  let g := group.val
  let x := s.spare g
  if x.phase ≠ 3 then .next s
  else
    let last := x.live + 1 = groupMacros g
    let s1 := (spareReach s g (12 * groupWords g + 1)).setSpare g { x with phase := 0, live := if last then 0 else x.live + 1 }
    .next (if last then sparePass s1 g else s1)

/-- A command that takes a domain out of ON (R414): a copy is abandoned at once. -/
def spareAbandon (s : State) (d : Nat) : State :=
  forAll s (domainGroups d) fun s g =>
    let x := s.spare g
    if x.phase = 1 then s.setSpare g { x with phase := 0 } else s

/-- Are a domain's test slices idle? -/
def sparesIdle (s : State) (d : Nat) : Bool := (domainGroups d).all fun g => (s.spare g).phase == 0

/-- A write of HLT_SPARE_CTRL (R414, R415, R417). -/
def spareCtrlWrite (s : State) (value : W32) : State :=
  if s.pkg.sealed then sealedWrite s
  else if fld value 31 16 < 10 then badWrite s
  else s.setReg Reg.HLT_SPARE_CTRL (value &&& 0xFFFF3FF1)

/-- SPARE_ENABLE_WRITE (R414, R415, R417). -/
def execSpareEnableWrite (value : W32) (s : State) : Out' := onBar s (spareCtrlWrite s value)

end Sys2Proof.Machine
end

