-- ==== Sys2Proof/Machine/Micro.lean ====
section
/-!
DEFINITION. Machine/Micro.lean: the control store and the microwords (R183-R209), patch images (R210-R214) and sampling (R215, R216).
-/

namespace Sys2Proof.Machine

open Sys2Proof

/-! ### The control store (R183-R186) -/

/-- A microword. -/
abbrev Word128 := BitVec 128

/-- One of a cluster's two page maps. -/
def Cluster.mapOf (x : Cluster) (m : Bool) : FMap Nat := if m then x.map1 else x.map0
def Cluster.setMap (x : Cluster) (m : Bool) (t : FMap Nat) : Cluster := if m then { x with map1 := t } else { x with map0 := t }

/-- Is a logical address in the customer region (R184)? -/
def isCustomer (a : Nat) : Bool := 0x6000 ≤ a

/-- The physical word of a logical address under a map. -/
def Cluster.physical (x : Cluster) (m : Bool) (a : Nat) : Option Nat :=
  (ffind? (x.mapOf m) (a / 128)).map fun page => 128 * page + a % 128

/-- Fields of a microword (R187). -/
def mwOp (w : Word128) : Nat := fld w 5 0
def mwDst (w : Word128) : Nat := fld w 9 6
def mwImm (w : Word128) : Nat := fld w 54 23
def mwRes (w : Word128) : Nat := fld w 58 55
def mwWait (w : Word128) : Nat := fld w 62 59
def mwWaitArg (w : Word128) : Nat := fld w 66 63
def mwTarget (w : Word128) : Nat := fld w 81 67
def mwCond (w : Word128) : Nat := fld w 84 82
def mwRec (w : Word128) : Nat := fld w 89 85

/-- Is a word's encoding free of reserved values (R188)? -/
def mwLegal (w : Word128) : Bool :=
  let o := mwOp w
  (o ≤ 0x0A || o == 0x10 || o == 0x11 || (0x20 ≤ o && o ≤ 0x24) || (0x30 ≤ o && o ≤ 0x32) || o == 0x3F) &&
  fld w 15 10 ≤ 48 && fld w 21 16 ≤ 48 && mwCond w ≤ 6 && mwWait w ≤ 4 && fld w 119 91 == 0

/-- A word as its ECC reads it (R186): one loaded with a single-bit error, mark 3, is corrected; an upset's is the word it struck. -/
def Cluster.readWord (x : Cluster) (n : Nat) : Word128 :=
  if fget x.eccErr 0 n = 3 then Config.wordFix (fget x.words 0 n) else fget x.words 0 n

/-- A fetch (R185, R186): the word, or the fault's cause. A single-bit error is corrected and written back. -/
def mcsFetch (s : State) (c : Nat) (m : Bool) (a : Nat) : State × (Word128 ⊕ Nat) :=
  let x := s.cluster c
  match x.physical m a with
  | none => (s, .inr 1)
  | some n =>
    match fget x.eccErr 0 n with
    | 0 => (s, .inl (fget x.words 0 n))
    | 2 => (s.bumpField (Reg.MCS_ECC_COUNT c) 31 16, .inr 10)
    | _ => ((s.setCluster c { x with words := fput x.words 0 n (x.readWord n), eccErr := ferase x.eccErr n }).bumpField (Reg.MCS_ECC_COUNT c) 15 0,
        .inl (x.readWord n))

/-! ### Operands (R189, R190, R192) -/

/-- A G register; G0 reads 0. -/
def Routine.g (r : Routine) (k : Nat) : W32 := if k = 0 then 0 else fget r.regs 0 k

/-- Write a G register; a write of G0 does nothing. -/
def Routine.setG (r : Routine) (k : Nat) (v : W32) : Routine := if k = 0 then r else { r with regs := fput r.regs 0 k v }

/-- An operand, or the cause RESULT. -/
def mwSel (p : Pkt) (r : Routine) (res sel : Nat) : W32 ⊕ Nat :=
  if sel < 16 then .inl (r.g sel)
  else if sel < 32 then .inl (BitVec.ofNat 32 (p.m (sel - 16)).toNat)
  else if sel < 48 then (if (p.op res).phase == .complete then .inl ((p.op res).word (sel - 32)) else .inr 4)
  else .inl 0

def mwA (p : Pkt) (r : Routine) (w : Word128) : W32 ⊕ Nat := mwSel p r (mwRes w) (fld w 15 10)
def mwB (p : Pkt) (r : Routine) (w : Word128) : W32 ⊕ Nat :=
  if bit w 22 then .inl (BitVec.ofNat 32 (mwImm w)) else mwSel p r (mwRes w) (fld w 21 16)

/-- Which operands a word reads: A, B. -/
def mwUses (w : Word128) : Bool × Bool :=
  match mwOp w with
  | 0x08 | 0x0A => (false, true)
  | 0x10 | 0x11 => (true, false)
  | 0x20 => (mwCond w != 0, mwCond w != 0)
  | 0x24 | 0x30 => (true, true)
  | o => (1 ≤ o && o ≤ 9, 1 ≤ o && o ≤ 9)

/-- Does a word read a G register? -/
def mwReads (w : Word128) (k : Nat) : Bool :=
  let u := mwUses w
  k != 0 && ((u.1 && fld w 15 10 == k) || (u.2 && !bit w 22 && fld w 21 16 == k))

/-- The value of an arithmetic or logic word (R188). -/
def mwAlu (o : Nat) (a b : W32) : W32 :=
  match o with
  | 0x01 => a + b
  | 0x02 => a - b
  | 0x03 => a &&& b
  | 0x04 => a ||| b
  | 0x05 => a ^^^ b
  | 0x06 => a <<< fld b 4 0
  | 0x07 => a >>> fld b 4 0
  | 0x08 => b
  | _ => (a >>> fld b 4 0) &&& BitVec.ofNat 32 (2 ^ (fld b 9 5 + 1) - 1)

/-- Is a branch taken (R191)? -/
def mwTaken (k : Nat) (a b : W32) : Bool :=
  match k with
  | 0 => true
  | 1 => a == b
  | 2 => a != b
  | 3 => a.ult b
  | 4 => !a.ult b
  | 5 => a.slt b
  | _ => !a.slt b

/-- The bits of a record word that STREC may write (R32, R198). -/
def recWritable (k : Nat) : W32 :=
  match k with
  | 12 => 0x0F0000A0
  | 14 => 0xFFFFFFFF
  | 16 => 0x0FFF0000
  | 18 => 0xFFFFFFFF
  | 19 => 0x0007FFFF
  | 20 => 0x0FFFFFFF
  | 21 => 0xFFFFFFFF
  | 22 => 0xFFFFFFFF
  | _ => 0

/-! ### Events of a routine -/

/-- Change a packet's routine of an operation. -/
def modRoutine (s : State) (c arr op : Nat) (f : Routine → Routine) : State :=
  s.modPkt c arr fun p => { p with routines := p.routines.map fun r => if r.op == op then f r else r }

/-- A routine is over. -/
def dropRoutine (s : State) (c arr op : Nat) : State :=
  s.modPkt c arr fun p => { p with routines := p.routines.filter fun r => r.op != op }

/-- A value of a field that names a MICRO operation; for the exception routine it is open. -/
def opNumber (s : State) (op : Nat) : Nat := if op < 16 then op else Config.freeNat s.freeCtr % 16

/-- An MCS_SAMPLE event (R215, R216). -/
def sampleEvent (s : State) (c : Nat) (p : Pkt) (op addr : Nat) (ended : Bool) : State :=
  let fs := [(66, 64, c), (71, 67, p.engine), (74, 72, p.ctx), (75, 75, ended.toNat), (77, 76, s.rf Reg.MCS_SAMPLE_CTRL 2 1),
    (87, 80, p.template), (91, 88, opNumber s op), (106, 92, addr)]
  match eventWrite { s with freeCtr := s.freeCtr + 1 } (s.rf Reg.MCS_SAMPLE_CTRL 25 16) 0x60 fs with
  | (s1, true) => s1
  | (s1, false) => intRaise (s1.bump Reg.MCS_SAMPLE_DROP_COUNT) 6 c

/-- Count an event for sampling (R215): at every RATE-th a sample is taken; how many words on it names one is open. -/
def sampleCount (s : State) (c kind : Nat) (p : Pkt) (op addr : Nat) : State :=
  if !(bit (s.reg Reg.MCS_SAMPLE_CTRL) 0 && s.rf Reg.MCS_SAMPLE_CTRL 2 1 == kind) then s
  else
    let x := s.cluster c
    if x.sampleAcc + 1 < s.rf Reg.MCS_SAMPLE_RATE 19 0 then s.setCluster c { x with sampleAcc := x.sampleAcc + 1 }
    else if kind = 3 then sampleEvent (s.setCluster c { x with sampleAcc := 0 }) c p op addr false
    else
      let f := s.free
      f.2.setCluster c { x with sampleAcc := 0, samples := x.samples ++ [⟨p.arr, op, f.1 % 7⟩] }

/-- A word has issued: the samples of its context that name it are written; those that END cuts short name the END. -/
def sampleWord (s : State) (c : Nat) (p : Pkt) (op addr : Nat) (ends : Bool) : State :=
  let x := s.cluster c
  let mine := fun (m : Sample) => m.pkt == p.arr && m.op == op
  let due := x.samples.filter fun m => mine m && (m.lag == 0 || ends)
  let left := (x.samples.filter fun m => !(mine m && (m.lag == 0 || ends))).map fun m =>
    if mine m then { m with lag := m.lag - 1 } else m
  due.foldl (fun s _ => sampleEvent s c p op addr ends) (s.setCluster c { x with samples := left })

/-- Samples of a routine that stopped without END name nothing. -/
def sampleStop (s : State) (c arr op : Nat) : State :=
  let x := s.cluster c
  s.setCluster c { x with samples := x.samples.filter fun m => !(m.pkt == arr && m.op == op) }

/-- A fault (R206-R208): the routine stops at the word. -/
def mcsFault (s : State) (c : Nat) (p : Pkt) (op addr cause : Nat) : State :=
  let n := opNumber s op
  let x := s.cluster c
  let s1 := (s.setCluster c { x with faultStatus := pack 32 [(3, 0, cause), (4, 4, p.committed.toNat), (19, 5, addr),
    (27, 20, p.template), (31, 28, n)] }).bump (Reg.MCS_FAULT_COUNT c)
  let s2 := sampleStop (sampleCount (intRaise { s1 with freeCtr := s1.freeCtr + 1 } 6 c) c 3 p op addr) c p.arr op
  let s3 := dropRoutine s2 c p.arr op
  if op = 16 then pktEnd s3 c p.arr (.hole 3)
  else if p.committed then
    opComplete (if cause = 10 then s3.bump (Reg.MCS_LATE_ABORT_COUNT c) else s3) c p.arr op St.ok []
  else if p.verdict.isSome then opComplete s3 c p.arr op St.ok []
  else pktFail (((opSet s3 c p.arr op St.microFault []).modPkt c p.arr stopRoutines).bump (Reg.MCS_ABORT_COUNT c)) c p.arr n 3
    St.microFault

/-- END (R194, R199, R201). CONTINUE of the exception routine lets the packet go on with verdict FORWARD. -/
def mcsEnd (s : State) (c : Nat) (p : Pkt) (op imm : Nat) : State :=
  let s0 := dropRoutine s c p.arr op
  let s1 := if op = 16 || imm % 4 = 0 then s0 else opSet s0 c p.arr op St.ok []
  match imm % 4 with
  | 0 => if op = 16 then pktEnd s1 c p.arr .forward else opComplete s1 c p.arr op St.ok []
  | 1 => pktEnd s1 c p.arr (.hole 2)
  | 2 => pktEnd s1 c p.arr .stateless
  | _ => pktEnd s1 c p.arr (.punt (imm / 256 % 256) true)

/-- May a routine stage (R199, R208)? -/
def mayStage (p : Pkt) (op : Nat) : Bool :=
  let k := gCommit p.image
  op != 16 && (k == 31 || k == op || (ancestors p.image 16 k).testBit op)

/-! ### One word (R188) -/

/-- What a word does beside moving on: a new routine, a change of its packet, a commit, an end, a refusal, or a fault. -/
inductive Effect where
  | go (r : Routine)
  | pkt (r : Routine) (p : Pkt)
  | commit (r : Routine)
  | ends
  | vendor
  | fault (cause : Nat)
deriving DecidableEq, Repr

/-- The address after a word. -/
def mwNext (pc : Nat) : Nat := (pc + 1) % 2 ^ 15

/-- Load header bytes (R192). -/
def mwLoad (p : Pkt) (r : Routine) (w : Word128) (n : Nat) (a : W32) : Effect :=
  let off := (a.toNat + mwImm w) % 2 ^ 32
  if p.window.length < off + n then .fault 3
  else .go { r.setG (mwDst w) (BitVec.ofNat 32 (beAt p.window off n)) with loaded := some (mwDst w) }

/-- STREC (R198, R199). -/
def mwStrec (p : Pkt) (r : Routine) (w : Word128) (a b : W32) : Effect :=
  let k := mwRes w
  if !mayStage p r.op then .fault 7
  else if mwRec w < 12 || 22 < mwRec w || b &&& ~~~(recWritable (mwRec w)) != 0 ||
      !(opFlow (opEnt p.image k) && (p.op k).found) then .fault 5
  else if 8 ≤ p.staged.length then .fault 6
  else .pkt r { p with staged := p.staged ++ [(k, mwRec w, a, b)] }

/-- STCNT (R198, R199). -/
def mwStcnt (p : Pkt) (r : Routine) (w : Word128) : Effect :=
  if !mayStage p r.op then .fault 7
  else if 4 ≤ p.adds.length then .fault 6
  else .pkt r { p with adds := p.adds ++ [(mwImm w % 2 ^ 20, (mwImm w).testBit 20)] }

/-- The effect of a word with its operands. -/
def mwExec (p : Pkt) (r0 : Routine) (w : Word128) (a b : W32) : Effect :=
  let r := { r0 with pc := mwNext r0.pc }
  let jump := fun (r : Routine) (t : Nat) => { r with pc := t }
  match mwOp w with
  | 0x00 => .go r
  | 0x0A => if mwDst w < 8 then .fault 11
            else .pkt r { p with words := fput p.words 0 (mwDst w) (BitVec.ofNat 16 b.toNat) }
  | 0x10 => mwLoad p r w 4 a
  | 0x11 => mwLoad p r w 1 a
  | 0x20 => .go (if mwTaken (mwCond w) a b then jump r (mwTarget w) else r)
  | 0x21 => if 4 ≤ r.stack.length then .fault 8 else .go (jump { r with stack := mwNext r0.pc :: r.stack } (mwTarget w))
  | 0x22 => match r.stack with
    | [] => .fault 8
    | t :: ts => .go (jump { r with stack := ts } t)
  | 0x23 => if mwImm w % 4 = 0 && r.op == gCommit p.image && !p.said then .fault 7 else .ends
  | 0x24 => .pkt r { p with setouts := p.setouts ++ [(r.op, fld a 7 0, fld b 18 0)] }
  | 0x30 => mwStrec p r w a b
  | 0x31 => mwStcnt p r w
  | 0x32 => if r.op == gCommit p.image && !p.said then .commit r else .fault 7
  | 0x3F => if isCustomer r0.pc then .fault 2 else .vendor
  | o => .go (r.setG (mwDst w) (mwAlu o a b))

/-- Is the wait condition of a word met (R196)? -/
def waitMet (s : State) (p : Pkt) (w : Word128) : Bool :=
  let k := mwWaitArg w
  match mwWait w with
  | 0 => true
  | 1 => (p.op k).closed
  | 2 => ((s.frame? p.frame).map (·.tail)).getD true
  | 3 => bit (p.m 15) k
  | _ => !bit (p.m 15) k

/-- Does a word's wait count as unable to go on (R197): on a CIPHER, or on a flow LOOKUP that has answered PENDING? -/
def waitParks (p : Pkt) (w : Word128) : Bool :=
  let k := mwWaitArg w
  mwWait w == 1 && ((p.op k).phase == .pending || opType (opEnt p.image k) == 3)

/-- A context tries the next word of its routine: a fetched word that breaches nothing, or the fault's cause (R185, R188, R206,
R209). -/
def mwFetch (s : State) (c : Nat) (p : Pkt) (r : Routine) : State × (Word128 ⊕ Nat) :=
  if s.rf (Reg.MCS_STEP_LIMIT c) 14 0 ≤ r.issued then (s, .inr 9)
  else match mcsFetch s c p.map r.pc with
    | (s1, .inl w) => (s1, if r.cross && !bit w 90 then .inr 2 else if mwLegal w then .inl w else .inr 0)
    | (s1, .inr k) => (s1, .inr k)

/-- The operands of a word, or the cause RESULT. -/
def mwOperands (p : Pkt) (r : Routine) (w : Word128) : (W32 × W32) ⊕ Nat :=
  let u := mwUses w
  match (if u.1 then mwA p r w else .inl 0), (if u.2 then mwB p r w else .inl 0) with
  | .inl a, .inl b => .inl (a, b)
  | .inr k, _ => .inr k
  | _, .inr k => .inr k

/-- A word has issued: its routine goes on. -/
def mwStep (s : State) (c : Nat) (p : Pkt) (r0 : Routine) (w : Word128) (r : Routine) : State :=
  let r1 := { r with issued := r0.issued + 1, cross := isCustomer r0.pc && !isCustomer r.pc && mwOp w != 0x22,
                     loaded := if mwOp w == 0x10 || mwOp w == 0x11 then r.loaded else none }
  modRoutine s c p.arr r0.op fun _ => r1

/-- Issue a word. -/
def mwIssue (s : State) (c : Nat) (p : Pkt) (r : Routine) (w : Word128) : Out' :=
  match mwOperands p r w with
  | .inr k => .next (mcsFault s c p r.op r.pc k)
  | .inl (a, b) =>
    let e := mwExec p r w a b
    match e with
    | .fault k => .next (mcsFault s c p r.op r.pc k)
    | .vendor => .refused .vendorDefined
    | _ =>
      let s0 := if r.loaded.any (mwReads w) then sampleCount s c 2 p r.op r.pc else s
      let s1 := sampleWord (sampleCount s0 c 0 p r.op r.pc) c p r.op r.pc (e == .ends)
      .next (match e with
        | .go r1 => mwStep s1 c p r w r1
        | .pkt r1 q => mwStep (s1.modPkt c p.arr fun _ => q) c p r w r1
        | .commit r1 => commitPkt ((mwStep s1 c p r w r1).modPkt c p.arr fun q => { q with said := true }) c p.arr
        | _ => mcsEnd s1 c p r.op (mwImm w))

/-- A word that waits for the tail issues with FRAME_LEN exact and LEN_EXACT = 1 (R196). -/
def waitLen (s : State) (c : Nat) (p : Pkt) (w : Word128) : State × Pkt :=
  if mwWait w == 2 then
    let q := lenExact p (((s.frame? p.frame).map fun x => ((x.arrived.map (·.1)).getD x.bytes).length).getD 0)
    (s.modPkt c p.arr fun _ => q, q)
  else (s, p)

/-- MICROWORD_ISSUE (R186, R188-R209): a context issues one word of a routine, or its wait goes on. A packet that has ended runs what
it has issued to its end (R168). The ready contexts of an engine take turns (R152). -/
def execMicrowordIssue (cluster : Fin 8) (pkt : Nat) (op : Struck (Fin 17)) (s0 : State) : Out' :=
  let s := strike s0 op.upsets
  let op := op.it
  let c := cluster.val
  match s.pkt? c pkt with
  | none => .next s
  | some p =>
    match p.routines.find? fun r => r.op == op.val with
    | none => .next s
    | some r =>
      if p.stage != .running || (ctxTurn (s.cluster c) p.engine).map (·.arr) != some pkt then .next s
      else match mwFetch (ctxServed s c p) c p r with
        | (s1, .inr k) => .next (mcsFault s1 c p r.op r.pc k)
        | (s1, .inl w) =>
          if waitMet s1 p w then let l := waitLen s1 c p w; mwIssue l.1 c l.2 r w
          else
            let s2 := sampleCount s1 c 1 p r.op r.pc
            if waitParks p w then .next (pktPark (modRoutine s2 c pkt r.op fun r => { r with waits := true }) c pkt)
            else .next s2

/-! ### Patch images (R210-R214) -/

/-- Header fields of an image. -/
def imgFld (b : List Byte) (hi lo : Nat) : Nat := fld (ofBytes 512 b : BitVec 512) hi lo
def imgRegion (b : List Byte) : Bool := imgFld b 40 40 == 1
def imgFull (b : List Byte) : Bool := imgFld b 41 41 == 1
def imgPages (b : List Byte) : Nat := imgFld b 55 48
def imgVersion (b : List Byte) : Nat := imgFld b 79 64
def imgBase (b : List Byte) : Nat := imgFld b 95 80
def imgKey (b : List Byte) : Nat := imgFld b 111 96

/-- A page record (R210): its logical page, UNMAP, the 128 words, and whether its reserved bits are 0. -/
structure PageRec where
  page  : Nat
  unmap : Bool
  bytes : List Byte
  ok    : Bool
deriving DecidableEq, Repr

/-- The page records in a string of bytes. -/
def pageRecs (n : Nat) (b : List Byte) : List PageRec :=
  (List.range n).map fun i =>
    let r := b.drop (2064 * i)
    let h : BitVec 128 := ofBytes 128 r
    let ws := (r.drop 16).take 2048
    ⟨fld h 7 0, bit h 8, ws, fld h 127 9 == 0 && (!bit h 8 || ws.all (· == 0))⟩

/-- The page records of a patch image. -/
def imgRecs (b : List Byte) : List PageRec := pageRecs (imgPages b) (b.drop 64)

/-- Is the form of an image good (R211, BAD_FIELD)? -/
def imgOk (len : Nat) (b : List Byte) : Bool :=
  let rs := imgRecs b
  len == 64 + 2064 * imgPages b + 512 && imgFld b 31 0 == 0x59464C52 && imgFld b 39 32 == 1 &&
  imgFld b 47 42 == 0 && imgFld b 63 56 == 0 && imgFld b 511 112 == 0 &&
  1 ≤ imgPages b && imgPages b ≤ (if imgRegion b then 64 else 192) &&
  (rs.all fun r => r.ok && ((192 ≤ r.page) == imgRegion b)) && decide ((rs.map (·.page)).Nodup)

/-- Physical pages in use (R211). -/
def usedPages (x : Cluster) : List Nat :=
  (x.mapOf x.active).map (·.2) ++ (if x.staged || x.switching.isSome then (x.mapOf !x.active).map (·.2) else [])

/-- Free physical pages, lowest first. -/
def freePages (x : Cluster) : List Nat := (List.range 256).filter fun k => !(usedPages x).contains k

/-- How the check bits of a word that is loaded stand (R186): the mark of its error, 3 single-bit and 2 uncorrectable, or 0. -/
def loadMark (w : Word128) : Nat :=
  match Config.wordCheck w with
  | 0 => 0
  | 1 => 3
  | _ => 2

/-- Write a physical page, with the errors its words carry (R186), and record its digest (R479). -/
def pageWrite (s : State) (c phys : Nat) (b : List Byte) : State :=
  let x := s.cluster c
  let ws := (List.range 128).foldl (fun (m : FMap Word128) i => fput m 0 (128 * phys + i) (ofBytes 128 (b.drop (16 * i)))) x.words
  let es := (List.range 128).foldl (fun m i => fput m 0 (128 * phys + i) (loadMark (ofBytes 128 (b.drop (16 * i))))) x.eccErr
  let s1 := s.setCluster c { x with words := ws, eccErr := es }
  { s1 with hmk := { s1.hmk with digests := fset s1.hmk.digests (256 * c + phys) (Config.sha512 b) } }

/-- Write page records into free pages, and a map with their pages remapped. -/
def pagesLoad (s : State) (c : Nat) (rs : List PageRec) (free : List Nat) (m : FMap Nat) : State × FMap Nat :=
  match rs with
  | [] => (s, m)
  | r :: rs =>
    if r.unmap then pagesLoad s c rs free (ferase m r.page)
    else match free with
      | p :: ps => pagesLoad (pageWrite s c p r.bytes) c rs ps (fset m r.page p)
      | [] => (s, m)

/-- Load an image into one cluster (R211): the inactive map is built and staged. -/
def patchStage (s : State) (c : Nat) (b : List Byte) : State :=
  let x := s.cluster c
  let base := x.mapOf x.active
  let start := if imgFull b then fkeep base fun p => (192 ≤ p) != imgRegion b else base
  let r := pagesLoad s c (imgRecs b) (freePages x) start
  let y := (r.1.cluster c).setMap (!x.active) r.2
  let v := if imgRegion b then put x.version 31 16 (imgVersion b) else put x.version 15 0 (imgVersion b)
  r.1.setCluster c { y with staged := true, stagedVersion := v, stagedRegion := imgRegion b,
                            stagedHash := (Config.sha512 b).take 32 }

/-- The action of R490 that a region needs. -/
def patchAction (region : Bool) : Action := if region then .patchCustomer else .patchVendor

/-- The status of the first check of R211 that fails. -/
def patchStatus (s : State) (c : CmdEnt) (len : Nat) (cs : List Nat) (b : List Byte) : Nat :=
  let region := imgRegion b
  let need := ((imgRecs b).filter fun r => !r.unmap).length
  let body := b.take (len - 512)
  let okKey := if region then 0x100 ≤ imgKey b && imgKey b ≤ 0x103 else imgKey b ≤ 7
  let signed := match ffind? s.hmk.codeKeys (imgKey b) with
    | some k => Config.pssVerify k body ((b.drop (len - 512)).take 512)
    | none => false
  let k := if region then 2 else 1
  if !imgOk len b then St.badField
  else if !(okKey && signed) then St.authFail
  else if !c.may (patchAction region) then St.denied
  else if imgVersion b < floorOf s k then St.rollback
  else if !imgFull b && cs.any fun c => regionVersion region (s.cluster c).version != imgBase b then St.baseMismatch
  else if cs.any fun c => (s.cluster c).staged || (s.cluster c).switching.isSome || s.domain (domCluster c) != .on then St.busy
  else if floorStatus s k (imgVersion b) != St.ok || cs.any fun c => (freePages (s.cluster c)).length < need then St.noSpace
  else St.ok

/-- What the audit record of a patch command says (R491): region, VERSION, image hash. -/
def patchSubject (region : Bool) (version : Nat) (hash : List Byte) : List Byte :=
  bytesLE 1 region.toNat ++ bytesLE 2 version ++ hash

/-- MCS_PATCH_LOAD (R211, R213, R214, R478). -/
def execMcsPatchLoad (ring : Fin 1024) (slot : Nat) (s : State) : Out' :=
  onCmd s ring slot 0x52 fun c =>
    let cs := maskList 8 (fld c.desc 71 64)
    let len := fld c.desc 223 192
    let b := c.buf.take len
    let st := if cs.isEmpty then St.badField else patchStatus s c len cs b
    let sub := patchSubject (imgRegion b) (imgVersion b) ((Config.sha512 b).take 32)
    if st = St.denied then (deniedAdd s ring c).finish ring slot st
    else if st ≠ St.ok then auditFinish s ring slot c st sub (if cs.isEmpty then 8 else if st = St.badField then 0xFF else 0)
    else
      let s1 := floorBurn s (if imgRegion b then 2 else 1) (imgVersion b)
      auditFinish (forAll s1 cs fun s k => patchStage s k b) ring slot c St.ok sub

/-- Drop a staged patch (R212). -/
def patchDrop (s : State) (c : Nat) : State :=
  s.setCluster c { s.cluster c with staged := false, stagedVersion := 0 }

/-- Make a staged map active (R212): packets already started keep the old one. -/
def patchSwitch (s : State) (c ring slot : Nat) : State :=
  let x := s.cluster c
  let left := (x.pkts.filter fun p => p.stage != .queued).map (·.arr)
  s.setCluster c { x with active := !x.active, staged := false, version := x.stagedVersion, stagedVersion := 0,
                          switching := if left.isEmpty then none else some (ring, slot, left) }

/-- MCS_PATCH_SWITCH (R212-R214). -/
def execMcsPatchSwitch (ring : Fin 1024) (slot : Nat) (s : State) : Out' :=
  onCmd s ring slot 0x53 fun c =>
    let cs := maskList 8 (fld c.desc 71 64)
    let x := s.cluster (cs.head?.getD 0)
    let v := regionVersion x.stagedRegion x.stagedVersion
    if cs.isEmpty || cs.any (fun k => !(s.cluster k).staged) then
      auditFinish s ring slot c St.badField [] 8
    else if cs.any fun k => s.domain (domCluster k) != .on then
      auditFinish s ring slot c St.busy (patchSubject x.stagedRegion v x.stagedHash)
    else if bit c.desc 72 then
      auditFinish (forAll s cs patchDrop) ring slot c St.ok (patchSubject x.stagedRegion v x.stagedHash)
    else
      switchDone ((forAll s cs fun s k => patchSwitch s k ring slot).modCmd ring slot fun c => { c with phase := .running })
        ring slot x.stagedRegion.toNat v x.stagedHash

end Sys2Proof.Machine
end

