-- ==== Sys2Proof/Machine/Trust.lean ====
section
/-!
DEFINITION. Machine/Trust.lean: Hallmark (R471-R498): boot, floors, attestation, life-cycle, roles, tickets, code keys and the audit log.
-/

namespace Sys2Proof.Machine

open Sys2Proof

/-! ### The random source and boot (R473-R476) -/

/-- Draw `n` bytes from the random source. -/
def rngDraw (s : State) (n : Nat) : State × List Byte :=
  ({ s with hmk := { s.hmk with draws := s.hmk.draws + 1 } }, (Config.drbg s.hmk.draws ++ List.replicate n 0).take n)

/-- RNG_HEALTH_FAIL (R473, R519). -/
def execRngHealthFail (s : State) : Out' := .next (intRaise { s with hmk := { s.hmk with rngFail := true } } 13 4)

/-- RNG_HEALTH_PASS (R473): the source passes again, and is reseeded. -/
def execRngHealthPass (s : State) : Out' :=
  if s.hmk.rngFail then .next { s with hmk := { s.hmk with rngFail := false, reseeds := (s.hmk.reseeds + 1) % 2 ^ 16 } } else .next s

/-- Does the identity key that the root secret gives have the fused hash (R474)? -/
def identOk (s : State) : Bool := s.hmk.fuses.identHash == Config.sha512 (Config.identKey s.hmk.fuses.root)

/-- BOOT_ROM_DONE (R342, R473, R474): the boot ROM, whose self-tests pass or fail, ends in BOOT, or in HALT with a code that the spec does
not give. -/
def execBootRomDone (pass : Bool) (s : State) : Out' :=
  if s.pkg.inReset || s.hlt.shutdown || s.hmk.boot ≠ 0 then .next s
  else if pass && !s.hmk.rngFail && identOk s then
    let d := rngDraw s 32
    .next { d.1 with hmk := { d.1.hmk with boot := 1 }, cip := { d.1.cip with storage := ofBytes 256 d.2 } }
  else
    let f := s.free
    .next { f.2 with hmk := { f.2.hmk with boot := 3, lastErr := f.1 % 256 } }

/-! ### Keys (R472) -/

/-- Does a modulus have the hash held for it? -/
def hashIs (modulus hash : List Byte) : Bool := hash == Config.sha512 modulus

/-- May a Kryldota key be used: its hash and its revoke fuse? -/
def makerOk (s : State) (i : Nat) (modulus : List Byte) : Bool :=
  i < 8 && !s.hmk.fuses.revMaker.contains i && hashIs modulus (Config.makerHash i)

/-- May the key of an installer, operator or code-key slot be used? After WIPED every such slot counts as revoked (R485). -/
def slotOk (s : State) (m : FMap (List Byte)) (revoked : List Nat) (i : Nat) (modulus : List Byte) : Bool :=
  !s.hmk.fuses.wiped && !revoked.contains i && (ffind? m i).any (hashIs modulus)

/-- May a role's key be used: 1 operator, 2 installer, 3 maker? -/
def roleKeyOk (s : State) (role i : Nat) (modulus : List Byte) : Bool :=
  let f := s.hmk.fuses
  match role with
  | 1 => slotOk s f.operator f.revOper i modulus
  | 2 => slotOk s f.installer f.revInst i modulus
  | _ => makerOk s i modulus

/-! ### The device image (R475) -/

/-- The sections of a device image: kind and content; none where a header or a length is bad. -/
def imageSections : Nat → List Byte → Option (List (Nat × List Byte))
  | 0, b => if b.isEmpty then some [] else none
  | n + 1, b =>
    let h : BitVec 128 := ofBytes 128 b
    let len := fld h 63 32
    if b.length < 16 + len || !(fld h 7 0 == 1 || fld h 7 0 == 2) || fld h 31 8 != 0 || fld h 127 64 != 0 then none
    else (imageSections n (b.drop (16 + len))).map fun r => (fld h 7 0, (b.drop 16).take len) :: r

/-- The vendor pages of a device image. -/
def imageRecs (secs : List (Nat × List Byte)) : List PageRec :=
  (secs.filter (·.1 == 2)).flatMap fun e => pageRecs (e.2.length / 2064) e.2

/-- Header fields of a device image. -/
def imageFld (b : List Byte) (hi lo : Nat) : Nat := fld (ofBytes 512 b : BitVec 512) hi lo

/-- The firmware of a device image. -/
def imageFirmware (secs : List (Nat × List Byte)) : List Byte := (secs.filter (·.1 == 1)).flatMap (·.2)

/-- The sections of a well-formed device image of `len` bytes, with the full vendor region: all 192 of its pages; none for a format
error. -/
def imageParse (len : Nat) (b : List Byte) : Option (List (Nat × List Byte)) :=
  let n := imageFld b 103 96
  if imageFld b 31 0 != 0x47494D49 || imageFld b 39 32 != 1 || 7 < imageFld b 47 40 || imageFld b 95 64 != len || n = 0 || 16 < n ||
      imageFld b 511 104 != 0 || len < 1088 || b.length != len then none
  else match imageSections n ((b.drop 576).take (len - 1088)) with
    | none => none
    | some secs =>
      let rs := imageRecs secs
      if (secs.all fun e => e.1 == 1 || e.2.length % 2064 == 0) && (rs.all fun r => r.ok && r.page < 192) &&
          decide ((rs.map (·.page)).Nodup) && rs.length == 192 then some secs else none

/-- The status of a device image (R475), 0 where it is loaded. -/
def imageStatus (s : State) (len : Nat) (b : List Byte) : Nat :=
  let modulus := (b.drop 64).take 512
  match imageParse len b with
  | none => St.badField
  | some _ =>
    if !(makerOk s (imageFld b 47 40) modulus && Config.pssVerify modulus (b.take (len - 512)) (b.drop (len - 512))) then St.authFail
    else floorStatus s 0 (imageFld b 63 48)

/-- Load the vendor region into map 0 of a cluster, which becomes active (R185). -/
def vendorLoad (s : State) (c version : Nat) (rs : List PageRec) : State :=
  let x := s.cluster c
  let r := pagesLoad (s.setCluster c { x with map0 := [], map1 := [], active := false }) c rs (List.range 256) []
  let y := r.1.cluster c
  r.1.setCluster c { y with map0 := r.2, version := put y.version 15 0 version }

/-- BOOT_IMAGE_LOAD (R475, R476, R478): outside BOOT it finds Hallmark busy. -/
def execBootImageLoad (ring : Fin 1024) (slot : Nat) (s : State) : Out' :=
  onCmd s ring slot 0xB0 fun c =>
    let len := fld c.desc 223 192
    let b := c.buf.take len
    let st := imageStatus s len b
    if s.hmk.boot ≠ 1 || s.hmk.rngFail then s.finish ring slot St.busy
    else if st ≠ St.ok then
      ({ s with hmk := { s.hmk with lastErr := st, attempts := satAdd 0xFFFF s.hmk.attempts 1 } }).finish ring slot st
        (if st = St.badField then 0xFF else 0)
    else
      let v := imageFld b 63 48
      let secs := (imageParse len b).getD []
      let rs := imageRecs secs
      let fw := imageFirmware secs
      let s1 := forAll (floorBurn s 0 v) (List.range 8) fun s k => vendorLoad s k v rs
      let d := rngDraw s1 32
      let dig := Config.sha512 b
      let s2 := { d.1 with hmk := { d.1.hmk with
        boot := 2, nonce := d.2, version := v, digest := dig, firmware := fw, ownDigest := Config.sha512 fw } }
      (auditBoot s2 (d.2 ++ bytesLE 2 v ++ dig.take 16)).finish ring slot St.ok

/-! ### Identity and attestation (R480-R482) -/

/-- IDENT of R482: lot, wafer, X, Y, test date. -/
def identBytes (s : State) : List Byte :=
  let f := s.hmk.fuses
  bytesLE 3 f.lot ++ bytesLE 1 f.wafer ++ bytesLE 1 f.dieX ++ bytesLE 1 f.dieY ++ bytesLE 2 f.date

/-- IDENT_CERT_READ (R480). -/
def execIdentCertRead (ring : Fin 1024) (slot : Nat) (s : State) : Out' :=
  onCmd s ring slot 0xB1 fun c => (s.output c s.hmk.fuses.cert).finish ring slot St.ok 0 s.hmk.fuses.cert.length

/-- Bytes padded with zeros to a length. -/
def padTo (n : Nat) (b : List Byte) : List Byte := (b ++ List.replicate n 0).take n

/-- SEQ of the last audit record, 0 before the first. -/
def lastSeq (s : State) : Nat := s.hmk.seq - 1

/-- CODE_DIGEST of R482. -/
def codeDigest (s : State) : List Byte :=
  Config.sha512 ((List.range 8).flatMap fun c =>
    let x := s.cluster c
    (x.mapOf x.active).flatMap fun e => bytesLE 1 e.1 ++ fget s.hmk.digests [] (256 * c + e.2))

/-- The slots of a bank that are enrolled and not revoked, as bits. -/
def enrolled (s : State) (m : FMap (List Byte)) (revoked : List Nat) : Nat :=
  m.foldl (fun a e => if s.hmk.fuses.wiped || revoked.contains e.1 then a else a ||| 2 ^ e.1) 0

/-- Evidence but for its signature: bytes 0x000 to 0x17F (R482). -/
def evidence (s : State) (nonce : List Byte) : List Byte :=
  let h := s.hmk
  let f := h.fuses
  let flags := h.debugOpen.toNat + 2 * (s.rf Reg.FLW_HASH_CTRL 0 0) + 4 * s.hlt.solo.toNat + 8 * f.wiped.toNat + 16 * s.pkg.sealed.toNat +
    32 * h.rngFail.toNat
  bytesLE 4 0x54535441 ++ bytesLE 1 1 ++ bytesLE 1 f.lcs ++ bytesLE 2 flags ++ identBytes s ++ padTo 32 nonce ++ bytesLE 8 s.tick ++
  (List.range 3).flatMap (fun k => bytesLE 2 (floorOf s k)) ++ (List.range 3).flatMap (fun k => bytesLE 1 (floorLog s k).length) ++
  bytesLE 3 0 ++ bytesLE 2 h.version ++ bytesLE 2 0 ++ padTo 64 h.digest ++
  (List.range 8).flatMap (fun c => bytesLE 4 (s.cluster c).version.toNat) ++ padTo 64 (codeDigest s) ++
  padTo 32 ((activeInstaller s).take 32) ++ bytesLE 1 (enrolled s f.operator f.revOper) ++ bytesLE 1 (enrolled s f.codeKey f.revCode) ++
  bytesLE 2 (f.revKik.foldl (fun a k => a ||| 2 ^ k) 0) ++ bytesLE 4 0 ++ bytesLE 8 (lastSeq s) ++ padTo 32 h.chain ++
  padTo 32 h.nonce ++ bytesLE 40 0

/-- Bytes with an identity-key signature behind them (R472, R481); its salt is a value the spec leaves open. -/
def signed (s : State) (b : List Byte) : List Byte := b ++ padTo 512 (Config.identSign s.hmk.fuses.root s.freeCtr b)

/-- Write signed bytes to a command's buffer; the next signature has a salt of its own. -/
def outputSigned (s : State) (c : CmdEnt) (b : List Byte) : State :=
  ({ s with freeCtr := s.freeCtr + 1 }).output c (signed s b)

/-- ATTEST (R482). -/
def execAttest (ring : Fin 1024) (slot : Nat) (s : State) : Out' :=
  onCmd s ring slot 0xB2 fun c => (outputSigned s c (evidence s (c.buf.take 32))).finish ring slot St.ok

/-! ### Roles (R486, R487) -/

/-- ROLE_CHALLENGE (R473, R486). -/
def execRoleChallenge (ring : Fin 1024) (slot : Nat) (s : State) : Out' :=
  onCmd s ring slot 0xB3 fun c =>
    if s.hmk.rngFail then s.finish ring slot St.busy
    else
      let d := rngDraw s 32
      let s1 := { d.1 with hmk := { d.1.hmk with challenges := fset d.1.hmk.challenges ring (d.2, s.tmu.tick) } }
      (s1.output c d.2).finish ring slot St.ok

/-- Header fields of a token (R486). -/
def tokFld (b : List Byte) (hi lo : Nat) : Nat := fld (ofBytes 1024 b : BitVec 1024) hi lo
def tokRole (b : List Byte) : Nat := tokFld b 7 0
def tokKey (b : List Byte) : Nat := tokFld b 15 8
def tokAction (b : List Byte) : Nat := tokFld b 23 16
def tokTarget (b : List Byte) : Nat := tokFld b 31 24
def tokDuration (b : List Byte) : Nat := tokFld b 95 64
def tokArg (b : List Byte) : List Byte := (b.drop 48).take 64

/-- Is the form of a token bad: a reserved encoding or bit, another ring, a TARGET out of range? -/
def tokBad (ring : Nat) (b : List Byte) (ticket : Bool) : Bool :=
  let role := tokRole b
  let act := tokAction b
  role = 0 || 3 < role || (if role = 2 then 4 else 8) ≤ tokKey b || tokFld b 41 32 != ring || tokFld b 63 42 != 0 ||
  tokFld b 127 96 != 0 || tokFld b 1023 896 != 0 || (if ticket then act = 0 || 8 < act else act != 0) ||
  (if act = 4 then 7 < tokTarget b else if act = 7 then 15 < tokTarget b else tokTarget b != 0) ||
  (!ticket && (tokDuration b = 0 || 86400 < tokDuration b))

/-- Is a token proved: the ring's challenge of the last 60 s, the role's key, its signature? -/
def tokProved (s : State) (ring : Nat) (b : List Byte) : Bool :=
  let modulus := (b.drop 128).take 512
  match ffind? s.hmk.challenges ring with
  | none => false
  | some (nonce, at_) =>
    (b.drop 16).take 32 == nonce && decide (s.tmu.tick ≤ at_ + 60 * giga) && roleKeyOk s (tokRole b) (tokKey b) modulus &&
    Config.pssVerify modulus (b.take 640) ((b.drop 640).take 512)

/-- A challenge has served. -/
def nonceSpent (s : State) (ring : Nat) : State := { s with hmk := { s.hmk with challenges := ferase s.hmk.challenges ring } }

/-- The status of a ROLE_AUTH (R486, R487). -/
def authStatus (s : State) (ring : Nat) (b : List Byte) : Nat :=
  if tokBad ring b false then St.badField
  else if !tokProved s ring b then St.authFail
  else if (s.session? ring).isNone && 16 ≤ openSessions s then St.noSpace
  else St.ok

/-- A record of a token's command, with the role and key of the token. -/
def tokRecord (s : State) (ring : Nat) (c : CmdEnt) (b : List Byte) (status : Nat) : AuditRec :=
  { kind := 2, role := tokRole b, key := tokKey b, fn := ringFn s ring, ring := ring, opcode := descOp c.desc, status := status,
    tag := fld c.desc 63 32, subject := bytesLE 1 (tokAction b) ++ (tokArg b).take 32 }

/-- ROLE_AUTH (R486, R487, R491). -/
def execRoleAuth (ring : Fin 1024) (slot : Nat) (s : State) : Out' :=
  onCmd s ring slot 0xB4 fun c =>
    let b := c.buf.take 1152
    let st := authStatus s ring b
    let s0 := sessionLapse s ring
    let s1 := if st = St.badField then s0 else nonceSpent s0 ring
    let opened := fset s1.hmk.sessions ring ⟨tokRole b, tokKey b, s.tmu.tick + giga * tokDuration b, tokDuration b⟩
    let s2 := if st = St.ok then { s1 with hmk := { s1.hmk with sessions := opened } } else s1
    (sessionRec s2 (tokRecord s ring c b st) 0 (tokDuration b)).finish ring slot st (if st = St.badField then 0xFF else 0)

/-- ROLE_CLOSE (R487). -/
def execRoleClose (ring : Fin 1024) (slot : Nat) (s : State) : Out' :=
  onCmd s ring slot 0xB5 fun c =>
    let a := { sessRecord s ring (s.session? ring) with opcode := 0xB5, tag := fld c.desc 63 32 }
    (sessionRec (sessionClose s ring) a 1 (((s.session? ring).map (·.lasts)).getD 0)).finish ring slot St.ok

/-- SESSION_EXPIRE (R487): a session's DURATION_S of ticks has passed. -/
def execSessionExpire (ring : Fin 1024) (s : State) : Out' :=
  match ffind? s.hmk.sessions ring with
  | none => .next s
  | some x =>
    let s1 := if s.tmu.counting then s.advance (realNs s (x.ends - s.tmu.tick)) else s
    .next (if s1.tmu.tick < x.ends then s else sessionLapse s1 ring)

/-! ### Life-cycle and tickets (R484, R485, R488, R489) -/

/-- Does a transition of R484 exist, and the role whose ticket makes it. -/
def lcRole (a b : Nat) : Option Nat :=
  match a, b with
  | 0, 1 | 1, 3 | 2, 3 | 0, 4 | 3, 4 => some 3
  | 1, 2 | 1, 4 | 2, 4 => some 2
  | _, _ => none

/-- Zeroise the Locket storage key and every key slot (R485, R489). -/
def locketWipe (s : State) : State :=
  let s1 := cipZeroBut s fun _ => false
  { s1 with cip := { s1.cip with storage := 0 } }

/-- Erase every key slot as KEY_ERASE does (R485). -/
def eraseAll (s : State) : State :=
  ((s.cip.slots.filter fun e => e.2.state != .idle && e.2.state != .erasing).map (·.1)).foldl (fun s k =>
    let s1 := eraseStart s k
    if eraseDrained s1 k then eraseEnd s1 k else s1) s

/-- A life-cycle transition, in the cycle its fuse is burned (R485). -/
def lcChange (s : State) (new : Nat) : State :=
  let was := s.lcs
  let f := { s.hmk.fuses with lcs := new, wiped := s.hmk.fuses.wiped || (was == 2 && new == 3) }
  let s0 := (s.hmk.sessions.map (·.1)).foldl sessionLapse s
  let s1 := { s0 with hmk := { s0.hmk with fuses := f, sessions := [] } }
  let s2 := hmkEvent (auditAdd s1 { kind := 6, subject := bytesLE 1 was ++ bytesLE 1 new }) 0xBB (nextSeq s1) new
  if was = 2 && new = 3 then eraseAll s2 else if new = 4 then locketWipe s2 else s2

/-- The next free slot of a bank of `n`. -/
def freeSlot (n : Nat) (m : FMap (List Byte)) : Option Nat := (List.range n).find? fun i => (ffind? m i).isNone

/-- Change the fuses. -/
def State.burn (s : State) (g : Fuses → Fuses) : State := { s with hmk := { s.hmk with fuses := g s.hmk.fuses } }

/-- LC_TRANSITION. -/
def actTransition (s : State) (role : Nat) (b : List Byte) : State × Nat :=
  let new := natLE ((tokArg b).take 1)
  match lcRole s.lcs new with
  | none => (s, St.badField)
  | some r =>
    if r ≠ role || (s.lcs = 2 && new = 3 && !s.hmk.consent) || (s.lcs = 1 && new = 2 && (activeInstaller s).isEmpty) then (s, St.denied)
    else (lcChange s new, St.ok)

/-- ENROL_INSTALLER: only in PROVISION; earlier slots are revoked. -/
def actInstaller (s : State) (role : Nat) (b : List Byte) : State × Nat :=
  if role ≠ 3 || s.lcs ≠ 1 then (s, St.denied)
  else match freeSlot 4 s.hmk.fuses.installer with
    | none => (s, St.noSpace)
    | some i => (s.burn fun f => { f with installer := fset f.installer i (tokArg b), revInst := f.revInst ++ List.range i }, St.ok)

/-- ENROL_OPERATOR: a slot already burned leaves no room (R528). -/
def actOperator (s : State) (role : Nat) (b : List Byte) : State × Nat :=
  let i := tokTarget b
  if role ≠ 2 then (s, St.denied)
  else if (ffind? s.hmk.fuses.operator i).isSome then (s, St.noSpace)
  else (s.burn fun f => { f with operator := fset f.operator i (tokArg b) }, St.ok)

/-- ENROL_CODE_KEY. -/
def actCodeKey (s : State) (role : Nat) (b : List Byte) : State × Nat :=
  if role ≠ 2 then (s, St.denied)
  else match freeSlot 4 s.hmk.fuses.codeKey with
    | none => (s, St.noSpace)
    | some i => (s.burn fun f => { f with codeKey := fset f.codeKey i (tokArg b) }, St.ok)

/-- REVOKE: an installer's ticket, or a maker's for installer and Kryldota slots. -/
def actRevoke (s : State) (role : Nat) (b : List Byte) : State × Nat :=
  let bank := Config.revokeBank (natLE ((tokArg b).take 1))
  let i := natLE (((tokArg b).drop 1).take 1)
  let top := match bank with | 0 => 4 | 1 => 8 | 2 => 4 | 3 => 16 | 4 => 8 | _ => 0
  if top ≤ i then (s, St.badField)
  else if role ≠ (if bank = 0 || bank = 4 then 3 else 2) then (s, St.denied)
  else (s.burn fun f => match bank with
    | 0 => { f with revInst := i :: f.revInst }
    | 1 => { f with revOper := i :: f.revOper }
    | 2 => { f with revCode := i :: f.revCode }
    | 3 => { f with revKik := i :: f.revKik }
    | _ => { f with revMaker := i :: f.revMaker }, St.ok)

/-- KIK_EXPORT: a key-import key sealed to the HSM's modulus, with a signature over the ciphertext. -/
def actKik (s : State) (role : Nat) (c : CmdEnt) (b : List Byte) : State × Nat :=
  let k := tokTarget b
  let modulus := (c.buf.drop 1152).take 512
  if role ≠ 2 then (s, St.denied)
  else if s.hmk.fuses.revKik.contains k || s.hmk.fuses.wiped then (s, St.keyStale)
  else if !hashIs modulus (tokArg b) then (s, St.authFail)
  else if s.hmk.rngFail then (s, St.busy)
  else
    let d := rngDraw s 64
    let ct := padTo 512 (Config.oaep modulus d.2 (Config.kik s.hmk.fuses.root (activeInstaller s) k))
    (outputSigned d.1 c ct, St.ok)

/-- DEBUG_UNLOCK: an installer's ticket in PROVISION, a maker's in RETURN. -/
def actDebug (s : State) (role : Nat) : State × Nat :=
  if (s.lcs = 1 && role = 2) || (s.lcs = 3 && role = 3) then
    let s1 := locketWipe s
    ({ s1 with hmk := { s1.hmk with debugOpen := true } }, St.ok)
  else (s, St.denied)

/-- What a ticket's action does (R489): the state and the status. -/
def ticketAct (s : State) (c : CmdEnt) (b : List Byte) : State × Nat :=
  let role := tokRole b
  match tokAction b with
  | 1 => actTransition s role b
  | 2 => if role = 2 then ({ s with hmk := { s.hmk with consent := true } }, St.ok) else (s, St.denied)
  | 3 => actInstaller s role b
  | 4 => actOperator s role b
  | 5 => actCodeKey s role b
  | 6 => actRevoke s role b
  | 7 => actKik s role c b
  | _ => actDebug s role

/-- TICKET_EXEC (R486, R488, R489, R491). -/
def execTicketExec (ring : Fin 1024) (slot : Nat) (s : State) : Out' :=
  onCmd s ring slot 0xB6 fun c =>
    let b := c.buf.take 1152
    let fin := fun (s' : State) (st detail : Nat) =>
      if st = St.denied then (deniedAdd s' ring c).finish ring slot st
      else (auditAdd s' (tokRecord s ring c b st)).finish ring slot st detail
    if tokBad ring b true then fin s St.badField 0xFF
    else if fld c.desc 223 192 ≠ (if tokAction b = 7 then 1664 else 1152) then fin s St.badField 24
    else if !tokProved s ring b then fin (nonceSpent s ring) St.authFail 0
    else
      let r := ticketAct (nonceSpent s ring) c b
      fin r.1 r.2 (if r.2 = St.badField then 0xFF else 0)

/-- CODE_KEY_LOAD (R472, R490): a code key's modulus, which serves until reset. -/
def execCodeKeyLoad (ring : Fin 1024) (slot : Nat) (s : State) : Out' :=
  onCmd s ring slot 0xB7 fun c =>
    let id := fld c.desc 79 64
    let m := c.buf.take 512
    let f := s.hmk.fuses
    if !(id ≤ 7 || (0x100 ≤ id && id ≤ 0x103)) then s.badField ring slot 8
    else if if id ≤ 7 then makerOk s id m else slotOk s f.codeKey f.revCode (id - 0x100) m then
      ({ s with hmk := { s.hmk with codeKeys := fset s.hmk.codeKeys id m } }).finish ring slot St.ok
    else s.finish ring slot St.authFail

/-! ### The audit log (R491-R494) -/

/-- The SEQ of the oldest record that stands in staging. -/
def stagedFrom (s : State) : Nat := s.hmk.seq - s.hmk.staging.length

/-- The unit of a record: from staging, or from HBM. -/
def auditUnit (s : State) (seq : Nat) : Unit128 :=
  if stagedFrom s ≤ seq then (s.hmk.staging[seq - stagedFrom s]?).getD 0 else s.unit (auditAddr seq / 128)

/-- Is a record readable: in staging, or in HBM with a tile check that holds? -/
def auditUnitOk (s : State) (seq : Nat) : Bool := stagedFrom s ≤ seq || unitOk (auditAddr seq) (auditUnit s seq)

/-- AUDIT_READ (R492, R494): records in HBM are out of reach while it is unavailable. -/
def execAuditRead (ring : Fin 1024) (slot : Nat) (s : State) : Out' :=
  onCmd s ring slot 0xB8 fun c =>
    let first := fld c.desc 287 224
    let n := min (fld c.desc 303 288) (s.hmk.seq - first)
    let seqs := (List.range n).map (first + ·)
    if first < s.hmk.released || s.hmk.seq ≤ first then s.finish ring slot St.notFound
    else if first < stagedFrom s && !auditHbm s then s.finish ring slot St.busy
    else if !seqs.all (auditUnitOk s) then s.finish ring slot St.dmaError
    else
      let s1 := (seqs.filter (· < stagedFrom s)).foldl (fun s q => memPost s 9 (auditAddr q) false 4) s
      (s1.output c (seqs.flatMap fun q => bytesOf (auditUnit s q))).finish ring slot St.ok 0 (first + n - 1)

/-- AUDIT_RELEASE (R491, R493, R494). -/
def execAuditRelease (ring : Fin 1024) (slot : Nat) (s : State) : Out' :=
  onCmd s ring slot 0xB9 fun c =>
    let n := fld c.desc 287 224
    if n < s.hmk.released || s.hmk.seq ≤ n then (auditCmd s ring c 9 St.notFound (bytesLE 8 n)).finish ring slot St.notFound
    else
      let s1 := { s with hmk := { s.hmk with released := n + 1, staging := s.hmk.staging.drop (n + 1 - stagedFrom s) } }
      let s2 := if auditHeld s1 < 445644 then { s1 with hmk := { s1.hmk with auditArmed := true } } else s1
      (auditCmd s2 ring c 9 St.ok (bytesLE 8 n)).finish ring slot St.ok

/-- AUDIT_SEAL (R494). -/
def execAuditSeal (ring : Fin 1024) (slot : Nat) (s : State) : Out' :=
  onCmd s ring slot 0xBA fun c =>
    let b := identBytes s ++ padTo 32 s.hmk.nonce ++ bytesLE 8 (lastSeq s) ++ padTo 32 s.hmk.chain ++ padTo 32 (c.buf.take 32)
    (outputSigned s c b).finish ring slot St.ok

/-- AUDIT_RECORD_WRITE (R492): the oldest staged record goes to the audit region. -/
def execAuditRecordWrite (s : State) : Out' :=
  match s.hmk.staging with
  | u :: us =>
    if auditHbm s then
      let a := auditAddr (stagedFrom s)
      .next ((memPost { s with hmk := { s.hmk with staging := us } } 9 a true 4).setUnit (a / 128) u)
    else .next s
  | [] => .next s

/-- DENIED_RECORD (R491): the end of a ring's one-second window. -/
def execDeniedRecord (ring : Fin 1024) (s0 : State) : Out' :=
  match ffind? s0.hmk.denied ring with
  | none => .next s0
  | some d =>
    let s := s0.reach (d.since + giga)
    let x := s.session? ring
    let s1 := { s with hmk := { s.hmk with denied := ferase s.hmk.denied ring } }
    let sub := bytesLE 4 d.opcode ++ bytesLE 4 d.count
    let a : AuditRec := { kind := 4, fn := d.fn, ring := ring.val, opcode := d.opcode, status := d.status, tag := d.tag, subject := sub }
    .next (auditAdd s1 { a with role := (x.map (·.role)).getD 0, key := (x.map (·.key)).getD 0 })

/-! ### Re-verification (R479) -/

/-- The bytes of a physical page as its ECC reads them. -/
def pageBytes (x : Cluster) (p : Nat) : List Byte := (List.range 128).flatMap fun i => bytesOf (x.readWord (128 * p + i))

/-- Does a page fail: a word that ECC cannot correct, or a digest that differs? -/
def pageFails (s : State) (c p : Nat) : Bool :=
  let x := s.cluster c
  (x.eccErr.any fun e => e.1 / 128 == p && e.2 == 2) || Config.sha512 (pageBytes x p) != fget s.hmk.digests [] (256 * c + p)

/-- A page found changed: its record, its event, and Solitaire entry. -/
def reverifyFail (s : State) (c p : Nat) : State :=
  let s1 := hmkEvent (auditAdd s { kind := 8, subject := bytesLE 1 c ++ bytesLE 1 p }) 0xBA (nextSeq s) c
  soloEnter { s1 with hmk := { s1.hmk with revMiss := true } } 2

/-- Hallmark's own firmware found changed; what its record names as cluster and page is not stated. -/
def reverifyOwn (s : State) : State :=
  if Config.sha512 s.hmk.firmware == s.hmk.ownDigest then s
  else reverifyFail s.free.2 (s.free.1 % 256) (s.free.1 / 256 % 256)

/-- REVERIFY_PASS (R479, R517): every INTERVAL_MS, one pass over the pages in use of the clusters that are ON, and over Hallmark's own
firmware. A pass without mismatch clears the cause. -/
def execReverifyPass (s0 : State) : Out' :=
  if s0.hmk.boot ≠ 2 then .next s0
  else
    let s := s0.reach (s0.hmk.revAt + 1000000 * s0.rf Reg.HMK_REVERIFY_CTRL 15 0)
    let bad := ((List.range 8).filter fun c => s.domain (domCluster c) == .on).flatMap fun c =>
      ((usedPages (s.cluster c)).filter (pageFails s c)).map fun p => (c, p)
    let s1 := { s with hmk := { s.hmk with passes := (s.hmk.passes + 1) % 2 ^ 32, revMiss := false, revAt := s.ns } }
    let s2 := reverifyOwn (bad.foldl (fun s e => reverifyFail s e.1 e.2) s1)
    .next (if s2.hmk.revMiss then s2 else { s2 with hlt := { s2.hlt with active := s2.hlt.active.filter (· != 2) } })

end Sys2Proof.Machine
end

