-- ==== Sys2Proof/Machine/Health.lean ====
section
/-!
DEFINITION. Machine/Health.lean: power domains, temperature, BIST, the health record, the commands of Solitaire mode and of the keel
table (R499-R510, R514-R518).
-/

namespace Sys2Proof.Machine

open Sys2Proof

/-! ### Power domains (R499-R503) -/

/-- The states that a domain takes (R501). -/
def domTakes (d : Nat) (p : Pwr) : Bool :=
  match p with
  | .on => true
  | .retain => (17 ≤ d && d ≤ 52) || (55 ≤ d && d ≤ 60)
  | .off => d != 0 && !(29 ≤ d && d ≤ 36)

/-- Is a domain in transition? -/
def domMoves (s : State) (d : Nat) : Bool := (ffind? s.hlt.moving d).isSome

/-- The state that a domain will have once a command that takes the named domains to `t`, and every other command, has completed
(R501). -/
def domWillBe (s : State) (mask : List Nat) (t : Pwr) (d : Nat) : Pwr :=
  if mask.contains d then t
  else match ffind? s.hlt.moving d with
    | some m => m.target
    | none => s.domain d

/-- Slots that are not IDLE, CIP_ACTIVE_SLOTS (R357). -/
def activeSlots (s : State) : Nat := (s.cip.slots.filter fun e => e.2.state != .idle).length

/-- The condition of a domain that is to go OFF from wherever it stands (R501). -/
def offAllowed (s : State) (d : Nat) : Bool :=
  if d = 55 || d = 56 then activeSlots s == 0
  else if 57 ≤ d && d ≤ 60 then (s.stack (d - 57)).lost
  else d != 53 && d != 54 && d < 61

/-- The condition for a domain to leave ON (R501). -/
def leaveAllowed (s : State) (mask : List Nat) (t : Pwr) (d : Nat) : Bool :=
  let will := domWillBe s mask t
  if 1 ≤ d && d ≤ 16 then fget s.lif.modes 0 (2 * (d - 1)) == 0 && fget s.lif.modes 0 (2 * (d - 1) + 1) == 0
  else if 17 ≤ d && d ≤ 20 then (List.range 4).all fun i => will (1 + 4 * (d - 17) + i) == .off
  else if 21 ≤ d && d ≤ 28 then
    will (1 + 2 * (d - 21)) == .off && will (2 + 2 * (d - 21)) == .off && will (d + 8) != .on
  else if 29 ≤ d && d ≤ 36 then will (d - 8) != .on || s.hlt.solo
  else if 37 ≤ d && d ≤ 52 then s.hlt.solo
  else if d = 55 || d = 56 then
    mask.contains 55 && mask.contains 56 && (s.cip.queues.all fun e => e.2.isEmpty) && s.cip.cores.isEmpty
  else if 57 ≤ d && d ≤ 60 && t == .retain then s.hlt.solo
  else true

/-- Is a return of a domain to ON refused (R501)? -/
def onRefused (s : State) (d : Nat) : Bool :=
  (57 ≤ d && d ≤ 60 && s.domain d == .off) || ((domainGroups d).any fun g => fget s.hlt.groups 0xFF g == 0xFE) ||
  (29 ≤ d && d ≤ 36 && s.hlt.bistClusters.contains (d - 29))

/-- Is the condition of a named domain met (R501)? -/
def powerMet (s : State) (mask : List Nat) (t : Pwr) (d : Nat) : Bool :=
  if s.domain d == t then true
  else match t with
    | .on => !onRefused s d
    | .retain =>
      if s.domain d == .on then leaveAllowed s mask t d else !(57 ≤ d && d ≤ 60)
    | .off => offAllowed s d && (s.domain d != .on || leaveAllowed s mask t d)

/-- A cluster leaves ON: the packets of its window leave as holes. -/
def clusterStop (s : State) (c : Nat) : State :=
  ((s.cluster c).pkts.map (·.arr)).foldl (fun s a => match s.pkt? c a with
    | some p => leave (placeFree s c a) c p (.hole 4)
    | none => s) s

/-- A pipeline leaves ON: what a TCAM_WRITE still had to do there fails. -/
def pipeStop (s : State) (p : Nat) : State :=
  let js := (s.tcmOf p).jobs
  let s1 := s.setTcm p { s.tcmOf p with move := none, jobs := js.map fun j => { j with
    left := [], fails := j.fails ++ j.left.map fun e => (e.1, St.busy) } }
  js.foldl (fun s j => tcmFinish (tcmLand s j.ring j.slot p) j.ring j.slot) s1

/-- What a domain loses with its clocks, as it leaves ON (R414, R500). -/
def domStop (s : State) (d : Nat) : State :=
  let s1 := spareAbandon s d
  if 21 ≤ d && d ≤ 28 then pipeStop s1 (d - 21)
  else if 29 ≤ d && d ≤ 36 then clusterStop s1 (d - 29)
  else if 37 ≤ d && d ≤ 52 then s1.modSlice (d - 37) fun x => { x with starting := false }
  else s1

/-- The key cache goes OFF (R500): what has changed is sealed back first, and no slot stays cached or pinned. -/
def cacheLose (s : State) : State :=
  let s1 := s.cip.cached.foldl cipEvict s
  { s1 with cip := { s1.cip with pinned := [], fetching := [] } }

/-- The memories of a domain are lost, with what ring commands wrote into them (R500). -/
def domLose (s : State) (d : Nat) : State :=
  if 21 ≤ d && d ≤ 28 then
    let p := d - 21
    let s1 := ((s.setPipe p {}).setFwd p {}).setTcm p {}
    { s1 with
      swc := { s1.swc with rewrites := fkeep s1.swc.rewrites fun k => k / 256 != p }
      hlt := { s1.hlt with keelGone := ((s1.hlt.keel.map fun e => 4096 * p + e.1) ++ s1.hlt.keelGone).eraseDups } }
  else if 29 ≤ d && d ≤ 36 then s.setCluster (d - 29) {}
  else if 37 ≤ d && d ≤ 52 then s.setSlice (d - 37) { flightNo := (s.slice (d - 37)).flightNo }
  else if d = 55 || d = 56 then cacheLose s
  else s

/-- Ports that should run start again as their line returns (R386, R503). -/
def domLine (s : State) (d : Nat) : State :=
  let os := if d ≤ 16 then [d - 1] else (List.range 4).map (4 * (d - 17) + ·)
  let ns := os.flatMap fun o => (List.range 8).map (8 * o + ·)
  forAll s (ns.filter fun n => portExists s n && (s.port n).admin && (s.port n).state == 0) portStart

/-- A domain's transition is complete (R500, R503). -/
def domArrive (s : State) (d : Nat) (p : Pwr) : State :=
  let s1 := if p == .off then domLose s d else s
  let s2 := { s1 with hlt := { s1.hlt with domain := fput s1.hlt.domain .on d p, moving := ferase s1.hlt.moving d } }
  if p == .on && 1 ≤ d && d ≤ 20 then domLine s2 d else if p == .on && 57 ≤ d && d ≤ 60 then retrainFresh s2 (d - 57) else s2

/-- The transition of a named domain starts: what leaves ON stops at once. -/
def domStart (s : State) (t : Pwr) (ring slot d : Nat) : State :=
  let s1 := { s with hlt := { s.hlt with moving := fset s.hlt.moving d ⟨t, ring, slot⟩ } }
  if s.domain d == .on then
    domStop { s1 with hlt := { s1.hlt with domain := fput s1.hlt.domain .on d (if domTakes d .retain then .retain else .off) } } d
  else s1

/-- End a POWER_SET, with its interrupt source (R519). -/
def powerEnd (s : State) (ring slot status detail : Nat) : State := intRaise (s.finish ring slot status detail) 0 3

/-- POWER_TRANSITION_DONE (R414, R503): a domain reaches its state once its test slices are idle; the last of a command's
transitions completes it. -/
def execPowerTransitionDone (domain : Fin 64) (s : State) : Out' :=
  match ffind? s.hlt.moving domain with
  | none => .next s
  | some m =>
    if m.target != .on && !sparesIdle s domain then .next s
    else
      let s1 := domArrive s domain m.target
      .next (if s1.hlt.moving.any fun e => e.2.ring == m.ring && e.2.slot == m.slot then s1
             else powerEnd s1 m.ring m.slot St.ok 0)

/-- Everything from D1 to D63 is OFF (R502): set-up registers, fuses and what D0 holds stay. -/
def shutDown (s : State) : State :=
  let h := s.hlt
  { pending := s.pending, regs := s.regs, busRead := s.busRead, ns := s.ns, freeCtr := s.freeCtr, out := s.out, hostMem := s.hostMem,
    pkg := s.pkg,
    hmk := { fuses := s.hmk.fuses, draws := s.hmk.draws },
    lif := { refLost := s.lif.refLost },
    hlt := { domain := (List.range 63).map fun i => (i + 1, Pwr.off), shutdown := true, dieTemp := h.dieTemp, hbmTemp := h.hbmTemp, tempAt := h.tempAt,
             warn := h.warn, warnArmed := h.warnArmed, trip := h.trip, crit := h.crit, hotPrev := h.hotPrev,
             peakDie := h.peakDie, peakHbm := h.peakHbm, trips := h.trips, soloEntries := h.soloEntries, lastCause := h.lastCause,
             solo := h.solo, cause := h.cause, causes := h.causes, active := h.active, groups := h.groups,
             healthLoaded := h.healthLoaded, degraded := h.degraded } }

/-- Copies of test slices are abandoned in the domains that are to be shut down (R414). -/
def sparesAbandon (s : State) : State := forAll s ((List.range 63).map (· + 1)) spareAbandon

/-- POWER_SET (R414, R501-R503, R519): it waits for an earlier command's transition of a domain it names, and with SHUTDOWN for the test
slices. -/
def execPowerSet (ring : Fin 1024) (slot : Nat) (s : State) : Out' :=
  onCmd s ring slot 0xD0 fun c =>
    let mask := maskList 64 (fld c.desc 127 64)
    let t : Pwr := match fld c.desc 193 192 with | 0 => .on | 1 => .retain | _ => .off
    if t == .off && bit c.desc 194 then
      if fld c.desc 127 64 != 2 ^ 64 - 2 then intRaise (s.badField ring slot 8) 0 3
      else
        let s1 := sparesAbandon s
        if (List.range 63).all fun i => sparesIdle s1 (i + 1) then
          shutDown (intRaise (completeCmd (s1.finish ring slot St.ok) ring slot) 0 3)
        else s1
    else if mask.any fun d => !domTakes d t then intRaise (s.badField ring slot 24) 0 3
    else if mask.any (domMoves s) then s
    else if mask.any fun d => !powerMet s mask t d then powerEnd s ring slot St.busy 0
    else
      let ds := mask.filter fun d => s.domain d != t
      if ds.isEmpty then powerEnd s ring slot St.ok 0
      else forAll (s.modCmd ring slot fun c => { c with phase := .running }) ds fun s d => domStart s t ring slot d

/-! ### Temperature (R373, R505, R506, R561) -/

/-- The highest of some readings, `d` of none. -/
def hottestOf (m : FMap Int) (d : Int) : Int :=
  match m.map (·.2) with
  | [] => d
  | t :: ts => ts.foldl max t

/-- Store a sample's readings, as signed bytes. -/
def tempPut (m : FMap Int) (n : Nat) (ts : List Int) : FMap Int :=
  (ts.take n).zipIdx.foldl (fun (m : FMap Int) e => fset m e.2 (clampInt (-128) 127 e.1)) m

/-- A stack is HOT above 85 °C (R373, R382): the bit and its interrupt source. A change retrains the stack at once (R407). -/
def stackHot (s : State) (h : Nat) : State :=
  let hot := decide (85 < fget s.hlt.hbmTemp 0 h)
  let x := s.stack h
  let s1 := s.setStack h { x with hot := hot }
  let s2 := if hot != x.hot then forAll s1 (List.range 32) fun s c => retrainStart s h c else s1
  if hot && !x.hot then intRaise s2 14 3 else s2

/-- WARN, and its event once the reading has been 5 °C below (R506). -/
def thermWarn (s : State) (die : Int) : State :=
  let w : Int := (s.rf Reg.HLT_THERM_CTRL 7 0 : Nat)
  let h := s.hlt
  let s1 := { s with hlt := { h with warn := decide (w ≤ die), warnArmed := if w ≤ die then false else h.warnArmed || die ≤ w - 5 } }
  let s2 := if w ≤ die && !h.warn then intRaise s1 14 0 else s1
  if w ≤ die && h.warnArmed then hltEvent s2 0xD2 0 (hottest s2) else s2

/-- TRIP: two samples in a row at 110 °C or above set it; it clears once every sensor reads 100 °C or below (R506, R511). After a
shut-down there is nothing that could enter Solitaire mode. -/
def thermTrip (s : State) (die : Int) : State :=
  let h := s.hlt
  let s1 := { s with hlt := { h with hotPrev := decide (110 ≤ die) } }
  if 110 ≤ die && h.hotPrev && !h.trip then
    let s2 := intRaise { s1 with hlt := { s1.hlt with trip := true, trips := if h.solo || h.shutdown then h.trips else h.trips + 1 } } 14 1
    if h.shutdown then s2 else soloEnter s2 1
  else if die ≤ 100 && h.trip then
    { s1 with hlt := { s1.hlt with trip := false, active := s1.hlt.active.filter (· != 1) } }
  else s1

/-- CRIT: THERMTRIP_N is driven low and latched (R506, R561). -/
def thermCrit (s : State) (die : Int) : State :=
  if 120 ≤ die then
    let s1 := { s with hlt := { s.hlt with crit := true }, pkg := { s.pkg with thermtrip := true } }
    if s.hlt.crit then s1 else intRaise s1 14 2
  else s

/-- TEMP_SAMPLE (R505, R506): the sensors are sampled, every 100 µs. After a shut-down D0 reads the die alone. -/
def execTempSample (dieC hbmC : List Int) (s0 : State) : Out' :=
  if s0.pkg.inReset then .next s0
  else
    let s := s0.reach (s0.hlt.tempAt + 100000)
    let h := s.hlt
    let dt := tempPut h.dieTemp 16 dieC
    let ht := tempPut h.hbmTemp 4 hbmC
    let die := hottestOf dt 0
    let peak := fun (p : Option Int) (t : Int) => some (max (p.getD t) t)
    let s1 := { s with hlt := { h with
      dieTemp := dt, hbmTemp := ht, tempAt := s.ns, peakDie := if dt.isEmpty then none else peak h.peakDie die,
      peakHbm := if ht.isEmpty then none else peak h.peakHbm (hottestOf ht 0) } }
    if dt.isEmpty then .next s1
    else
      let s2 := if h.shutdown then s1 else forAll s1 (List.range 4) stackHot
      .next (thermCrit (thermTrip (thermWarn s2 die) die) die)

/-! ### The health record (R508-R510) -/

/-- Bytes 0x00 to 0x13F of the health record (R508). -/
def healthBody (s : State) : List Byte :=
  let h := s.hlt
  let sb := fun (p : Option Int) => bytesOf (ofSigned 8 (p.getD 0))
  bytesLE 4 0x54484C48 ++ bytesLE 1 1 ++ bytesLE 3 0 ++ identBytes s ++ padTo 32 s.hmk.nonce ++ bytesLE 8 s.tick ++
  (List.range 224).flatMap (fun g => bytesLE 1 (fget h.groups 0xFF g)) ++
  bytesLE 16 ((List.range 128).foldl (fun m b => if blockHeld s b then m + 2 ^ b else m) 0) ++
  sb h.peakDie ++ sb h.peakHbm ++ bytesLE 2 (min h.trips 0xFFFF) ++ bytesLE 3 (min h.soloEntries 0xFFFFFF) ++ bytesLE 1 h.lastCause ++
  bytesLE 16 0

/-- The MAC of a record's body. -/
def healthMac (s : State) (b : List Byte) : List Byte := padTo 64 (Config.healthMac s.hmk.fuses.root b)

/-- The health record as it stands. -/
def healthRecord (s : State) : List Byte := healthBody s ++ healthMac s (healthBody s)

/-- HEALTH_RECORD_READ (R509). -/
def execHealthRecordRead (ring : Fin 1024) (slot : Nat) (s : State) : Out' :=
  onCmd s ring slot 0xD5 fun c => (s.output c (healthRecord s)).finish ring slot St.ok

/-- A byte of a record. -/
def recByte (b : List Byte) (i : Nat) : Nat := ((b[i]?).getD 0).toNat

/-- A record's format error (R508, R509). -/
def healthBad (b : List Byte) : Bool :=
  natLE (b.take 4) != 0x54484C48 || recByte b 4 != 1 || ((b.drop 5).take 3).any (· != 0) || ((b.drop 0x130).take 16).any (· != 0) ||
  ((List.range 224).any fun g => let v := recByte b (0x38 + g); v != 0xFF && v != 0xFE && groupMacros g ≤ v)

/-- Every cell of a block is withheld, or will be once it is freed; BLOCK_QUARANTINE is raised (R307, R509). Before the buffer is in
service its pools have no layout: each cell is withheld for itself. -/
def blockQuarantine (s : State) (b : Nat) : State :=
  let p := blockPool s b
  let cs := (List.range 4096).map (4096 * b + ·)
  let lent := fun c => !bufEnabled s || p != 0 && (lentOf s c).isSome
  let used := cs.filter fun c => if p = 0 || lent c then s.cellTag c == .swc || s.cellTag c == .hif
    else s.bufTag (c - c % poolCells s p) == .swc || s.bufTag (c - c % poolCells s p) == .hif
  let free := cs.filter fun c => !used.contains c
  let tags := (free.filter fun c => p = 0 || lent c).foldl (fun m c => fset m c .quarantine) s.bpm.cellTag
  let bufs := (free.filter fun c => p != 0 && !lent c && c % poolCells s p == 0).foldl (fun m c => fset m c .quarantine) s.bpm.bufTag
  let s1 := { s with bpm := { s.bpm with cellTag := tags, bufTag := bufs }, swc := { s.swc with condemned := used ++ s.swc.condemned } }
  swcEvent s1 0x69 [(97, 91, b)]

/-- A group's macro is retired (R412), with the spare already in service; a group without a spare becomes unusable. -/
def groupRetire (s : State) (g m : Nat) : State :=
  match ffind? s.hlt.groups g with
  | some n => if n = m then s else { s with hlt := { s.hlt with groups := fset s.hlt.groups g 0xFE, degraded := s.hlt.degraded || 128 ≤ g } }
  | none => ({ s with hlt := { s.hlt with groups := fset s.hlt.groups g m } }).setSpare g { s.spare g with phase := 0, retired := some m }

/-- Apply a loaded record's finding on a group (R509). -/
def groupLoad (s : State) (g v : Nat) : State :=
  if v = 0xFF then s
  else if v = 0xFE then
    { s with hlt := { s.hlt with groups := fset s.hlt.groups g 0xFE, degraded := s.hlt.degraded || 128 ≤ g } }
  else groupRetire s g v

/-- HEALTH_RECORD_LOAD (R509): the union of the record and the device's own findings. -/
def execHealthRecordLoad (ring : Fin 1024) (slot : Nat) (s : State) : Out' :=
  onCmd s ring slot 0xD6 fun c =>
    let b := c.buf.take 384
    if s.pkg.sealed then s.finish ring slot St.busy
    else if healthBad b then s.badField ring slot
    else if (b.drop 0x140) != healthMac s (b.take 0x140) || (b.drop 8).take 8 != identBytes s then s.finish ring slot St.authFail
    else
      let s1 := forAll s (List.range 224) fun s g => groupLoad s g (recByte b (0x38 + g))
      let q := natLE ((b.drop 0x118).take 16)
      let bad := (List.range 128).filter fun k => q.testBit k || fget s1.hlt.groups 0xFF k == 0xFE
      let s2 := forAll s1 bad blockQuarantine
      ({ s2 with hlt := { s2.hlt with healthLoaded := true } }).finish ring slot St.ok

/-! ### BIST (R507) -/

/-- End a command with its audit record where it is privileged (R491). -/
def endCmd (s : State) (ring slot : Nat) (c : CmdEnt) (st detail result : Nat) : State :=
  if cmdPrivileged s c.desc then auditFinish s ring slot c st [] detail result else s.finish ring slot st detail result

/-- A domain after its test: contents are destroyed, and it goes OFF where R501 allows it. -/
def bistLeave (s : State) (d : Nat) : State :=
  let off := domTakes d .off && offAllowed s d
  let cipher := d = 55 || d = 56
  let s1 := if cipher then
      { s with cip := { s.cip with upset := s.cip.cached.foldl (fun m k => fset m k 2) s.cip.upset } } else s
  let s2 := if (57 ≤ d && d ≤ 60) || (cipher && !off) then s1 else domLose s1 d
  let s3 := if 29 ≤ d && d ≤ 36 then { s2 with hlt := { s2.hlt with bistClusters := (d - 29) :: s2.hlt.bistClusters } } else s2
  if off then { s3 with hlt := { s3.hlt with domain := fput s3.hlt.domain .on d .off } } else s3

/-- A macro that fails BIST (R412, R507); the number after the last live macro stands for the spare. A macro that has been retired
fails without effect; any other failure in a group that has no spare left makes it unusable. -/
def bistMacro (s : State) (g m : Nat) : State :=
  if ffind? s.hlt.groups g == some m then s
  else if (ffind? s.hlt.groups g).isSome || m = groupMacros g then
    { s with hlt := { s.hlt with groups := fset s.hlt.groups g 0xFE, degraded := s.hlt.degraded || 128 ≤ g } }
  else
    let s1 := groupRetire s g m
    intRaise (spareEvent s1 0xB0 g m (s1.spare g).passes) 0 2

/-- BIST_RUN (R507): `domainFails` are the domains whose logic fails, `macroFails` the macros that do, as group and macro; a domain fails
where its logic or a macro of it does. -/
def execBistRun (ring : Fin 1024) (slot : Nat) (domainFails : BitVec 64) (macroFails : List (Nat × Nat)) (s : State) : Out' :=
  onCmd s ring slot 0xD7 fun c =>
    let m := fld c.desc 127 64
    let mask := maskList 64 m
    if mask.any fun d => s.domain d != .retain || domMoves s d then endCmd s ring slot c St.busy 0 0
    else
      let ms := macroFails.filter fun e => e.1 < 224 && e.2 ≤ groupMacros e.1 && mask.contains (groupDomain e.1)
      let s1 := ms.foldl (fun s e => bistMacro s e.1 e.2) s
      let s2 := forAll s1 mask bistLeave
      let bad := ms.foldl (fun k e => k ||| 2 ^ groupDomain e.1) (domainFails.toNat &&& m)
      endCmd (s2.output c (healthRecord s2)) ring slot c St.ok 0 bad

/-! ### Solitaire mode (R511, R517) -/

/-- Does a cause that is no command hold (R506, R511): a stack lost, TRIP, a page found changed? -/
def causeHolds (s : State) (cause : Nat) : Bool :=
  match cause with
  | 0 => (List.range 4).any fun h => (s.stack h).lost
  | 1 => s.hlt.trip
  | 2 => s.hmk.revMiss
  | _ => false

/-- SOLITAIRE_ENTER (R511, R518): the host's command, or a cause that holds. The cause HOST clears at once (R517). -/
def execSolitaireEnter (cause : Fin 4) (ring : Fin 1024) (slot : Nat) (s : State) : Out' :=
  if cause.val = 3 then
    onCmd s ring slot 0xD1 fun _ =>
      let s1 := soloEnter s 3
      ({ s1 with hlt := { s1.hlt with active := s1.hlt.active.filter (· != 3) } }).finish ring slot St.ok
  else .next (if causeHolds s cause && !s.hlt.shutdown then soloEnter s cause else s)

/-- Does SOLITAIRE_EXIT find the mode's conditions met (R517)? -/
def exitAllowed (s : State) : Bool :=
  s.hlt.active.isEmpty &&
  ((List.range 4).all fun h => s.domain (domMem h) == .on && (s.stack h).trained && !(s.stack h).lost) &&
  ((List.range 16).all fun i => s.domain (domSlice i) == .on) && s.domain 55 == .on && s.domain 56 == .on &&
  (List.range 8).all fun c => s.domain (domPipe c) != .on || s.domain (domCluster c) == .on

/-- The mode ends (R58, R356, R517): slices restart, with the audit record and the event. -/
def soloExit (s : State) (ring slot : Nat) (c : CmdEnt) : State :=
  let s1 := { s with hlt := { s.hlt with solo := false, exiting := none } }
  let s2 := cipSoloExit (if bit (s.reg Reg.FLW_CTRL) 0 then forAll s1 (List.range 16) sliceStart else s1)
  let s3 := endCmd (soloRecord s2 1 s.hlt.cause) ring slot c St.ok 0 0
  intRaise (hltEvent s3 0xD1 0 (hottest s3)) 15 1

/-- SOLITAIRE_EXIT (R58, R356, R517, R518): the command is accepted, then the pipelines return to their path tables; a cause that comes
up between abandons the exit. Outside the mode nothing changes. -/
def execSolitaireExit (ring : Fin 1024) (slot : Nat) (s : State) : Out' :=
  match s.cmd? ring slot with
  | some c =>
    if c.phase == .running && descOp c.desc == 0xD2 then
      .next (if s.hlt.exiting == some (ring.val, slot) then soloExit s ring slot c else endCmd s ring slot c St.busy 0 0)
    else
      onCmd s ring slot 0xD2 fun c =>
        if !exitAllowed s then endCmd s ring slot c St.busy 0 0
        else if !s.hlt.solo then endCmd s ring slot c St.ok 0 0
        else
          let s1 := s.modCmd ring slot fun c => { c with phase := .running }
          { s1 with hlt := { s1.hlt with exiting := some (ring.val, slot) } }
  | none => .next s

/-! ### The keel table (R514, R516, R521) -/

/-- An entry with a reserved bit or a reserved encoding (R513, R514). -/
def keelEntBad (e : BitVec 256) : Bool := !zeroFields e [(95, 84), (159, 151), (255, 161)] || fld e 83 82 == 3

/-- Does another valid entry hold a valid entry's key? -/
def keelClash (s : State) (i : Nat) (e : BitVec 256) : Bool :=
  keelValid e && s.hlt.keel.any fun x => x.1 != i && keelHeld s x.1 && keelValid x.2 && keelEntKey x.2 == keelEntKey e

/-- Write one entry into all eight copies. -/
def keelPut (s : State) (i : Nat) (e : BitVec 256) : State :=
  { s with hlt := { s.hlt with
    keel := fput s.hlt.keel 0 i e, keelBad := s.hlt.keelBad.filter (· != i), keelGone := s.hlt.keelGone.filter (· % 4096 != i) } }

/-- KEEL_WRITE (R516): an entry that clashes is left out, and the others apply. -/
def execKeelWrite (ring : Fin 1024) (slot : Nat) (s : State) : Out' :=
  onCmd s ring slot 0xD3 fun c =>
    let es := entriesOf 256 (fld c.desc 239 224) c.buf
    if es.any keelEntBad then endCmd s ring slot c St.badField 0xFF 0
    else
      let r := (es.zipIdx (fld c.desc 223 208)).foldl (fun (a : State × Nat) e =>
        if keelClash a.1 e.2 e.1 then (a.1, St.exists_) else (keelPut a.1 e.2 e.1, a.2)) (s, St.ok)
      endCmd r.1 ring slot c r.2 0 0

/-- KEEL_READ (R521). -/
def execKeelRead (ring : Fin 1024) (slot : Nat) (s : State) : Out' :=
  onCmd s ring slot 0xD4 fun c =>
    let first := fld c.desc 223 208
    (s.output c ((List.range (fld c.desc 239 224)).flatMap fun i =>
      bytesOf (if keelHeld s (first + i) then fget s.hlt.keel 0 (first + i) else 0))).finish ring slot St.ok

end Sys2Proof.Machine
end

