-- ==== Sys2Proof/Machine/Memory.lean ====
section
/-!
DEFINITION. Machine/Memory.lean: HBM and the time-slot arbiter (R359-R382, R407-R409).
-/

namespace Sys2Proof.Machine

open Sys2Proof

/-! ### Slot tables and settings (R365, R368, R369) -/

/-- An entry of a bank of a stack's slot table. -/
def slotOwner (x : Stack) (bank : Bool) (n : Nat) : Nat := fget x.table (slotReset n) (256 * bank.toNat + n)

/-- The slot that runs at a time: slots last 80 ns, and the table wraps after 256 (R365). -/
def slotNow (s : State) : Nat := s.ns / 80 % 256

/-- The deadline-first arbiter is in use (R371). -/
def deadlineMode (s : State) (h : Nat) : Bool := bit (s.reg (Reg.MEM_ARB_CTRL h)) 0

/-- A requester's settings at a decision of a pseudo-channel (R368): one decision may still use a value just replaced. -/
def reqCfg (s : State) (h c r : Nat) : W32 :=
  let x := s.stack h
  match ffind? x.oldCfg (32 * c + r) with
  | some w => if s.ns ≤ x.oldAt + 2 && s.free.1 % 2 == 1 then w else s.reg (Reg.MEM_REQ_CFG h r)
  | none => s.reg (Reg.MEM_REQ_CFG h r)

/-- A decision of a pseudo-channel has been made: later ones use the new settings. -/
def cfgSettle (s : State) (h c : Nat) : State :=
  let x := s.stack h
  if x.oldCfg.any fun e => e.1 / 32 == c then
    s.free.2.setStack h { x with oldCfg := fkeep x.oldCfg fun k => k / 32 != c }
  else s

/-- A write of MEM_REQ_CFG (R368, R382): PRIORITY, BURST_LIMIT and TARGET_NS of a requester. -/
def reqCfgWrite (s : State) (h r : Nat) (v : W32) : State :=
  if !(4 ≤ fld v 12 4 && fld v 12 4 ≤ 256) || fld v 31 16 = 0 then badWrite s
  else
    let x := s.stack h
    let old := s.reg (Reg.MEM_REQ_CFG h r)
    let olds := (List.range 32).foldl (fun m c => fset m (32 * c + r) old) x.oldCfg
    (s.setStack h { x with oldCfg := olds, oldAt := s.ns }).setReg (Reg.MEM_REQ_CFG h r) (v &&& 0xFFFF1FF7)

/-- MEM_REQ_CFG_WRITE (R10, R368, R382): above requester 11 no register is mapped. -/
def execMemReqCfgWrite (stack : Fin 4) (requester : Fin 32) (value : W64) (s : State) : Out' :=
  onBar s (if requester.val < 12 then reqCfgWrite s stack requester (BitVec.ofNat 32 value.toNat) else badWrite s)

/-- MEM_SLOT_TABLE_WRITE (R369, R379): the shadow banks are written; the stacks switch at the table wrap. -/
def execMemSlotTableWrite (ring : Fin 1024) (slot : Nat) (s : State) : Out' :=
  onCmd s ring slot 0x90 fun c =>
    let hs := maskList 4 (fld c.desc 67 64)
    let es := (c.buf.take 256).map (·.toNat)
    let bad := fun (o : Nat) => 32 ≤ o || (12 ≤ o && o ≤ 27) || o = 31
    if hs.isEmpty then s.badField ring slot 8
    else if es.any bad || !es.contains 30 then s.badField ring slot
    else if tablesBusy s hs then s
    else forAll (s.modCmd ring slot fun c => { c with phase := .running }) hs fun s h =>
      let x := s.stack h
      let t := es.zipIdx.foldl (fun (m : FMap Nat) e => fput m (slotReset e.2) (256 * (!x.bank).toNat + e.2) e.1) x.table
      s.setStack h { x with table := t, command := some (ring.val, slot) }

/-- SLOT_TABLE_SWITCH (R369): at the table wrap the stack switches to the written table. -/
def execSlotTableSwitch (stack : Fin 4) (s : State) : Out' :=
  let x := s.stack stack
  match x.command with
  | none => .next s
  | some (r, i) =>
    let s1 := s.reach (20480 * ((s.ns + 20479) / 20480))
    let s2 := s1.setStack stack { s1.stack stack with bank := !x.bank, command := none }
    let waits := (List.range 4).any fun h => (s2.stack h).command == some (r, i)
    .next (if waits then s2 else s2.finish r i St.ok)

/-! ### Arbitration (R366, R367, R371, R372) -/

/-- Does a requester wait: with a transaction, or, for RETRAIN, with a retraining step due? -/
def reqWaits (x : Channel) (r : Nat) : Bool := x.waiting.any (·.req == r) || (r == 11 && x.retrain.any (· < 8))

/-- Requesters that wait, in ascending ID order; RETRAIN only where a step may start (R407, R408). -/
def waiters (x : Channel) (train : Bool) : List Nat := (List.range 12).filter fun r => reqWaits x r && (r != 11 || train)

/-- The requester of the owner of a slot on a pseudo-channel; none in a BACKGROUND slot (R365). -/
def ownerReq (x : Channel) (c owner : Nat) : Option Nat :=
  if owner ≤ 11 then some owner
  else if owner = 28 then some (c / 8)
  else if owner = 29 && x.retrain.any (· < 8) then some 11
  else none

/-- The first of a list of requesters at or after a pointer, with wrap. -/
def rotatePick (ptr : Nat) (rs : List Nat) : Option Nat := (rs.find? fun r => ptr ≤ r).or rs.head?

/-- The decision in time-slot mode (R366): the winner, and whether the rotating pointer decided. -/
def slotPick (s : State) (h c : Nat) (x : Channel) (train : Bool) : Option (Nat × Bool) :=
  let ws := waiters x train
  let owner := ownerReq x c (slotOwner (s.stack h) (s.stack h).bank (slotNow s))
  match owner with
  | some o =>
    if ws.contains o then some (o, false)
    else
      let pr := fun r => fld (reqCfg s h c r) 2 0
      let top := ws.foldl (fun m r => max m (pr r)) 0
      match ws.filter fun r => pr r == top with
      | [r] => some (r, false)
      | rs => (rotatePick x.pointer rs).map fun r => (r, true)
  | none => (rotatePick x.pointer ws).map fun r => (r, true)

/-- When a requester's candidate arrived. -/
def arrived (x : Channel) (r : Nat) : Nat := ((x.waiting.find? (·.req == r)).map (·.arrive)).getD x.retrainAt

/-- The decision in deadline mode (R371, R372): the winner, and whether a tie was broken. -/
def deadlinePick (s : State) (h c : Nat) (x : Channel) : Option (Nat × Bool) :=
  let due := fun r => arrived x r + fld (reqCfg s h c r) 31 16
  (waiters x true).foldl (fun (best : Option (Nat × Bool)) r => match best with
    | none => some (r, false)
    | some (b, tie) => if due r < due b then some (r, false) else if due r = due b then some (b, true) else some (b, tie)) none

/-- A decision where no grant is held: the winner holds the grant. `train`: may a retraining step start in this slot? -/
def decide' (s : State) (h c : Nat) (train : Bool) : State :=
  let x := s.chan h c
  let grant := fun (s : State) (r ptr : Nat) =>
    let s1 := s.peak (Reg.MEM_REQ_WAIT_PEAK h r) (s.ns - arrived x r)
    let lim := fld (reqCfg s h c r) 12 4
    cfgSettle (s1.setChan h c { s1.chan h c with holder := some r, held := 0, limit := lim, pointer := ptr }) h c
  if deadlineMode s h then
    match deadlinePick s h c x with
    | some (r, tie) => grant (if tie then s.bump (Reg.MEM_TIE_COUNT h) else s) r x.pointer
    | none => s
  else match slotPick s h c x train with
    | some (r, moved) => grant s r (if moved then (r + 1) % 12 else x.pointer)
    | none => s

/-- Replace the first transaction of a requester in a list by what is left of it. -/
def takeTxn (r : Nat) (rest : Option MemTxn) : List MemTxn → List MemTxn
  | [] => []
  | t :: ts => if t.req == r then rest.toList ++ ts else t :: takeTxn r rest ts

/-- Columns of a transaction that a grant still has cycles for. -/
def grantCols (x : Channel) (t : MemTxn) : Nat := min t.beats (x.limit - x.held)

/-- The holder admits its oldest transaction (R362, R367); it drops its request with its last. A column access takes a cycle of the
grant, and columns past its last wait for another. -/
def admitOne (s : State) (h c r : Nat) : State :=
  let x := s.chan h c
  match x.waiting.find? (·.req == r) with
  | none => s.setChan h c { x with holder := none }
  | some t =>
    let n := grantCols x t
    let rest := if n < t.beats then some { t with addr := t.addr + 32 * n, beats := t.beats - n } else none
    let w := takeTxn r rest x.waiting
    s.setChan h c { x with waiting := w, queue := x.queue ++ [{ t with beats := n }], held := x.held + n,
                           holder := if w.any (·.req == r) then some r else none }

/-- The grants of one slot: decisions and admissions until no requester waits, the queue is full, RETRAIN holds the grant, or the slot's
64 cycles are used. A grant whose burst limit expires ends. A holder that a full queue stalls goes on using its cycles. A retraining
step starts within the first 16 cycles of its slot (R408). -/
def slotRun (s : State) (h c : Nat) (train : Bool) : Nat → Nat → State
  | 0, _ => s
  | fuel + 1, used =>
    let s1 := if (s.chan h c).holder.isNone then decide' s h c (train && decide (used ≤ 16)) else s
    let x := s1.chan h c
    match x.holder with
    | none => s1
    | some 11 => s1
    | some r =>
      if x.limit ≤ x.held then slotRun (s1.setChan h c { x with holder := none, held := 0 }) h c train fuel used
      else if 64 ≤ x.queue.length then s1.setChan h c { x with held := min x.limit (x.held + (64 - used)) }
      else if 64 ≤ used then s1
      else slotRun (admitOne s1 h c r) h c train fuel (used + max 1 (((x.waiting.find? (·.req == r)).map (grantCols x)).getD 1))

/-! ### Issue (R362, R363, R374, R375) -/

/-- A bank of a pseudo-channel. -/
def Channel.bank (x : Channel) (b : Nat) : Bank := fget x.banks {} b
def Channel.setBank (x : Channel) (b : Nat) (k : Bank) : Channel := { x with banks := fput x.banks {} b k }

/-- Is a transaction a row hit? -/
def rowHit (x : Channel) (t : MemTxn) : Bool := t.banks.all fun b => (x.bank b).row == some t.row

/-- A real-time burst uses a bank (R364, R374). -/
def realTime (x : Channel) (b : Nat) : Bool := x.queue.any fun t => (t.req == 4 || t.req == 5) && t.banks.contains b

/-- A SID is in use: it is not in power-down, and its idle time starts anew (R376). -/
def Channel.used (x : Channel) (sid now : Nat) : Channel :=
  { x with down := x.down.filter (· != sid), lastUse := fput x.lastUse 0 sid now }

/-- The rows within a distance of a row of a bank, on both sides (R360, R375). -/
def rowsNear (row d : Nat) : List Nat :=
  (List.range (2 * d + 1)).filterMap fun i => if i ≠ d && d ≤ row + i && row + i - d < 24576 then some (row + i - d) else none

/-- A queued neighbour refresh issues (R375): each row near the one it was queued for is activated and precharged, which closes the
bank's open row. -/
def neighbourNow (s : State) (h c b : Nat) : State :=
  let x := s.chan h c
  let k := x.bank b
  match k.neighbour with
  | none => s
  | some row =>
    let k1 := (rowsNear row (s.rf (Reg.MEM_PNR_CTRL h) 5 4)).foldl (fun (k : Bank) _ => { k with row := none }) k
    (s.setChan h c ((x.setBank b { k1 with neighbour := none, waits := 0 }).used (b / 16) s.ns)).bump (Reg.MEM_PNR_COUNT h)

/-- The refreshes outstanding on a bank issue, the row closes, and a queued neighbour refresh issues with them (R373-R375). -/
def refreshNow (s : State) (h c b : Nat) : State :=
  let s1 := neighbourNow s h c b
  let x := s1.chan h c
  s1.setChan h c ((x.setBank b {}).used (b / 16) s1.ns)

/-- A row is activated, with the random draw for a neighbour refresh (R375). -/
def activate (s : State) (h c row b : Nat) : State :=
  let x := s.chan h c
  let k := x.bank b
  let f := s.free
  let hit := f.1 % 2 ^ s.rf (Reg.MEM_PNR_CTRL h) 3 0 == 0
  let nb := if hit then k.neighbour.or (some row) else k.neighbour
  let s1 := f.2.setChan h c (x.setBank b { k with row := some row, neighbour := nb, waits := if k.neighbour.isSome then k.waits else 0 })
  if hit && k.neighbour.isSome then s1.bump (Reg.MEM_PNR_SKIP_COUNT h) else s1

/-- Do two transactions access a 32-byte column in common (R362)? -/
def MemTxn.meets (t u : MemTxn) : Bool := t.addr / 32 < u.addr / 32 + u.beats && u.addr / 32 < t.addr / 32 + t.beats

/-- The transaction that issues next (R362): the oldest row hit to a bank on which none has been passed 16 times, else the oldest. None
overtakes an older one of the same column. -/
def issuePick (x : Channel) : Option (Nat × MemTxn) :=
  let ts := x.queue.zipIdx.map fun e => (e.2, e.1)
  let starved := fun (b : Nat) => x.queue.any fun t => 16 ≤ t.passed && t.banks.contains b && !rowHit x t
  (ts.find? fun e => rowHit x e.2 && !e.2.banks.any starved && !(x.queue.take e.1).any e.2.meets).or ts.head?

/-- Issue one transaction; refreshes it held back follow once no real-time burst uses its banks (R374), and a neighbour refresh with
the priority of a due one (R375). -/
def issueOne (s : State) (h c : Nat) : State :=
  let x := s.chan h c
  match issuePick x with
  | none => s
  | some (i, t) =>
    let hit := rowHit x t
    let q := (x.queue.take i).map (fun t => { t with passed := t.passed + hit.toNat }) ++ x.queue.drop (i + 1)
    let wake := t.banks.map (· / 16)
    let s1 := s.setChan h c (wake.foldl (fun (x : Channel) d => x.used d s.ns) { x with queue := q, issued := if t.write then x.issued else x.issued ++ [t] })
    let s2 := if hit then s1 else
      (t.banks.filter fun b => (x.bank b).row != some t.row).foldl (fun s b => activate s h c t.row b) s1
    t.banks.foldl (fun s b =>
      let y := s.chan h c
      if realTime y b then s else if (y.bank b).due != 0 then refreshNow s h c b else neighbourNow s h c b) s2

/-- Issue transactions until a slot's 64 column accesses are used. -/
def issueRun (s : State) (h c : Nat) : Nat → Nat → State
  | 0, _ => s
  | fuel + 1, used =>
    match issuePick (s.chan h c) with
    | none => s
    | some (_, t) => if 64 ≤ used then s else issueRun (issueOne s h c) h c fuel (used + t.beats)

/-- May a retraining step take a grant in this slot: in deadline mode, and else in a RETRAIN slot (R407, R408)? -/
def retrainSlot (s : State) (h : Nat) : Bool :=
  deadlineMode s h || slotOwner (s.stack h) (s.stack h).bank (slotNow s) == 29

/-- The cycles for which a holder's grant still runs: to its last column, or to its burst limit where the queue lacks room for what it
has left (R367). -/
def grantLeft (x : Channel) (r : Nat) : Nat :=
  let ts := x.waiting.filter (·.req == r)
  if 64 < x.queue.length + ts.length then x.limit - x.held else min (x.limit - x.held) ((ts.map (·.beats)).sum)

/-- A retraining step that the grant in hand keeps from starting within 16 cycles of its slot (R408). -/
def retrainDefers (s : State) (h c : Nat) : Bool :=
  let x := s.chan h c
  !deadlineMode s h && slotOwner (s.stack h) (s.stack h).bank (slotNow s) == 29 && x.retrain.any (· < 8) &&
  match x.holder with
  | some 11 | none => false
  | some r => 16 < grantLeft x r

/-- ARBITER_SLOT (R362-R367, R371, R372, R407-R409): a slot of a pseudo-channel begins, the next that it has not run. -/
def execArbiterSlot (stack : Fin 4) (channel : Fin 32) (s0 : State) : Out' :=
  let h := stack.val
  let c := channel.val
  if !stackOn s0 h then .next s0
  else
    let t := s0.reach (80 * (s0.chan h c).nextSlot)
    let s := t.setChan h c { t.chan h c with nextSlot := t.ns / 80 + 1, issued := [] }
    let s1 := if retrainDefers s h c then s.bump (Reg.MEM_RETRAIN_DEFER_COUNT h) else s
    .next (issueRun (slotRun s1 h c (retrainSlot s h && !retrainDefers s h c) 200 0) h c 64 0)

/-- BURST_LIMIT_EXPIRE (R367): the holder's grant ends. -/
def execBurstLimitExpire (stack : Fin 4) (channel : Fin 32) (s : State) : Out' :=
  let x := s.chan stack channel
  .next (if x.holder.isSome && x.limit ≤ x.held then s.setChan stack channel { x with holder := none, held := 0 } else s)

/-- REFRESH_DUE (R373-R375, R408): a bank's refresh falls due. It issues, unless a real-time burst uses the bank, where the fourth
postponement splits the burst, or a retraining step runs, at whose end it issues. A neighbour refresh that was queued before the
bank's last refresh fell due issues whatever uses the bank. -/
def execRefreshDue (stack : Fin 4) (channel : Fin 32) (bank : Nat) (s : State) : Out' :=
  let h := stack.val
  let c := channel.val
  if 32 ≤ bank || !stackLive s h then .next s
  else
    let x := s.chan h c
    let k := x.bank bank
    if x.holder == some 11 then .next (s.setChan h c (x.setBank bank { k with due := k.due + 1, stepped := true }))
    else if realTime x bank then
      let p := if k.due = 0 then k.postponed else k.postponed + 1
      let s0 := (s.setChan h c (x.setBank bank { k with due := k.due + 1, postponed := p, waits := k.waits + 1 })).peak
        (Reg.MEM_POSTPONE_PEAK h) p
      let s1 := if k.waits = 0 then s0 else neighbourNow s0 h c bank
      .next (if 4 ≤ p then refreshNow (s1.bump (Reg.MEM_SPLIT_COUNT h)) h c bank else s1)
    else .next (refreshNow s h c bank)

/-- RANK_POWER_DOWN (R376): a SID enters power-down once it has been idle for IDLE_CYCLES of 1.25 ns. -/
def execRankPowerDown (stack : Fin 4) (channel : Fin 32) (sid : Fin 2) (s : State) : Out' :=
  let x := s.chan stack channel
  let busy := x.queue.any (fun t => t.banks.any (· / 16 == sid.val)) || x.banks.any fun e => e.1 / 16 == sid.val && e.2.due != 0
  .next (if bit (s.reg (Reg.MEM_PD_CTRL stack)) 0 && !busy && !x.down.contains sid.val then
    let idle := s.rf (Reg.MEM_PD_CTRL stack) 19 4
    let s1 := s.reach (fget x.lastUse 0 sid.val + (5 * idle + 3) / 4)
    s1.setChan stack channel { x with down := sid.val :: x.down } else s)

/-! ### Retraining (R407-R409) -/

/-- RETRAIN_DUE (R407): INTERVAL_MS have passed since the latest retraining fell due. -/
def execRetrainDue (stack : Fin 4) (channel : Fin 32) (s : State) : Out' :=
  let x := s.chan stack channel
  .next (if x.retrain.isNone && stackOn s stack then
    retrainStart (s.reach (x.retrainAt + 1000000 * s.rf (Reg.MEM_RETRAIN_CTRL stack) 7 0)) stack channel else s)

/-- RETRAIN_STEP (R407-R409): the step that RETRAIN holds the grant for runs, and its grant ends: it finds a setting, or no passing
window. The refreshes that fell due during it issue. -/
def execRetrainStep (stack : Fin 4) (channel : Fin 32) (found : Option W32) (s : State) : Out' :=
  let x := s.chan stack channel
  match x.retrain with
  | some n =>
    if x.holder == some 11 && n < 8 && !x.failed then
      let s1 := s.setChan stack channel { x with
        holder := none, retrain := some (if found.isSome then n + 1 else 8), failed := found.isNone, found := x.found ++ found.toList }
      .next (((List.range 32).filter fun b => (x.bank b).stepped).foldl (fun s b => refreshNow s stack channel b) s1)
    else .next s
  | none => .next s

/-- RETRAIN_DONE (R378, R409): a retraining ends. The settings it has found take effect together; a failure leaves the old ones and starts it again at step 1; three in a row lose the stack. -/
def execRetrainDone (stack : Fin 4) (channel : Fin 32) (s : State) : Out' :=
  let h := stack.val
  let x := s.chan h channel
  if x.retrain != some 8 then .next s
  else if x.failed then
    let s1 := (s.setChan h channel { x with retrain := some 0, failed := false, fails := x.fails + 1, found := [] }).bump
      (Reg.MEM_RETRAIN_FAIL_COUNT h)
    let s2 := intRaise s1 11 (4 * h + 2)
    .next (if 3 ≤ x.fails + 1 then stackLost s2 h 0 else s2)
  else .next (s.setChan h channel { x with retrain := none, fails := 0, timing := x.found, found := [] })

/-! ### Errors, training, loss (R377, R378) -/

/-- The requester whose read it is, by the region of its address (R28, R364). -/
def regionReq (addr : Nat) : Nat :=
  if addr < 2 ^ 36 then addr / 2 ^ 32 % 4
  else if addr < 0x1200000000 then (addr - 2 ^ 36) / 2 ^ 29 % 4
  else if addr < 0x1600000000 then 5
  else if addr < 0x1620000000 then 6
  else if addr < 0x1624000000 then 9
  else 7

/-- The requester whose read it is: that of a read of the address which the pseudo-channel has issued or holds, else by its region. -/
def readReq (s : State) (l : HbmLoc) (addr : Nat) : Nat :=
  let x := s.chan l.stack l.pc
  match (x.issued ++ x.queue ++ x.waiting).find? fun t => !t.write && t.addr ≤ addr && addr < t.addr + 32 * t.beats with
  | some t => t.req
  | none => regionReq addr

/-- A failed read counts towards the loss of its stack (R378). -/
def errorCount (s : State) (h : Nat) : State :=
  let x := s.stack h
  let es := s.ns :: x.errors.filter fun t => s.ns < t + 1000000
  let s1 := s.setStack h { x with errors := es }
  if 64 < es.length then stackLost s1 h 2 else s1

/-- MEM_UNCORRECTABLE (R377, R378, R380): a read of a stack that its on-die ECC reports as uncorrectable, or a parity error whose retry
has failed, which counts for R378 alone. -/
def execMemUncorrectable (stack : Fin 4) (error : MemError) (s : State) : Out' :=
  let h := stack.val
  let addr := error.addr
  match hbmMap addr with
  | none => .fault .hbmUnpopulated
  | some l =>
    if l.stack ≠ h || !stackOn s h then .next s
    else if error.parity then .next (errorCount s h)
    else .next (errorCount (memEvent ((readFails s addr).bump (Reg.MEM_UE_COUNT h)) h 0x90 0 (memFields l addr (readReq s l addr) 0)) h)

/-- STACK_CATASTROPHIC_TEMP (R378, R506). -/
def execStackCatastrophicTemp (stack : Fin 4) (s : State) : Out' :=
  .next (if s.pkg.inReset || s.hlt.shutdown then s else stackLost s stack 1)

/-- HBM_TRAINED (R382, R543): a stack's initial training is complete. -/
def execHbmTrained (stack : Fin 4) (s : State) : Out' :=
  let x := s.stack stack
  .next (if s.pkg.inReset || x.lost || s.domain (domMem stack) != .on then s else s.setStack stack { x with trained := true })

end Sys2Proof.Machine
end

