-- ==== Sys2Proof/Machine/RegView.lean ====
section
/-!
DEFINITION. Machine/RegView.lean: what a BAR0 register reads as (R6-R11): registers of access RO are computed from the state, every
other one reads as it is stored.
-/

namespace Sys2Proof.Machine

open Sys2Proof

/-- A word from fields `(hi, lo, value)`. -/
def word (fs : List (Nat × Nat × Nat)) : W32 := pack 32 fs

/-- A flag as a number. -/
def flag (b : Bool) : Nat := b.toNat

/-! ### Flow engine (R60, R94, R126) -/

def viewSliceStatus (s : State) (p _ : Nat) : W32 := word [(0, 0, flag ((s.slice p).ready))]
def viewRecordCount (s : State) (p _ : Nat) : W32 := word [(25, 0, (s.slice p).records)]

/-- Entries in the tag pairs of a slice; those of a line whose check fails count as gone (DESIGN CHOICE, log 165). -/
def viewTagCount (s : State) (p _ : Nat) : W32 :=
  let lo := tagUnit p 0
  let us := (s.hbm.filter fun e => decide (lo ≤ e.1) && decide (e.1 < lo + 2 ^ 22)).map (·.1)
  word [(26, 0, (us.map fun u => ((pairWays s p (u - lo)).filter (·.isSome)).length).sum)]

def viewStashCount (s : State) (p _ : Nat) : W32 := word [(16, 0, (s.slice p).stash.length)]
def viewHotCount (s : State) (p _ : Nat) : W32 := word [(15, 0, (s.slice p).hot.length)]
def viewFreeStack (s : State) (p _ : Nat) : W32 := word [(25, 0, (s.slice p).free.length)]

def viewFiligree (s : State) (p _ : Nat) : W32 :=
  let x := s.slice p
  word [(0, 0, flag x.bank), (1, 1, flag (flgLoading s p)), (19, 2, if x.bank then x.count1 else x.count0), (20, 20, flag x.walkFault),
    (31, 21, x.faultNode)]

def viewAge (s : State) (p _ : Nat) : W32 := word [(15, 0, (s.slice p).lastPassS), (31, 16, (s.slice p).passNo)]

def viewOrphan (s : State) (p _ : Nat) : W32 :=
  let x := s.slice p
  word [(6, 0, x.failed.length), (7, 7, flag x.fullCheck.isSome), (31, 16, min x.orphans 0xFFFF)]

/-! ### Processing array (R182, R217) -/

def viewPxaStatus (s : State) (p _ : Nat) : W32 :=
  word [(12, 0, (s.cluster p).pkts.length), (24, 16, clusterCtx (s.cluster p))]
def viewPxaExc (s : State) (p _ : Nat) : W32 := (s.cluster p).excStatus
def viewMcsVersion (s : State) (p _ : Nat) : W32 := (s.cluster p).version
def viewMcsStaged (s : State) (p _ : Nat) : W32 := (s.cluster p).stagedVersion

def viewMcsStatus (s : State) (p _ : Nat) : W32 :=
  let x := s.cluster p
  word [(0, 0, flag x.active), (1, 1, flag x.staged), (2, 2, flag x.switching.isSome),
    (16, 8, if s.hmk.boot = 2 then (freePages x).length else 0)]

def viewMcsFault (s : State) (p _ : Nat) : W32 := (s.cluster p).faultStatus

/-! ### Forwarding and TCAM (R234, R244, R263) -/

def viewFwdClasp (s : State) (p _ : Nat) : W32 :=
  word [(0, 0, flag (s.fwdOf p).lockExact.isSome), (1, 1, flag (s.fwdOf p).lockLpm.isSome)]
def viewExactCount (s : State) (p _ : Nat) : W32 := word [(15, 0, (s.fwdOf p).exact.length)]
def viewExactDigest (s : State) (p _ : Nat) : W32 := exactDigest (s.fwdOf p)
def viewLpmLines (s : State) (p _ : Nat) : W32 := word [(16, 0, 10240 + lpmPool (s.fwdOf p))]
def viewLpm4 (s : State) (p _ : Nat) : W32 := word [(20, 0, (s.fwdOf p).routes4.length)]
def viewLpm6 (s : State) (p _ : Nat) : W32 := word [(20, 0, (s.fwdOf p).routes6.length)]
def viewLpmDigest (s : State) (p _ : Nat) : W32 := lpmDigest (s.fwdOf p)

def viewTcmMove (s : State) (p _ : Nat) : W32 :=
  match (s.tcmOf p).move with
  | some m => word [(0, 0, 1), (4, 1, m.bank), (16, 5, m.steps.length)]
  | none => 0

def viewTcmCount (s : State) (p _ : Nat) : W32 := word [(16, 0, (s.tcmOf p).ents.length)]
def viewTcmClasp (s : State) (p _ : Nat) : W32 := word [(0, 0, flag (s.tcmOf p).lock.isSome)]
def viewBankFree (s : State) (p b : Nat) : W32 :=
  word [(12, 0, bankPositions s p b - ((s.tcmOf p).ents.filter fun e => e.1 / 4096 == b).length)]

/-! ### Switch core, pools, traffic manager (R295, R310, R335, R336) -/

def viewSharedFree (s : State) (_ _ : Nat) : W32 := word [(19, 0, if bufEnabled s then sharedFree s else 0)]
def viewSpill (s : State) (_ _ : Nat) : W32 := word [(23, 0, (s.swc.segs.map (·.2)).sum)]
def viewBlockFail (s : State) (_ i : Nat) : W32 :=
  word ((List.range 4).map fun k => (8 * k + 7, 8 * k, fget s.swc.blockFail 0 (4 * i + k)))
def viewInCells (s : State) (_ n : Nat) : W32 := word [(19, 0, s.inCells n)]
def viewEgCells (s : State) (_ n : Nat) : W32 := word [(19, 0, s.egCells n)]
def viewPoolFree (s : State) (_ p : Nat) : W32 := word [(19, 0, poolFreeCount s p)]
def viewPoolLent (s : State) (_ p : Nat) : W32 := word [(19, 0, (s.bpm.lent.filter fun l => l.1 == p).length)]
def viewBadFree (s : State) (_ _ : Nat) : W32 := s.bpm.badStatus

/-- A mask of the classes in a list. -/
def classBits (l : List Nat) : Nat := (List.range 8).foldl (fun m c => if l.contains c then m + 2 ^ c else m) 0

def viewPfc (s : State) (_ n : Nat) : W32 :=
  let x := s.pfcOf n
  let paused := (List.range 8).filter fun c => (ffind? x.ends c).any fun t => s.ns < t
  word [(7, 0, classBits x.xoff), (15, 8, classBits paused), (23, 16, classBits x.storm)]

def viewGate (s : State) (_ n : Nat) : W32 :=
  let x := s.gatesOf n
  word [(0, 0, flag x.oper.isSome), (1, 1, flag x.armed.isSome), (2, 2, flag x.late), (3, 3, flag x.operBank), (15, 8, x.gates)]

/-! ### Cipher, memory (R358, R381, R382) -/

def viewCipStatus (s : State) (_ _ : Nat) : W32 := word [(0, 0, flag s.cip.ready), (26, 16, s.cip.pinned.length)]
def viewActiveSlots (s : State) (_ _ : Nat) : W32 := BitVec.ofNat 32 (activeSlots s)

def viewMemStatus (s : State) (h _ : Nat) : W32 :=
  let x := s.stack h
  word [(0, 0, flag x.trained), (1, 1, flag x.lost), (2, 2, flag x.hot), (5, 4, x.cause)]

def viewSlotStatus (s : State) (h _ : Nat) : W32 :=
  let x := s.stack h
  word [(0, 0, flag x.bank), (1, 1, flag x.command.isSome), (15, 8, slotNow s)]

def viewSlot (s : State) (h n : Nat) : W32 := word [(4, 0, slotOwner (s.stack h) (s.stack h).bank n)]

/-! ### Line interface (R396, R397, R417) -/

def viewOctMode (s : State) (o _ : Nat) : W32 :=
  word [(2, 0, fget s.lif.modes 0 (2 * o)), (6, 4, fget s.lif.modes 0 (2 * o + 1))]

def viewPortStatus (s : State) (o i : Nat) : W32 :=
  let x := s.port (8 * o + i)
  word [(2, 0, x.state), (3, 3, flag x.localFault), (4, 4, flag x.remoteFault), (5, 5, flag x.fec), (8, 6, x.cause)]

def viewLaneStatus (s : State) (o i : Nat) : W32 :=
  let x := s.lane (8 * o + i)
  word [(0, 0, flag x.signal), (1, 1, flag x.cdr), (2, 2, flag x.lock), (3, 3, flag x.trained)]

def viewRxDelay (s : State) (o i : Nat) : W32 := BitVec.ofNat 32 (s.lane (8 * o + i)).delay
def viewLoupeMargin (s : State) (o i : Nat) : W32 := (s.lane (8 * o + i)).margin

def viewLoupeStatus (s : State) (o i : Nat) : W32 :=
  let x := s.lane (8 * o + i)
  word [(0, 0, flag x.valid), (1, 1, flag x.scan.isSome), (2, 2, flag x.low)]

def viewTxDelay (s : State) (o i : Nat) : W32 := Config.txDelay (quadMode s (8 * o + i))

def viewSpareStatus (s : State) (_ _ : Nat) : W32 :=
  word [(7, 0, (s.lif.spares.filter fun e => e.2.retired.isSome).length), (31, 16, s.lif.spareDrops)]

def viewSpareGroup (s : State) (_ g : Nat) : W32 :=
  let x := s.spare g
  match x.retired with
  | some m => word [(1, 0, 2), (8, 2, m), (31, 9, x.passes)]
  | none => word [(1, 0, flag (x.phase != 0)), (8, 2, if x.phase = 0 then 0 else x.live), (31, 9, x.passes)]

/-! ### Time unit (R440, R441) -/

def viewTmuStatus (s : State) (_ _ : Nat) : W32 :=
  word [(0, 0, flag s.tmu.lock), (1, 1, flag s.tmu.holdover), (2, 2, flag s.tmu.refPresent)]
def viewRefused (s : State) (_ _ : Nat) : W32 := word [(0, 0, flag s.tmu.refused), (31, 16, s.tmu.refusedCount)]
def viewFreq (s : State) (_ _ : Nat) : W32 := ofSigned 32 s.tmu.freq
def viewTime0 (s : State) (_ _ : Nat) : W32 := BitVec.ofNat 32 s.time.ns
def viewTime1 (s : State) (_ _ : Nat) : W32 := BitVec.ofNat 32 s.time.sec
def viewTime2 (s : State) (_ _ : Nat) : W32 := word [(15, 0, s.time.sec >>> 32), (31, 16, s.time.frac)]
def viewTime3 (s : State) (_ _ : Nat) : W32 := BitVec.ofNat 32 s.tick
def viewTime4 (s : State) (_ _ : Nat) : W32 := word [(15, 0, s.tick >>> 32)]
def viewTxts (s : State) (_ n : Nat) : W32 :=
  word [(5, 0, (fget s.tmu.txts [] n).length), (8, 8, flag (s.tmu.overflow.contains n))]

/-! ### Host interface (R469, R470) -/

def viewHifStatus (s : State) (_ _ : Nat) : W32 :=
  let h := s.hif
  word [(1, 0, h.speed), (8, 4, h.width), (9, 9, flag (h.linkUp && (h.speed == 0 || h.width < 8))), (10, 10, flag h.flit)]

def viewPerfSeq (s : State) (_ _ : Nat) : W32 := BitVec.ofNat 32 s.hif.snapDone

/-- A performance counter's value (R467). -/
def perfValue (s : State) (i : Nat) : Nat :=
  match ffind? s.hif.perf i with
  | some x => x.value
  | none => fget s.hif.perfVal 0 i

def viewPerfValue (s : State) (_ i : Nat) : W32 :=
  BitVec.ofNat 32 (perfValue s (i / 2) >>> (32 * (i % 2)))

def viewRingCtrl (s : State) (_ r : Nat) : W32 := word [(0, 0, flag (s.ring r).enabled)]

def viewRingStatus (s : State) (_ r : Nat) : W32 :=
  let x := s.ring r
  word [(15, 0, x.dev), (16, 16, flag x.enabled), (17, 17, flag x.idle), (18, 18, flag x.error), (21, 19, x.cause)]

def viewPba (s : State) (_ i : Nat) : W32 :=
  (List.range 32).foldl (fun w k => if s.hif.pba.contains (32 * i + k) then putBit w k true else w) 0

/-! ### Hallmark (R497, R498) -/

def viewLot (s : State) (_ _ : Nat) : W32 := BitVec.ofNat 32 s.hmk.fuses.lot
def viewWafer (s : State) (_ _ : Nat) : W32 := BitVec.ofNat 32 s.hmk.fuses.wafer
def viewDie (s : State) (_ _ : Nat) : W32 := word [(7, 0, s.hmk.fuses.dieX), (15, 8, s.hmk.fuses.dieY)]
def viewDate (s : State) (_ _ : Nat) : W32 := BitVec.ofNat 32 s.hmk.fuses.date

/-- Is an installer slot active: enrolled and not revoked (R485)? -/
def installerActive (s : State) : Bool :=
  let f := s.hmk.fuses
  !f.wiped && f.installer.any fun e => !f.revInst.contains e.1

def viewLcs (s : State) (_ _ : Nat) : W32 :=
  word [(2, 0, s.lcs), (8, 8, flag s.hmk.debugOpen), (9, 9, flag (installerActive s)), (10, 10, flag s.hmk.fuses.wiped)]
def viewBoot (s : State) (_ _ : Nat) : W32 :=
  word [(1, 0, s.hmk.boot), (15, 8, s.hmk.lastErr), (31, 16, min s.hmk.attempts 0xFFFF)]
def viewFloor (s : State) (_ k : Nat) : W32 := word [(15, 0, floorOf s k), (23, 16, (floorLog s k).length)]
def viewAuditStatus (s : State) (_ _ : Nat) : W32 := word [(19, 0, auditHeld s), (28, 20, auditStaged s)]
def viewAuditLo (s : State) (_ _ : Nat) : W32 := BitVec.ofNat 32 (lastSeq s)
def viewAuditHi (s : State) (_ _ : Nat) : W32 := BitVec.ofNat 32 (lastSeq s >>> 32)
def viewSessions (s : State) (_ _ : Nat) : W32 := word [(4, 0, openSessions s)]
def viewReverify (s : State) (_ _ : Nat) : W32 := BitVec.ofNat 32 s.hmk.passes
def viewRng (s : State) (_ _ : Nat) : W32 := word [(0, 0, flag s.hmk.rngFail), (31, 16, s.hmk.reseeds)]

/-! ### Health, Solitaire, global (R523, R524, R536, R537) -/

/-- A domain's two bits of HLT_PWR_STATE. -/
def pwrCode (s : State) (d : Nat) : Nat :=
  if domMoves s d then 3 else match s.domain d with | .on => 0 | .retain => 1 | .off => 2

def viewPwr (s : State) (_ r : Nat) : W32 := word ((List.range 16).map fun k => (2 * k + 1, 2 * k, pwrCode s (16 * r + k)))

/-- A mask of the causes in a list. -/
def causeBits (l : List Nat) : Nat := (List.range 4).foldl (fun m c => if l.contains c then m + 2 ^ c else m) 0

def viewSolo (s : State) (_ _ : Nat) : W32 :=
  let h := s.hlt
  word [(0, 0, flag h.solo), (2, 1, h.cause), (7, 4, causeBits h.causes), (11, 8, causeBits h.active)]
def viewKeelCount (s : State) (_ _ : Nat) : W32 := word [(12, 0, (s.hlt.keel.filter fun e => keelValid e.2 && keelHeld s e.1).length)]

/-- A temperature as a signed byte. -/
def tempByte (t : Int) : Nat := (ofSigned 8 t).toNat

def viewTherm (s : State) (_ _ : Nat) : W32 :=
  let h := s.hlt
  word [(7, 0, tempByte (hottestOf h.dieTemp 0)), (15, 8, tempByte (hottestOf h.hbmTemp 0)), (16, 16, flag h.warn),
    (17, 17, flag h.trip), (18, 18, flag h.crit)]
def viewTemp (s : State) (_ i : Nat) : W32 := word [(7, 0, tempByte (fget s.hlt.dieTemp 0 i))]
def viewHealth (s : State) (_ _ : Nat) : W32 := word [(0, 0, flag s.hlt.healthLoaded), (1, 1, flag s.hlt.degraded)]
def viewSealed (s : State) (_ _ : Nat) : W32 := word [(0, 0, flag s.pkg.sealed)]

def viewGlbStatus (s : State) (_ _ : Nat) : W32 :=
  word [(0, 0, flag (s.hmk.boot == 2)), (1, 1, flag (allTrained s)), (2, 2, flag s.cip.ready),
    (3, 3, flag ((List.range 16).all fun i => (s.slice i).ready)), (4, 4, flag (bufEnabled s)), (5, 5, flag s.pkg.sealed),
    (6, 6, flag s.hlt.solo)]
def viewCause (s : State) (_ _ : Nat) : W32 := word [(1, 0, s.pkg.cause), (2, 2, flag s.pkg.hostReset)]
def viewSummary (s : State) (_ _ : Nat) : W32 :=
  (List.range 16).foldl (fun w g => if intLive s g != 0 then putBit w g true else w) 0

/-! ### The views -/

/-- The registers that are computed: the address of the row's first instance, and its view by page and instance. -/
def viewsA : List (Nat × (State → Nat → Nat → W32)) :=
  [(Reg.FLW_SLICE_STATUS 0, viewSliceStatus), (Reg.FLW_RECORD_COUNT 0, viewRecordCount), (Reg.FLW_TAG_COUNT 0, viewTagCount),
   (Reg.FLW_STASH_COUNT 0, viewStashCount), (Reg.FLW_HOT_COUNT 0, viewHotCount), (Reg.FLW_FREE_STACK_DEPTH 0, viewFreeStack),
   (Reg.FLW_FILIGREE_STATUS 0, viewFiligree), (Reg.FLW_AGE_STATUS 0, viewAge), (Reg.FLW_ORPHAN_STATUS 0, viewOrphan),
   (Reg.PXA_STATUS 0, viewPxaStatus), (Reg.PXA_EXC_STATUS 0, viewPxaExc), (Reg.MCS_VERSION 0, viewMcsVersion),
   (Reg.MCS_STAGED_VERSION 0, viewMcsStaged), (Reg.MCS_STATUS 0, viewMcsStatus), (Reg.MCS_FAULT_STATUS 0, viewMcsFault),
   (Reg.FWD_CLASP_STATUS 0, viewFwdClasp), (Reg.FWD_EXACT_COUNT 0, viewExactCount), (Reg.FWD_EXACT_DIGEST 0, viewExactDigest),
   (Reg.FWD_LPM_LINES 0, viewLpmLines), (Reg.FWD_LPM4_ROUTES 0, viewLpm4), (Reg.FWD_LPM6_ROUTES 0, viewLpm6),
   (Reg.FWD_LPM_DIGEST 0, viewLpmDigest), (Reg.TCM_MOVE_STATUS 0, viewTcmMove), (Reg.TCM_ENTRY_COUNT 0, viewTcmCount),
   (Reg.TCM_CLASP_STATUS 0, viewTcmClasp), (Reg.TCM_BANK_FREE 0 0, viewBankFree), (Reg.SWC_SHARED_FREE, viewSharedFree),
   (Reg.SWC_SPILL_STATUS, viewSpill), (Reg.SWC_BLOCK_FAIL 0, viewBlockFail), (Reg.SWC_IN_CELLS 0, viewInCells),
   (Reg.SWC_EG_CELLS 0, viewEgCells)]

def viewsB : List (Nat × (State → Nat → Nat → W32)) :=
  [(Reg.BPM_POOL_FREE 0, viewPoolFree), (Reg.BPM_POOL_LENT 0, viewPoolLent), (Reg.BPM_BAD_FREE_STATUS, viewBadFree),
   (Reg.TMG_PFC_STATUS 0, viewPfc), (Reg.TMG_GATE_STATUS 0, viewGate), (Reg.CIP_STATUS, viewCipStatus),
   (Reg.CIP_ACTIVE_SLOTS, viewActiveSlots), (Reg.MEM_STATUS 0, viewMemStatus), (Reg.MEM_SLOT_STATUS 0, viewSlotStatus),
   (Reg.MEM_SLOT 0 0, viewSlot), (Reg.LIF_OCT_MODE 0, viewOctMode), (Reg.LIF_PORT_STATUS 0 0, viewPortStatus),
   (Reg.LIF_LANE_STATUS 0 0, viewLaneStatus), (Reg.LIF_RX_DELAY 0 0, viewRxDelay), (Reg.LIF_LOUPE_MARGIN 0 0, viewLoupeMargin),
   (Reg.LIF_LOUPE_STATUS 0 0, viewLoupeStatus), (Reg.LIF_TX_DELAY 0 0, viewTxDelay), (Reg.HLT_SPARE_STATUS, viewSpareStatus),
   (Reg.HLT_SPARE_GROUP 0, viewSpareGroup), (Reg.TMU_STATUS, viewTmuStatus), (Reg.TMU_JUMP_REFUSED, viewRefused),
   (Reg.TMU_FREQ, viewFreq), (Reg.TMU_TIME_0, viewTime0), (Reg.TMU_TIME_1, viewTime1), (Reg.TMU_TIME_2, viewTime2),
   (Reg.TMU_TIME_3, viewTime3), (Reg.TMU_TIME_4, viewTime4), (Reg.TMU_TXTS_STATUS 0, viewTxts)]

def viewsC : List (Nat × (State → Nat → Nat → W32)) :=
  [(Reg.HIF_STATUS, viewHifStatus), (Reg.HIF_PERF_SEQ, viewPerfSeq), (Reg.HIF_PERF_VALUE 0, viewPerfValue),
   (Reg.HIF_RING_CTRL 0, viewRingCtrl), (Reg.HIF_RING_STATUS 0, viewRingStatus), (Reg.HIF_MSIX_PBA 0, viewPba),
   (Reg.HMK_IDENT_LOT, viewLot), (Reg.HMK_IDENT_WAFER, viewWafer), (Reg.HMK_IDENT_DIE, viewDie), (Reg.HMK_IDENT_DATE, viewDate),
   (Reg.HMK_LCS, viewLcs), (Reg.HMK_BOOT_STATUS, viewBoot), (Reg.HMK_FLOOR 0, viewFloor), (Reg.HMK_AUDIT_STATUS, viewAuditStatus),
   (Reg.HMK_AUDIT_SEQ_LO, viewAuditLo), (Reg.HMK_AUDIT_SEQ_HI, viewAuditHi), (Reg.HMK_SESSION_STATUS, viewSessions),
   (Reg.HMK_REVERIFY_STATUS, viewReverify), (Reg.HMK_RNG_STATUS, viewRng), (Reg.HLT_PWR_STATE 0, viewPwr),
   (Reg.HLT_SOLO_STATUS, viewSolo), (Reg.HLT_KEEL_COUNT, viewKeelCount), (Reg.HLT_THERM_STATUS, viewTherm),
   (Reg.HLT_TEMP 0, viewTemp), (Reg.HLT_HEALTH_STATUS, viewHealth), (Reg.GLB_STATUS, viewGlbStatus),
   (Reg.GLB_RESET_CAUSE, viewCause), (Reg.GLB_INT_SUMMARY, viewSummary), (Reg.HLT_SEAL_STATUS, viewSealed)]

/-- The peak registers of a depth: the address of the row's first instance, and the depth as it stands. -/
def depths : List (Nat × (State → Nat → Nat → Nat)) :=
  [(Reg.FLW_STASH_PEAK 0, fun s p _ => (s.slice p).stash.length), (Reg.FLW_SETUPQ_PEAK 0, fun s p _ => (s.slice p).setupQ.length),
   (Reg.FLW_INFLIGHT_PEAK 0, fun s p _ => (s.slice p).flights.length), (Reg.PXA_WINDOW_PEAK 0, fun s p _ => (s.cluster p).pkts.length),
   (Reg.PXA_CTX_PEAK 0, fun s p _ => clusterCtx (s.cluster p)),
   (Reg.CIP_QUEUE_PEAK, fun s _ _ => (List.range 8).foldl (fun m c => max m (cipDepth s c)) 0),
   (Reg.MEM_POSTPONE_PEAK 0, fun s p _ => ((s.stack p).channels.flatMap fun c => c.2.banks.map fun b => b.2.postponed).foldl max 0)]

/-- The page and the instance of a register within its row. -/
def RegRow.place (r : RegRow) (a : Nat) : Nat × Nat :=
  let d := a - r.base
  let p := if r.pages ≤ 1 then 0 else d / r.pstride
  (p, if r.count ≤ 1 then 0 else (d - p * r.pstride) / r.stride)

/-- Is a register of a port (R396, R542) that no port holds? Port registers of LIF stand at a page's offsets 0x100 to 0x2FF. -/
def portRegDead (s : State) (a : Nat) : Bool :=
  decide (0x100000 ≤ a) && decide (a < 0x200000) && decide (0x100 ≤ a % 0x10000) && decide (a % 0x10000 < 0x300) &&
  !portExists s (8 * ((a - 0x100000) / 0x10000) + (a % 0x10000 - 0x100) / 0x40)

/-- What the read of a register of access RC leaves in it (R11): 0; a peak starts again from the depth as it stands. -/
def afterRead (s : State) (r : RegRow) (a : Nat) : W32 :=
  match depths.find? fun e => e.1 == r.base with
  | some e => BitVec.ofNat 32 (e.2 s (r.place a).1 (r.place a).2)
  | none => 0

/-- What a register reads as (R6-R11, R396). -/
def regView (s : State) (a : Nat) : W32 :=
  match regRowAt a with
  | none => 0
  | some r =>
    if r.acc == .wo || portRegDead s a then 0
    else match (viewsA ++ viewsB ++ viewsC).find? fun v => v.1 == r.base with
      | some v => v.2 s (r.place a).1 (r.place a).2
      | none => s.reg a

end Sys2Proof.Machine
end

