-- ==== Sys2Proof/Machine/Perf.lean ====
section
/-!
DEFINITION. Machine/Perf.lean: performance counters and their snapshots (R466-R468).
-/

namespace Sys2Proof.Machine

open Sys2Proof

/-- Peak registers, by the address of the first instance: they hold no count. -/
def peakRows : List Nat :=
  [Reg.FLW_STASH_PEAK 0, Reg.FLW_SETUPQ_PEAK 0, Reg.FLW_INFLIGHT_PEAK 0, Reg.PXA_WINDOW_PEAK 0, Reg.PXA_CTX_PEAK 0, Reg.CIP_QUEUE_PEAK,
   Reg.MEM_POSTPONE_PEAK 0, Reg.MEM_REQ_WAIT_PEAK 0 0]

/-- The LO registers of the 64-bit counters, by the address of the first instance. -/
def loRows : List Nat :=
  [Reg.FLW_HIT_COUNT_LO 0, Reg.FLW_COLD_COUNT_LO 0, Reg.FLW_SETUP_COUNT_LO 0, Reg.FLW_HBM_OPS_LO 0, Reg.PXA_START_COUNT_LO 0,
   Reg.PXA_RELEASE_COUNT_LO 0, Reg.CIP_ACCEPT_COUNT_LO, Reg.HIF_CMD_COUNT_LO]

/-- Bits that a counter register's count fields fill, where they do not fill it. -/
def countBits : List (Nat × Nat) :=
  [(Reg.FWD_TILE_FAIL_COUNT 0, 24), (Reg.TCM_TILE_FAIL_COUNT 0, 16), (Reg.SWC_CELL_FAIL_COUNT, 16)]

/-- The flags of a register (R466), by the address of the first instance: RO and W1C fields of width 1, and those whose meaning is given
bit by bit. -/
def flagMasks : List (Nat × Nat) :=
  [(Reg.FLW_SLICE_STATUS 0, 0x1), (Reg.FLW_FILIGREE_STATUS 0, 0x100003), (Reg.FLW_ORPHAN_STATUS 0, 0x80), (Reg.MCS_STATUS 0, 0x7),
   (Reg.MCS_FAULT_STATUS 0, 0x10),
   (Reg.FWD_CLASP_STATUS 0, 0x3), (Reg.TCM_CLASP_STATUS 0, 0x1), (Reg.TCM_MOVE_STATUS 0, 0x1), (Reg.TMG_PFC_STATUS 0, 0xFFFFFF),
   (Reg.TMG_GATE_STATUS 0, 0xFF0F), (Reg.CIP_STATUS, 0x1), (Reg.MEM_STATUS 0, 0x7), (Reg.MEM_SLOT_STATUS 0, 0x3),
   (Reg.LIF_PORT_STATUS 0 0, 0x38), (Reg.LIF_LANE_STATUS 0 0, 0xF), (Reg.LIF_LOUPE_STATUS 0 0, 0x7), (Reg.TMU_STATUS, 0x7),
   (Reg.TMU_JUMP_REFUSED, 0x1), (Reg.TMU_TXTS_STATUS 0, 0x100), (Reg.HIF_STATUS, 0x600), (Reg.HIF_RING_STATUS 0, 0x70000),
   (Reg.HIF_MSIX_PBA 0, 0xFFFFFFFF), (Reg.HMK_LCS, 0x700), (Reg.HMK_RNG_STATUS, 0x1), (Reg.HLT_SOLO_STATUS, 0xFF1),
   (Reg.HLT_THERM_STATUS, 0x70000), (Reg.HLT_HEALTH_STATUS, 0x3), (Reg.HLT_INT_STATUS 0, 0xFFFF), (Reg.GLB_STATUS, 0x7F),
   (Reg.GLB_RESET_CAUSE, 0x4), (Reg.GLB_INT_SUMMARY, 0xFFFF), (Reg.HLT_SEAL_STATUS, 0x1)]

/-- May a counter select a bit of a register in a mode (R466)? -/
def perfTarget (a bitNo mode : Nat) : Bool :=
  match regRowAt a with
  | none => false
  | some r =>
    if mode = 0 then
      if r.acc == .rc then !peakRows.contains r.base && bitNo < ((countBits.find? fun e => e.1 == r.base).map (·.2)).getD 32
      else loRows.contains r.base
    else (flagMasks.find? fun e => e.1 == r.base).any fun e => e.2.testBit bitNo

/-- Is a write of HIF_PERF_SEL a reserved encoding (R466), whatever its ENABLE? -/
def perfSelBad (v : W32) : Bool := fld v 28 27 == 3 || !perfTarget (4 * fld v 21 0) (fld v 26 22) (fld v 28 27)

/-- Is a flag of a register 1? -/
def flagSet (s : State) (x : Perf) : Bool := bit (regView s x.addr) x.bitNo

/-- A write of HIF_PERF_SEL_i (R467): the counter is 0 and counts its new selection. -/
def perfSelWrite (s : State) (i : Nat) (v : W32) : State :=
  if perfSelBad v then badWrite s
  else
    let s1 := s.setReg (Reg.HIF_PERF_SEL i) (v &&& 0x9FFFFFFF)
    let h := s1.hif
    if bit v 31 then
      let x : Perf := { addr := 4 * fld v 21 0, bitNo := fld v 26 22, mode := fld v 28 27, last := s.ns }
      let x1 := { x with prev := x.mode != 0 && flagSet s x }
      { s1 with hif := { h with perf := fset h.perf i x1, perfVal := ferase h.perfVal i } }
    else { s1 with hif := { h with perf := ferase h.perf i, perfVal := ferase h.perfVal i } }

/-- PERF_SEL_WRITE (R466, R467). -/
def execPerfSelWrite (counter : Fin 512) (value : W32) (s : State) : Out' := onBar s (perfSelWrite s counter value)

/-- PERF_OVERFLOW (R467): a wrap of a counter is reported. -/
def execPerfOverflow (counter : Fin 512) (s : State) : Out' :=
  match ffind? s.hif.perf counter with
  | some x =>
    if x.wraps = 0 then .next s
    else
      let s1 := { s with hif := { s.hif with perf := fset s.hif.perf counter { x with wraps := x.wraps - 1 } } }
      .next (hifEvent s1 0xC1 [(72, 64, counter.val)])
  | none => .next s

/-- The 64-bit address of HIF_PERF_ADDR. -/
def perfAddr (s : State) : Nat := (s.reg Reg.HIF_PERF_ADDR_LO).toNat + 2 ^ 32 * (s.reg Reg.HIF_PERF_ADDR_HI).toNat

/-- The header of a snapshot (R468). -/
def snapHeader (seq tick : Nat) : List Byte :=
  bytesLE 4 seq ++ bytesLE 4 0 ++ bytesLE 6 tick ++ bytesLE 2 0 ++ bytesLE 6 tick ++ bytesLE 42 0

/-- Write a snapshot at the address whose turn it is, its entries first and its header last. -/
def snapWrite (s : State) (n : Nat) : State :=
  let high := !s.hif.snapHigh
  let a := perfAddr s + (if high then 0x2000 else 0)
  let s1 := hostWrite s (a + 64) ((List.range 512).flatMap fun i => bytesLE 8 (perfValue s i))
  let s2 := hostWrite s1 a (snapHeader n s.tick)
  { s2 with hif := { s2.hif with snapDone := n, snapHigh := high } }

/-- PERF_SNAPSHOT (R468): a snapshot falls due. It is written, or skipped where the one before it is still being written, which a free
value says. -/
def execPerfSnapshot (s : State) : Out' :=
  if !bit (s.reg Reg.HIF_PERF_CTRL) 0 || busOff s 0 then .next s
  else
    let t := s.hif.snapNs + 1000 * s.rf Reg.HIF_PERF_CTRL 31 16
    let f := (s.reach t).free
    let n := (s.hif.snapSeq + 1) % 2 ^ 32
    let s1 := { f.2 with hif := { f.2.hif with snapSeq := n, snapNs := t } }
    .next (if s.hif.snapSeq != 0 && s.hif.snapSeq == s.hif.snapDone && f.1 % 2 == 1 then s1 else snapWrite s1 n)

/-! ### EDGE and LEVEL (R466) -/

/-- Cycles that the island of a register's block runs in 20 ns (R23), by which what it runs in any time follows. -/
def islandCycles (a : Nat) : Nat :=
  if a < 0x100000 || 0xF00000 ≤ a then 2
  else if 0x200000 ≤ a && a < 0x300000 then 20
  else if 0x800000 ≤ a && a < 0x900000 then 25
  else if 0xC00000 ≤ a && a < 0xD00000 then 16
  else if 0xD00000 ≤ a && a < 0xE00000 then 20
  else if 0xE00000 ≤ a then 10
  else 27

/-- One counter up to a real time at which its flag is `now`. -/
def perfStep (ns : Nat) (now : Bool) (x : Perf) : Perf :=
  let n := match x.mode with
    | 1 => if now && !x.prev then 1 else 0
    | 2 => if now then islandCycles x.addr * (ns - x.last) / 20 else 0
    | _ => 0
  { x with value := (x.value + n) % 2 ^ 48, wraps := x.wraps + (x.value + n) / 2 ^ 48, prev := now, last := ns }

/-- EDGE and LEVEL counters over the time that has passed since they last counted, the flags taken as they stand. -/
def perfTick (s : State) : State :=
  { s with hif := { s.hif with perf := s.hif.perf.map fun (e : Nat × Perf) =>
      (e.1, if e.2.mode = 0 then e.2 else perfStep s.ns (flagSet s e.2) e.2) } }

end Sys2Proof.Machine
end

