-- ==== Sys2Proof/Machine/Clock.lean ====
section
/-!
DEFINITION. Machine/Clock.lean: what happens as time goes by with no command waiting: a tick of 20 ns. The rows of the table are the
events; a tick holds what has no row: the clocks, the end of copies on the wire, and EDGE and LEVEL counters (R466).
-/

namespace Sys2Proof.Machine

open Sys2Proof

/-- Copies on the wire whose time has come end (R319). -/
def wiresEnd (s : State) : State :=
  ((s.swc.wire.filter fun e => decide (e.2.endNs ≤ s.ns)).map (·.1)).foldl (fun s n =>
    if wireReady s n then wireFinish s n else s) s

/-- One tick of the model: 20 ns, 27 cycles of 1.35 GHz and 25 of 1.25 GHz, by which the order of the buffer pool manager's requesters
(R299) and that of the cipher engine's clusters (R337) turn. -/
def clockTick (s : State) : State :=
  let s1 := s.advance 20
  let s2 := { s1 with bpm := { s1.bpm with rotate := (s1.bpm.rotate + 27) % 32, served := [] }, cip := { s1.cip with turn := (s1.cip.turn + 25) % 8 } }
  perfTick (wiresEnd s2)

end Sys2Proof.Machine
end

