-- ==== Sys2Proof/Machine/Package.lean ====
section
/-!
DEFINITION. Machine/Package.lean: device resets, the seal, PWR_GOOD and PERST_N, rails, SMBus and JTAG (R532-R538, R548-R561).
-/

namespace Sys2Proof.Machine

open Sys2Proof

/-! ### Resets (R532, R534, R552, R555, R556) -/

/-- A device reset begins (R532), for a cause: 0 POWER_ON, 1 PERST_N, 2 GLB_RESET. Fuses stay, and so do what stands outside the device
and the latch of THERMTRIP_N (R561); the flow hash key is drawn afresh (R41). -/
def deviceReset (s : State) (cause : Nat) : State :=
  { pending := s.pending, freeCtr := s.freeCtr, out := s.out, hostMem := s.hostMem,
    pkg := { inReset := true, cause := cause, good := s.pkg.good, early := s.pkg.early, perstLow := s.pkg.perstLow,
             thermtrip := s.pkg.thermtrip, smbAddr := s.pkg.smbAddr, rails := s.pkg.rails, railAlert := s.pkg.railAlert },
    hmk := { fuses := s.hmk.fuses, draws := s.hmk.draws + 1 },
    flw := { hashKey := ofBytes 128 (Config.drbg s.hmk.draws) },
    lif := { refLost := s.lif.refLost } }

/-- A device reset ends: the boot ROM and the training of the stacks start (R474, R543). -/
def resetEnd (s : State) : State := { s with pkg := { s.pkg with inReset := false } }

/-- A write of GLB_RESET (R534, R556). -/
def glbReset (s : State) (v : W32) : State :=
  if bit v 0 && fld v 31 16 == 0x9128 then if s.pkg.perstLow then s else resetEnd (deviceReset s 2)
  else badWrite s

/-- GLB_RESET (R534, R556). -/
def execGlbReset (value : W32) (s : State) : Out' := onBar s (glbReset s value)

/-- A write of HLT_SETUP_SEAL (R538). -/
def setupSeal (s : State) (v : W32) : State :=
  if bit v 0 && fld v 31 16 == 0x5EA1 then { s with pkg := { s.pkg with sealed := true } } else badWrite s

/-- SETUP_SEAL (R538). -/
def execSetupSeal (value : W32) (s : State) : Out' := onBar s (setupSeal s value)

/-- The stage of a PWR_GOOD input (R550): 0 AON, 1 IO, 2 CORE, 3 SER, 4 HBM. -/
def pgStage (i : Nat) : Nat := i - 1

/-- Which of the asserted inputs count, and which wait for one of an earlier stage (R552). -/
def pgSort (p : Pkg) (asserted : List Nat) : Pkg :=
  let ready := fun (i : Nat) => (List.range 5).all fun j => decide (pgStage i ≤ pgStage j) || asserted.contains j
  let on := (List.range 5).filter fun i => asserted.contains i
  { p with good := on.filter ready, early := on.filter fun i => !ready i }

/-- PWR_GOOD_ASSERT (R552). -/
def execPwrGoodAssert (input : Fin 5) (s : State) : Out' :=
  .next { s with pkg := pgSort s.pkg (input.val :: (s.pkg.good ++ s.pkg.early)) }

/-- PWR_GOOD_DROP (R552, R561): a power-on reset starts, and the fall of PWR_GOOD_AON releases THERMTRIP_N. -/
def execPwrGoodDrop (input : Fin 5) (s : State) : Out' :=
  let up := s.pkg.good ++ s.pkg.early
  if !up.contains input.val then .next s
  else
    let p := pgSort s.pkg (up.filter (· != input.val))
    let s1 := deviceReset { s with pkg := { p with thermtrip := p.thermtrip && input.val != 0 } } 0
    .next s1

/-- Are all PWR_GOOD inputs asserted? -/
def powerGood (s : State) : Bool := s.pkg.good.length == 5

/-- PERST_N_ASSERT (R532, R555, R556): a device reset, unless a power-on reset holds. -/
def execPerstNAssert (s : State) : Out' :=
  if s.pkg.perstLow then .next s
  else
    let s1 := { s with pkg := { s.pkg with perstLow := true } }
    .next (if s.pkg.inReset then s1 else deviceReset s1 1)

/-- The end of a power-on reset samples SMB_ADDR2 to SMB_ADDR0 (R557). -/
def smbSample (s : State) : State :=
  if s.pkg.cause = 0 then { s with pkg := { s.pkg with smbAddr := 0x30 + Config.smbPins % 8 } } else s

/-- PERST_N_RELEASE (R474, R552, R555, R557): the reset ends where every PWR_GOOD is asserted. -/
def execPerstNRelease (s : State) : Out' :=
  if !s.pkg.perstLow then .next s
  else
    let s1 := { s with pkg := { s.pkg with perstLow := false } }
    .next (if s.pkg.inReset && powerGood s then resetEnd (smbSample s1) else s1)

/-! ### Rails (R549, R558) -/

/-- Nominal millivolts and tolerance in tenths of a percent of the rails, in the order of R549. -/
def railTable : List (Nat × Nat) :=
  [(800, 30), (1800, 50), (800, 20), (750, 20), (750, 20), (750, 15), (1200, 20), (1800, 50), (1100, 30), (400, 30)]

/-- Is a reading outside a rail's tolerance? -/
def railOut (r : Nat × Nat) (mv : Nat) : Bool := decide (r.1 * r.2 < 1000 * ((mv : Int) - r.1).natAbs)

/-- RAIL_SAMPLE (R558): the rails are sampled, every 1 ms. -/
def execRailSample (millivolts : List Nat) (s0 : State) : Out' :=
  let s := s0.reach (s0.pkg.railAt + 1000000)
  let rs := (millivolts.take 10).zipIdx.foldl (fun (m : FMap Nat) e => fset m e.2 e.1) s.pkg.rails
  let bad := (railTable.zipIdx.filter fun e => (ffind? rs e.2).any (railOut e.1)).map (·.2)
  .next { s with pkg := { s.pkg with rails := rs, railAlert := bad, railAt := s.ns } }

/-! ### SMBus (R557, R558) -/

/-- Does the SMBus target answer: PWR_GOOD_AON and PWR_GOOD_IO (R557)? -/
def smbusUp (s : State) : Bool := s.pkg.good.contains 0 && s.pkg.good.contains 1

/-- The bytes of a Block Read; none of a code that is refused (R558). -/
def smbusData (s : State) (code : Nat) : Option (List Byte) :=
  let f := s.hmk.fuses
  let h := s.hlt
  match code with
  | 0 => some (bytesLE 4 0x00119128 ++ bytesLE 3 f.lot ++ bytesLE 1 f.wafer ++ bytesLE 1 f.dieX ++ bytesLE 1 f.dieY ++ bytesLE 2 f.date)
  | 1 => some (bytesOf (word [(1, 0, s.hmk.boot), (4, 2, s.lcs), (5, 5, flag s.pkg.sealed), (6, 6, flag h.solo), (7, 7, flag h.warn),
      (8, 8, flag h.trip), (9, 9, flag h.crit), (10, 10, flag (!s.pkg.railAlert.isEmpty))]))
  | 2 => some ((List.range 16).flatMap fun i => bytesLE 1 (tempByte (fget h.dieTemp 0 i)))
  | 3 => some ((List.range 4).flatMap fun i => bytesLE 1 (tempByte (fget h.hbmTemp 0 i)))
  | 4 => some ((List.range 10).flatMap fun i => bytesLE 2 (fget s.pkg.rails 0 i))
  | 5 => some (bytesLE 2 (s.pkg.railAlert.foldl (fun m i => m ||| 2 ^ i) 0))
  | _ => none

/-- The packet error code over the bytes of a transaction (R557): CRC-8 of polynomial 0x07, as SMBus has it. -/
def smbPec (bs : List Byte) : Byte :=
  bs.foldl (fun c b => (List.range 8).foldl (fun c _ => if bit c 7 then (c <<< 1) ^^^ 0x07 else c <<< 1) (c ^^^ b)) 0

/-- The bytes of a Block Read on the bus: the address to write to, the code, the address to read from, the count and the data. -/
def smbFrame (addr : Nat) (code : Byte) (bs : List Byte) : List Byte :=
  [BitVec.ofNat 8 (2 * addr), code, BitVec.ofNat 8 (2 * addr + 1), BitVec.ofNat 8 bs.length] ++ bs

/-- SMBUS_BLOCK_READ (R557, R558): the target answers its own address. A Block Read of a code it serves returns the data with its PEC;
anything else is refused with NACK. Nothing in the device changes. -/
def execSmbusBlockRead (xfer : SmbusXfer) (s : State) : Out' :=
  if !smbusUp s || xfer.address.toNat ≠ s.pkg.smbAddr then .next s
  else match if xfer.blockRead && xfer.beyond.isEmpty then smbusData s xfer.code.toNat else none with
    | some bs => .next (s.emit (.smbus bs (smbPec (smbFrame s.pkg.smbAddr xfer.code bs))))
    | none => .next (s.emit .smbusNack)

/-- SMB_ALERT_N is low (R555, R558). -/
def smbAlert (s : State) : Bool :=
  smbusUp s && !s.pkg.inReset && (s.hlt.warn || s.hlt.trip || s.hlt.crit || !s.pkg.railAlert.isEmpty)

/-- ALERT_RESPONSE (R557, R558): the target that holds SMB_ALERT_N low answers the Alert Response Address with its own, above a bit that the
rule leaves open. -/
def execAlertResponse (s : State) : Out' :=
  if smbAlert s then
    let f := s.free
    let b : Byte := BitVec.ofNat 8 (2 * s.pkg.smbAddr + f.1 % 2)
    .next (f.2.emit (.smbus [b] (smbPec [0x19, b])))
  else .next s

/-! ### JTAG (R490, R559) -/

/-- Is JTAG open beyond boundary scan (R490)? -/
def jtagOpen (s : State) : Bool :=
  match s.lcs with
  | 0 => true
  | 1 | 3 => s.hmk.debugOpen
  | _ => false

/-- JTAG_INSTRUCTION (R490, R555, R559): what R490 does not open acts as BYPASS. -/
def execJtagInstruction (instr : JtagInstr) (s : State) : Out' :=
  let bypass := match instr with
    | .bypass => true
    | .boundaryScan => false
    | _ => !jtagOpen s
  .next (s.emit (.jtag bypass !s.pkg.inReset))

end Sys2Proof.Machine
end

