-- ==== Sys2Proof/WellFormed.lean ====
section
/-!
DEFINITION. WellFormed.lean: which commands can come from outside: operands within the ranges that their types do not already impose. A
frame, packet, in-flight entry or index that nothing holds is no ill-formed operand: its command finds nothing to act on.
-/

namespace Sys2Proof

/-- A ring slot: a ring has at most 2^16 (R446). -/
def slotOk (slot : Nat) : Bool := decide (slot < 2 ^ 16)

/-- Bytes of a space (R442, R443, R531). -/
def Space.bytes : Space → Nat
  | .bar0 => 0x4000000
  | .bar2 fn => if fn.val = 0 then 0x400000 else 0x80000

/-- Does an access lie within its space? Its size and alignment are the device's to check (R6). -/
def inBar (sp : Space) (addr size : Nat) : Bool := decide (0 < size) && decide (addr + size ≤ sp.bytes)

/-- Is a command well formed? -/
def Instr.wf (i : Instr) : Bool :=
  match i with
  | .flowLookup _ slot | .flowRead _ slot | .flowInstall _ slot | .flowModify _ slot | .flowDelete _ slot
  | .flowTemplateWrite _ slot | .filigreeLoad _ slot | .filigreeSwitch _ slot | .exportProfileWrite _ slot
  | .indirectionWrite _ slot | .indirectionRead _ slot | .tableWrite _ slot | .tableRead _ slot | .tcamWrite _ slot
  | .tcamRead _ slot | .tcamCounterRead _ slot | .graphTemplateWrite _ slot | .graphTemplateRead _ slot | .mcsPatchLoad _ slot
  | .mcsPatchSwitch _ slot | .mcastGroupWrite _ slot | .mcastGroupRead _ slot | .rewriteTemplateWrite _ slot
  | .portFlush _ slot | .blockRelease _ slot | .tmNodeWrite _ slot | .tmNodeRead _ slot | .policerProfileWrite _ slot
  | .gateListWrite _ slot | .gateListRead _ slot | .keyWrite _ slot | .keyErase _ slot | .keyStateRead _ slot | .keyPin _ slot
  | .memSlotTableWrite _ slot | .portModeWrite _ slot | .portAdmin _ slot | .timeOffset _ slot | .timeStep _ slot
  | .timeFreq _ slot | .bootImageLoad _ slot | .identCertRead _ slot | .attest _ slot | .roleChallenge _ slot
  | .roleAuth _ slot | .roleClose _ slot | .ticketExec _ slot | .codeKeyLoad _ slot | .auditRead _ slot | .auditRelease _ slot
  | .auditSeal _ slot | .inject _ slot | .powerSet _ slot | .solitaireEnter _ _ slot | .solitaireExit _ slot
  | .keelWrite _ slot | .keelRead _ slot | .healthRecordRead _ slot | .healthRecordLoad _ slot | .commandStage _ slot _
  | .completionWrite _ slot | .claspLock _ _ _ slot => slotOk slot
  | .gateListArm _ | .keyEraseComplete _ | .powerTransitionDone _ | .setupSeal _ | .glbReset _ | .flwEnable _ | .flwInitStart
  | .sliceReady _ | .filigreeModeWrite _ | .natPoolValid _ _ | .sweepEnable _ | .bufEnable _ | .tcmBankCfgWrite _ _
  | .memReqCfgWrite _ _ _ | .clkSrcWrite _ | .pllRelock | .spareEnableWrite _ | .perfSelWrite _ _ | .stormClear _ _
  | .intStatusClear _ _ | .ringEnable _ | .ringDisable _ | .ringIdle _ | .doorbellUpdate _ _ _ | .doorbellArm _ _ _
  | .descriptorFetch _ | .fetchError _ _ | .commandAccept _ | .puntWrite _ | .exportMessageClose _ | .vectorTimeout _
  | .perfSnapshot | .perfOverflow _ | .functionLevelReset _ | .busMasterDisable _ | .pcieHotReset | .pwrGoodAssert _
  | .pwrGoodDrop _ | .perstNAssert | .perstNRelease | .bootRomDone _ | .hbmTrained _ | .locketReady | .rngHealthFail
  | .pfcXoffRepeat _ _ | .pfcPauseExpire _ _ | .pfcStorm _ _ | .parseDecision _ | .learnHoldoffExpire _ _ | .frameTail _
  | .engineQueueAccept _ | .packetStart _ _ | .opIssue _ _ _ | .sliceLookup _ _ | .tagPairReadDone _ _ | .recordReadDone _ _
  | .setupQueueEnter _ _ | .setupDone _ | .sweepVisit _ | .microwordIssue _ _ _ | .update _ _ | .packetAbort _ _
  | .packetResume _ _ | .tableLookupResult _ _ _ | .tcamCopyStep _ | .tcamScrub _ _ _ | .cipherAccept _ _ | .keyFetchDone _
  | .cipherComplete _ | .packetRelease _ _ | .bufferAllocate _ _ | .bufferFree _ _ _ | .crossbarMatch | .enqueue _ _
  | .transmitStart _ | .gateEntryChange _ | .gateListChange _ | .queueSamplePass | .txtsEventWrite _ | .anComplete _
  | .anFail _ | .anBackoffExpire _ | .trainingComplete _ | .portAligned _ | .linkUp _ | .linkDown _ _ | .linkFault _ _
  | .refclkLoss _ | .loupeDwell _ _ _ _ | .rxDelayPublish _ _ | .arbiterSlot _ _ | .burstLimitExpire _ _ | .slotTableSwitch _
  | .rankPowerDown _ _ _ | .retrainDue _ _ | .retrainStep _ _ _ | .retrainDone _ _ | .spareMacroStart _ | .spareSwap _
  | .spareMarchDone _ _ | .spareSwapBack _ | .reverifyPass | .sessionExpire _ | .auditRecordWrite | .ppsOutEdge | .ppsInEdge
  | .clkRefLost _ | .smbusBlockRead _ | .jtagInstruction _ | .stackCatastrophicTemp _ | .refclkReturn _ | .rngHealthPass
  | .pcieLinkTrained _ _ _ | .clk10mInReturn | .deniedRecord _ | .alertResponse => true
  | .laneEyeRead _ slot map => slotOk slot && decide (map.length ≤ 3072)
  | .bistRun _ slot _ macroFails => slotOk slot && macroFails.all fun e => decide (e.1 < 224)
  | .registerWrite space addr size _ | .latchedRead space addr size => inBar space addr size
  | .rcRead addr size => inBar .bar0 addr size
  | .frameReceive _ bytes line => !bytes.isEmpty || line.codewords != 0
  | .pfcReceive _ _ timers => timers.length == 8
  | .writeBackDone _ index => decide (index < 2 ^ 26)
  | .spillWrite queue | .spillRefill queue => decide (queue < 1120)
  | .refreshDue _ _ bank => decide (bank < 32)
  | .memUncorrectable _ error => decide (error.addr < 2 ^ 37)
  | .tempSample dieC hbmC => dieC.length == 16 && hbmC.length == 4 && (dieC ++ hbmC).all fun t => decide (-128 ≤ t) && decide (t ≤ 127)
  | .railSample millivolts => millivolts.length == 10 && millivolts.all fun v => decide (v < 2 ^ 16)

end Sys2Proof
end

