-- ==== Sys2Proof/Machine/Registers.lean ====
section
/-!
DEFINITION. Machine/Registers.lean: accesses to BAR0 and BAR2 by the host: size and alignment (R6), latched words (R7), reserved bits
and encodings (R8-R10), access codes (R11), the seal (R13), doorbell pages (R443, R447, R531), and the registers whose write acts.
-/

namespace Sys2Proof.Machine

open Sys2Proof

/-! ### Writes with a check of their own -/

/-- Store a register's value unless it is a reserved encoding (R9). -/
def storeIf (s : State) (a : Nat) (bad : Bool) (v : W32) : State := if bad then badWrite s else s.setReg a v

/-- Does a value keep to the ranges of its row's fields (R9)? -/
def RegRow.legal (r : RegRow) (v : W32) : Bool :=
  r.rng.all fun e => decide (e.2.2.1 ≤ fld v e.1 e.2.1) && decide (fld v e.1 e.2.1 ≤ e.2.2.2)

/-- A write of an interrupt status group (R520). -/
def intClear (s : State) (g : Nat) (v : W32) : State :=
  let a := Reg.HLT_INT_STATUS g
  let s1 := s.setReg a (s.reg a &&& ~~~(v &&& 0xFFFF))
  if intLive s1 g != 0 then intMsg s1 g else s1

/-- Send the message of an entry that waits for its mask to clear, and clear its pending bit (R463). -/
def msixUnmask (s : State) (fn e : Nat) : State :=
  if !msixMasked s fn e && s.hif.pba.contains (64 * fn + e) then
    { s with hif := { s.hif with pba := s.hif.pba.filter (· != 64 * fn + e) } }.emit (.msix fn e)
  else s

/-- A write of word `k` of the PF's MSI-X table (R462, R469). -/
def msixWrite (s : State) (k : Nat) (v : W32) : State := msixUnmask (s.setReg (Reg.HIF_MSIX_TABLE k) v) 0 (k / 4)

/-- What a word of a VF's MSI-X table reads as while nothing has been written to it: masked (R443). -/
def vfMsixDefault (k : Nat) : W32 := if k % 16 = 12 then 1 else 0

/-- A word of a VF's MSI-X table. -/
def vfMsixWord (s : State) (fn off : Nat) : W32 :=
  (ffind? s.hif.vfMsix (2048 * (fn - 1) + off)).getD (vfMsixDefault off)

/-- A write of a word of a VF's MSI-X table (R443). -/
def vfMsixWrite (s : State) (fn off : Nat) (v : W32) : State :=
  let s1 := { s with hif := { s.hif with vfMsix := fputD s.hif.vfMsix vfMsixDefault (2048 * (fn - 1) + off) v } }
  msixUnmask s1 fn (off / 16)

/-- Has FLW_CTRL.ENABLE been set? -/
def flwOn (s : State) : Bool := bit (s.reg Reg.FLW_CTRL) 0

/-- A write of FLW_HASH_CTRL (R62). -/
def hashCtrlWrite (s : State) (v : W32) : State :=
  storeIf s Reg.FLW_HASH_CTRL (flwOn s || (bit v 0 && (s.lcs == 2 || s.lcs == 4))) (v &&& 1)

/-- A write of word `k` of the fixed hash key (R41, R62). -/
def hashKeyWrite (s : State) (k : Nat) (v : W32) : State :=
  if flwOn s then badWrite s
  else { s with flw := { s.flw with fixedKey := put s.flw.fixedKey (32 * k + 31) (32 * k) v.toNat } }

/-- A write of a word of a parse node (R130, R132): reserved bits read 0. -/
def nodeWrite (s : State) (p i : Nat) (v : W32) : State :=
  let m : W32 := match i % 4 with
    | 0 => 0x3FFFFFFF
    | 1 => 0x07FFFFFF
    | 2 => 0x1FFFF
    | _ => 0
  storeIf s (Reg.PRS_NODE p i) (i % 4 == 0 && (decide (11 < fld v 7 4) || (i / 4 == 63 && bit v 0))) (v &&& m)

/-- A write of a word of a transition (R131). -/
def transWrite (s : State) (p i : Nat) (v : W32) : State :=
  s.setReg (Reg.PRS_TRANS p i) (if i % 2 = 0 then v else v &&& 0x1FFF)

/-- A write of a word of a path entry. -/
def pathWrite (s : State) (p i : Nat) (v : W32) : State :=
  storeIf s (Reg.PRS_PATH p i) (i % 2 == 0 && fld v 28 27 == 3) (if i % 2 = 0 then v else v &&& 0x00FFFFFF)

/-- Widths of the fields of an exact profile, by code (R223). -/
def exactWidths : List Nat := [0, 48, 48, 12, 8, 32, 32, 16, 16, 8, 32, 6, 16]

/-- Is an exact profile a reserved encoding (R223)? -/
def exactProfileBad (v : W32) : Bool :=
  let cs := [fld v 7 4, fld v 11 8, fld v 15 12, fld v 19 16]
  cs.any (fun c => decide (12 < c)) || decide (92 < (cs.map fun c => exactWidths.getD c 0).sum)

/-- A write of FWD_EXACT_PROFILE (R223). -/
def exactProfileWrite (s : State) (p i : Nat) (v : W32) : State :=
  storeIf s (Reg.FWD_EXACT_PROFILE p i) (exactProfileBad v) (v &&& 0x1FFFFF)

/-- A write of TCM_PROFILE (R248, R249). -/
def tcmProfileWrite (s : State) (p i : Nat) (v : W32) : State :=
  storeIf s (Reg.TCM_PROFILE p i) (tcmProfileBad s p v) (v &&& 0x7FFFFF)

/-- A write of SWC_SPILL_THRESH (R296): REFILL_CELLS must not exceed ON_CELLS. -/
def spillThreshWrite (s : State) (v : W32) : State :=
  storeIf s Reg.SWC_SPILL_THRESH (decide (fld v 15 0 < 64) || decide (fld v 15 0 < fld v 31 16)) v

/-- A write of BPM_POOL_CFG (R311): pool 0 stays valid with buffers of one cell. -/
def poolCfgWrite (s : State) (n : Nat) (v : W32) : State :=
  storeIf s (Reg.BPM_POOL_CFG n) (decide (8 < fld v 4 1) || (n == 0 && fld v 4 0 != 1)) (v &&& 0x1F)

/-- A write of TMG_PFC_THRESH (R336): XON_CELLS must lie below XOFF_CELLS. -/
def pfcThreshWrite (s : State) (n : Nat) (v : W32) : State :=
  storeIf s (Reg.TMG_PFC_THRESH n) (decide (fld v 15 0 ≤ fld v 31 16)) v

/-- A write of TMG_GATE_STATUS (R336). -/
def gateStatusWrite (s : State) (n : Nat) (v : W32) : State :=
  let x := s.gatesOf n
  s.setGates n { x with late := x.late && !bit v 2 }

/-- A write of TMU_JUMP_REFUSED (R441). -/
def refusedWrite (s : State) (v : W32) : State := { s with tmu := { s.tmu with refused := s.tmu.refused && !bit v 0 } }

/-- A write of TMU_SERVO_CFG (R441). -/
def servoCfgWrite (s : State) (v : W32) : State :=
  storeIf s Reg.TMU_SERVO_CFG (decide (5 ≤ fld v 3 0) && decide (fld v 3 0 ≤ 8)) (v &&& 0xF)

/-- A write of TMU_PPS_CTRL (R435, R441). -/
def ppsCtrlWrite (s : State) (v : W32) : State :=
  if fld v 21 2 = 0 || 999999 < fld v 21 2 then badWrite s else ppsAim (s.setReg Reg.TMU_PPS_CTRL (v &&& 0x3FFFFF))

/-- A write of TMU_PPS_OFFSET (R435, R441). -/
def ppsOffsetWrite (s : State) (v : W32) : State :=
  if 1000000 < v.toInt.natAbs then badWrite s else ppsAim (s.setReg Reg.TMU_PPS_OFFSET v)

/-- A write of TMU_TXTS_STATUS (R441). -/
def txtsStatusWrite (s : State) (n : Nat) (v : W32) : State :=
  if bit v 8 then { s with tmu := { s.tmu with overflow := s.tmu.overflow.filter (· != n) } } else s

/-- A write of HIF_PERF_CTRL (R468, R470): the period runs from the write that enables snapshots. -/
def perfCtrlWrite (s : State) (v : W32) : State :=
  if fld v 31 16 = 0 then badWrite s
  else
    let s1 := s.setReg Reg.HIF_PERF_CTRL (v &&& 0xFFFF0001)
    if bit v 0 && !bit (s.reg Reg.HIF_PERF_CTRL) 0 then { s1 with hif := { s1.hif with snapNs := s.ns } } else s1

/-- A write of HIF_RING_CTRL (R446, R449). -/
def ringCtrlWrite (s : State) (r : Nat) (v : W32) : State := if bit v 0 then ringEnable s r else ringDisable s r

/-- A write of HLT_INT_ROUTE (R520). -/
def intRouteWrite (s : State) (g : Nat) (v : W32) : State :=
  storeIf s (Reg.HLT_INT_ROUTE g) (!(vectorOwners s (fld v 5 0)).isEmpty) (v &&& 0x13F)

/-- A write of GLB_RESET_CAUSE (R537). -/
def resetCauseWrite (s : State) (v : W32) : State :=
  { s with pkg := { s.pkg with hostReset := s.pkg.hostReset && !bit v 2 } }

/-! ### The writers, by the address of the row's first instance -/

def writersA : List (Nat × (State → Nat → Nat → W32 → State)) :=
  [(Reg.FLW_CTRL, fun s _ _ v => flwCtrlWrite s v), (Reg.FLW_HASH_CTRL, fun s _ _ v => hashCtrlWrite s v),
   (Reg.FLW_HASH_KEY0, fun s _ _ v => hashKeyWrite s 0 v), (Reg.FLW_HASH_KEY1, fun s _ _ v => hashKeyWrite s 1 v),
   (Reg.FLW_HASH_KEY2, fun s _ _ v => hashKeyWrite s 2 v), (Reg.FLW_HASH_KEY3, fun s _ _ v => hashKeyWrite s 3 v),
   (Reg.FLW_FILIGREE_CTRL, fun s _ _ v => flgModeWrite s v), (Reg.FLW_AGE_CTRL, fun s _ _ v => ageCtrlWrite s v),
   (Reg.FLW_NAT_CFG 0, fun s _ i v => natCfgWrite s i v), (Reg.PRS_NODE 0 0, nodeWrite), (Reg.PRS_TRANS 0 0, transWrite),
   (Reg.PRS_PATH 0 0, pathWrite), (Reg.FWD_EXACT_PROFILE 0 0, exactProfileWrite),
   (Reg.TCM_BANK_CFG 0, fun s p _ v => bankCfgWrite s p v), (Reg.TCM_PROFILE 0 0, tcmProfileWrite),
   (Reg.SWC_BUF_CTRL, fun s _ _ v => bufCtrlWrite s v), (Reg.SWC_SPILL_THRESH, fun s _ _ v => spillThreshWrite s v),
   (Reg.BPM_POOL_CFG 0, fun s _ i v => poolCfgWrite s i v), (Reg.TMG_PFC_THRESH 0, fun s _ i v => pfcThreshWrite s i v),
   (Reg.TMG_PFC_STATUS 0, fun s _ i v => stormClear s i v), (Reg.TMG_SAMPLE_CTRL, fun s _ _ v => sampleCtrlWrite s v), (Reg.TMG_GATE_STATUS 0, fun s _ i v => gateStatusWrite s i v)]

def writersB : List (Nat × (State → Nat → Nat → W32 → State)) :=
  [(Reg.MEM_REQ_CFG 0 0, fun s p i v => reqCfgWrite s p i v), (Reg.TMU_CLK_CTRL, fun s _ _ v => clkCtrlWrite s v),
   (Reg.TMU_JUMP_REFUSED, fun s _ _ v => refusedWrite s v), (Reg.TMU_SERVO_CFG, fun s _ _ v => servoCfgWrite s v),
   (Reg.TMU_PPS_CTRL, fun s _ _ v => ppsCtrlWrite s v), (Reg.TMU_PPS_OFFSET, fun s _ _ v => ppsOffsetWrite s v),
   (Reg.TMU_TXTS_STATUS 0, fun s _ i v => txtsStatusWrite s i v), (Reg.HIF_PERF_CTRL, fun s _ _ v => perfCtrlWrite s v),
   (Reg.HIF_PERF_SEL 0, fun s _ i v => perfSelWrite s i v), (Reg.HIF_RING_CTRL 0, fun s _ i v => ringCtrlWrite s i v),
   (Reg.HIF_MSIX_TABLE 0, fun s _ i v => msixWrite s i v), (Reg.HLT_SPARE_CTRL, fun s _ _ v => spareCtrlWrite s v),
   (Reg.HLT_INT_STATUS 0, fun s _ i v => intClear s i v),
   (Reg.HLT_INT_MASK 0, fun s _ i v => intStore s i (Reg.HLT_INT_MASK i) (v &&& 0xFFFF)),
   (Reg.HLT_INT_ROUTE 0, fun s _ i v => intRouteWrite s i v), (Reg.GLB_RESET_CAUSE, fun s _ _ v => resetCauseWrite s v),
   (Reg.GLB_RESET, fun s _ _ v => glbReset s v), (Reg.HLT_SETUP_SEAL, fun s _ _ v => setupSeal s v)]

/-- A 32-bit write of a BAR0 register (R8-R11, R13, R396, R542): the seal is tested before any other check. A write of a register of access
RC is ignored and not counted, as of one of access RO (DESIGN CHOICE, log 164). -/
def regWrite (s : State) (a : Nat) (v : W32) : State :=
  match regRowAt a with
  | none => badWrite s
  | some r =>
    if r.acc == .rws && s.pkg.sealed then sealedWrite s
    else if portRegDead s a then badWrite s
    else if r.acc == .ro || r.acc == .rc then s
    else match (writersA ++ writersB).find? fun w => w.1 == r.base with
      | some w => w.2 s (r.place a).1 (r.place a).2 v
      | none =>
        let v' := v &&& BitVec.ofNat 32 r.mask
        storeIf s a (!r.legal v') v'

/-! ### Reads -/

/-- How many higher words a read of a register latches (R7). -/
def latchCount (a : Nat) : Nat :=
  match regRowAt a with
  | none => 0
  | some r =>
    if r.base = Reg.TMU_TIME_0 then 4
    else if loRows.contains r.base || r.base = Reg.HMK_AUDIT_SEQ_LO then 1
    else if r.base = Reg.HIF_PERF_VALUE 0 && (r.place a).2 % 2 = 0 then 1
    else 0

/-- Is a register a higher word of a latched value? -/
def latchedHigh (a : Nat) : Bool :=
  (List.range 4).any fun k => decide (4 * (k + 1) ≤ a) && decide (k + 1 ≤ latchCount (a - 4 * (k + 1)))

/-- A 32-bit read of a BAR0 register (R7, R10, R11). -/
def regRead (s : State) (a : Nat) : W32 × State :=
  match regRowAt a with
  | none => (0, s)
  | some r =>
    if latchedHigh a then (fget s.latch 0 a, s)
    else
      let hs := (List.range (latchCount a)).map fun k => a + 4 * (k + 1)
      let s1 := { s with latch := hs.foldl (fun (m : FMap W32) h => fput m 0 h (regView s h)) s.latch }
      (regView s a, if r.acc == .rc && !portRegDead s a then s1.setReg a (afterRead s r a) else s1)

/-! ### BAR2 (R443, R447, R531) -/

/-- HIF_DB_STATUS of a doorbell page (R447). -/
def dbStatus (s : State) (fn page : Nat) : W32 :=
  match pageRing s fn page with
  | none => 0
  | some r => viewRingStatus s 0 r &&& 0x5FFFF

/-- Offsets of a VF's MSI-X table and PBA in its BAR2 (R443). -/
def vfTable : Nat := 0x40000
def vfPba : Nat := 0x41000

/-- A 32-bit write of BAR2. -/
def bar2Write (s : State) (fn a : Nat) (v : W32) : State :=
  if fn != 0 && vfTable ≤ a then if a < vfTable + 0x400 then vfMsixWrite s fn (a - vfTable) v else s
  else if a % 4096 = 0 then doorbell s fn (a / 4096) v
  else s

/-- What a word of BAR2 reads as. -/
def bar2View (s : State) (fn a : Nat) : W32 :=
  if fn != 0 && vfTable ≤ a then
    if a < vfTable + 0x400 then vfMsixWord s fn (a - vfTable)
    else if a = vfPba || a = vfPba + 4 then
      (List.range 32).foldl (fun w k => if s.hif.pba.contains (64 * fn + 8 * (a - vfPba) + k) then putBit w k true else w) 0
    else 0
  else if a % 4096 = 8 then dbStatus s fn (a / 4096)
  else 0

/-! ### Accesses (R6) -/

/-- Is an access of a size and alignment that the device takes (R6)? -/
def accessOk (sp : Space) (a size : Nat) : Bool :=
  (size == 4 || size == 8) && a % size == 0 && decide (a + size ≤ sp.bytes)

/-- A 32-bit write of a space. In END (R490) no BAR0 write has an effect; R62 counts one of MODE = 1. -/
def wordWrite (s : State) (sp : Space) (a : Nat) (v : W32) : State :=
  match sp with
  | .bar0 => if s.hmk.fuses.lcs = 4 && !(a == Reg.FLW_HASH_CTRL && bit v 0) then s else regWrite s a v
  | .bar2 fn => bar2Write s fn a v

/-- A 32-bit read of a space. In END the data of BAR0 is open (R490). -/
def wordRead (s : State) (sp : Space) (a : Nat) : W32 × State :=
  match sp with
  | .bar0 => if s.hmk.fuses.lcs = 4 then (BitVec.ofNat 32 s.free.1, s.free.2) else regRead s a
  | .bar2 fn => (bar2View s fn a, s)

/-- A write of a space: a 64-bit one acts as two, the lower offset first. -/
def barWrite (s : State) (sp : Space) (a size : Nat) (v : W64) : State :=
  if !accessOk sp a size then s.emit .unsupported
  else
    let s1 := wordWrite s sp a (BitVec.ofNat 32 v.toNat)
    if size = 4 then s1 else wordWrite s1 sp (a + 4) (BitVec.ofNat 32 (v.toNat >>> 32))

/-- A read of a space. -/
def barRead (s : State) (sp : Space) (a size : Nat) : State :=
  if !barUp s then s
  else if !accessOk sp a size then s.emit .unsupported
  else
    let r := wordRead s sp a
    if size = 4 then { r.2 with busRead := BitVec.ofNat 64 r.1.toNat }
    else
      let r2 := wordRead r.2 sp (a + 4)
      { r2.2 with busRead := BitVec.ofNat 64 (r.1.toNat + 2 ^ 32 * r2.1.toNat) }

/-- REGISTER_WRITE (R6, R8-R11, R13). -/
def execRegisterWrite (space : Space) (addr size : Nat) (value : W64) (s : State) : Out' := onBar2 s (barWrite s space addr size value)

/-- LATCHED_READ (R7). -/
def execLatchedRead (space : Space) (addr size : Nat) (s : State) : Out' := .next (barRead s space addr size)

/-- RC_READ (R11). -/
def execRcRead (addr size : Nat) (s : State) : Out' := .next (barRead s .bar0 addr size)

/-- INT_STATUS_CLEAR (R520). -/
def execIntStatusClear (group : Fin 16) (value : W32) (s : State) : Out' := onBar s (intClear s group value)

end Sys2Proof.Machine
end

