-- ==== Sys2Proof/Machine/Dispatch.lean ====
section
/-!
DEFINITION. Machine/Dispatch.lean: one arm for each command, each one direct call of its meaning.
-/

namespace Sys2Proof.Machine

open Sys2Proof

/-- The effect of a command on everything but the queue. -/
def exec (i : Instr) (s : State) : Host.Outcome State Fault Refusal :=
  match i with
  | .flowLookup ring slot => Sys2Proof.Machine.execFlowLookup ring slot s
  | .flowRead ring slot => Sys2Proof.Machine.execFlowRead ring slot s
  | .flowInstall ring slot => Sys2Proof.Machine.execFlowInstall ring slot s
  | .flowModify ring slot => Sys2Proof.Machine.execFlowModify ring slot s
  | .flowDelete ring slot => Sys2Proof.Machine.execFlowDelete ring slot s
  | .flowTemplateWrite ring slot => Sys2Proof.Machine.execFlowTemplateWrite ring slot s
  | .filigreeLoad ring slot => Sys2Proof.Machine.execFiligreeLoad ring slot s
  | .filigreeSwitch ring slot => Sys2Proof.Machine.execFiligreeSwitch ring slot s
  | .exportProfileWrite ring slot => Sys2Proof.Machine.execExportProfileWrite ring slot s
  | .indirectionWrite ring slot => Sys2Proof.Machine.execIndirectionWrite ring slot s
  | .indirectionRead ring slot => Sys2Proof.Machine.execIndirectionRead ring slot s
  | .tableWrite ring slot => Sys2Proof.Machine.execTableWrite ring slot s
  | .tableRead ring slot => Sys2Proof.Machine.execTableRead ring slot s
  | .tcamWrite ring slot => Sys2Proof.Machine.execTcamWrite ring slot s
  | .tcamRead ring slot => Sys2Proof.Machine.execTcamRead ring slot s
  | .tcamCounterRead ring slot => Sys2Proof.Machine.execTcamCounterRead ring slot s
  | .graphTemplateWrite ring slot => Sys2Proof.Machine.execGraphTemplateWrite ring slot s
  | .graphTemplateRead ring slot => Sys2Proof.Machine.execGraphTemplateRead ring slot s
  | .mcsPatchLoad ring slot => Sys2Proof.Machine.execMcsPatchLoad ring slot s
  | .mcsPatchSwitch ring slot => Sys2Proof.Machine.execMcsPatchSwitch ring slot s
  | .mcastGroupWrite ring slot => Sys2Proof.Machine.execMcastGroupWrite ring slot s
  | .mcastGroupRead ring slot => Sys2Proof.Machine.execMcastGroupRead ring slot s
  | .rewriteTemplateWrite ring slot => Sys2Proof.Machine.execRewriteTemplateWrite ring slot s
  | .portFlush ring slot => Sys2Proof.Machine.execPortFlush ring slot s
  | .blockRelease ring slot => Sys2Proof.Machine.execBlockRelease ring slot s
  | .tmNodeWrite ring slot => Sys2Proof.Machine.execTmNodeWrite ring slot s
  | .tmNodeRead ring slot => Sys2Proof.Machine.execTmNodeRead ring slot s
  | .policerProfileWrite ring slot => Sys2Proof.Machine.execPolicerProfileWrite ring slot s
  | .gateListWrite ring slot => Sys2Proof.Machine.execGateListWrite ring slot s
  | .gateListArm port => Sys2Proof.Machine.execGateListArm port s
  | .gateListRead ring slot => Sys2Proof.Machine.execGateListRead ring slot s
  | .keyWrite ring slot => Sys2Proof.Machine.execKeyWrite ring slot s
  | .keyErase ring slot => Sys2Proof.Machine.execKeyErase ring slot s
  | .keyEraseComplete key => Sys2Proof.Machine.execKeyEraseComplete key s
  | .keyStateRead ring slot => Sys2Proof.Machine.execKeyStateRead ring slot s
  | .keyPin ring slot => Sys2Proof.Machine.execKeyPin ring slot s
  | .memSlotTableWrite ring slot => Sys2Proof.Machine.execMemSlotTableWrite ring slot s
  | .portModeWrite ring slot => Sys2Proof.Machine.execPortModeWrite ring slot s
  | .portAdmin ring slot => Sys2Proof.Machine.execPortAdmin ring slot s
  | .laneEyeRead ring slot map => Sys2Proof.Machine.execLaneEyeRead ring slot map s
  | .timeOffset ring slot => Sys2Proof.Machine.execTimeOffset ring slot s
  | .timeStep ring slot => Sys2Proof.Machine.execTimeStep ring slot s
  | .timeFreq ring slot => Sys2Proof.Machine.execTimeFreq ring slot s
  | .bootImageLoad ring slot => Sys2Proof.Machine.execBootImageLoad ring slot s
  | .identCertRead ring slot => Sys2Proof.Machine.execIdentCertRead ring slot s
  | .attest ring slot => Sys2Proof.Machine.execAttest ring slot s
  | .roleChallenge ring slot => Sys2Proof.Machine.execRoleChallenge ring slot s
  | .roleAuth ring slot => Sys2Proof.Machine.execRoleAuth ring slot s
  | .roleClose ring slot => Sys2Proof.Machine.execRoleClose ring slot s
  | .ticketExec ring slot => Sys2Proof.Machine.execTicketExec ring slot s
  | .codeKeyLoad ring slot => Sys2Proof.Machine.execCodeKeyLoad ring slot s
  | .auditRead ring slot => Sys2Proof.Machine.execAuditRead ring slot s
  | .auditRelease ring slot => Sys2Proof.Machine.execAuditRelease ring slot s
  | .auditSeal ring slot => Sys2Proof.Machine.execAuditSeal ring slot s
  | .inject ring slot => Sys2Proof.Machine.execInject ring slot s
  | .powerSet ring slot => Sys2Proof.Machine.execPowerSet ring slot s
  | .powerTransitionDone domain => Sys2Proof.Machine.execPowerTransitionDone domain s
  | .solitaireEnter cause ring slot => Sys2Proof.Machine.execSolitaireEnter cause ring slot s
  | .solitaireExit ring slot => Sys2Proof.Machine.execSolitaireExit ring slot s
  | .keelWrite ring slot => Sys2Proof.Machine.execKeelWrite ring slot s
  | .keelRead ring slot => Sys2Proof.Machine.execKeelRead ring slot s
  | .healthRecordRead ring slot => Sys2Proof.Machine.execHealthRecordRead ring slot s
  | .healthRecordLoad ring slot => Sys2Proof.Machine.execHealthRecordLoad ring slot s
  | .bistRun ring slot domainFails macroFails => Sys2Proof.Machine.execBistRun ring slot domainFails macroFails s
  | .registerWrite space addr size value => Sys2Proof.Machine.execRegisterWrite space addr size value s
  | .latchedRead space addr size => Sys2Proof.Machine.execLatchedRead space addr size s
  | .rcRead addr size => Sys2Proof.Machine.execRcRead addr size s
  | .setupSeal value => Sys2Proof.Machine.execSetupSeal value s
  | .glbReset value => Sys2Proof.Machine.execGlbReset value s
  | .flwEnable value => Sys2Proof.Machine.execFlwEnable value s
  | .flwInitStart => Sys2Proof.Machine.execFlwInitStart s
  | .sliceReady slice => Sys2Proof.Machine.execSliceReady slice s
  | .filigreeModeWrite value => Sys2Proof.Machine.execFiligreeModeWrite value s
  | .natPoolValid pool value => Sys2Proof.Machine.execNatPoolValid pool value s
  | .sweepEnable value => Sys2Proof.Machine.execSweepEnable value s
  | .bufEnable value => Sys2Proof.Machine.execBufEnable value s
  | .tcmBankCfgWrite pipe value => Sys2Proof.Machine.execTcmBankCfgWrite pipe value s
  | .memReqCfgWrite stack requester value => Sys2Proof.Machine.execMemReqCfgWrite stack requester value s
  | .clkSrcWrite value => Sys2Proof.Machine.execClkSrcWrite value s
  | .pllRelock => Sys2Proof.Machine.execPllRelock s
  | .spareEnableWrite value => Sys2Proof.Machine.execSpareEnableWrite value s
  | .perfSelWrite counter value => Sys2Proof.Machine.execPerfSelWrite counter value s
  | .stormClear port value => Sys2Proof.Machine.execStormClear port value s
  | .intStatusClear group value => Sys2Proof.Machine.execIntStatusClear group value s
  | .ringEnable ring => Sys2Proof.Machine.execRingEnable ring s
  | .ringDisable ring => Sys2Proof.Machine.execRingDisable ring s
  | .ringIdle ring => Sys2Proof.Machine.execRingIdle ring s
  | .doorbellUpdate fn page value => Sys2Proof.Machine.execDoorbellUpdate fn page value s
  | .doorbellArm fn page value => Sys2Proof.Machine.execDoorbellArm fn page value s
  | .descriptorFetch ring => Sys2Proof.Machine.execDescriptorFetch ring s
  | .fetchError ring cause => Sys2Proof.Machine.execFetchError ring cause s
  | .commandAccept ring => Sys2Proof.Machine.execCommandAccept ring s
  | .commandStage ring slot dmaFail => Sys2Proof.Machine.execCommandStage ring slot dmaFail s
  | .completionWrite ring slot => Sys2Proof.Machine.execCompletionWrite ring slot s
  | .puntWrite queue => Sys2Proof.Machine.execPuntWrite queue s
  | .exportMessageClose profile => Sys2Proof.Machine.execExportMessageClose profile s
  | .vectorTimeout vector => Sys2Proof.Machine.execVectorTimeout vector s
  | .perfSnapshot => Sys2Proof.Machine.execPerfSnapshot s
  | .perfOverflow counter => Sys2Proof.Machine.execPerfOverflow counter s
  | .functionLevelReset fn => Sys2Proof.Machine.execFunctionLevelReset fn s
  | .busMasterDisable fn => Sys2Proof.Machine.execBusMasterDisable fn s
  | .pcieHotReset => Sys2Proof.Machine.execPcieHotReset s
  | .pwrGoodAssert input => Sys2Proof.Machine.execPwrGoodAssert input s
  | .pwrGoodDrop input => Sys2Proof.Machine.execPwrGoodDrop input s
  | .perstNAssert => Sys2Proof.Machine.execPerstNAssert s
  | .perstNRelease => Sys2Proof.Machine.execPerstNRelease s
  | .bootRomDone pass => Sys2Proof.Machine.execBootRomDone pass s
  | .hbmTrained stack => Sys2Proof.Machine.execHbmTrained stack s
  | .locketReady => Sys2Proof.Machine.execLocketReady s
  | .rngHealthFail => Sys2Proof.Machine.execRngHealthFail s
  | .frameReceive port bytes line => Sys2Proof.Machine.execFrameReceive port bytes line s
  | .pfcXoffRepeat port prio => Sys2Proof.Machine.execPfcXoffRepeat port prio s
  | .pfcReceive port enable timers => Sys2Proof.Machine.execPfcReceive port enable timers s
  | .pfcPauseExpire port prio => Sys2Proof.Machine.execPfcPauseExpire port prio s
  | .pfcStorm port prio => Sys2Proof.Machine.execPfcStorm port prio s
  | .parseDecision frame => Sys2Proof.Machine.execParseDecision frame s
  | .learnHoldoffExpire pipe key => Sys2Proof.Machine.execLearnHoldoffExpire pipe key s
  | .frameTail frame => Sys2Proof.Machine.execFrameTail frame s
  | .engineQueueAccept frame => Sys2Proof.Machine.execEngineQueueAccept frame s
  | .packetStart cluster pkt => Sys2Proof.Machine.execPacketStart cluster pkt s
  | .opIssue cluster pkt op => Sys2Proof.Machine.execOpIssue cluster pkt op s
  | .sliceLookup slice source => Sys2Proof.Machine.execSliceLookup slice source s
  | .tagPairReadDone slice entry => Sys2Proof.Machine.execTagPairReadDone slice entry s
  | .recordReadDone slice entry => Sys2Proof.Machine.execRecordReadDone slice entry s
  | .setupQueueEnter slice entry => Sys2Proof.Machine.execSetupQueueEnter slice entry s
  | .setupDone slice => Sys2Proof.Machine.execSetupDone slice s
  | .writeBackDone slice index => Sys2Proof.Machine.execWriteBackDone slice index s
  | .sweepVisit slice => Sys2Proof.Machine.execSweepVisit slice s
  | .microwordIssue cluster pkt op => Sys2Proof.Machine.execMicrowordIssue cluster pkt op s
  | .update slice source => Sys2Proof.Machine.execUpdate slice source s
  | .packetAbort cluster pkt => Sys2Proof.Machine.execPacketAbort cluster pkt s
  | .packetResume cluster pkt => Sys2Proof.Machine.execPacketResume cluster pkt s
  | .tableLookupResult cluster pkt op => Sys2Proof.Machine.execTableLookupResult cluster pkt op s
  | .claspLock pipe table ring slot => Sys2Proof.Machine.execClaspLock pipe table ring slot s
  | .tcamCopyStep pipe => Sys2Proof.Machine.execTcamCopyStep pipe s
  | .tcamScrub pipe bank unit => Sys2Proof.Machine.execTcamScrub pipe bank unit s
  | .cipherAccept core upsets => Sys2Proof.Machine.execCipherAccept core upsets s
  | .keyFetchDone key => Sys2Proof.Machine.execKeyFetchDone key s
  | .cipherComplete core => Sys2Proof.Machine.execCipherComplete core s
  | .packetRelease cluster pkt => Sys2Proof.Machine.execPacketRelease cluster pkt s
  | .bufferAllocate requester pool => Sys2Proof.Machine.execBufferAllocate requester pool s
  | .bufferFree requester handle owner => Sys2Proof.Machine.execBufferFree requester handle owner s
  | .crossbarMatch => Sys2Proof.Machine.execCrossbarMatch s
  | .enqueue frame port => Sys2Proof.Machine.execEnqueue frame port s
  | .spillWrite queue => Sys2Proof.Machine.execSpillWrite queue s
  | .spillRefill queue => Sys2Proof.Machine.execSpillRefill queue s
  | .transmitStart port => Sys2Proof.Machine.execTransmitStart port s
  | .gateEntryChange port => Sys2Proof.Machine.execGateEntryChange port s
  | .gateListChange port => Sys2Proof.Machine.execGateListChange port s
  | .queueSamplePass => Sys2Proof.Machine.execQueueSamplePass s
  | .txtsEventWrite port => Sys2Proof.Machine.execTxtsEventWrite port s
  | .anComplete partner => Sys2Proof.Machine.execAnComplete partner s
  | .anFail port => Sys2Proof.Machine.execAnFail port s
  | .anBackoffExpire port => Sys2Proof.Machine.execAnBackoffExpire port s
  | .trainingComplete port => Sys2Proof.Machine.execTrainingComplete port s
  | .portAligned port => Sys2Proof.Machine.execPortAligned port s
  | .linkUp port => Sys2Proof.Machine.execLinkUp port s
  | .linkDown lane cause => Sys2Proof.Machine.execLinkDown lane cause s
  | .linkFault port fault => Sys2Proof.Machine.execLinkFault port fault s
  | .refclkLoss octet => Sys2Proof.Machine.execRefclkLoss octet s
  | .loupeDwell lane eye corner count => Sys2Proof.Machine.execLoupeDwell lane eye corner count s
  | .rxDelayPublish lane marks => Sys2Proof.Machine.execRxDelayPublish lane marks s
  | .arbiterSlot stack channel => Sys2Proof.Machine.execArbiterSlot stack channel s
  | .burstLimitExpire stack channel => Sys2Proof.Machine.execBurstLimitExpire stack channel s
  | .slotTableSwitch stack => Sys2Proof.Machine.execSlotTableSwitch stack s
  | .refreshDue stack channel bank => Sys2Proof.Machine.execRefreshDue stack channel bank s
  | .rankPowerDown stack channel sid => Sys2Proof.Machine.execRankPowerDown stack channel sid s
  | .memUncorrectable stack error => Sys2Proof.Machine.execMemUncorrectable stack error s
  | .retrainDue stack channel => Sys2Proof.Machine.execRetrainDue stack channel s
  | .retrainStep stack channel found => Sys2Proof.Machine.execRetrainStep stack channel found s
  | .retrainDone stack channel => Sys2Proof.Machine.execRetrainDone stack channel s
  | .spareMacroStart group => Sys2Proof.Machine.execSpareMacroStart group s
  | .spareSwap group => Sys2Proof.Machine.execSpareSwap group s
  | .spareMarchDone group ok => Sys2Proof.Machine.execSpareMarchDone group ok s
  | .spareSwapBack group => Sys2Proof.Machine.execSpareSwapBack group s
  | .tempSample dieC hbmC => Sys2Proof.Machine.execTempSample dieC hbmC s
  | .reverifyPass => Sys2Proof.Machine.execReverifyPass s
  | .sessionExpire ring => Sys2Proof.Machine.execSessionExpire ring s
  | .auditRecordWrite => Sys2Proof.Machine.execAuditRecordWrite s
  | .ppsOutEdge => Sys2Proof.Machine.execPpsOutEdge s
  | .ppsInEdge => Sys2Proof.Machine.execPpsInEdge s
  | .clkRefLost edges => Sys2Proof.Machine.execClkRefLost edges s
  | .railSample millivolts => Sys2Proof.Machine.execRailSample millivolts s
  | .smbusBlockRead xfer => Sys2Proof.Machine.execSmbusBlockRead xfer s
  | .jtagInstruction instr => Sys2Proof.Machine.execJtagInstruction instr s
  | .stackCatastrophicTemp stack => Sys2Proof.Machine.execStackCatastrophicTemp stack s
  | .refclkReturn octet => Sys2Proof.Machine.execRefclkReturn octet s
  | .rngHealthPass => Sys2Proof.Machine.execRngHealthPass s
  | .pcieLinkTrained speed width flit => Sys2Proof.Machine.execPcieLinkTrained speed width flit s
  | .clk10mInReturn => Sys2Proof.Machine.execClk10mInReturn s
  | .deniedRecord ring => Sys2Proof.Machine.execDeniedRecord ring s
  | .alertResponse => Sys2Proof.Machine.execAlertResponse s

end Sys2Proof.Machine
end

