-- ==== Sys2Proof/Safety.lean ====
section
/-!
DEFINITION. Safety.lean: the terms that statements are made in: the canonical form of the memories, and the command that a ring hands over.
-/

namespace Sys2Proof.Machine

open Sys2Proof

/-- The canonical form of the register file, the latched words, host memory and HBM. -/
def Memory.wf (s : State) : Bool :=
  FMap.canon s.regs regDefault && FMap.canon s.latch (fun _ => 0) && FMap.canon s.hostMem (fun _ => 0) && FMap.canon s.hbm hbmDefault

/-- Ring `r` has the command `c` of opcode `op` in slot `n` next to hand to its target (R451), it is its turn there (R433, R488), and
every domain that its target lies in is ON. -/
abbrev Handed (s : State) (r n op : Nat) (c : CmdEnt) : Prop :=
  s.next? r = some c ∧ c.slot = n ∧ descOp c.desc = op ∧ blockTurn s c = true ∧ ((cmdDomains c.desc).all fun d => s.domain d == .on) = true

/-- A slice whose order point has given the next place of its order away (R66). -/
def placed (s : State) (i : Nat) : State := s.modSlice i fun x => { x with flightNo := (s.slice i).flightNo + 1 }

/-- The operation with which a record command of a ring's slot takes its place at its slice (R66, R90). -/
def hostOp (s : State) (i r n : Nat) (c : CmdEnt) (key : Option Key) : FlowOp :=
  { src := 8, act := .host r n, key := key, handle := fcHandle c.desc, no := (s.slice i).flightNo, tick := s.tick }

/-- Slice `i` serves operation `o`, which attaches to no in-flight entry, while one is left to open (R67, R68, R92). -/
abbrev ServedAt (s : State) (i : Nat) (o : FlowOp) : Prop :=
  sliceUp s i = true ∧ flightFor s i o = none ∧ flightFor (placed s i) i o = none ∧ (s.slice i).flights.length < 8192

end Sys2Proof.Machine
end

