-- ==== Sys2Proof/Certificates/Slice0/Obligations.lean ====
section
/-!
DEFINITION. Certificates/Slice0/Obligations.lean: the statements about the model, for the provers. A completion statement gives the next
state of a command's own effect; the operations it names are the model's, and what they change has statements of its own.
-/

open Sys2Proof Sys2Proof.Machine

/-- For every command and state: where the command stands at the front of the queue, one step is exec of it on the state whose queue is the
rest, so that its next state, fault or refusal is exec's. The model's choice, not the spec's words: the queue of commands (log entry 2). -/
def Obligations.StepRunsFront : Prop :=
  ∀ (s : State) (i : Instr) (rest : List Instr),
      s.pending = i :: rest → step s = exec i { s with pending := rest }

/-- With an empty queue a step is one clock tick, in which real time advances by 20 ns and, where device time counts with FREQ 0, device
time and the tick advance by 20 ns, their fractions kept; where it does not count they stand. The rotating orders of the pool manager
and of the cipher engine turn by the 27 and 25 cycles of their clocks in that time, ends of frames on the wire follow, and then the EDGE
and LEVEL counters. The model's choice, not the spec's words: the tick of 20 ns (log entry 1); the turn of the pool manager's order (log
entry 184); the turn of the cipher engine's (log entry 188); when EDGE and LEVEL counters are judged (log entry 29); the edges of
CLK10M_OUT that a stretch of time shows (log entry 128); the order in which copies end (log entry 105). -/
def Obligations.StepOnEmptyQueue : Prop :=
  (∀ s : State, s.pending = [] → step s = .next (clockTick s)) ∧
    (∀ s : State,
      let u := s.advance 20
      clockTick s = perfTick (wiresEnd { u with
        bpm := { u.bpm with rotate := (u.bpm.rotate + 27) % 32, served := [] }, cip := { u.cip with turn := (u.cip.turn + 25) % 8 } })) ∧
    (∀ s : State, (s.advance 20).ns = s.ns + 20) ∧
    (∀ s : State, s.tmu.counting = false → (s.advance 20).tmu = s.tmu) ∧
    (∀ s : State, s.tmu.counting = true → s.tmu.freq = 0 → s.tmu.tickFrac < 2 ^ 40 →
      (s.advance 20).tmu.tick = s.tmu.tick + 20 ∧ (s.advance 20).tmu.tickFrac = s.tmu.tickFrac) ∧
    (∀ s : State, s.tmu.counting = true → s.tmu.freq = 0 → s.tmu.rem < 2 ^ 24 →
      (s.advance 20).tmu.time = DevTime.ofUnits (s.tmu.time.units + 20 * 2 ^ 16) ∧ (s.advance 20).tmu.rem = s.tmu.rem)

/-- After reset no command waits, every domain is ON, the device is unsealed, device time and the tick are 0 and do not count, Hallmark
stands at its boot ROM, every front port is DISABLED, no flow slice is ready, every ring is disabled and idle, and every BAR0 register
reads its reset value, among them TMU_SERVO_GAIN 0x4CCD_B333 and TMU_JUMP_THRESH 1,000. The flow hash key is one that the random source
has drawn. The model's choice, not the spec's words: the pins and the boot state after reset (log entry 8); the draw of the hash key at
reset (log entry 236); the fuses (log entry 7); times and orders that start at 0 (log entry 207). -/
def Obligations.ResetStarts : Prop :=
  State.reset.pending = [] ∧ (∀ d, State.reset.domain d = .on) ∧ State.reset.pkg.sealed = false ∧
    State.reset.time = { sec := 0, ns := 0, frac := 0 } ∧ State.reset.tick = 0 ∧ State.reset.tmu.counting = false ∧
    State.reset.hmk.boot = 0 ∧ State.reset.flw.hashKey = ofBytes 128 (Config.drbg 0) ∧ (∀ n, (State.reset.port n).state = 0) ∧ (∀ i, (State.reset.slice i).ready = false) ∧
    (∀ r, (State.reset.ring r).enabled = false ∧ (State.reset.ring r).idle = true) ∧
    (∀ a, State.reset.reg a = regDefault a) ∧ State.reset.reg Reg.TMU_SERVO_GAIN = 0x4CCDB333#32 ∧
    State.reset.reg Reg.TMU_JUMP_THRESH = 1000#32

/-- The register file, the latched words, host memory and HBM of the state after reset are in the canonical form that
StepKeepsMemoryCanonical speaks of. The model's choice, not the spec's words: what unwritten host memory reads as (log entry 5); what
unwritten HBM reads as (log entry 6). -/
def Obligations.ResetMemoryCanonical : Prop :=
  Memory.wf State.reset = true

/-- For every state whose register file, latched words, host memory and HBM are in canonical form (addresses strictly rising, no entry equal
to what an unlisted address reads as), if a step answers a next state, these memories are in canonical form there too: whatever the
command at the front of the queue is, and also where the queue is empty. The model's choice, not the spec's words: what unwritten host
memory reads as (log entry 5); what unwritten HBM reads as (log entry 6). -/
def Obligations.StepKeepsMemoryCanonical : Prop :=
  ∀ s t : State, Memory.wf s = true → step s = .next t → Memory.wf t = true

/-- Storing a value in a BAR0 register makes that register hold it and leaves every other register, and everything beside the register file,
as it was. The model's choice, not the spec's words: which bits a register stores (log entry 20). -/
def Obligations.RegisterReadAfterWrite : Prop :=
  ∀ (s : State) (a : Nat) (v : W32), Memory.wf s = true →
      (s.setReg a v).reg a = v ∧ (∀ b, b ≠ a → (s.setReg a v).reg b = s.reg b) ∧
        { s.setReg a v with regs := s.regs } = s

/-- While the device takes accesses, BAR0 takes 32-bit accesses aligned to 4 bytes and 64-bit accesses aligned to 8 bytes, a 64-bit one
acting as two 32-bit ones, the lower offset first; every other access of BAR0 answers Unsupported Request and changes nothing else.
Every register, 32 bits wide by its type, has a base at a 4-byte-aligned offset. The model's choice, not the spec's words: when the
device takes accesses (log entry 18). -/
def Obligations.AccessSizes : Prop :=
  (∀ row ∈ regMap, row.base % 4 = 0) ∧
    ∀ (s : State) (a size : Nat) (v : W64), barUp s = true → inBar .bar0 a size = true →
      (¬((size = 4 ∧ a % 4 = 0) ∨ (size = 8 ∧ a % 8 = 0)) →
        exec (.registerWrite .bar0 a size v) s = .next (s.emit .unsupported) ∧
        exec (.latchedRead .bar0 a size) s = .next (s.emit .unsupported) ∧
        exec (.rcRead a size) s = .next (s.emit .unsupported)) ∧
      (size = 4 → a % 4 = 0 →
        exec (.registerWrite .bar0 a size v) s = .next (wordWrite s .bar0 a (v.setWidth 32)) ∧
        exec (.latchedRead .bar0 a size) s =
          .next { (wordRead s .bar0 a).2 with busRead := (wordRead s .bar0 a).1.setWidth 64 } ∧
        exec (.rcRead a size) s =
          .next { (wordRead s .bar0 a).2 with busRead := (wordRead s .bar0 a).1.setWidth 64 }) ∧
      (size = 8 → a % 8 = 0 →
        exec (.registerWrite .bar0 a size v) s =
          .next (wordWrite (wordWrite s .bar0 a (v.setWidth 32)) .bar0 (a + 4) ((v >>> 32).setWidth 32)) ∧
        exec (.latchedRead .bar0 a size) s =
          .next { (wordRead (wordRead s .bar0 a).2 .bar0 (a + 4)).2 with
            busRead := BitVec.ofNat 64 ((wordRead s .bar0 a).1.toNat + 2 ^ 32 * (wordRead (wordRead s .bar0 a).2 .bar0 (a + 4)).1.toNat) } ∧
        exec (.rcRead a size) s =
          .next { (wordRead (wordRead s .bar0 a).2 .bar0 (a + 4)).2 with
            busRead := BitVec.ofNat 64 ((wordRead s .bar0 a).1.toNat + 2 ^ 32 * (wordRead (wordRead s .bar0 a).2 .bar0 (a + 4)).1.toNat) })

/-- A 32-bit write of BAR0 outside END, where BAR0 takes accesses: at an offset that maps no register it is discarded with an increment of
GLB_BAD_WRITE_COUNT; to a sealed RWS register it is discarded with an increment of HLT_SEAL_WRITE_COUNT alone, whatever it carries; to
an RO or RC register of an existing port it is ignored; to an RW or unsealed RWS register whose write needs no more than the ranges of
its fields it stores the value with reserved bits 0, or is discarded where a field would hold a reserved encoding. The registers whose
write acts have statements of their own. The model's choice, not the spec's words: the order of the discard rules and the write of an RC
register (log entry 164); the registers of a slot without a port (log entry 21); reserved bits (log entry 20); when BAR0 takes accesses
(log entries 17, 18); registers of a domain that is not ON (log entry 22). exec of registerWrite answers a next state in every state,
with every operand. -/
def Obligations.RegisterWriteRules : Prop :=
  (∀ (s : State) (space : Space) (addr : Nat) (size : Nat) (value : W64),
     (∃ t, exec (.registerWrite space addr size value) s = .next t)) ∧
  ∀ (s : State) (a : Nat) (v : W64), barUp s = true → s.hmk.fuses.lcs ≠ 4 → a % 4 = 0 → a + 4 ≤ 0x4000000 →
      let t := exec (.registerWrite .bar0 a 4 v) s
      let w : W32 := v.setWidth 32
      (regRowAt a = none → t = .next (badWrite s)) ∧
      (∀ row, regRowAt a = some row →
        (row.acc = .rws → s.pkg.sealed = true → t = .next (sealedWrite s)) ∧
        ((row.acc = .ro ∨ row.acc = .rc) → portRegDead s a = false → t = .next s) ∧
        ((row.acc = .rw ∨ (row.acc = .rws ∧ s.pkg.sealed = false)) → portRegDead s a = false →
          (writersA ++ writersB).find? (fun e => e.1 == row.base) = none →
          t = .next (if row.legal (w &&& BitVec.ofNat 32 row.mask) then s.setReg a (w &&& BitVec.ofNat 32 row.mask)
                     else badWrite s)))

/-- Outside END, with accesses taken, a 32-bit read of a BAR0 offset that maps no register returns 0 and changes nothing; a write of it is
discarded, whatever its value: GLB_BAD_WRITE_COUNT increments, where it has not saturated, interrupt source 0 of group 0 is set with its
message, and every other register is as it was. The model's choice, not the spec's words: when BAR0 takes accesses (log entries 17, 18). -/
def Obligations.UnmappedOffsets : Prop :=
  ∀ (s : State) (a : Nat) (v : W64), barOpen s = true → a % 4 = 0 → a + 4 ≤ 0x4000000 → regRowAt a = none →
      exec (.latchedRead .bar0 a 4) s = .next { s with busRead := 0 } ∧
      exec (.rcRead a 4) s = .next { s with busRead := 0 } ∧
      ∃ t, exec (.registerWrite .bar0 a 4 v) s = .next t ∧ t = badWrite s ∧
        (Memory.wf s = true → (t.reg Reg.GLB_BAD_WRITE_COUNT).toNat = min (2 ^ 32 - 1) ((s.reg Reg.GLB_BAD_WRITE_COUNT).toNat + 1) ∧
          ∀ b, b ≠ Reg.GLB_BAD_WRITE_COUNT → b ≠ Reg.HLT_INT_STATUS 0 → t.reg b = s.reg b)

/-- A 32-bit RC_READ of an RC register that is no higher word of a latched value and latches none, in a device outside END that takes
accesses: it returns the register's view and sets the register to 0, a peak to the depth as it stands, and nothing else changes. The
model's choice, not the spec's words: the depth from which a peak starts again (log entry 201); fields of access RC cleared with their
register (log entry 23); when BAR0 takes accesses (log entries 17, 18). exec of rcRead answers a next state in every state, with every
operand. -/
def Obligations.ReadClears : Prop :=
  (∀ (s : State) (addr : Nat) (size : Nat), (∃ t, exec (.rcRead addr size) s = .next t)) ∧
  ∀ (s : State) (a : Nat) (row : RegRow), barUp s = true → s.hmk.fuses.lcs ≠ 4 → a % 4 = 0 → a + 4 ≤ 0x4000000 →
      regRowAt a = some row → row.acc = .rc → portRegDead s a = false → latchedHigh a = false → latchCount a = 0 →
      exec (.rcRead a 4) s = .next { s.setReg a (afterRead s row a) with busRead := (regView s a).setWidth 64 } ∧
        (depths.find? (fun e => e.1 == row.base) = none → afterRead s row a = 0)

/-- Outside END, with accesses taken: a LATCHED_READ of the lowest word of a latched value (TMU_TIME_0 with four words above it; the LO word
of each 64-bit counter, HMK_AUDIT_SEQ_LO and each HIF_PERF_VALUE with one) returns the register's view and latches the words above it as
they stand at that instant, and changes nothing else but what the read of an RC register clears; a read of a higher word of a latched
value returns what is latched, whatever the value is by then, and changes nothing but the data returned. The model's choice, not the
spec's words: which values are latched (log entry 19); when BAR0 takes accesses (log entries 17, 18); what a read of an RC register
clears (log entries 201, 23). exec of latchedRead answers a next state in every state, with every operand. -/
def Obligations.TimeReadLatches : Prop :=
  (∀ (s : State) (space : Space) (addr : Nat) (size : Nat), (∃ t, exec (.latchedRead space addr size) s = .next t)) ∧
  (latchCount Reg.TMU_TIME_0 = 4 ∧ latchCount Reg.HMK_AUDIT_SEQ_LO = 1 ∧ (∀ b ∈ loRows, latchCount b = 1) ∧
      (∀ k, k < 1024 → latchCount (Reg.HIF_PERF_VALUE (2 * k)) = 1)) ∧
    ∀ (s : State) (a : Nat) (row : RegRow), barUp s = true → s.hmk.fuses.lcs ≠ 4 → a % 4 = 0 → a + 4 ≤ 0x4000000 →
      regRowAt a = some row →
      (latchedHigh a = false → ∃ t, exec (.latchedRead .bar0 a 4) s = .next t ∧
        t.busRead = (regView s a).setWidth 64 ∧
        (Memory.wf s = true → ∀ k, k < latchCount a → fget t.latch 0 (a + 4 * (k + 1)) = regView s (a + 4 * (k + 1))) ∧
        { t with busRead := s.busRead, latch := s.latch } =
          (if row.acc = .rc ∧ portRegDead s a = false then s.setReg a (afterRead s row a) else s)) ∧
      (latchedHigh a = true → exec (.latchedRead .bar0 a 4) s =
        .next { s with busRead := (fget s.latch 0 a).setWidth 64 })

/-- Where BAR0 takes accesses: SETUP_SEAL with SEAL = 1 and KEY = 0x5EA1 seals the device and changes nothing else; GLB_RESET with RESET = 1
and KEY = 0x9128 while PERST_N is high is a device reset with CAUSE GLB_RESET that keeps the fuses, what stands outside the device and
the count of what the random source has drawn; it draws the flow hash key anew; while PERST_N is low it has no effect; any other value
of either is discarded and counted. The model's choice, not the spec's words: that the reset is over at once (log entry 138); what a
reset keeps (log entry 141); the draw of the hash key (log entry 236); reserved bits of both registers (log entry 20). exec of
setupSeal, glbReset answers a next state in every state, with every operand. -/
def Obligations.SealAndGlobalReset : Prop :=
  (∀ (s : State) (value : W32), (∃ t, exec (.setupSeal value) s = .next t) ∧ (∃ t, exec (.glbReset value) s = .next t)) ∧
  (∀ (s : State) (v : W32), barOpen s = true →
      exec (.setupSeal v) s = .next (if bit v 0 = true ∧ fld v 31 16 = 0x5EA1
        then { s with pkg := { s.pkg with sealed := true } } else badWrite s)) ∧
    (∀ (s : State) (v : W32), barOpen s = true → bit v 0 = true → fld v 31 16 = 0x9128 →
      (s.pkg.perstLow = false → exec (.glbReset v) s = .next {
        pending := s.pending, freeCtr := s.freeCtr, out := s.out, hostMem := s.hostMem,
        pkg := { cause := 2, good := s.pkg.good, early := s.pkg.early, perstLow := s.pkg.perstLow,
                 thermtrip := s.pkg.thermtrip, smbAddr := s.pkg.smbAddr, rails := s.pkg.rails, railAlert := s.pkg.railAlert },
        hmk := { fuses := s.hmk.fuses, draws := s.hmk.draws + 1 },
        flw := { hashKey := ofBytes 128 (Config.drbg s.hmk.draws) }, lif := { refLost := s.lif.refLost } }) ∧
      (s.pkg.perstLow = true → exec (.glbReset v) s = .next s)) ∧
    (∀ (s : State) (v : W32), barOpen s = true → ¬(bit v 0 = true ∧ fld v 31 16 = 0x9128) →
      exec (.glbReset v) s = .next (badWrite s))

/-- PWR_GOOD_ASSERT adds its input to those asserted, and an asserted input counts only where every input of an earlier stage is asserted.
PWR_GOOD_DROP of an asserted input is a device reset with CAUSE POWER_ON in which the device stays until it ends; the fall of
PWR_GOOD_AON releases THERMTRIP_N. PERST_N_ASSERT where it was high and no reset holds is a device reset with CAUSE PERST_N.
PERST_N_RELEASE ends the reset where every PWR_GOOD counts, and otherwise leaves the device in reset; the end of a power-on reset
samples the SMBus address. The model's choice, not the spec's words: a release of PERST_N before every input is asserted (log entry
139); the stages of the inputs (log entry 140); what a reset keeps (log entry 141); the pins of the SMBus address (log entry 11). exec
of pwrGoodAssert, pwrGoodDrop, perstNAssert, perstNRelease answers a next state in every state, with every operand. -/
def Obligations.PowerGoodAndPerst : Prop :=
  (∀ (s : State) (input : Fin 5), (∃ t, exec (.pwrGoodAssert input) s = .next t) ∧ (∃ t, exec (.pwrGoodDrop input) s = .next t)) ∧
  (∀ (s : State), (∃ t, exec .perstNAssert s = .next t) ∧ (∃ t, exec .perstNRelease s = .next t)) ∧
  (∀ (s : State) (i : Fin 5),
      exec (.pwrGoodAssert i) s = .next { s with pkg := pgSort s.pkg (i.val :: (s.pkg.good ++ s.pkg.early)) }) ∧
    (∀ (p : Pkg) (up : List Nat) (i : Nat), i ∈ (pgSort p up).good ↔
      (i < 5 ∧ i ∈ up ∧ ∀ j, j < 5 → pgStage j < pgStage i → j ∈ up)) ∧
    (∀ (s : State) (i : Fin 5), i.val ∈ s.pkg.good ++ s.pkg.early →
      ∃ t, exec (.pwrGoodDrop i) s = .next t ∧ t.pkg.inReset = true ∧ t.pkg.cause = 0 ∧ i.val ∉ t.pkg.good ∧
        t.pkg.thermtrip = (s.pkg.thermtrip && i.val != 0) ∧ t.pkg.sealed = false ∧
        t.hmk = { fuses := s.hmk.fuses, draws := s.hmk.draws + 1 } ∧ t.regs = [] ∧ t.hbm = [] ∧ t.hostMem = s.hostMem) ∧
    (∀ s : State, s.pkg.perstLow = false → s.pkg.inReset = false →
      exec .perstNAssert s = .next (deviceReset { s with pkg := { s.pkg with perstLow := true } } 1)) ∧
    (∀ s : State, s.pkg.perstLow = false → s.pkg.inReset = true →
      exec .perstNAssert s = .next { s with pkg := { s.pkg with perstLow := true } }) ∧
    (∀ s : State, s.pkg.perstLow = true →
      let ends := s.pkg.inReset && s.pkg.good.length == 5
      exec .perstNRelease s = .next { s with pkg := { s.pkg with
        perstLow := false, inReset := s.pkg.inReset && !ends,
        smbAddr := if ends ∧ s.pkg.cause = 0 then 0x30 + Config.smbPins % 8 else s.pkg.smbAddr } })

/-- RAIL_SAMPLE, 1 ms after the sample before it, takes the ten readings and sets the alert of each rail outside its tolerance.
SMBUS_BLOCK_READ, where PWR_GOOD_AON and PWR_GOOD_IO are asserted, answers a Block Read of its address with the bytes of the code and
their PEC, anything else at its address with NACK, another address not at all, and changes nothing in the device. ALERT_RESPONSE, while
SMB_ALERT_N is low, answers the 7-bit address above a bit the rule leaves open (a free value). JTAG_INSTRUCTION acts as BYPASS where
R490 does not open it, boundary scan is always open, and TDO is driven outside a reset alone. The model's choice, not the spec's words:
the open bit of the alert response (log entry 142); IDCODE as an instruction beyond boundary scan (log entry 143); the PEC (log entry
203); the time that a sample reaches (log entry 200); the SMBus address (log entry 11). exec of railSample, smbusBlockRead,
jtagInstruction, alertResponse answers a next state in every state, with every operand. -/
def Obligations.BoardPins : Prop :=
  (∀ (s : State) (millivolts : List Nat), (∃ t, exec (.railSample millivolts) s = .next t)) ∧
  (∀ (s : State) (xfer : SmbusXfer), (∃ t, exec (.smbusBlockRead xfer) s = .next t)) ∧
  (∀ (s : State) (instr : JtagInstr), (∃ t, exec (.jtagInstruction instr) s = .next t)) ∧
  (∀ (s : State), (∃ t, exec .alertResponse s = .next t)) ∧
  (∀ (s : State) (mv : List Nat), mv.length = 10 →
      ∃ t, exec (.railSample mv) s = .next t ∧
        let u := s.reach (s.pkg.railAt + 1000000)
        { t with pkg := { t.pkg with rails := s.pkg.rails, railAlert := s.pkg.railAlert, railAt := s.pkg.railAt } } = u ∧
        t.pkg.railAt = u.ns ∧
        (∀ j, j < 10 → ffind? t.pkg.rails j = mv[j]? ∧
          (j ∈ t.pkg.railAlert ↔ ∃ m, mv[j]? = some m ∧ railOut (railTable.getD j (0, 0)) m = true))) ∧
    (∀ (s : State) (x : SmbusXfer), smbusUp s = true →
      (x.address.toNat ≠ s.pkg.smbAddr → exec (.smbusBlockRead x) s = .next s) ∧
      (x.address.toNat = s.pkg.smbAddr → x.blockRead = true → x.beyond = [] → exec (.smbusBlockRead x) s =
        .next (s.emit (match smbusData s x.code.toNat with
          | some bs => .smbus bs (smbPec (smbFrame s.pkg.smbAddr x.code bs)) | none => .smbusNack))) ∧
      (x.address.toNat = s.pkg.smbAddr → (x.blockRead = false ∨ x.beyond ≠ []) →
        exec (.smbusBlockRead x) s = .next (s.emit .smbusNack))) ∧
    (∀ s : State, smbAlert s = true →
      let b : Byte := BitVec.ofNat 8 (2 * s.pkg.smbAddr + Config.freeNat s.freeCtr % 2)
      exec .alertResponse s = .next ({ s with freeCtr := s.freeCtr + 1 }.emit (.smbus [b] (smbPec [0x19, b])))) ∧
    (∀ s : State, exec (.jtagInstruction .bypass) s = .next (s.emit (.jtag true !s.pkg.inReset)) ∧
      exec (.jtagInstruction .boundaryScan) s = .next (s.emit (.jtag false !s.pkg.inReset)) ∧
      exec (.jtagInstruction .idcode) s = .next (s.emit (.jtag (!jtagOpen s) !s.pkg.inReset)) ∧
      exec (.jtagInstruction .beyond) s = .next (s.emit (.jtag (!jtagOpen s) !s.pkg.inReset)))

/-- For the TMU command that its ring has next to hand over: TIME_OFFSET within the threshold changes only the servo's integral and FREQ, as
R431 computes them, and completes OK with FREQ as its result; beyond it, it completes REFUSED, counts the refusal, raises
TIME_JUMP_REFUSED and leaves device time, tick, FREQ and integral as they were. TIME_STEP sets device time to SEC, NS, FRAC or adds
VALUE, and the gates follow. TIME_FREQ sets FREQ to its value and the integral to minus it. Values out of range complete with BAD_FIELD
at the byte offset of their field. The threshold is 1,000 ns at reset. A step sets device time and PPS_OUT's aim; CLK10M_OUT may rise at
it. The model's choice, not the spec's words: when a ring hands a command over (log entry 34); which byte DETAIL names (log entry 36);
the edge of CLK10M_OUT at a step (log entry 128). exec of timeOffset, timeStep, timeFreq answers a next state in every state, with every
operand. -/
def Obligations.TimeCommands : Prop :=
  (∀ (s : State) (r : Fin 1024) (n : Nat), (∃ t, exec (.timeOffset r n) s = .next t) ∧ (∃ t, exec (.timeStep r n) s = .next t) ∧
     (∃ t, exec (.timeFreq r n) s = .next t)) ∧
  State.reset.rf Reg.TMU_JUMP_THRESH 29 0 = 1000 ∧
    (∀ (s : State) (t : DevTime), (setTime s t).tmu.time = t ∧ (setTime s t).regs = s.regs ∧
      (setTime s t).tmu.ppsNext = ppsFirst s t ∧ (setTime s t).ns = s.ns) ∧
    ∀ (s : State) (r : Fin 1024) (n : Nat) (c : CmdEnt),
      (Handed s r n 0xA0 c →
        let o := tmuValue c.desc
        let th := s.rf Reg.TMU_JUMP_THRESH 29 0
        let q := servoStep s.tmu.integral o (syncLog2 s) (s.rf Reg.TMU_SERVO_GAIN 15 0) (s.rf Reg.TMU_SERVO_GAIN 31 16)
        (o.natAbs ≤ 2 ^ 16 * th → exec (.timeOffset r n) s =
          .next ({ s with tmu := { s.tmu with integral := q.1, freq := q.2 } }.finish r n St.ok 0 (BitVec.ofInt 32 q.2).toNat)) ∧
        (2 ^ 16 * th < o.natAbs → exec (.timeOffset r n) s =
          .next ((tmuEvent { s with tmu := { s.tmu with refused := true, refusedCount := min 0xFFFF (s.tmu.refusedCount + 1) } }
            0xA1 [(127, 64, fld c.desc 191 128), (159, 128, th)]).finish r n St.refused 0 (BitVec.ofInt 32 s.tmu.freq).toNat))) ∧
      (Handed s r n 0xA1 c → bit c.desc 64 = false → fld c.desc 271 240 < 1000000000 →
        exec (.timeStep r n) s = .next ((gatesStep (setTime s
          { sec := fld c.desc 239 192, ns := fld c.desc 271 240, frac := fld c.desc 287 272 })).finish r n St.ok)) ∧
      (Handed s r n 0xA1 c → bit c.desc 64 = false → 1000000000 ≤ fld c.desc 271 240 →
        exec (.timeStep r n) s = .next (s.badField r n 30)) ∧
      (Handed s r n 0xA1 c → bit c.desc 64 = true →
        let u := s.time.units + tmuValue c.desc
        (0 ≤ u → u < 2 ^ 48 * giga * 2 ^ 16 → exec (.timeStep r n) s =
          .next ((gatesStep (setTime s (DevTime.ofUnits u))).finish r n St.ok)) ∧
        ((u < 0 ∨ 2 ^ 48 * giga * 2 ^ 16 ≤ u) → exec (.timeStep r n) s = .next (s.badField r n 16))) ∧
      (Handed s r n 0xA2 c →
        let f := (BitVec.ofNat 32 (fld c.desc 159 128)).toInt
        (f.natAbs ≤ 549755813 → exec (.timeFreq r n) s =
          .next ({ s with tmu := { s.tmu with freq := f, integral := -f } }.finish r n St.ok)) ∧
        (549755813 < f.natAbs → exec (.timeFreq r n) s = .next (s.badField r n 16)))

/-- A TIME_STEP that its ring hands over changes neither the tick, nor FREQ, nor the servo's integral, nor the record of refused offsets.
The model's choice, not the spec's words: when a ring hands a command over (log entry 34). -/
def Obligations.StepKeepsTick : Prop :=
  ∀ (s t : State) (r : Fin 1024) (n : Nat), exec (.timeStep r n) s = .next t →
      t.tmu.tick = s.tmu.tick ∧ t.tmu.tickFrac = s.tmu.tickFrac ∧ t.tmu.freq = s.tmu.freq ∧
      t.tmu.integral = s.tmu.integral ∧ t.tmu.refused = s.tmu.refused ∧ t.tmu.refusedCount = s.tmu.refusedCount

/-- CLK_SRC_WRITE, where BAR0 takes accesses, stores SRC and CLK10M_OUT_EN, and a change of SRC clears LOCK. PLL_RELOCK, with its reference
present, sets LOCK, ends holdover and starts the count of device time. CLK_REF_LOST of the reference in use outside holdover sets
HOLDOVER and raises one CLK_REF_LOST event; otherwise it changes only REF_PRESENT. CLK10M_IN_RETURN sets REF_PRESENT. The model's
choice, not the spec's words: what CLK_REF_LOST names and which loss means holdover (log entry 127); that a relock in reset has no
effect (log entry 144); reserved bits (log entry 20). exec of clkSrcWrite, pllRelock, clkRefLost, clk10mInReturn answers a next state in
every state, with every operand. -/
def Obligations.ClockReference : Prop :=
  (∀ (s : State) (value : W32), (∃ t, exec (.clkSrcWrite value) s = .next t)) ∧
  (∀ (s : State), (∃ t, exec .pllRelock s = .next t) ∧ (∃ t, exec .clk10mInReturn s = .next t)) ∧
  (∀ (s : State) (edges : Bool), (∃ t, exec (.clkRefLost edges) s = .next t)) ∧
  (∀ (s : State) (v : W32), barOpen s = true → exec (.clkSrcWrite v) s =
      .next (if bit v 0 = bit (s.reg Reg.TMU_CLK_CTRL) 0 then s.setReg Reg.TMU_CLK_CTRL (v &&& 3)
        else { s.setReg Reg.TMU_CLK_CTRL (v &&& 3) with tmu := { s.tmu with lock := false } })) ∧
    (∀ s : State, (clkSrc s = true → s.tmu.refPresent = true) → s.pkg.inReset = false → s.domain 61 = .on →
      exec .pllRelock s = .next { s with tmu := { s.tmu with lock := true, counting := true, holdover := false } }) ∧
    (∀ (s : State) (e : Bool), clkSrc s = true → s.tmu.holdover = false → exec (.clkRefLost e) s =
      .next (tmuEvent { s with tmu := { s.tmu with refPresent := e && s.tmu.refPresent, holdover := true } } 0xA3
        [(64, 64, 1)])) ∧
    (∀ (s : State) (e : Bool), clkSrc s = false ∨ s.tmu.holdover = true → exec (.clkRefLost e) s =
      .next { s with tmu := { s.tmu with refPresent := e && s.tmu.refPresent } }) ∧
    (∀ s : State, exec .clk10mInReturn s = .next { s with tmu := { s.tmu with refPresent := true } })

/-- PPS_OUT_EDGE, enabled and with device time counting, lets time reach the next whole second plus the offset, emits the edge at that time,
aims at the second after it and keeps the pulse for WIDTH_US. PPS_IN_EDGE, enabled and at least 500 ms after the last edge stamped,
stamps the edge with device time and reports it. TXTS_EVENT_WRITE of a port whose oldest entry has its status, with room in its ring,
writes that entry as a TX_TIMESTAMP event and removes it; one whose copy is still being sent waits; without room the entry waits, and a
ring whose function's DMA is off goes into ERROR. The model's choice, not the spec's words: the time that an edge reaches (log entry 4);
when an entry has its status (log entry 222); the edges of CLK10M_OUT on the way (log entry 128). exec of txtsEventWrite, ppsOutEdge,
ppsInEdge answers a next state in every state, with every operand. -/
def Obligations.PulsesAndTimestamps : Prop :=
  (∀ (s : State) (port : Fin 128), (∃ t, exec (.txtsEventWrite port) s = .next t)) ∧
  (∀ (s : State), (∃ t, exec .ppsOutEdge s = .next t) ∧ (∃ t, exec .ppsInEdge s = .next t)) ∧
  (∀ s : State, bit (s.reg Reg.TMU_PPS_CTRL) 0 = true → s.tmu.counting = true →
      let e : Int := (giga * s.tmu.ppsNext : Nat) + (s.reg Reg.TMU_PPS_OFFSET).toInt
      let u := s.reachDev e.toNat
      let t := DevTime.ofUnits (2 ^ 16 * e)
      exec .ppsOutEdge s = .next ({ u with tmu := { u.tmu with
        ppsNext := u.tmu.ppsNext + 1, ppsHigh := some (u.ns + 1000 * u.rf Reg.TMU_PPS_CTRL 21 2) } }.emit (.ppsOut t.sec t.ns))) ∧
    (∀ s : State, bit (s.reg Reg.TMU_PPS_CTRL) 1 = true → (∀ t, s.tmu.ppsIn = some t → t + 500000000 ≤ s.ns) →
      exec .ppsInEdge s = .next (tmuEvent { s with tmu := { s.tmu with ppsIn := some s.ns } } 0xA2
        [(111, 64, s.tmu.time.sec), (143, 112, s.tmu.time.ns), (159, 144, s.tmu.time.frac)])) ∧
    (∀ (s : State) (t : Nat), s.tmu.ppsIn = some t → s.ns < t + 500000000 → exec .ppsInEdge s = .next s) ∧
    (∀ (s : State) (p : Fin 128) (e : TxTs) (q : List TxTs), fget s.tmu.txts [] p.val = e :: q →
      let r := s.rf Reg.TMU_EVENT_CTRL 25 16
      (e.waits = true → exec (.txtsEventWrite p) s = .next s) ∧
      (e.waits = false → eventRoom s r = true → exec (.txtsEventWrite p) s =
        let u := (eventWrite s r 0xA0 ([(71, 64, p.val), (73, 72, e.status), (74, 74, e.kind.toNat), (95, 80, e.tsId)] ++
          [(143, 96, e.time.sec), (175, 144, e.time.ns), (191, 176, e.time.frac)])).1
        .next { u with tmu := { u.tmu with txts := fput u.tmu.txts [] p.val q } }) ∧
      (e.waits = false → eventRoom s r = false → exec (.txtsEventWrite p) s = .next (if eventOff s r then eventStop s r else s)))

/-- An event written to a ring of events with room fills the 64 bytes of the slot at the device's index with TYPE, PHASE, GAP, SEQ and the
tick beside the event's own fields, moves the index on, flips the phase at the wrap, counts SEQ on modulo 2^16 and clears the gap; every
byte of host memory outside the slot, every other ring and every register stays. Without room nothing of it is written, and only the
ring's gap can change. A ring whose function has Bus Master Enable clear goes into ERROR with cause BUS_MASTER_OFF, the event lost. The
model's choice, not the spec's words: the ring's base read at each access (log entry 49). -/
def Obligations.EventEntry : Prop :=
  ∀ (s : State) (r typ : Nat) (fs : List (Nat × Nat × Nat)),
      let x := s.ring r
      let t := (eventWrite s r typ fs).1
      (eventRoom s r = true →
        (eventWrite s r typ fs).2 = true ∧
        t.ring r = { x with dev := (x.dev + 1) % ringSize s r, phase := (x.phase != ((x.dev + 1) % ringSize s r == 0)),
                            seq := (x.seq + 1) % 2 ^ 16, gap := false } ∧
        (∀ q, q ≠ r → t.ring q = s.ring q) ∧ t.regs = s.regs ∧
        (Memory.wf s = true → (∀ i, i < 64 → t.hbyte (slotAddr s r x.dev + i) = (bytesOf (pack 512 (fs ++ [(7, 0, typ),
            (8, 8, x.phase.toNat), (9, 9, x.gap.toNat), (31, 16, x.seq), (63, 32, s.tick)]))).getD i 0) ∧
          (∀ a, (∀ i, i < 64 → a % 2 ^ 64 ≠ (slotAddr s r x.dev + i) % 2 ^ 64) → t.hbyte a = s.hbyte a))) ∧
      (eventRoom s r = false → eventOff s r = false → (eventWrite s r typ fs).2 = false ∧
        t = s.setRing r { x with gap := x.gap || (x.enabled && ringType s r == 4) }) ∧
      (eventOff s r = true → (eventWrite s r typ fs).2 = false ∧
        (t.ring r).error = true ∧ (t.ring r).cause = 4)

/-- Ending a command of a ring that holds commands, with a status, a DETAIL and a result leaves everything but its ring as it was; in its
ring only the command of that slot changes: it waits to be written back with that status, DETAIL and result. -/
def Obligations.CommandEnds : Prop :=
  ∀ (s : State) (r n st d res : Nat), (s.ring r).cmds ≠ [] →
      let t := s.finish r n st d res
      (t.ring r) = { s.ring r with cmds := (s.ring r).cmds.map fun c => if c.slot = n
        then { c with phase := .done, status := st, detail := d, result := BitVec.ofNat 64 res } else c } ∧
      (∀ q, q ≠ r → t.ring q = s.ring q) ∧ { t with hif := { t.hif with rings := s.hif.rings } } = s

/-- Where BAR0 takes accesses: RING_ENABLE of a disabled idle ring whose TYPE, SIZE_LOG2, FUNCTION, VECTOR and HOST_PORT are allowed sets
every index to 0 and the phase to 1; otherwise the write is discarded and counted. RING_DISABLE of an enabled ring closes its role
session, frees the staging buffers of what no target has accepted, lets that be written back BUSY, and abandons posted buffers.
RING_IDLE sets IDLE of a disabled ring with nothing outstanding. The model's choice, not the spec's words: the ring's base read at each
access (log entry 49); when BAR0 takes accesses (log entries 17, 18); what is recorded as a session closes (log entry 56). exec of
ringEnable, ringDisable, ringIdle answers a next state in every state, with every operand. -/
def Obligations.RingSwitching : Prop :=
  (∀ (s : State) (r : Fin 1024), (∃ t, exec (.ringEnable r) s = .next t) ∧ (∃ t, exec (.ringDisable r) s = .next t) ∧
     (∃ t, exec (.ringIdle r) s = .next t)) ∧
  (∀ (s : State) (r : Fin 1024), barOpen s = true →
      let g := s.reg (Reg.HIF_RING_CFG r)
      exec (.ringEnable r) s = .next (if (s.ring r).enabled = false ∧ (s.ring r).idle = true ∧ fld g 2 0 ≤ 4 ∧
          4 ≤ fld g 7 3 ∧ fld g 7 3 ≤ 16 ∧ fld g 14 8 ≤ 64 ∧ ringVecOk s r = true ∧ (2 ≤ fld g 2 0 → fld g 23 22 = 0)
        then s.setRing r { enabled := true, idle := false, phase := true } else badWrite s)) ∧
    (∀ (s : State) (r : Fin 1024), barOpen s = true → ((sessionClose s r).ring r).enabled = true →
      let u := sessionClose s r
      let x := u.ring r
      exec (.ringDisable r) s = .next ((stageFree u ((x.cmds.filter fun c => c.phase == .fetched).flatMap (·.bufs))).setRing r
        { x with enabled := false, posted := [], cmds := x.cmds.map fun c => if c.phase = .fetched
            then { c with phase := .done, status := 0x05, detail := 0, result := 0, bufs := [] } else c })) ∧
    (∀ (s : State) (r : Fin 1024), (s.ring r).enabled = false → (s.ring r).cmds = [] →
      exec (.ringIdle r) s = .next (s.setRing r { s.ring r with idle := true }))

/-- For a page that reaches ring r, in a device that takes accesses: a DOORBELL_UPDATE of an enabled ring not in ERROR with an INDEX below
the ring's size that the position may move to makes INDEX the host's new position; with ARM it also arms the ring's vector and sends its
message where the sending condition is met. A DOORBELL_ARM without UPDATE arms alone. A doorbell that R448 ignores changes nothing but
HIF_DOORBELL_ERR_COUNT; a page that reaches no ring changes nothing. The model's choice, not the spec's words: an index that goes back
(log entry 47); when BAR2 takes accesses (log entries 17, 18); that vectors start disarmed (log entry 9). exec of doorbellUpdate,
doorbellArm answers a next state in every state, with every operand. -/
def Obligations.Doorbells : Prop :=
  (∀ (s : State) (fn : Fin 65) (page : Fin 1024) (value : W32), (∃ t, exec (.doorbellUpdate fn page value) s = .next t) ∧
     (∃ t, exec (.doorbellArm fn page value) s = .next t)) ∧
  ∀ (s : State) (fn : Fin 65) (page : Fin 1024) (v : W32), barUp s = true →
      (pageRing s fn page = none → exec (.doorbellUpdate fn page v) s = .next s ∧ exec (.doorbellArm fn page v) s = .next s) ∧
      (∀ r, pageRing s fn page = some r →
        let x := s.ring r
        let ok := x.enabled = true ∧ x.error = false ∧ fld v 15 0 < ringSize s r
        let arm := fun u : State => vectorTry (u.setVector (ringVec s r) { u.vector (ringVec s r) with armed := true }) (ringVec s r)
        (ok → indexOk s r (fld v 15 0) = true →
          exec (.doorbellUpdate fn page v) s = .next (if bit v 16 then arm (s.setRing r { x with host := fld v 15 0 })
            else s.setRing r { x with host := fld v 15 0 })) ∧
        (ok → bit v 17 = false → exec (.doorbellArm fn page v) s = .next (arm s)) ∧
        (¬ok ∨ indexOk s r (fld v 15 0) = false →
          exec (.doorbellUpdate fn page v) s = .next (s.bump Reg.HIF_DOORBELL_ERR_COUNT)) ∧
        (¬ok → exec (.doorbellArm fn page v) s = .next (s.bump Reg.HIF_DOORBELL_ERR_COUNT)))

/-- For a ring with a descriptor to fetch (enabled, not in ERROR, of types 0 to 3, its device index not at the tail, and served in the
present boot state): with the function's Bus Master Enable set, DESCRIPTOR_FETCH, of a COMMAND ring in its turn (a rotating order over
those with descriptors posted, up to 16 in a turn), takes the 64 bytes at the slot of the device index and moves that index on; a
command or inject joins the ring's commands, a posted buffer that keeps the posting rules joins its buffers, one that breaks them puts
the ring into ERROR with cause BAD_BUFFER. With Bus Master Enable clear the ring goes into ERROR with BUS_MASTER_OFF. FETCH_ERROR puts
it into ERROR with its cause. The model's choice, not the spec's words: where the rotating order starts and when a turn ends (log entry
195); what a ring in ERROR keeps (log entry 45); what unwritten host memory reads as (log entry 5). exec of descriptorFetch, fetchError
answers a next state in every state, with every operand. -/
def Obligations.Fetching : Prop :=
  (∀ (s : State) (r : Fin 1024), (∃ t, exec (.descriptorFetch r) s = .next t)) ∧
  (∀ (s : State) (r : Fin 1024) (cause : Fin 4), (∃ t, exec (.fetchError r cause) s = .next t)) ∧
  ∀ (s : State) (r : Fin 1024), ringPosted s r = true →
      let x := s.ring r
      let d : Desc := ofBytes 512 (hostRead s (slotAddr s r x.dev) 64)
      let y := { x with dev := (x.dev + 1) % ringSize s r }
      (busOff s (ringFn s r) = false → ringType s r = 0 → ringServed s = some r.val → exec (.descriptorFetch r) s =
        .next ((serveNote s r).setRing r { y with cmds := x.cmds ++ [{ slot := x.dev, desc := d }] })) ∧
      (ringType s r = 0 → ringServed s ≠ some r.val → exec (.descriptorFetch r) s = .next s) ∧
      (∀ q, ringServed s = some q → q ≠ s.hif.serve.1 →
        s.hif.serve.2 < 16 → ¬(ringPosted s s.hif.serve.1 = true ∧ ringType s s.hif.serve.1 = 0 ∧
          s.hif.serve.1 ∈ s.hif.rings.map (·.1))) ∧
      (busOff s (ringFn s r) = false → ringType s r = 1 → exec (.descriptorFetch r) s =
        .next (s.setRing r { y with cmds := x.cmds ++ [{ slot := x.dev, desc := d }] })) ∧
      (busOff s (ringFn s r) = false → 2 ≤ ringType s r → postBad d = false → exec (.descriptorFetch r) s =
        .next (s.setRing r { y with posted := x.posted ++ [⟨x.dev, fld d 127 64, fld d 142 128⟩] })) ∧
      (busOff s (ringFn s r) = false → 2 ≤ ringType s r → postBad d = true →
        exec (.descriptorFetch r) s = .next (ringError s r 5)) ∧
      (busOff s (ringFn s r) = true → ringType s r = 0 → ringServed s = some r.val →
        exec (.descriptorFetch r) s = .next (ringError (serveNote s r) r 4)) ∧
      (busOff s (ringFn s r) = true → ringType s r ≠ 0 → exec (.descriptorFetch r) s = .next (ringError s r 4)) ∧
      (∀ cause : Fin 4, exec (.fetchError r cause) s = .next (ringError s r cause))

/-- For the next fetched command of an enabled ring not in ERROR: COMMAND_STAGE of one that nothing refuses and whose buffer must be read,
with bus mastering on, takes staging buffers until they hold it, links their cells and then holds the buffer's bytes; an inject is
marked. COMMAND_ACCEPT of a served command that no FENCE holds back and its target takes ends it with the status and DETAIL of the first
check it fails, or, where nothing refuses it and its buffer is staged or it needs none, accepts it, with its place in the order of
acceptance; a failed cell of its staging buffers ends it with DMA_ERROR. One that its target does not take yet waits. The model's
choice, not the spec's words: when a target takes a command (log entry 34); the order of two faults (log entry 39); what is recorded of
a refusal (log entry 40); that staging follows the other checks (log entry 43); that staging foretells a failing read (log entry 44); a
failed cell of a staging buffer (log entries 180, 224). exec of commandAccept, commandStage answers a next state in every state, with
every operand. -/
def Obligations.Acceptance : Prop :=
  (∀ (s : State) (r : Fin 1024), (∃ t, exec (.commandAccept r) s = .next t)) ∧
  (∀ (s : State) (r : Fin 1024) (n : Nat) (dmaFail : Bool), (∃ t, exec (.commandStage r n dmaFail) s = .next t)) ∧
  ∀ (s : State) (r : Fin 1024) (c : CmdEnt), nextFetched s r = some c → (s.ring r).enabled = true → (s.ring r).error = false →
      let n := stageLen s c.desc
      let k := (n + 255) / 256
      let t := stageTake (s.rf Reg.HIF_STAGE_CTRL 3 0) k s c.bufs (k - (c.bufs.map (handleCells s)).sum)
      (∀ fail : Bool, acceptRefusal s r c.desc = none → c.staged = false → descOp c.desc ≠ 0xC0 → 0 < n →
        busOff s (ringFn s r) = false → t.2.2 = true → exec (.commandStage r c.slot fail) s =
          let bs := if fail then [] else hostRead s (descBuf c.desc) n
          .next ((chainLinks t.1 (chainCells t.1 t.2.1) bs true false).modCmd r c.slot fun e => { e with
            staged := true, bufs := t.2.1, dmaFail := fail, buf := bs })) ∧
      (∀ fail : Bool, acceptRefusal s r c.desc = none → c.staged = false → descOp c.desc = 0xC0 →
        exec (.commandStage r c.slot fail) s =
          .next (s.modCmd r c.slot fun e => { e with staged := true, dmaFail := fail })) ∧
      (targetTakes s c.desc = false → exec (.commandAccept r) s = .next s) ∧
      (∀ st k, hifServes s (ringType s r) = true → fenced (s.ring r) c = false → targetTakes s c.desc = true → acceptRefusal s r c.desc = some (st, k) →
        exec (.commandAccept r) s = .next (refuseAccept s r c st k)) ∧
      (hifServes s (ringType s r) = true → fenced (s.ring r) c = false → targetTakes s c.desc = true →
        acceptRefusal s r c.desc = none → (n = 0 ∨ c.staged = true) → (c.dmaFail = false ∨ descOp c.desc = 0xC0) →
        (∀ j, stagedBad s c = some j → exec (.commandAccept r) s =
          .next (refuseAccept (cellEvent (cellCount s j) j false) r c St.dmaError 0)) ∧
        (stagedBad s c = none → exec (.commandAccept r) s =
          .next ({ s with order := s.order + 1 }.modCmd r c.slot fun e => { e.under s r with
            phase := .accepted, no := s.order })))

/-- COMPLETION_WRITE of a command that has ended, holds no staging buffer and may still write: the command leaves its ring; RESULT stands in
bytes 0x08 to 0x0F of its slot and the header with DONE, STATUS and DETAIL in bytes 0x00 to 0x07, and no other byte of host memory
changes; HIF_CMD_COUNT counts it. A command with IRQ counts towards its ring's vector. The model's choice, not the spec's words: that
injects count in HIF_CMD_COUNT (log entry 46); the ring's base read at each access (log entry 49); the header bits that stay as posted
(log entry 45). exec of completionWrite answers a next state in every state, with every operand. -/
def Obligations.CompletionWrites : Prop :=
  (∀ (s : State) (r : Fin 1024) (n : Nat), (∃ t, exec (.completionWrite r n) s = .next t)) ∧
  ∀ (s : State) (r : Fin 1024) (n : Nat) (c : CmdEnt), s.cmd? r n = some c → c.phase = .done → c.mute = false → c.bufs = [] →
      let a := slotAddr s r n
      let x := s.ring r
      let u := (hostWrite (hostWrite (s.setRing r { x with cmds := x.cmds.filter fun d => d.slot != n }) (a + 8)
        (bytesOf c.result)) a (bytesOf (doneHeader c))).bump64 Reg.HIF_CMD_COUNT_LO 1
      exec (.completionWrite r n) s = .next (if bit c.desc 9 then vectorCount u (ringVec s r) else u) ∧
      (Memory.wf s = true → ∀ b, (∀ i, i < 16 → b % 2 ^ 64 ≠ (a + i) % 2 ^ 64) → u.hbyte b = s.hbyte b) ∧
      (Memory.wf s = true → ∀ i, i < 8 → u.hbyte (a + i) = (bytesOf (doneHeader c)).getD i 0 ∧
        u.hbyte (a + 8 + i) = (bytesOf c.result).getD i 0)

/-- PUNT_WRITE of the queue whose head its host port's scheduler has next among those that can be written writes that copy to the queue's
ring: its bytes fill posted buffers in order, each with its write-back, the first with the metadata; a frame that one buffer holds takes
one. A failed cell drops the copy. EXPORT_MESSAGE_CLOSE writes the oldest closed message of the profile, or closes the one in hand 1 ms
after its first record and writes it; a message fit for the first posted buffer of the profile's enabled EXPORT ring is read from HBM by
EXPORT and written with its write-back, any other is discarded and counted. VECTOR_TIMEOUT lets time reach the end of a vector's limit
and sends its message where it is armed and due. The model's choice, not the spec's words: the REASON of a copy that ordinary forwarding
sends (log entry 51); which queue is next and how such copies are rewritten (log entry 52); when a message closes (log entry 55); where
export staging lies (log entry 75); the time that a limit reaches (log entry 4); the order of equals in the scheduler (log entry 102).
exec of puntWrite, exportMessageClose, vectorTimeout answers a next state in every state, with every operand. -/
def Obligations.PuntAndExport : Prop :=
  (∀ (s : State) (queue : Fin 32), (∃ t, exec (.puntWrite queue) s = .next t)) ∧
  (∀ (s : State) (profile : Fin 4096), (∃ t, exec (.exportMessageClose profile) s = .next t)) ∧
  (∀ (s : State) (vector : Fin 64), (∃ t, exec (.vectorTimeout vector) s = .next t)) ∧
  (∀ (s : State) (q : Fin 32) (c : Copy), (selectCopy s (128 + q.val / 8) (puntReady s)).2 = some c → c.queue = 1024 + q.val →
      exec (.puntWrite q) s = .next (puntCopy (selectCopy s (128 + q.val / 8) (puntReady s)).1 c)) ∧
    (∀ (s : State) (c : Copy) (x : Frame), s.frame? c.frame = some x →
      (∀ k, badCell s c.frame = some k → puntCopy s c = settle (cellFail (copyDrop s c) c.frame k) c.frame) ∧
      (∀ bs, badCell s c.frame = none → puntBytes s x c = .ok bs →
        let r := s.rf (Reg.HIF_PUNT_RING (c.queue - 1024)) 9 0
        let t := puntFill r (puntMeta s x c bs.length) (s.ring r).posted { s with freeCtr := s.freeCtr + 1 } bs true
        let u := settle (unchargeEg (t.1.setRing r { t.1.ring r with posted := t.2 }) c.port c.cells) c.frame
        puntCopy s c = if bit (s.reg (Reg.HIF_RING_CFG r)) 15 then vectorCount u (ringVec s r) else u)) ∧
    (∀ (s : State) (r : Nat) (info : List (Nat × Nat × Nat)) (p : Posted) (ps : List Posted) (bs : List Byte), bs.length ≤ p.len →
      puntFill r info (p :: ps) s bs true = (hostWrite (hostWrite s p.addr bs) (slotAddr s r p.slot)
        (bytesOf (pack 512 ([(8, 8, 1), (9, 9, 0), (10, 10, 1), (29, 16, bs.length)] ++ info))), ps)) ∧
    (∀ (s : State) (n : Fin 4096) (e : Nat × ExpMsg), s.flw.expClosed.find? (fun e => e.1 == n.val) = some e →
      exec (.exportMessageClose n) s =
        .next (exportWrite { s with flw := { s.flw with expClosed := s.flw.expClosed.erase e } } n e.2)) ∧
    (∀ (s : State) (n : Fin 4096) (m : ExpMsg), s.flw.expClosed.find? (fun e => e.1 == n.val) = none →
      ffind? s.flw.expMsgs n = some m → exec (.exportMessageClose n) s =
        let u := s.reach (m.opened + 1000000)
        .next (exportWrite { u with flw := { u.flw with expMsgs := ferase u.flw.expMsgs n } } n m)) ∧
    (∀ (s : State) (n : Nat) (m : ExpMsg),
      let prof := fget s.flw.expProf 0 n
      let r := fld prof 57 48
      let x := s.ring r
      let u := memPostIn s 8 0x1624000000 0x1DC000000 false ((m.size + 31) / 32)
      (x.posted = [] ∨ x.enabled = false ∨ x.error = true ∨ ringType s r ≠ 3 ∨ (∀ p ps, x.posted = p :: ps → p.len < m.size) →
        exportWrite s n m = s.bump Reg.HIF_EXPORT_DROP_COUNT) ∧
      (∀ p ps, x.posted = p :: ps → x.enabled = true → x.error = false → ringType s r = 3 → m.size ≤ p.len →
        busOff s (ringFn s r) = false → bit (s.reg (Reg.HIF_RING_CFG r)) 15 = false →
        exportWrite s n m = (hostWrite (hostWrite u p.addr (ipfixBytes u prof m)) (slotAddr u r p.slot)
          (bytesOf (pack 512 [(8, 8, 1), (29, 16, m.size), (75, 64, n), (95, 80, m.records.length)]))).setRing r
          { x with posted := ps })) ∧
    (∀ (s : State) (v : Fin 64) (t : Nat), (s.vector v).since = some t → exec (.vectorTimeout v) s =
      .next (vectorTry (s.reach (t + 1000 * s.rf (Reg.HIF_VEC_MOD v) 31 16)) v))

/-- Counting an entry raises the vector's pending count by one and keeps the time of its first pending entry; the message is sent only where
the vector is armed and either its count has reached COUNT or TIME_US has passed since its first pending entry, and sending clears the
count, the time and the arming. A vector that is not armed keeps counting and sends nothing. The model's choice, not the spec's words:
that vectors start disarmed (log entry 9). -/
def Obligations.Moderation : Prop :=
  ∀ (s : State) (v : Nat),
      let x := s.vector v
      let y : Vector := { x with count := x.count + 1, since := some (x.since.getD s.ns) }
      (x.armed = false → vectorCount s v = s.setVector v y) ∧
      (x.armed = true → vectorCount s v =
        if fld (s.reg (Reg.HIF_VEC_MOD v)) 15 0 ≤ x.count + 1 ∨
            x.since.getD s.ns + 1000 * fld (s.reg (Reg.HIF_VEC_MOD v)) 31 16 ≤ s.ns
        then vectorMsg ((s.setVector v y).setVector v {}) v else s.setVector v y)

/-- FUNCTION_LEVEL_RESET disables every ring of the function (of the PF: every ring) and clears its MSI-X state: nothing of it is pending,
its table is as at reset, and its vectors neither count nor are armed; the PF's reset does so for every function. BUS_MASTER_DISABLE
puts each enabled ring of the function into ERROR with BUS_MASTER_OFF, and none of its rings writes anything more. PCIE_HOT_RESET acts
on every function so, takes the link down and sets HOST_RESET. PCIE_LINK_TRAINED, outside a reset, records speed, width and FLIT mode of
the link. The model's choice, not the spec's words: that only a device reset sets Bus Master Enable again (log entry 48); the MSI-X
tables that a reset clears (log entry 53); that vectors are disarmed (log entry 54); what a ring in ERROR keeps (log entry 45); the
reset value of a table entry (log entry 10); when the link may train (log entry 144). exec of functionLevelReset, busMasterDisable,
pcieHotReset, pcieLinkTrained answers a next state in every state, with every operand. -/
def Obligations.FunctionResets : Prop :=
  (∀ (s : State) (fn : Fin 65), (∃ t, exec (.functionLevelReset fn) s = .next t) ∧ (∃ t, exec (.busMasterDisable fn) s = .next t)) ∧
  (∀ (s : State), (∃ t, exec .pcieHotReset s = .next t)) ∧
  (∀ (s : State) (speed : Fin 4) (width : Fin 17) (flit : Bool), (∃ t, exec (.pcieLinkTrained speed width flit) s = .next t)) ∧
  (∀ (s : State) (f : Fin 65), exec (.functionLevelReset f) s = .next (functionReset s f)) ∧
    (∀ (s : State) (f : Nat), f ≠ 0 → functionReset s f =
      msixClear (((List.range 1024).filter fun r => ringFn s r == f).foldl ringDisable s) f) ∧
    (∀ s : State, functionReset s 0 = msixClear ((List.range 1024).foldl ringDisable s) 0) ∧
    (∀ s : State, let u := msixClear s 0
      u.hif.pba = [] ∧ u.hif.vfMsix = [] ∧ u.hif.vectors = [] ∧ u.hif.rings = s.hif.rings ∧
      (∀ a, 0xD80000 ≤ a → a < 0xD80400 → u.reg a = regDefault a) ∧
      (∀ a, a < 0xD80000 ∨ 0xD80400 ≤ a → u.reg a = s.reg a)) ∧
    (∀ (s : State) (f : Nat), f ≠ 0 → let u := msixClear s f
      (∀ e, e ∈ u.hif.pba ↔ (e ∈ s.hif.pba ∧ e / 64 ≠ f)) ∧
      (∀ k, k < 2048 → vfMsixWord u f k = vfMsixDefault k ∧ (∀ g, g ≠ 0 → g ≠ f → vfMsixWord u g k = vfMsixWord s g k)) ∧
      (∀ v, u.vector v = if f ∈ vectorOwners s v then {} else s.vector v) ∧ u.regs = s.regs ∧ u.hif.rings = s.hif.rings) ∧
    (∀ (s : State) (f : Fin 65), exec (.busMasterDisable f) s =
      .next (((List.range 1024).filter fun r => ringFn s r == f.val).foldl (fun u r => ringMute (ringError u r 4) r)
        (if f.val ∈ s.hif.busOff then s else { s with hif := { s.hif with busOff := f.val :: s.hif.busOff } }))) ∧
    (∀ s : State, let u := (List.range 65).foldl functionReset s
      exec .pcieHotReset s =
        .next { u with hif := { u.hif with linkUp := false }, pkg := { u.pkg with hostReset := true } }) ∧
    (∀ (s : State) (sp : Fin 4) (w : Fin 17) (b : Bool), s.pkg.inReset = false → s.hlt.shutdown = false →
      exec (.pcieLinkTrained sp w b) s =
        .next { s with hif := { s.hif with speed := sp, width := w, flit := b, linkUp := true } })

/-- Where BAR0 takes accesses, PERF_SEL_WRITE of an allowed selection sets counter i to 0 and makes it count that selection; a reserved one
is discarded and counted. PERF_OVERFLOW reports one wrap of a counter. PERF_SNAPSHOT, enabled and with the PF's bus mastering on, lets
time reach the next period and advances SEQ; where the one before is still being written (a free value; never the first, nor after a
skip) it is skipped, else the 512 counters and then the header with SEQ go to the buffer whose turn it is. The model's choice, not the
spec's words: that a snapshot is written at once, with a free value for its skip (log entry 30); which registers may be selected (log
entry 31); when EDGE and LEVEL counters are judged (log entry 29); the time that a snapshot reaches (log entry 4). exec of perfSelWrite,
perfSnapshot, perfOverflow answers a next state in every state, with every operand. -/
def Obligations.PerformanceCounters : Prop :=
  (∀ (s : State) (counter : Fin 512) (value : W32), (∃ t, exec (.perfSelWrite counter value) s = .next t)) ∧
  (∀ (s : State), (∃ t, exec .perfSnapshot s = .next t)) ∧
  (∀ (s : State) (counter : Fin 512), (∃ t, exec (.perfOverflow counter) s = .next t)) ∧
  (∀ (s : State) (i : Fin 512) (v : W32), barOpen s = true →
      (perfSelBad v = true → exec (.perfSelWrite i v) s = .next (badWrite s)) ∧
      (perfSelBad v = false → bit v 31 = true → exec (.perfSelWrite i v) s =
        let u := s.setReg (Reg.HIF_PERF_SEL i) (v &&& 0x9FFFFFFF)
        let x : Perf := { addr := 4 * fld v 21 0, bitNo := fld v 26 22, mode := fld v 28 27, last := s.ns }
        .next { u with hif := { u.hif with perfVal := ferase u.hif.perfVal i
                                           perf := fset u.hif.perf i { x with prev := x.mode != 0 && flagSet s x } } }) ∧
      (perfSelBad v = false → bit v 31 = false → exec (.perfSelWrite i v) s =
        let u := s.setReg (Reg.HIF_PERF_SEL i) (v &&& 0x9FFFFFFF)
        .next { u with hif := { u.hif with perf := ferase u.hif.perf i, perfVal := ferase u.hif.perfVal i } })) ∧
    (∀ (s : State) (i : Fin 512) (x : Perf), ffind? s.hif.perf i = some x → 0 < x.wraps → exec (.perfOverflow i) s =
      .next (hifEvent { s with hif := { s.hif with perf := fset s.hif.perf i { x with wraps := x.wraps - 1 } } } 0xC1
        [(72, 64, i.val)])) ∧
    (∀ s : State, bit (s.reg Reg.HIF_PERF_CTRL) 0 = true → busOff s 0 = false →
      let t := s.hif.snapNs + 1000 * s.rf Reg.HIF_PERF_CTRL 31 16
      let u := s.reach t
      let n := (s.hif.snapSeq + 1) % 2 ^ 32
      let v := { u with freeCtr := u.freeCtr + 1, hif := { u.hif with snapSeq := n, snapNs := t } }
      let a := perfAddr v + if v.hif.snapHigh then 0 else 0x2000
      let w := hostWrite (hostWrite v (a + 64) ((List.range 512).flatMap fun i => bytesLE 8 (perfValue v i))) a
        (bytesLE 4 n ++ bytesLE 4 0 ++ bytesLE 6 v.tick ++ bytesLE 2 0 ++ bytesLE 6 v.tick ++ bytesLE 42 0)
      let done := { w with hif := { w.hif with snapDone := n, snapHigh := !v.hif.snapHigh } }
      (exec .perfSnapshot s = .next done ∨ exec .perfSnapshot s = .next v) ∧
      ((s.hif.snapSeq = 0 ∨ s.hif.snapSeq ≠ s.hif.snapDone) → exec .perfSnapshot s = .next done) ∧
      ((s.hif.snapSeq ≠ 0 ∧ s.hif.snapSeq = s.hif.snapDone) →
        exec .perfSnapshot s = .next (if Config.freeNat u.freeCtr % 2 = 1 then v else done)))

/-- Raising source i of group g sets its status bit, keeps every other register and sends the group's one message exactly where the OR of
the group's unmasked bits rises. INT_STATUS_CLEAR, where BAR0 takes accesses, clears the written ones of the group's status, and where
an unmasked bit stays set sends the message again. The model's choice, not the spec's words: that a group's message is not moderated
(log entry 33); a message that is sent while masked (log entry 32); when BAR0 takes accesses (log entries 17, 18). exec of
intStatusClear answers a next state in every state, with every operand. -/
def Obligations.InterruptClear : Prop :=
  (∀ (s : State) (group : Fin 16) (value : W32), (∃ t, exec (.intStatusClear group value) s = .next t)) ∧
  (∀ (s : State) (g i : Nat), i < 16 → Memory.wf s = true →
      let a := Reg.HLT_INT_STATUS g
      let u := s.setReg a (putBit (s.reg a) i true)
      intRaise s g i = (if intLive s g = 0 ∧ intLive u g ≠ 0 then intMsg u g else u) ∧
      (u.reg a).getLsbD i = true ∧ (∀ j, j ≠ i → (u.reg a).getLsbD j = (s.reg a).getLsbD j) ∧
      (∀ b, b ≠ a → u.reg b = s.reg b) ∧ (intMsg u g).regs = u.regs) ∧
    (∀ (s : State) (g : Fin 16) (v : W32), barOpen s = true →
      let a := Reg.HLT_INT_STATUS g
      let u := s.setReg a (s.reg a &&& ~~~(v &&& 0xFFFF))
      exec (.intStatusClear g v) s = .next (if intLive u g = 0 then u else intMsg u g))

/-- For the command that its ring hands over, with a key in canonical form whose home slice serves it with no in-flight entry in its way:
FLOW_LOOKUP of a key that a record answers to writes that record to the buffer and completes OK with its handle, and otherwise, charged
as a miss, completes NOT_FOUND; FLOW_DELETE by key, charged as a cold lookup beside any deletion, deletes the record with cause 2
(host), or completes NOT_FOUND; FLOW_INSTALL completes EXISTS with the handle of a record that answers to the key, else OK with the
handle of the record it builds, else REFUSED with the reason. A key that is not canonical completes with BAD_FIELD. Each takes the next
place in its slice's order. The model's choice, not the spec's words: the place of an operation and behind which entry it attaches (log
entry 234); a key with a reserved bit (log entry 148); the charge of a search that finds nothing (log entries 209, 161); the order of
the reasons (log entry 74); when a ring hands a command over (log entry 34). exec of flowLookup, flowInstall, flowDelete answers a next
state in every state, with every operand. -/
def Obligations.RecordCommandsByKey : Prop :=
  (∀ (s : State) (r : Fin 1024) (n : Nat), (∃ t, exec (.flowLookup r n) s = .next t) ∧ (∃ t, exec (.flowInstall r n) s = .next t) ∧
     (∃ t, exec (.flowDelete r n) s = .next t)) ∧
  ∀ (s : State) (r : Fin 1024) (n : Nat) (c : CmdEnt), s.cmd? r n = some c →
      (∀ i, Handed s r n 0x20 c → keyBad (bufKey c) = false → hostHome s (bufKey c) (fcPool c.desc) = some i →
        ServedAt s i (hostOp s i r n c (some (bufKey c))) →
        let u := (findKey (placed s i) i (bufKey c)).1
        (∀ f, (findKey (placed s i) i (bufKey c)).2 = some f → exec (.flowLookup r n) s =
          .next (((hostFill (charge u i f.cost) i f true).output c (bytesOf f.record)).finish r n St.ok 0 (f.record.handle f.idx))) ∧
        ((findKey (placed s i) i (bufKey c)).2 = none → exec (.flowLookup r n) s = .next ((charge u i 1).finish r n St.notFound))) ∧
      (∀ i, Handed s r n 0x24 c → fcByKey c.desc = true → keyBad (bufKey c) = false →
        hostHome s (bufKey c) (fcPool c.desc) = some i → ServedAt s i (hostOp s i r n c (some (bufKey c))) →
        let u := (findKey (placed s i) i (bufKey c)).1
        (∀ f, (findKey (placed s i) i (bufKey c)).2 = some f → exec (.flowDelete r n) s =
          .next ((delRecord (charge u i 2) i f.idx f.record 2).finish r n St.ok)) ∧
        ((findKey (placed s i) i (bufKey c)).2 = none → exec (.flowDelete r n) s = .next ((charge u i 2).finish r n St.notFound))) ∧
      (Handed s r n 0x22 c → fcPool c.desc = false → zeroFields (bufRec c) recReserved = true → keyBad (bufRec c).key = false →
        let m := installRec (bufRec c)
        let i := hHome (flowHash s (bufRec c).key)
        ServedAt s i (hostOp s i r n c (some (bufRec c).key)) →
        let u := (findKey (placed s i) i m.key).1
        (∀ f, (findKey (placed s i) i m.key).2 = some f → exec (.flowInstall r n) s =
          .next ((if f.place = .hot then touch (charge u i f.cost) i f.idx else charge u i f.cost).finish r n St.exists_ 0
            (f.record.handle f.idx))) ∧
        ((findKey (placed s i) i m.key).2 = none → ∀ h, (buildRecord u i m 0 (u.tmpl i m.tmpl).event).2 = .handle h →
          exec (.flowInstall r n) s = .next ((buildRecord u i m 0 (u.tmpl i m.tmpl).event).1.finish r n St.ok 0 h)) ∧
        ((findKey (placed s i) i m.key).2 = none → ∀ k, (buildRecord u i m 0 (u.tmpl i m.tmpl).event).2 = .refused k →
          exec (.flowInstall r n) s = .next ((charge (refuseCount (buildRecord u i m 0 (u.tmpl i m.tmpl).event).1 i k) i 1).finish
            r n St.refused k))) ∧
      (Handed s r n 0x20 c → keyBad (bufKey c) = true → exec (.flowLookup r n) s = .next (s.badField r n))

/-- For the command that its ring hands over, at the slice that its HANDLE names, serving and with no in-flight entry in its way: where the
handle names a valid record of its generation, FLOW_READ writes that record to the buffer, FLOW_MODIFY writes the fields that
MODIFY_MASK selects (not 0) and FLOW_DELETE deletes it, each completing OK; where it does not, each completes STALE_HANDLE, and a search
that read HBM is charged as a cold lookup. A MODIFY_MASK of 0 completes with BAD_FIELD. Where the slice is not serving, FLOW_READ,
FLOW_MODIFY with a mask and without a reserved bit, and FLOW_DELETE by handle complete NOT_FOUND. The model's choice, not the spec's
words: the charge of a stale handle and of a record that waits to be written back (log entries 161, 210); the status where the slice
does not serve (log entry 69); which tags a command uses (log entry 147); where a record is written (log entry 72); a handle at or above
the watermark (log entry 74); the place of an operation (log entry 234). exec of flowRead, flowModify answers a next state in every
state, with every operand. -/
def Obligations.RecordCommandsByHandle : Prop :=
  (∀ (s : State) (r : Fin 1024) (n : Nat), (∃ t, exec (.flowRead r n) s = .next t) ∧ (∃ t, exec (.flowModify r n) s = .next t)) ∧
  ∀ (s : State) (r : Fin 1024) (n : Nat) (c : CmdEnt), s.cmd? r n = some c →
      let i := handleSlice (fcHandle c.desc)
      let u := (byHandle (placed s i) i (fcHandle c.desc)).1
      let hit := (byHandle (placed s i) i (fcHandle c.desc)).2
      (ServedAt s i (hostOp s i r n c none) →
        (Handed s r n 0x21 c →
          (∀ f, hit = some f → exec (.flowRead r n) s =
            .next (((hostFill (charge u i f.cost) i f false).output c (bytesOf f.record)).finish r n St.ok)) ∧
          (hit = none → exec (.flowRead r n) s =
            .next ((charge u i (staleCost (placed s i) i (fcHandle c.desc))).finish r n St.staleHandle))) ∧
        (Handed s r n 0x23 c → fcMask c.desc ≠ 0 → zeroFields (bufRec c) recReserved = true →
          (∀ f, hit = some f → let m := modifyRec f.record (bufRec c) (fcMask c.desc) s.tick
            exec (.flowModify r n) s = .next ((if f.place = .hbm then fillHot (charge u i f.cost) i f.idx m true false
              else lineRef (writeRec (charge u i f.cost) i f.idx m) i f.idx).finish r n St.ok)) ∧
          (hit = none → exec (.flowModify r n) s =
            .next ((charge u i (staleCost (placed s i) i (fcHandle c.desc))).finish r n St.staleHandle))) ∧
        (Handed s r n 0x24 c → fcByKey c.desc = false →
          (∀ f, hit = some f → exec (.flowDelete r n) s = .next ((delRecord (charge u i 2) i f.idx f.record 2).finish r n St.ok)) ∧
          (hit = none → exec (.flowDelete r n) s = .next ((charge u i 2).finish r n St.staleHandle)))) ∧
      (Handed s r n 0x23 c → fcMask c.desc = 0 → exec (.flowModify r n) s = .next (s.badField r n 28)) ∧
      (Handed s r n 0x21 c → sliceUp s i = false → exec (.flowRead r n) s = .next (s.finish r n St.notFound)) ∧
      (Handed s r n 0x23 c → fcMask c.desc ≠ 0 → zeroFields (bufRec c) recReserved = true → sliceUp s i = false →
        exec (.flowModify r n) s = .next (s.finish r n St.notFound)) ∧
      (Handed s r n 0x24 c → fcByKey c.desc = false → sliceUp s i = false →
        exec (.flowDelete r n) s = .next (s.finish r n St.notFound))

/-- For the command that its ring hands over: FLOW_TEMPLATE_WRITE without a set reserved bit gives every slice the template it carries;
EXPORT_PROFILE_WRITE of profiles 1 to 4,095 whose Template IDs are 256 or above stores the profile; FILIGREE_LOAD writes the image into
the bank that it names of each named slice, bank 0 in SINGLE mode, counts its nodes there and clears the walk fault; FILIGREE_SWITCH in
DUAL mode makes each named slice's other bank active. Each completes OK. A FILIGREE_SWITCH in SINGLE mode, and a DUAL load of an active
bank (at byte 15), complete with BAD_FIELD; a BUF_LEN that is no multiple of 8 or beyond a bank is refused at byte 24 before staging.
The model's choice, not the spec's words: HANDLE bits above [11:0] (log entry 38); FILIGREE_SWITCH in SINGLE mode (log entry 76); that a
write reaches every slice at once (log entry 78); which byte DETAIL names (log entry 36); when a ring hands a command over (log entry
34). exec of flowTemplateWrite, filigreeLoad, filigreeSwitch, exportProfileWrite answers a next state in every state, with every
operand. -/
def Obligations.FlowImages : Prop :=
  (∀ (s : State) (r : Fin 1024) (n : Nat), (∃ t, exec (.flowTemplateWrite r n) s = .next t) ∧
     (∃ t, exec (.filigreeLoad r n) s = .next t) ∧ (∃ t, exec (.filigreeSwitch r n) s = .next t) ∧
     (∃ t, exec (.exportProfileWrite r n) s = .next t)) ∧
  ∀ (s : State) (r : Fin 1024) (n : Nat) (c : CmdEnt),
      (Handed s r n 0x25 c → zeroFields (ofBytes 512 c.buf : BitVec 512) tmplReserved = true →
        exec (.flowTemplateWrite r n) s = .next ((forAll s (List.range 16) fun u i => u.modSlice i fun x =>
          { x with templates := fput x.templates 0 (fcTmpl c.desc) (ofBytes 512 c.buf) }).finish r n St.ok)) ∧
      (Handed s r n 0x28 c → 
        let p : BitVec 128 := ofBytes 128 c.buf
        fld c.desc 75 64 ≠ 0 → zeroFields p [(63, 58), (127, 96)] = true → 256 ≤ fld p 31 16 → 256 ≤ fld p 47 32 →
        exec (.exportProfileWrite r n) s =
          .next ({ s with flw := { s.flw with expProf := fput s.flw.expProf 0 (fld c.desc 75 64) p } }.finish r n St.ok)) ∧
      (Handed s r n 0x26 c → 
        let is := maskList 16 (fcSlices c.desc)
        let bank := flgDual s && fcBank c.desc
        is ≠ [] →
        ((flgDual s = true → ∀ i ∈ is, (s.slice i).bank ≠ fcBank c.desc) → exec (.filigreeLoad r n) s =
          .next ((forAll s is fun v i => flgLoad v i bank (words64 c.buf)).finish r n St.ok)) ∧
        ((flgDual s = true ∧ ∃ i ∈ is, (s.slice i).bank = fcBank c.desc) →
          exec (.filigreeLoad r n) s = .next (s.badField r n 15))) ∧
      (∀ d : Desc, (fld d 223 192 % 8 ≠ 0 ∨ (if flgDual s then 524288 else 1048576) < fld d 223 192) → (true, 24) ∈ cmdRanges s 0x26 d) ∧
      (∀ (i : Nat) (bank : Bool) (ns : List W64),
        flgLoad s i bank ns = s.setSlice i { s.slice i with
          nodes := ns.zipIdx.foldl (fun (m : FMap W64) (e : W64 × Nat) => fput m 0 ((if bank then 131072 else 0) + e.2) e.1) (s.slice i).nodes
          count0 := if bank then (s.slice i).count0 else ns.length
          count1 := if bank then ns.length else (s.slice i).count1
          walkFault := false, faultNode := 0 }) ∧
      (Handed s r n 0x27 c → maskList 16 (fcSlices c.desc) ≠ [] →
        (flgDual s = true → exec (.filigreeSwitch r n) s = .next ((forAll s (maskList 16 (fcSlices c.desc)) fun u i =>
          u.modSlice i fun x => { x with bank := !x.bank }).finish r n St.ok)) ∧
        (flgDual s = false → exec (.filigreeSwitch r n) s = .next (s.badField r n)))

/-- Where BAR0 takes accesses: FILIGREE_MODE_WRITE on an unsealed device stores DUAL, and a change of it empties both banks of every slice;
NAT_POOL_VALID on an unsealed device stores the pool's CFG, unless it sets VALID for a pool that R111 forbids, which is discarded and
counted; SWEEP_ENABLE with an INTERVAL of 8 or more stores the control, and where ENABLE goes to 1 the next visits count from now;
FLW_ENABLE on an unsealed device that is not enabled fixes the hash key (the fixed one, or the one drawn at reset) and starts the slices
once every stack is trained. FLW_INIT_START starts them where the last stack is trained later. A slice that starts is empty and not
READY, and keeps what waits before its order point, its image, templates, profiles and counts. SLICE_READY makes a starting slice of an
ON domain READY with its tag pairs empty; what waited has missed. The model's choice, not the spec's words: when a hash key is drawn
(log entry 236); what a start keeps (log entries 77, 213); a pause between two passes (log entry 214); when BAR0 takes accesses (log
entries 17, 18). exec of flwEnable, flwInitStart, sliceReady, filigreeModeWrite, natPoolValid, sweepEnable answers a next state in every
state, with every operand. -/
def Obligations.FlowRegisters : Prop :=
  (∀ (s : State) (value : W32), (∃ t, exec (.flwEnable value) s = .next t) ∧ (∃ t, exec (.filigreeModeWrite value) s = .next t) ∧
     (∃ t, exec (.sweepEnable value) s = .next t)) ∧
  (∀ (s : State), (∃ t, exec .flwInitStart s = .next t)) ∧
  (∀ (s : State) (slice : Fin 16), (∃ t, exec (.sliceReady slice) s = .next t)) ∧
  (∀ (s : State) (pool : Fin 16) (value : W32), (∃ t, exec (.natPoolValid pool value) s = .next t)) ∧
  (∀ (s : State) (v : W32), barOpen s = true → s.pkg.sealed = false →
      let u := s.setReg Reg.FLW_FILIGREE_CTRL (put 0 0 0 (fld v 0 0))
      (bit v 0 = flgDual s → exec (.filigreeModeWrite v) s = .next u) ∧
      (bit v 0 ≠ flgDual s → exec (.filigreeModeWrite v) s = .next { u with flw := { u.flw with
        slices := u.flw.slices.map fun (e : Nat × Slice) => (e.1, { e.2 with
          nodes := [], count0 := 0, count1 := 0, bank := false }) } })) ∧
    (∀ (s : State) (k : Fin 16) (v : W32), barOpen s = true →
      exec (.natPoolValid k v) s = .next (if s.pkg.sealed then sealedWrite s
        else if bit v 0 && !poolFits s k (v &&& 0xFFFF003F#32) then badWrite s
        else s.setReg (Reg.FLW_NAT_CFG k) (v &&& 0xFFFF003F#32))) ∧
    (∀ (s : State) (v : W32), barOpen s = true → 8 ≤ fld (v &&& 0x1FFFFF#32) 20 1 →
      let w := v &&& 0x1FFFFF#32
      let u := s.setReg Reg.FLW_AGE_CTRL w
      exec (.sweepEnable v) s = .next (if bit w 0 && !bit (s.reg Reg.FLW_AGE_CTRL) 0 then { u with flw := { u.flw with
        slices := u.flw.slices.map fun (e : Nat × Slice) => (e.1, { e.2 with
          sweepFrom := s.ns, passStart := if e.2.sweepNext = 0 then s.ns else e.2.passStart }) } } else u)) ∧
    (∀ (s : State) (v : W32), barOpen s = true → s.pkg.sealed = false → bit (s.reg Reg.FLW_CTRL) 0 = false → bit v 0 = true →
      let fixed := bit (s.reg Reg.FLW_HASH_CTRL) 0
      let u := { s with flw := { s.flw with hashKey := if fixed then s.flw.fixedKey else s.flw.hashKey } }.setReg Reg.FLW_CTRL 1
      exec (.flwEnable v) s = .next (if allTrained s then forAll u (List.range 16) sliceStart else u)) ∧
    (∀ s : State, bit (s.reg Reg.FLW_CTRL) 0 = true → allTrained s = true →
      (∀ i, i < 16 → (s.slice i).starting = false ∧ (s.slice i).ready = false) →
      exec .flwInitStart s = .next (forAll s (List.range 16) sliceStart)) ∧
    (∀ (s : State) (i : Fin 16), (s.slice i).starting = true → sliceOn s i = true →
      let base := tagBase / 128 + 2 ^ 22 * i.val
      let v := (s.slice i).orderQ.foldl (fun w o => notReady w i o) (s.modSlice i fun x => { x with orderQ := [] })
      exec (.sliceReady i) s = .next ({ v with hbm := fkeep s.hbm fun u => u < base || base + 2 ^ 22 ≤ u }.modSlice i
        fun x => { x with starting := false, ready := true, sweepFrom := s.ns, passStart := s.ns })) ∧
    (∀ (s : State) (i : Nat), let x := (flightsDrop s i).slice i
      let y : Slice :=
        { starting := true, orderQ := (s.slice i).orderQ, flightNo := x.flightNo, nodes := x.nodes,
          bank := x.bank, count0 := x.count0, count1 := x.count1, walkFault := x.walkFault, faultNode := x.faultNode,
          passNo := x.passNo, swept := x.passNo, lastPassS := x.lastPassS, orphans := x.orphans, templates := x.templates,
          profiles := x.profiles }
      (sliceStart s i).slice i = y ∧
      (∀ j, j ≠ i → (sliceStart s i).slice j = s.slice j) ∧
      ((s.slice i).flights = [] →
        flightsDrop s i = s.setSlice i { s.slice i with flights := [], setupQ := [], orderQ := [] }))

/-- After the upsets and double-bit errors that it brings have struck, SLICE_LOOKUP of a source with a LOOKUP before a READY slice's order
point that has an in-flight entry left, and UPDATE of a source with another operation there, take the oldest such operation out of the
queue; it takes the next place in slice order and the tick and is admitted. An admitted operation whose key or record an in-flight entry
names attaches behind it, and a LOOKUP's packet sees PENDING; one by another key than the entry's has read HBM for itself and is
charged. Any other runs: a LOOKUP that hits the hot cache counts a hit and is served with its record, which is policed and given with
its handle, and an UPDATE of a stale handle is counted. Before a slice that is not READY a LOOKUP that does not ask for setup misses,
and an UPDATE counts as stale. The model's choice, not the spec's words: places and behind which entry an operation attaches (log entry
234); how hardware errors arrive (log entries 166, 223); what a cleared hot tag reports (log entry 155); that operations run one at a
time (log entry 79); how lookups at a slice that is not READY count (log entry 71). exec of sliceLookup, update answers a next state in
every state, with every operand. -/
def Obligations.SliceOrderPoint : Prop :=
  (∀ (s : State) (slice : Fin 16) (source : SliceRead), (∃ t, exec (.sliceLookup slice source) s = .next t)) ∧
  (∀ (s : State) (slice : Fin 16) (source : Fin 8), (∃ t, exec (.update slice source) s = .next t)) ∧
  (∀ (s : State) (i : Fin 16) (k : Fin 8) (o : FlowOp) (tags stash : List Nat) (ups : List Upset),
      let v := eccMark (strike s ups) i tags stash
      let u := fun (w : State) => w.setSlice i { w.slice i with orderQ := (w.slice i).orderQ.erase o }
      (orderHead (v.slice i) k FlowAct.isLookup = some o → (v.slice i).ready = true → (v.slice i).flights.length < 8192 →
        exec (.sliceLookup i ⟨k, tags, stash, ups⟩) s = .next (orderPoint (u v) i o)) ∧
      (orderHead (v.slice i) k FlowAct.isLookup = some o → (v.slice i).ready = true → 8192 ≤ (v.slice i).flights.length →
        exec (.sliceLookup i ⟨k, tags, stash, ups⟩) s = .next v) ∧
      (orderHead (v.slice i) k FlowAct.isLookup = some o → (v.slice i).ready = false →
        exec (.sliceLookup i ⟨k, tags, stash, ups⟩) s = .next (notReady (u v) i o)) ∧
      (orderHead (s.slice i) k (fun a => !a.isLookup) = some o → (s.slice i).ready = true →
        exec (.update i k) s = .next (orderPoint (u s) i o)) ∧
      (orderHead (s.slice i) k (fun a => !a.isLookup) = some o → (s.slice i).ready = false →
        exec (.update i k) s = .next (notReady (u s) i o) ∧
        (∀ a b c d e f g, o.act = .update a b c d e f g →
          notReady (u s) i o = (u s).bump (Reg.FLW_STALE_UPDATE_COUNT i)))) ∧
    (∀ (s : State) (i : Nat) (o : FlowOp),
      orderPoint s i o = admitOp (placed s i) i { o with no := (s.slice i).flightNo, tick := s.tick }) ∧
    (∀ (s : State) (i : Nat) (o : FlowOp) (f : Flight), flightFor s i o = some f →
      let p := { o with rehit := o.rehit || expiredBefore s i o }
      let behindIt := fun (w : State) (q : FlowOp) => modFlight w i f.id fun g => { g with attached := g.attached ++ [q] }
      let see := fun (w : State) => match o.act with | .lookup c p g _ _ _ _ _ => givePending w c p g | _ => w
      ((o.key = none ∨ o.key = f.key ∨ o.cold = true) → admitOp s i o = see (behindIt s p)) ∧
      (∀ k e, o.key = some k → o.key ≠ f.key → o.cold = false → (findKey s i k).2 = some e → e.cost ≠ 0 →
        admitOp s i o = see (behindIt (charge (findKey s i k).1 i e.cost) { p with cold := true }))) ∧
    (∀ (s : State) (i : Nat) (o : FlowOp) (key : Key) (f : RecFound), flightFor s i o = none → o.act.isLookup = true →
      o.key = some key → o.cold = false → (hotSearch s i key).2 = some f →
      admitOp s i o = serve ((hotSearch s i key).1.bump64 (Reg.FLW_HIT_COUNT_LO i) 1) i o f false o.tick
        fun u r => touch (writeRec u i f.idx r) i f.idx) ∧
    (∀ (s : State) (i : Nat) (o : FlowOp) (f : RecFound) (new : Bool) (tick : Nat) (store : State → Rec → State) c p g a b low v len,
      o.act = .lookup c p g a b low v len → let e := police s i f.record len tick
      serve s i o f new tick store = giveRecord (store s e.1) c p g e.1 (f.record.handle f.idx) new
        (!new && (if f.isAlias then f.record.key.lo != f.record.key.hi else f.record.reply low)) e.2) ∧
    (∀ (s : State) (i : Nat) (o : FlowOp), flightFor s i o = none → (byHandle s i o.handle).2 = none →
      (∀ a b c d e f g, o.act = .update a b c d e f g →
        admitOp s i o = (byHandle s i o.handle).1.bump (Reg.FLW_STALE_UPDATE_COUNT i))) ∧
    (∀ (s : State) (i : Nat) (o : FlowOp), (∀ c p g b e v l, o.act = .lookup c p g false b e v l →
      notReady s i o = opComplete (s.bump64 (Reg.FLW_COLD_COUNT_LO i) 1) c p g St.ok []))

/-- TAG_PAIR_READ_DONE of an entry that reads its pair repairs failed lines and goes on with the records whose fingerprints match, or, with
none, with the miss. RECORD_READ_DONE of an entry that reads records examines the next candidate: a record that answers serves the
opener and closes the entry, or takes the entry behind an earlier one of that record; else the next candidate, the pair or the miss
follows. Of an entry that a sweep visit opened it examines the record, unless that was void at the visit's place and has been built
since, closes the entry and, at the last index, the pass. SETUP_QUEUE_ENTER of a held entry enters it in a setup queue with room, where
no earlier entry waits for room, and in a full one takes the outcome BUSY of its template, or waits under HOLD. SETUP_DONE of the entry
that comes first in slice order builds the record its template makes: refused, the entry closes with that outcome; built, the setup
packet is served as the record's first hit and the entry closes. WRITE_BACK_DONE of a pending write-back writes it to HBM and removes
it. The model's choice, not the spec's words: when a full setup queue is judged (log entry 70); places, and a visit of a record built
since (log entries 234, 235); where a new tag entry goes (log entry 153); which line a fill takes and what it charges (log entries 156,
157); pairs that fail again (log entry 152); FAULT_NODE (log entry 163). exec of tagPairReadDone, recordReadDone, setupQueueEnter,
setupDone, writeBackDone answers a next state in every state, with every operand. -/
def Obligations.FlightProgress : Prop :=
  (∀ (s : State) (slice : Fin 16) (entry : Nat), (∃ t, exec (.tagPairReadDone slice entry) s = .next t) ∧
     (∃ t, exec (.recordReadDone slice entry) s = .next t) ∧ (∃ t, exec (.setupQueueEnter slice entry) s = .next t) ∧
     (∃ t, exec (.writeBackDone slice entry) s = .next t)) ∧
  (∀ (s : State) (slice : Fin 16), (∃ t, exec (.setupDone slice) s = .next t)) ∧
  (∀ (s : State) (i : Fin 16) (k : Nat) (f : Flight), s.flight? i k = some f →
      (f.phase = .pairRead →
        let h := flowHash s (f.key.getD 0)
        let cs := wayCands (liveWays s i (hPair h)) (hFp h)
        (cs = [] → exec (.tagPairReadDone i k) s = .next (missBranch (fixPair s i (hPair h)) i f)) ∧
        (cs ≠ [] → exec (.tagPairReadDone i k) s = .next (readCands (fixPair s i (hPair h)) i f false cs))) ∧
      (∀ b cs, f.phase = .recRead b cs → exec (.recordReadDone i k) s = .next (recStep s i f b cs)) ∧
      (f.phase = .idxRead →
        let z := f.opener.handle % 2 ^ 29
        let v := closeFlight (if f.void = true ∧ recOk z (recCopy s i z).1 = true ∧ recVoid s i z = false then s
          else sweepRecord s i z f.opener.tick) i f
        (∀ t, f.opener.act = .sweep (some t) → exec (.recordReadDone i k) s = .next (passDone v i t)) ∧
        ((∀ t, f.opener.act ≠ .sweep (some t)) → exec (.recordReadDone i k) s = .next v)) ∧
      (∀ leaf t met, f.phase = .held leaf t met →
        let q := (s.slice i).setupQ
        (q.length < 1024 → heldBefore (s.slice i) f.id = false → exec (.setupQueueEnter i k) s =
          .next (((modFlight s i f.id fun g => { g with phase := .setup leaf t }).modSlice i fun x => { x with
            setupQ := x.setupQ ++ [f.id] }).peak (Reg.FLW_SETUPQ_PEAK i) (q.length + 1))) ∧
        (1024 ≤ q.length → fld t 269 268 ≠ 0 → exec (.setupQueueEnter i k) s =
          .next (closeOutcome (if met then s else s.bump (Reg.FLW_BUSY_COUNT i)) i f St.busy (fld t 269 268) 0x28)) ∧
        (1024 ≤ q.length → fld t 269 268 = 0 → exec (.setupQueueEnter i k) s =
          .next (modFlight (if met then s else s.bump (Reg.FLW_BUSY_COUNT i)) i f.id fun g =>
            { g with phase := .held leaf t true })))) ∧
    (∀ (s : State) (i : Nat) (f : Flight) (b : Bool) (d : Nat × Bool) (ds : List (Nat × Bool)),
      let key := f.key.getD 0
      let p := hPair (flowHash s key)
      let u := (candTry s i key (if b then Via.stash p else Via.pair p) (if b then 1 else 2) false [d]).1
      (∀ e, (candTry s i key (if b then Via.stash p else Via.pair p) (if b then 1 else 2) false [d]).2 = some e →
        let w := charge u i (f.opener.owes e.cost)
        (∀ g, behind u i f e.idx = some g → recStep s i f b (d :: ds) = modFlight (dropFlight w i f.id) i g.id fun h =>
          { h with attached := h.attached ++ { f.opener with cold := true } :: f.attached }) ∧
        (behind u i f e.idx = none → recStep s i f b (d :: ds) =
          closeFlight (serve (countCold w i) i f.opener e false f.tick fun v z =>
            if e.place = .hot then touch (writeRec v i e.idx z) i e.idx else fillHot v i e.idx z true false) i f)) ∧
      ((candTry s i key (if b then Via.stash p else Via.pair p) (if b then 1 else 2) false [d]).2 = none →
        (ds ≠ [] → recStep s i f b (d :: ds) = readCands u i f b ds) ∧
        (ds = [] → b = true → recStep s i f b (d :: ds) =
          memFlight (modFlight u i f.id fun f => { f with phase := .pairRead }) i (tagUnit i p) .pairRead) ∧
        (ds = [] → b = false → recStep s i f b (d :: ds) = missBranch u i f))) ∧
    (∀ (s : State) (i : Fin 16) (k : Nat) (f : Flight) (leaf : W64) (t : BitVec 512),
      setupHead (s.slice i) = some k → s.flight? i k = some f → f.phase = .setup leaf t →
      ∀ c p g a b low v l, f.opener.act = .lookup c p g a b low v l →
        let m := tmplRecord t (leafTmpl leaf) (f.key.getD 0) (!low) (leafParam leaf)
        let u := (buildRecord s i m (leafRule leaf) (Tmpl.event t)).1
        (∀ why, (buildRecord s i m (leafRule leaf) (Tmpl.event t)).2 = .refused why →
          exec (.setupDone i) s = .next (closeRefused u i f why t)) ∧
        (∀ h, (buildRecord s i m (leafRule leaf) (Tmpl.event t)).2 = .handle h →
          let x := recCopy u i (h % 2 ^ 29)
          exec (.setupDone i) s = .next (closeFlight (serve u i f.opener ⟨h % 2 ^ 29, false, x.1, x.2, 0⟩ true s.tick
            fun w z => writeRec w i (h % 2 ^ 29) z) i f))) ∧
    (∀ (s : State) (i : Fin 16) (k : Nat) (z : Unit128), (s.slice i).pending? k = some z → exec (.writeBackDone i k) s =
      .next ((s.modSlice i fun x => { x with wbuf := x.wbuf.filter fun e => e.1 != k }).setUnit k z))

/-- SWEEP_VISIT of a serving slice with the sweep enabled, its next index below the watermark and an in-flight entry left: time reaches the
visit's due time, the visit of the next index takes its place at the order point, where it attaches behind an entry of its record or
runs, and the index moves on; the visit of the last index carries the pass's length, which completes the pass when the visit has
examined its record, and the next visit is that of index 0. The model's choice, not the spec's words: places, and a visit of a record
built since (log entries 234, 235); the time that a visit reaches (log entry 4); a pause between two passes (log entry 214); the count
of a failing hot copy (log entry 154). exec of sweepVisit answers a next state in every state, with every operand. -/
def Obligations.SweepVisits : Prop :=
  (∀ (s : State) (slice : Fin 16), (∃ t, exec (.sweepVisit slice) s = .next t)) ∧
  ∀ (s : State) (i : Fin 16), sliceUp s i = true → bit (s.reg Reg.FLW_AGE_CTRL) 0 = true →
      (s.slice i).sweepNext < (s.slice i).wmark → (s.slice i).flights.length < 8192 →
      let x := s.slice i
      let u := s.reach (x.sweepFrom + (s.rf Reg.FLW_AGE_CTRL 20 1 * 20 + 26) / 27)
      let visit := fun (took : Option Nat) =>
        orderPoint u i { src := 9, act := .sweep took, handle := 2 ^ 25 * i.val + x.sweepNext }
      (x.sweepNext + 1 < x.wmark → exec (.sweepVisit i) s = .next ((visit none).modSlice i fun y => { y with
        sweepNext := x.sweepNext + 1, sweepFrom := u.ns, swept := x.swept, passStart := x.passStart })) ∧
      (x.wmark ≤ x.sweepNext + 1 → exec (.sweepVisit i) s =
        .next ((visit (some ((u.ns - x.passStart + giga - 1) / giga))).modSlice i fun y => { y with
          sweepNext := 0, sweepFrom := u.ns, swept := x.swept + 1, passStart := u.ns })) ∧
      (∀ (v : State) (o : FlowOp), let z := o.handle % 2 ^ 29
        ((recCopy v i z).2 = .hbm → runSweep v i o = postUnit (openFlight (charge v i 1) i o .idxRead) i z false) ∧
        ((recCopy v i z).2 ≠ .hbm → (∀ t, o.act ≠ .sweep (some t)) → runSweep v i o = sweepRecord v i z o.tick) ∧
        (∀ t, (recCopy v i z).2 ≠ .hbm → o.act = .sweep (some t) → runSweep v i o = passDone (sweepRecord v i z o.tick) i t))

/-- The states of the packet's own direction and of the other one after its flags (bit 0 FIN, 1 SYN, 2 RST, 4 ACK): RST sets the own state
to 5 and leaves the other; otherwise SYN opens a state 0, a bare ACK moves 1 to 2, FIN moves a state below 3 to 3, and an ACK moves the
other direction from 3 to 4. -/
def Obligations.TcpTracker : Prop :=
  ∀ st other flags : Nat,
      (flags.testBit 2 = true → tcpTrack st other flags = (5, other)) ∧
      (flags.testBit 2 = false →
        let a := if flags.testBit 1 = true ∧ st = 0 then 1 else st
        let b := if flags.testBit 4 = true ∧ a = 1 ∧ flags.testBit 1 = false then 2 else a
        let d := if flags.testBit 0 = true ∧ b < 3 then 3 else b
        tcpTrack st other flags = (d, if flags.testBit 4 = true ∧ other = 3 then 4 else other))

/-- For the command that its ring hands over: INDIRECTION_WRITE loads the 1,024-byte image and ROT as the named table of every named
pipeline and completes OK; INDIRECTION_READ writes the table's 512 entries of the lowest pipeline named to the buffer, two bytes each,
and completes OK with ROT. Nothing else of the state changes. The model's choice, not the spec's words: when a ring hands a command over
(log entry 34); which byte DETAIL names (log entry 36). exec of indirectionWrite, indirectionRead answers a next state in every state,
with every operand. -/
def Obligations.IndirectionTables : Prop :=
  (∀ (s : State) (r : Fin 1024) (n : Nat), (∃ t, exec (.indirectionWrite r n) s = .next t) ∧
     (∃ t, exec (.indirectionRead r n) s = .next t)) ∧
  ∀ (s : State) (r : Fin 1024) (n : Nat) (c : CmdEnt),
      let ps := maskList 8 (fld c.desc 71 64)
      let t := fld c.desc 75 72
      (Handed s r n 0x40 c → exec (.indirectionWrite r n) s =
        .next ((forAll s ps fun u p => indirLoad u p t (fld c.desc 80 76) c.buf).finish r n St.ok)) ∧
      (∀ p rest, Handed s r n 0x41 c → ps = p :: rest → exec (.indirectionRead r n) s =
        .next ((s.output c ((List.range 512).flatMap fun i => bytesLE 2 (indirEntry s p t i))).finish r n St.ok 0 (indirRot s p t)))

/-- TABLE_WRITE with a bad entry completes with BAD_FIELD and writes nothing; with good entries it applies every entry in order in every
named pipeline where its turn has come and no lock is in its way, releasing its lock there, and completes OK with the result of R237
once it has been in all of them. TABLE_READ with a CURSOR beyond the table completes with BAD_FIELD at byte 28; else, in its turn, with
no lock in its way, it writes the entries from CURSOR on, with CLEAR_HIT clears HIT of the EXACT entries it has read, and completes OK
with the next CURSOR, and out of its turn it waits. A command is in its turn at a table of a pipeline where no earlier accepted one has
yet to have its effect there. CLASP_LOCK takes, in its turn, the free lock of its table for a command with CLASP that named the pipeline
and was checked, and aborts the packets that hold or await a result of that table. LEARN_HOLDOFF_EXPIRE takes a key out of the learn
filter when its hold-off ends. The model's choice, not the spec's words: what an LPM CURSOR looks like and where an unknown one starts
(log entry 168); when a ring hands a command over (log entry 34); which byte DETAIL names (log entry 36); the time that a hold-off's end
reaches (log entry 4). exec of tableWrite, tableRead, learnHoldoffExpire, claspLock answers a next state in every state, with every
operand. -/
def Obligations.TableCommands : Prop :=
  (∀ (s : State) (r : Fin 1024) (n : Nat), (∃ t, exec (.tableWrite r n) s = .next t) ∧ (∃ t, exec (.tableRead r n) s = .next t)) ∧
  (∀ (s : State) (pipe : Fin 8) (key : BitVec 96), (∃ t, exec (.learnHoldoffExpire pipe key) s = .next t)) ∧
  (∀ (s : State) (pipe : Fin 8) (table : Fin 3) (r : Fin 1024) (n : Nat), (∃ t, exec (.claspLock pipe table r n) s = .next t)) ∧
  (∀ (s : State) (r : Fin 1024) (n : Nat) (c : CmdEnt),
      let t := tblOf c.desc
      let ps := maskList 8 (fld c.desc 71 64)
      let es := tableEntries (fld c.desc 207 192) c.buf
      let cursor := fld c.desc 255 224
      let go := ps.filter fun p => !c.landedIn p && mayWork s c r n p
      let u := forAll s go fun s p => cmdLand (applyAll (fun s e => tableApply s p t e) s es).1 r n p (descLock c.desc)
        (applyAll (fun s e => tableApply s p t e) s es).2
      (∀ e ∈ es, Handed s r n 0x44 c → entOk t e = false →
        exec (.tableWrite r n) s = .next ((unlockCmd s c r n).badField r n)) ∧
      (∀ d, Handed s r n 0x44 c → (∀ e ∈ es, entOk t e = true) → u.cmd? r n = some d → (∀ p ∈ ps, d.landedIn p = true) →
        exec (.tableWrite r n) s = .next (u.finish r n St.ok 0 (failResult (landedIn ps d)))) ∧
      (∀ d, Handed s r n 0x44 c → (∀ e ∈ es, entOk t e = true) → u.cmd? r n = some d → (∃ p ∈ ps, d.landedIn p = false) →
        exec (.tableWrite r n) s = .next u) ∧
      (Handed s r n 0x45 c → cursorBad t cursor = true →
        exec (.tableRead r n) s = .next ((unlockCmd s c r n).badField r n 28)) ∧
      (∀ p rest, Handed s r n 0x45 c → cursorBad t cursor = false → ps = p :: rest → (∀ q ∈ descPipes c.desc, mayWork s c r n q = true) →
        let out := tableReadOut s p t cursor (fld c.desc 207 192)
        let w := s.output c (out.1.flatMap bytesOf)
        let x := w.fwdOf p
        let seen := (((x.exact.filter fun e => cursor ≤ e.1).take (fld c.desc 207 192)).map (·.1))
        let kept := if t = 0 ∧ bit c.desc 75 = true
          then x.exact.map (fun (e : Nat × ExactEnt) => if e.1 ∈ seen then (e.1, { e.2 with hit := false }) else e) else x.exact
        let v := w.setFwd p { x with cursors := out.2.2, exact := kept }
        exec (.tableRead r n) s =
          .next ((unlockCmd { v with freeCtr := v.freeCtr + 1 } c r n).finish r n St.ok 0 out.2.1)) ∧
      (Handed s r n 0x45 c → cursorBad t cursor = false → (∃ q ∈ descPipes c.desc, mayWork s c r n q = false) →
        exec (.tableRead r n) s = .next s) ∧
      (∀ p e, e ∈ tableCmds s → e.no < c.no → p ∈ descPipes e.desc → e.landedIn p = false →
        descTable e.desc = descTable c.desc → mayWork s c r n p = false)) ∧
    (∀ (s : State) (p : Fin 8) (l : Fin 3) (r : Fin 1024) (n : Nat) (c : CmdEnt), s.next? r = some c → c.slot = n →
      bit c.desc 74 = true → (fld c.desc 71 64).testBit p = true → claspWants s c l = true → c.landedIn p = false →
      tableTurn s c p = true → ((cmdDomains c.desc).all fun d => s.domain d == .on) = true →
      (lockOf s p l = none → exec (.claspLock p l r n) s =
        .next (abortWhere (setLock s p l (some (r.val, n))) p fun q => usesTable q l)) ∧
      (∀ h, lockOf s p l = some h → exec (.claspLock p l r n) s = .next s)) ∧
    ∀ (s : State) (p : Fin 8) (k : BitVec 96) (t : Nat), (s.fwdOf p).learn.find? (fun e => e.1 == k) = some (k, t) →
      exec (.learnHoldoffExpire p k) s =
        .next ((s.reach t).setFwd p { s.fwdOf p with learn := (s.fwdOf p).learn.filter fun e => e.1 != k })

/-- TCAM_WRITE with an entry that is bad for a named pipeline completes with BAD_FIELD and writes nothing; with good entries it applies them
in order in every named pipeline where its turn has come and no other command's lock or work is in its way, until each is done or needs
copy steps, and completes once it is done in all. TCAM_READ writes the entries of the lowest pipeline named from CURSOR on, and
completes OK with the next one; TCAM_COUNTER_READ writes COUNT counter pairs from CURSOR, posts their accesses, and with CLASP clears
them, or completes with BAD_FIELD at byte 28 where they reach beyond pair 4,095. TCM_BANK_CFG_WRITE writes the widths where none is
reserved and no bank that holds an entry changes width; otherwise, as a bad value, it changes no width. The model's choice, not the
spec's words: the byte of a counter range beyond pair 4,095 (log entry 94); which mask bits are reserved (log entry 169); where a
counter's access lies (log entry 75); when a ring hands a command over (log entry 34). exec of tcamWrite, tcamRead, tcamCounterRead,
tcmBankCfgWrite answers a next state in every state, with every operand. -/
def Obligations.TcamCommands : Prop :=
  (∀ (s : State) (r : Fin 1024) (n : Nat), (∃ t, exec (.tcamWrite r n) s = .next t) ∧ (∃ t, exec (.tcamRead r n) s = .next t) ∧
     (∃ t, exec (.tcamCounterRead r n) s = .next t)) ∧
  (∀ (s : State) (pipe : Fin 8) (value : W32), (∃ t, exec (.tcmBankCfgWrite pipe value) s = .next t)) ∧
  (∀ (s : State) (r : Fin 1024) (n : Nat) (c : CmdEnt),
      let ps := maskList 8 (fld c.desc 71 64)
      let es := tcmEntries (fld c.desc 207 192) c.buf
      let k := fld c.desc 255 224
      let m := fld c.desc 207 192
      let go := ps.filter fun p => !tcmBegun s c r n p && mayTcam s c r n p
      let u := forAll s go fun s p => tcmLand (tcmRun s p r n (es.zipIdx.map fun e => (e.2, e.1)) []) r n p
      (∀ p ∈ ps, ∀ e ∈ es, Handed s r n 0x46 c → (∀ q ∈ ps, tcmBegun s c r n q = false) → tcmEntOk s p e = false →
        exec (.tcamWrite r n) s = .next ((unlockCmd s c r n).badField r n)) ∧
      (Handed s r n 0x46 c → (∀ p ∈ ps, ∀ e ∈ es, tcmEntOk s p e = true) →
        ((∀ p ∈ ps, tcmBegun s c r n p = true ∨ p ∈ go) →
          exec (.tcamWrite r n) s = .next (tcmFinish (u.modCmd r n fun c => { c with phase := .running }) r n)) ∧
        ((∃ p ∈ ps, tcmBegun s c r n p = false ∧ p ∉ go) → exec (.tcamWrite r n) s = .next (tcmFinish u r n))) ∧
      (∀ p rest, Handed s r n 0x47 c → ps = p :: rest → (∀ q ∈ descPipes c.desc, mayTcam s c r n q = true) →
        let from' := (s.tcmOf p).ents.filter fun e => k ≤ e.1
        exec (.tcamRead r n) s =
          .next ((unlockCmd (s.output c ((from'.take m).flatMap fun e => bytesOf (tcmImage (e.1 / 4096) e.2))) c r n).finish
            r n St.ok 0 (((from'.drop m).head?.map (·.1)).getD 0))) ∧
      (Handed s r n 0x48 c → 4096 < k + m → exec (.tcamCounterRead r n) s = .next ((unlockCmd s c r n).badField r n 28)) ∧
      (∀ p rest, Handed s r n 0x48 c → k + m ≤ 4096 → ps = p :: rest → (∀ q ∈ descPipes c.desc, mayTcam s c r n q = true) →
        let t := s.tcmOf p
        let w := ((List.range m).foldl (fun v _ => counterPost v 10 (bit c.desc 74)) s).output c ((List.range m).flatMap fun i =>
          bytesLE 8 (fget t.pkts 0 (k + i)) ++ bytesLE 8 (fget t.bytes 0 (k + i)))
        let out := fun i => decide (i < k ∨ k + m ≤ i)
        (bit c.desc 74 = false → exec (.tcamCounterRead r n) s = .next ((unlockCmd w c r n).finish r n St.ok)) ∧
        (bit c.desc 74 = true → exec (.tcamCounterRead r n) s = .next ((unlockCmd (w.setTcm p { w.tcmOf p with
          pkts := fkeep t.pkts out, bytes := fkeep t.bytes out }) c r n).finish r n St.ok)))) ∧
    ∀ (s : State) (p : Fin 8) (v : W32), barOpen s = true → s.pkg.sealed = false →
      let old := fun (b : Nat) => s.rf (Reg.TCM_BANK_CFG p) (2 * b + 1) (2 * b)
      let full := fun (b : Nat) => ∃ e ∈ (s.tcmOf p).ents, e.1 / 4096 = b
      ((∀ b < 16, fld v (2 * b + 1) (2 * b) ≠ 3 ∧ (fld v (2 * b + 1) (2 * b) = old b ∨ ¬ full b)) →
        exec (.tcmBankCfgWrite p v) s = .next (s.setReg (Reg.TCM_BANK_CFG p) v)) ∧
      (∀ b < 16, fld v (2 * b + 1) (2 * b) = 3 ∨ (fld v (2 * b + 1) (2 * b) ≠ old b ∧ full b) →
        exec (.tcmBankCfgWrite p v) s = .next (badWrite s))

/-- A copy step of an insertion writes the entry of its source position, with the parity it has, to its target position, and leaves the rest
of the insertion to do; with no copy step left, the new entry is written in its place and the command that brought it goes on. The
scrubber invalidates the entry of a unit whose parity is wrong, clears the parity of its position, counts it and reports it; a unit
whose parity is good, or whose position a copy step works on, changes nothing. The upsets that the event brings strike first. The
model's choice, not the spec's words: when a failed tile is found (log entry 95); how hardware errors arrive (log entry 166). exec of
tcamCopyStep, tcamScrub answers a next state in every state, with every operand. -/
def Obligations.TcamEngines : Prop :=
  (∀ (s : State) (pipe : Fin 8), (∃ t, exec (.tcamCopyStep pipe) s = .next t)) ∧
  (∀ (s : State) (pipe : Fin 8) (bank : Fin 16) (unit : Struck (Fin 4096)), (∃ t, exec (.tcamScrub pipe bank unit) s = .next t)) ∧
  (∀ (s : State) (p : Fin 8) (m : TcmMove) (a b : Nat) (rest : List (Nat × Nat)) (e : TcmEnt),
      (s.tcmOf p).move = some m → m.steps = (a, b) :: rest → tcmAt (s.tcmOf p) m.bank a = some e →
      exec (.tcamCopyStep p) s =
        .next (tcmCopy (s.setTcm p { s.tcmOf p with move := some { m with steps := rest } }) p m.bank a b e)) ∧
    (∀ (s : State) (p : Fin 8) (m : TcmMove) (j : TcmJob) (js : List TcmJob), (s.tcmOf p).move = some m → m.steps = [] →
      (s.tcmOf p).jobs = j :: js →
      exec (.tcamCopyStep p) s =
        .next (tcmFinish (tcmLand (tcmRun (tcmPut (s.setTcm p { s.tcmOf p with move := none }) p m.bank m.place m.ent) p j.ring j.slot
          j.left j.fails) j.ring j.slot p) j.ring j.slot)) ∧
    (∀ (s0 : State) (p : Fin 8) (b : Fin 16) (u : Fin 4096) (us : List Upset) (e : TcmEnt),
      let s := strike s0 us
      let k := u.val / bankUnits s p b
      (s.tcmOf p).move = none → (4096 * b.val + u.val) ∈ (s.tcmOf p).badUnits → tcmAt (s.tcmOf p) b k = some e →
      exec (.tcamScrub p b ⟨u, us⟩) s0 =
        .next (tcmTileFail ((s.setTcm p { s.tcmOf p with
          ents := ferase (s.tcmOf p).ents (4096 * b.val + k)
          badUnits := (s.tcmOf p).badUnits.filter fun x => !(x / 4096 == b.val && x % 4096 / bankUnits s p b == k) }).bumpField
            (Reg.TCM_TILE_FAIL_COUNT p) 15 8) p b 1 [e.id])) ∧
    ∀ (s0 : State) (p : Fin 8) (b : Fin 16) (u : Fin 4096) (us : List Upset),
      let s := strike s0 us
      ((4096 * b.val + u.val) ∉ (s.tcmOf p).badUnits → exec (.tcamScrub p b ⟨u, us⟩) s0 = .next s) ∧
      (∀ m st rest, (s.tcmOf p).move = some m → m.bank = b.val → m.steps = st :: rest →
        (st.1 = u.val / bankUnits s p b ∨ st.2 = u.val / bankUnits s p b) → exec (.tcamScrub p b ⟨u, us⟩) s0 = .next s)

/-- GRAPH_TEMPLATE_WRITE with a bad image completes with BAD_FIELD, as it does at byte 9 with no cluster named; with a good one it stands in
every named cluster at once, and the command completes OK where no started packet keeps the old image. GRAPH_TEMPLATE_READ writes the
image of the lowest cluster named and completes OK. MCS_PATCH_LOAD answers the status of the first check that fails, else it burns the
floor, stages the image in every named cluster and completes OK. MCS_PATCH_SWITCH makes the staged map of every named cluster active, or
with DISCARD drops it, and completes OK; where a named cluster has nothing staged it completes with BAD_FIELD at byte 8. The commands
that change code are audited. The model's choice, not the spec's words: when a ring hands a command over, and the byte of DETAIL (log
entries 34, 36); the records of refusals and the rights of a switch (log entries 40, 41); the order and place of patches (log entry 90).
exec of graphTemplateWrite, graphTemplateRead, mcsPatchLoad, mcsPatchSwitch answers a next state in every state, with every operand. -/
def Obligations.TemplatesAndPatches : Prop :=
  (∀ (s : State) (r : Fin 1024) (n : Nat), (∃ t, exec (.graphTemplateWrite r n) s = .next t) ∧
     (∃ t, exec (.graphTemplateRead r n) s = .next t) ∧ (∃ t, exec (.mcsPatchLoad r n) s = .next t) ∧
     (∃ t, exec (.mcsPatchSwitch r n) s = .next t)) ∧
  ∀ (s : State) (r : Fin 1024) (n : Nat) (c : CmdEnt),
      let t := fld c.desc 71 64
      let cs := maskList 8 (fld c.desc 79 72)
      let g : BitVec 2048 := templateBits (ofBytes 2048 c.buf)
      let ks := maskList 8 (fld c.desc 71 64)
      let len := fld c.desc 223 192
      let b := c.buf.take len
      (cs = [] → (Handed s r n 0x50 c → exec (.graphTemplateWrite r n) s = .next (s.badField r n 9)) ∧
        (Handed s r n 0x51 c → exec (.graphTemplateRead r n) s = .next (s.badField r n 9))) ∧
      (cs ≠ [] → templateOk g = false → Handed s r n 0x50 c → exec (.graphTemplateWrite r n) s = .next (s.badField r n)) ∧
      (cs ≠ [] → templateOk g = true → Handed s r n 0x50 c →
        (∀ k ∈ cs, (s.cluster k).retiring.all (·.template != t) = true) →
        exec (.graphTemplateWrite r n) s = .next (templateDone ((forAll s cs fun s k => s.setCluster k { s.cluster k with
          templates := fput (s.cluster k).templates 0 t g
          retiring := if (startedOn (s.cluster k) t).isEmpty then (s.cluster k).retiring
            else (s.cluster k).retiring ++ [⟨r.val, n, t, startedOn (s.cluster k) t⟩] }).modCmd r n
              fun c => { c with phase := .running }) r n)) ∧
      (∀ k rest, cs = k :: rest → Handed s r n 0x51 c →
        exec (.graphTemplateRead r n) s = .next ((s.output c (bytesOf ((s.cluster k).template t))).finish r n St.ok)) ∧
      (ks ≠ [] → Handed s r n 0x52 c →
        let st := patchStatus s c len ks b
        let sub := patchSubject (imgRegion b) (imgVersion b) ((Config.sha512 b).take 32)
        exec (.mcsPatchLoad r n) s = .next (
          if st = St.ok then
            auditFinish (forAll (floorBurn s (if imgRegion b then 2 else 1) (imgVersion b)) ks fun s k => patchStage s k b) r n c
              St.ok sub
          else if st = St.denied then (deniedAdd s r c).finish r n St.denied
          else auditFinish s r n c st sub (if st = St.badField then 0xFF else 0))) ∧
      (ks = [] → Handed s r n 0x52 c → exec (.mcsPatchLoad r n) s = .next (auditFinish s r n c St.badField
        (patchSubject (imgRegion b) (imgVersion b) ((Config.sha512 b).take 32)) 8)) ∧
      (∀ k ∈ ks, (s.cluster k).staged = false → Handed s r n 0x53 c →
        exec (.mcsPatchSwitch r n) s = .next (auditFinish s r n c St.badField [] 8)) ∧
      (∀ k rest, ks = k :: rest → (∀ k ∈ ks, (s.cluster k).staged = true ∧ s.domain (domCluster k) = .on) → Handed s r n 0x53 c →
        let x := s.cluster k
        let v := regionVersion x.stagedRegion x.stagedVersion
        (bit c.desc 72 = true → exec (.mcsPatchSwitch r n) s =
          .next (auditFinish (forAll s ks patchDrop) r n c St.ok (patchSubject x.stagedRegion v x.stagedHash))) ∧
        (bit c.desc 72 = false → exec (.mcsPatchSwitch r n) s =
          .next (switchDone ((forAll s ks fun s k => patchSwitch s k r n).modCmd r n fun c => { c with phase := .running }) r n
            x.stagedRegion.toNat v x.stagedHash)))

/-- The parser decides a frame that waits for it and that no earlier frame of its port or its pipeline holds back: a frame with DIRECT goes
to its queue; one that is not NORMAL is dropped, goes on statelessly, is punted, or is punted and goes on, as its class action says; one
on a stateful path waits for an engine queue, its class counted; any other goes on statelessly, in Solitaire mode through the keel
table. A frame that is held back, decided already or whose pipeline is not ON stays. The oldest waiting stateful frame takes a place in
the engine queue that the spreading chooses, or is dropped for an invalid template, or waits a cycle that is counted where the window or
the queue is full; in Solitaire mode it leaves as a flushed hole. The dispatcher takes back the oldest resuming packet whose engine has
a free context, else starts the head of an engine queue in its rotating order, on a free context of its engine. FRAME_TAIL stores a
frame's last byte: what the tail brings follows, and an inject completes OK. The model's choice, not the spec's words: when a parse and
a start take effect (log entries 81, 175); what each refused acceptance counts (log entry 89); the dispatcher's order (log entry 174);
what a stateless frame learns and shows (log entries 205, 206); the hash and the checks of a frame that is not NORMAL (log entries 215,
216, 217, 218, 219); which frames are behind a held one (log entry 220); which context a packet takes (log entry 221); the length at the
start (log entry 176); how upsets arrive (log entry 166). exec of parseDecision, frameTail, engineQueueAccept, packetStart answers a
next state in every state, with every operand. -/
def Obligations.FrameToPacket : Prop :=
  (∀ (s : State) (frame : Struck Nat), (∃ t, exec (.parseDecision frame) s = .next t)) ∧
  (∀ (s : State) (frame : Nat), (∃ t, exec (.frameTail frame) s = .next t) ∧ (∃ t, exec (.engineQueueAccept frame) s = .next t)) ∧
  (∀ (s : State) (cluster : Fin 8) (pkt : Nat), (∃ t, exec (.packetStart cluster pkt) s = .next t)) ∧
  (∀ (s0 : State) (f : Nat) (us : List Upset) (x : Frame), let s := strike s0 us
      s.frame? f = some x → x.held = true → x.parsed = none → heldBehind s x.pipe f = false → behindPort s f x = false →
      s.domain (domPipe x.pipe) = .on →
      let o := parseFrame s x.pipe x.port x.bytes
      let o1 := if s.hlt.solo then { o with stateful := false } else o
      let x1 := { x with parsed := some o1 }
      let s1 := countParsed (s.setFrame f x1) x.pipe o1
      (∀ q, x.direct = some q → exec (.parseDecision ⟨f, us⟩) s0 = .next (sendDirect (s.modFrame f fun x => { x with
        parsed := some { o with cls := 0, sub := 0, stateful := false } }) f q)) ∧
      let m : PuntMeta := { reason := classReason o1 }
      let v := puntFrame s1 f m
      (x.direct = none → o1.cls ≠ 0 →
        (classAction s1 x1.pipe o1 = 0 → exec (.parseDecision ⟨f, us⟩) s0 = .next (frameDrop s1 f)) ∧
        (classAction s1 x1.pipe o1 = 1 → exec (.parseDecision ⟨f, us⟩) s0 = .next (
          if s1.hlt.solo then keelLookup s1 f x1 o1.outer else deliver s1 f fun s => stateless s f o1.outer)) ∧
        (classAction s1 x1.pipe o1 = 2 → exec (.parseDecision ⟨f, us⟩) s0 = .next (deliver s1 f fun s => puntFrame s f m)) ∧
        (3 ≤ classAction s1 x1.pipe o1 → exec (.parseDecision ⟨f, us⟩) s0 = .next (
          if v.hlt.solo then keelLookup v f x1 o1.outer else deliver v f fun s => stateless s f o1.outer))) ∧
      (x.direct = none → o1.cls = 0 → o1.stateful = true → exec (.parseDecision ⟨f, us⟩) s0 = .next s1) ∧
      (x.direct = none → o1.cls = 0 → o1.stateful = false → exec (.parseDecision ⟨f, us⟩) s0 = .next (
        if s1.hlt.solo then keelLookup s1 f x1 o1 else deliver s1 f fun s => stateless s f o1))) ∧
    (∀ (s0 : State) (f : Nat) (us : List Upset) (x : Frame), let s := strike s0 us
      s.frame? f = some x → (x.held = false ∨ x.parsed.isSome = true ∨ heldBehind s x.pipe f = true ∨ behindPort s f x = true ∨
        s.domain (domPipe x.pipe) ≠ .on) → exec (.parseDecision ⟨f, us⟩) s0 = .next s) ∧
    (∀ (s : State) (f : Nat) (x : Frame), s.frame? f = some x → waitsForArray s f x = true → heldBehind s x.pipe f = false →
      let c := x.pipe
      let o := x.parsed.getD {}
      let g := (s.cluster c).template o.template
      (s.hlt.solo = true → exec (.engineQueueAccept f) s = .next (frameDrop (s.bump (Reg.PXA_HOLE_COUNT c 4)) f)) ∧
      (s.hlt.solo = false → gValid g = false → exec (.engineQueueAccept f) s =
        .next (frameDrop (s.bump (Reg.PXA_BAD_TEMPLATE_COUNT c)) f)) ∧
      (s.hlt.solo = false → gValid g = true → 4096 ≤ (s.cluster c).pkts.length → exec (.engineQueueAccept f) s =
        .next (s.bump (Reg.PXA_WINDOW_FULL_CYCLES c))) ∧
      (s.hlt.solo = false → gValid g = true → (s.cluster c).pkts.length < 4096 → chooseEngine s c o.hash = none →
        exec (.engineQueueAccept f) s = .next (s.bump (Reg.PRS_ENGINE_STALL_COUNT c))) ∧
      (∀ e k, s.hlt.solo = false → gValid g = true → (s.cluster c).pkts.length < 4096 → chooseEngine s c o.hash = some (e, k) →
        exec (.engineQueueAccept f) s = .next (placeTake (s.setPipe c { s.pipe c with nextEngine := k }) c f e x o g))) ∧
    (∀ (s : State) (c : Fin 8) (p : Pkt) (x : Frame), nextStart s c = some p → s.frame? p.frame = some x →
      let y := s.cluster c
      let took := fun (v : State) =>
        let ks := (List.range 8).filter fun k =>
          !((v.cluster c).pkts.any fun q => q.engine == p.engine && q.stage == .running && q.ctx == k)
        v.free.2.modPkt c p.arr fun q => { q with ctx := ks.getD (v.free.1 % ks.length) 0 }
      let w := took (s.setCluster c { y with startNext := (p.engine + 1) % 32 })
      (p.stage = .resume → exec (.packetStart c p.arr) s = .next (((took s).modPkt c p.arr fun p => { p with stage := .running }).peak
        (Reg.PXA_CTX_PEAK c) (clusterCtx y + 1))) ∧
      (p.stage ≠ .resume → exec (.packetStart c p.arr) s =
        .next (pktSettle (((w.modPkt c p.arr fun q => readyOps { q with
          stage := .running, image := (w.cluster c).template q.template, map := (w.cluster c).active
          domain := pktDomain w c ((w.cluster c).template q.template) x.port q.window q.parsed
          words := startWords x q.parsed q.template }).bump64 (Reg.PXA_START_COUNT_LO c) 1).peak
            (Reg.PXA_CTX_PEAK c) (clusterCtx (w.cluster c) + 1)) c p.arr))) ∧
    (∀ (s : State) (c : Fin 8) (p q : Pkt), nextStart s c = some p → p.arr ≠ q.arr → exec (.packetStart c q.arr) s = .next s) ∧
    ∀ (s : State) (f : Nat) (x : Frame), s.frame? f = some x → x.held = true → x.tail = false →
      (x.bytes.length ≤ 256 ∨ x.parsed.isSome = true) → x.cells.length = needCells x →
      (!x.held && x.group.isNone && !heldOnDie s f && (pendingCopies s f).isEmpty) = false →
      (x.inject = none → exec (.frameTail f) s = .next (settle (tailWork (tailWords (tailIn s f) f) f false) f)) ∧
      (∀ r i, x.inject = some (r, i) →
        exec (.frameTail f) s = .next (settle (tailWork ((tailWords (tailIn s f) f).finish r i St.ok) f false) f))

/-- The operation that the dispatcher issues next, the lowest that may issue of the oldest packet, issues by its type. A flow LOOKUP without
a key fails with NO_KEY, one whose home slice is off with TARGET_OFF, one whose slice's wait list is full stalls, and any other goes to
the slice's order point with its key, its policer pool, its vector and its length. A table LOOKUP fails with TARGET_OFF in a pipeline
that is not ON, stalls while the table is locked, and else issues with the key built at that moment. A CIPHER waits for the tail, fails
where its LOOKUP_OP found no record with a key or where no half is powered, stalls while its cluster's queue holds 512, and else enters
that queue and parks its packet. A REWRITE is recorded, a MICRO starts its routine. A table's result reaches its packet with the words
of R229 and R253. A parked packet whose response has arrived resumes. An abort taken before a packet's commit and end stops its
routines, is counted and takes the exception path, or on that path ends the packet as a hole; after a commit it is counted as late and
not applied. A done packet that no earlier packet of its domain keeps, the oldest of those that take a release slot, gives its place
back and leaves as its verdict directs; one that an earlier packet keeps stays. The model's choice, not the spec's words: what a lookup
reads of the frame (log entry 84); a CIPHER whose LOOKUP_OP found no record (log entry 92); targets that are not ON (log entry 93); what
an abort counts, stops and records (log entries 87, 88, 172, 178); when a packet is done (log entry 173); when a packet parks (log entry
177); how upsets arrive (log entry 166). exec of opIssue, packetAbort, packetResume, tableLookupResult, packetRelease answers a next
state in every state, with every operand. -/
def Obligations.PacketOperations : Prop :=
  (∀ (s : State) (cluster : Fin 8) (pkt : Nat) (op : Fin 16), (∃ t, exec (.opIssue cluster pkt op) s = .next t)) ∧
  (∀ (s : State) (cluster : Fin 8) (pkt : Nat), (∃ t, exec (.packetAbort cluster pkt) s = .next t) ∧
     (∃ t, exec (.packetResume cluster pkt) s = .next t) ∧ (∃ t, exec (.packetRelease cluster pkt) s = .next t)) ∧
  (∀ (s : State) (cluster : Fin 8) (pkt : Nat) (op : Struck (Fin 16)), (∃ t, exec (.tableLookupResult cluster pkt op) s = .next t)) ∧
  (∀ (s : State) (c : Fin 8) (k : Nat) (i : Fin 16) (p : Pkt), s.pkt? c k = some p → opNext s c = some (k, i.val) →
      let e := opEnt p.image i
      let phase := fun (ph : OpPhase) => s.modPkt c p.arr fun p => { p with ops := fset p.ops i.val { p.op i with phase := ph } }
      let stall := pktPark (phase .stalled) c p.arr
      let o := p.op (fld e 29 26)
      (opType e = 1 → fld e 27 26 = 0 →
        (buildKey s (fld e 33 28) p.window p.parsed = none →
          exec (.opIssue c k i) s = .next (opFail s c p.arr i 0 St.noKey)) ∧
        (∀ b, buildKey s (fld e 33 28) p.window p.parsed = some b →
          (sliceOn s b.home = false → exec (.opIssue c k i) s = .next (opFail s c p.arr i 3 St.targetOff)) ∧
          (sliceOn s b.home = true → 8192 ≤ (s.slice b.home).flights.length → exec (.opIssue c k i) s = .next stall) ∧
          (sliceOn s b.home = true → (s.slice b.home).flights.length < 8192 →
            let metas := (List.range 6).map fun j => (p.m (gMeta p.image j)).toNat
            let vec := keyVector p.window p.parsed b ((p.m 0).toNat % 256) p.template metas
            exec (.opIssue c k i) s = .next (flowPush (phase .issued) b.home
              { src := c.val, act := .lookup c p.arr i (bit e 34) b.pool b.srcLow vec p.len, key := some b.key })))) ∧
      (opType e = 1 → fld e 27 26 ≠ 0 →
        (s.domain (domPipe c) ≠ .on → exec (.opIssue c k i) s = .next (opFail s c p.arr i 3 St.targetOff)) ∧
        (s.domain (domPipe c) = .on → (lockOf s c (fld e 27 26 - 1)).isSome = true → exec (.opIssue c k i) s = .next stall) ∧
        (s.domain (domPipe c) = .on → lockOf s c (fld e 27 26 - 1) = none → exec (.opIssue c k i) s =
          .next (s.modPkt c p.arr fun p => { p with
            ops := fset p.ops i.val { p.op i with phase := .issued, key := tableKey s c p e } }))) ∧
      (opType e = 3 → ((s.frame? p.frame).map (·.tail)).getD false = false → exec (.opIssue c k i) s = .next s) ∧
      (opType e = 3 → ((s.frame? p.frame).map (·.tail)).getD false = true →
        ((o.found = false ∨ bit (o.word 2) 7 = false) → exec (.opIssue c k i) s =
          .next (opFail (s.bump (Reg.CIP_FAIL_COUNT 1)) c p.arr i 1 (St.cipher 1))) ∧
        (o.found = true → bit (o.word 2) 7 = true → cipherOn s = false →
          exec (.opIssue c k i) s = .next (opFail s c p.arr i 3 St.targetOff)) ∧
        (o.found = true → bit (o.word 2) 7 = true → cipherOn s = true → 512 ≤ cipDepth s c →
          exec (.opIssue c k i) s = .next stall) ∧
        (o.found = true → bit (o.word 2) 7 = true → cipherOn s = true → cipDepth s c < 512 →
          let q : CipReq := { cluster := c.val, pkt := p.arr, op := i.val, mode := fld e 31 30, no := s.cip.reqNo,
                              slot := fld (o.word 8) 21 0, gen := fld (o.word 8) 31 22 }
          let v := cipPush (phase .issued) c q
          exec (.opIssue c k i) s = .next (pktPark (v.peak Reg.CIP_QUEUE_PEAK (cipDepth v c)) c p.arr))) ∧
      (opType e = 4 →
        let q := p.op (fld e 38 35)
        let t := if bit e 34 then (if q.found then some (fld (q.word 10) 15 8) else none) else some (fld e 33 26)
        exec (.opIssue c k i) s = .next (opComplete (t.elim s fun n =>
          s.modPkt c p.arr fun p => { p with rewrites := p.rewrites ++ [(i.val, n)] }) c p.arr i St.ok [])) ∧
      (opType e = 7 → exec (.opIssue c k i) s = .next (s.modPkt c k fun p => { p with
        ops := fset p.ops i.val { p.op i with phase := .issued }
        routines := p.routines ++ [{ op := i.val, pc := fld e 40 26 }] }))) ∧
    (∀ (s : State) (c : Fin 8) (k : Nat) (i : Fin 16) (p : Pkt) (q : Nat × Nat), s.pkt? c k = some p → opNext s c = some q →
      q ≠ (k, i.val) → exec (.opIssue c k i) s = .next s) ∧
    (∀ (s0 : State) (c : Fin 8) (k : Nat) (i : Fin 16) (us : List Upset) (p : Pkt), let s := strike s0 us
      s.pkt? c k = some p → (p.op i).phase = .issued →
      let e := opEnt p.image i
      let prof := fld e 33 28
      let key := (p.op i).key
      (opType e = 1 → fld e 27 26 = 1 → exec (.tableLookupResult c k ⟨i, us⟩) s0 =
        .next (giveTable (exactResult s c p key).1 c k i (exactResult s c p key).2.1 (exactResult s c p key).2.2 none)) ∧
      (opType e = 1 → fld e 27 26 = 2 → exec (.tableLookupResult c k ⟨i, us⟩) s0 =
        .next (giveTable (lpmResult s c p prof).1 c k i (lpmResult s c p prof).2.1 (lpmResult s c p prof).2.2 none)) ∧
      (opType e = 1 → fld e 27 26 = 3 → exec (.tableLookupResult c k ⟨i, us⟩) s0 =
        .next (giveTable (tcamResult s c p prof key).1 c k i (tcamResult s c p prof key).2.1 (tcamResult s c p prof key).2.2.1
          (tcamResult s c p prof key).2.2.2))) ∧
    (∀ (s : State) (c : Fin 8) (k : Nat) (p : Pkt), s.pkt? c k = some p →
      (p.stage = .parked → canGoOn p = true → exec (.packetResume c k) s =
        .next (s.modPkt c k fun p => { p with stage := .resume })) ∧
      (p.stage = .parked → canGoOn p = false → exec (.packetResume c k) s = .next s) ∧
      (p.abort = false → exec (.packetAbort c k) s = .next s) ∧
      (p.abort = true →
        let s1 := s.modPkt c k fun p => { p with abort := false }
        let u := (orphansEnd s1 c p).free
        let s2 := (u.2.modPkt c k stopRoutines).bump (Reg.MCS_ABORT_COUNT c)
        (p.committed = true → exec (.packetAbort c k) s =
          .next (pktSettle (orphansFail (s1.bump (Reg.MCS_LATE_ABORT_COUNT c)) c p) c k)) ∧
        (p.committed = false → p.verdict.isSome = true → exec (.packetAbort c k) s = .next (pktRest (orphansEnd s1 c p) c k)) ∧
        (p.committed = false → p.verdict = none → p.exc = false → exec (.packetAbort c k) s =
          .next (pktFail s2 c k (u.1 % 16) 2 (u.1 / 16 % 256))) ∧
        (p.committed = false → p.verdict = none → p.exc = true → exec (.packetAbort c k) s = .next (pktEnd s2 c k (.hole 3))))) ∧
    ∀ (s : State) (c : Fin 8) (k : Nat) (p : Pkt) (v : Verdict), s.pkt? c k = some p → p.arr = k → p.verdict = some v → p.stage = .done →
      ((p.flush = true ∨ ∀ q ∈ (s.cluster c).pkts, q.arr < k → q.domain ≠ p.domain) →
        (takesSlot p = false ∨ ∀ q ∈ (s.cluster c).pkts, q.arr < k → takesSlot q = false ∨ mayLeave (s.cluster c) q = false) →
        exec (.packetRelease c k) s = .next (leave (placeFree s c k) c p v)) ∧
      (p.flush = false → (∃ q ∈ (s.cluster c).pkts, q.arr < k ∧ q.domain = p.domain) → exec (.packetRelease c k) s = .next s)

/-- The contexts of an engine take turns: a word issues only for the packet whose context the engine's rotating order serves, the first of
them with a routine that can try its word, and the order goes on behind it; out of turn the state stays. A context of a running packet
whose word is fetched with no fault, whose wait is met and whose operands can be read issues it: ADD and SUB write the sum and the
difference modulo 2^32 to DST and the routine goes on at the next address; a branch whose condition holds goes to TARGET; CALL with
fewer than four return addresses stacks the next address and RET takes it back; a write of M0 to M7, a load beyond the header window,
CALL with four addresses stacked and RET with none fault with the causes 11, 3, 8 and 8; a SYS word of the vendor region, whose effect
the spec leaves to the vendor, is refused as vendorDefined. A routine at its word limit faults with cause 9. The samples and the
routine's count of words move with each word that issues. The model's choice, not the spec's words: the word SYS (log entry 146); what a
fault ends and counts (log entries 186, 87); when a word waits (log entries 91, 177); the length that a wait gives (log entry 176);
which context is a packet's (log entry 221); how upsets arrive (log entry 166). -/
def Obligations.Microwords : Prop :=
  ∀ (s0 : State) (c : Fin 8) (k : Nat) (i : Fin 17) (us : List Upset) (p0 : Pkt) (r : Routine), let s := strike s0 us
      s.pkt? c k = some p0 → p0.routines.find? (fun r => r.op == i.val) = some r → p0.stage = .running →
      let y := s.cluster c
      let turn := ((List.range 8).map fun i => (fget y.ctxNext 0 p0.engine + i) % 8).findSome? fun k => y.pkts.find? fun q =>
        q.engine == p0.engine && q.ctx == k && q.stage == .running && q.routines.any fun r => !r.waits
      let t0 := s.setCluster c { y with ctxNext := fput y.ctxNext 0 p0.engine ((p0.ctx + 1) % 8) }
      (turn.map (·.arr) ≠ some k → exec (.microwordIssue c k ⟨i, us⟩) s0 = .next s) ∧
      (turn.map (·.arr) = some k → s.rf (Reg.MCS_STEP_LIMIT c) 14 0 ≤ r.issued →
        exec (.microwordIssue c k ⟨i, us⟩) s0 = .next (mcsFault t0 c p0 r.op r.pc 9)) ∧
      (∀ u0 w a b, turn.map (·.arr) = some k → mwFetch t0 c p0 r = (u0, .inl w) → waitMet u0 p0 w = true →
        let u := (waitLen u0 c p0 w).1
        let p := (waitLen u0 c p0 w).2
        mwOperands p r w = .inl (a, b) →
        let v0 := if r.loaded.any (mwReads w) then sampleCount u c 2 p r.op r.pc else u
        let v := sampleWord (sampleCount v0 c 0 p r.op r.pc) c p r.op r.pc false
        let n := { r with pc := mwNext r.pc }
        (mwOp w = 0x00 → exec (.microwordIssue c k ⟨i, us⟩) s0 = .next (mwStep v c p r w n)) ∧
        (mwOp w = 0x01 → exec (.microwordIssue c k ⟨i, us⟩) s0 = .next (mwStep v c p r w (n.setG (mwDst w) (a + b)))) ∧
        (mwOp w = 0x02 → exec (.microwordIssue c k ⟨i, us⟩) s0 = .next (mwStep v c p r w (n.setG (mwDst w) (a - b)))) ∧
        (mwOp w = 0x20 → mwTaken (mwCond w) a b = true →
          exec (.microwordIssue c k ⟨i, us⟩) s0 = .next (mwStep v c p r w { n with pc := mwTarget w })) ∧
        (mwOp w = 0x20 → mwTaken (mwCond w) a b = false → exec (.microwordIssue c k ⟨i, us⟩) s0 = .next (mwStep v c p r w n)) ∧
        (mwOp w = 0x21 → r.stack.length < 4 → exec (.microwordIssue c k ⟨i, us⟩) s0 =
          .next (mwStep v c p r w { n with stack := mwNext r.pc :: r.stack, pc := mwTarget w })) ∧
        (mwOp w = 0x21 → 4 ≤ r.stack.length → exec (.microwordIssue c k ⟨i, us⟩) s0 = .next (mcsFault u c p r.op r.pc 8)) ∧
        (mwOp w = 0x22 → r.stack = [] → exec (.microwordIssue c k ⟨i, us⟩) s0 = .next (mcsFault u c p r.op r.pc 8)) ∧
        (∀ t ts, mwOp w = 0x22 → r.stack = t :: ts → exec (.microwordIssue c k ⟨i, us⟩) s0 =
          .next (mwStep v c p r w { n with stack := ts, pc := t })) ∧
        (mwOp w = 0x0A → mwDst w < 8 → exec (.microwordIssue c k ⟨i, us⟩) s0 = .next (mcsFault u c p r.op r.pc 11)) ∧
        (mwOp w = 0x10 → p.window.length < (a.toNat + mwImm w) % 2 ^ 32 + 4 →
          exec (.microwordIssue c k ⟨i, us⟩) s0 = .next (mcsFault u c p r.op r.pc 3)) ∧
        (mwOp w = 0x3F → isCustomer r.pc = false → exec (.microwordIssue c k ⟨i, us⟩) s0 = .refused .vendorDefined))

/-- A frame that arrives at a port that is down leaves the state as it was; bytes of no frame count only their codewords and corrected
symbols. Where the port lacks 256 bytes of staging it is an overrun, counted and discarded at its first byte. A MAC control frame with a
wrong FCS counts there alone. A frame with a line error, an uncorrectable codeword or a loss of the link counts as a receive error, and
as a runt too if it is one; with only a PCS error and under 256 bytes it is discarded, else it is stored with the error RX_ERROR. Of the
others a shorter one than 64 bytes is a runt; a MAC control frame acts and is not stored; a longer one than SWC_MAX_FRAME is stored cut,
with the error OVERSIZE; one with a wrong FCS is counted and stored with that error; any other is stored without its FCS, with its PFC
priority and receive timestamp. What is refused admission is counted as an ingress drop. INJECT stores its bytes padded to 60 with
admission; refused, it completes NO_SPACE and is counted; with its pipeline off, BUSY; with a failed read or no bus mastering,
DMA_ERROR. The model's choice, not the spec's words: the cut of a long frame (log entry 97); a lost link and what staging holds (log
entry 98); the injects (log entries 50, 48, 34). exec of inject, frameReceive answers a next state in every state, with every operand. -/
def Obligations.FrameArrival : Prop :=
  (∀ (s : State) (r : Fin 1024) (n : Nat), (∃ t, exec (.inject r n) s = .next t)) ∧
  (∀ (s : State) (port : Fin 128) (bytes : List Byte) (line : LineErr), (∃ t, exec (.frameReceive port bytes line) s = .next t)) ∧
  (∀ (s : State) (p : Fin 128) (b : List Byte) (l : LineErr),
      let n := p.val
      let mx := s.rf Reg.SWC_MAX_FRAME 13 0
      let hit := (s.port n).fec = true ∧ l.codewords ≠ 0
      let clean := l.rxError = false ∧ l.linkLost = false ∧ ¬ hit
      let control := beAt b 12 2 = 0x8808
      let v := fecCount s n l
      let w := (v.bump (Reg.LIF_RX_ERR_COUNT (octOf n) (slotOf n))).tally (Reg.LIF_RUNT_COUNT (octOf n) (slotOf n))
        (decide (b.length < 64)).toNat
      let kept := if l.linkLost then b else b.take (b.length - 4)
      let stored := fun (u : State) (bs : List Byte) (e : Option Nat) => (frameNew u
        { port := n, pipe := n / 16, fabric := n / 8, bytes := bs, prio := framePrio u n bs, rxTime := some (rxStamp u n).1
          rxTick := (rxStamp u n).2, seenTime := u.time, tailErr := e }).1
      let enters := fun (u : State) (bs : List Byte) (e : Option Nat) =>
        if admitIngress u n then stored u bs e else u.bump (Reg.SWC_ING_DROP_COUNT n)
      (portUp s n = false → exec (.frameReceive p b l) s = .next s) ∧
      ((s.port n).fec = false → v = s) ∧
      (portUp s n = true → b = [] → l.rxError = false → l.linkLost = false → exec (.frameReceive p b l) s = .next v) ∧
      (portUp s n = true → (b ≠ [] ∨ l.rxError = true ∨ l.linkLost = true) →
        (overruns v n = true → exec (.frameReceive p b l) s = .next (v.bump (Reg.LIF_OVERRUN_COUNT (octOf n) (slotOf n)))) ∧
        (overruns v n = false → control → fcsOk b = false →
          exec (.frameReceive p b l) s = .next (v.bump (Reg.LIF_FCS_ERR_COUNT (octOf n) (slotOf n)))) ∧
        (overruns v n = false → ¬ (control ∧ fcsOk b = false) → ¬ clean →
          (l.linkLost = false → ¬ hit → kept.length < 256 → exec (.frameReceive p b l) s = .next w) ∧
          ((l.linkLost = true ∨ hit ∨ 256 ≤ kept.length) →
            exec (.frameReceive p b l) s = .next (enters w (kept.take (mx - 4)) (some 1)))) ∧
        (overruns v n = false → clean →
          (b.length < 64 → ¬ (control ∧ fcsOk b = false) → exec (.frameReceive p b l) s =
            .next (v.bump (Reg.LIF_RUNT_COUNT (octOf n) (slotOf n)))) ∧
          (64 ≤ b.length → control → fcsOk b = true → exec (.frameReceive p b l) s = .next (macControl v n b)) ∧
          (64 ≤ b.length → mx < b.length → ¬ control →
            exec (.frameReceive p b l) s = .next (enters v (b.take (mx - 4)) (some 4))) ∧
          (64 ≤ b.length → b.length ≤ mx → ¬ control → fcsOk b = true →
            exec (.frameReceive p b l) s = .next (enters v (b.take (b.length - 4)) none)) ∧
          (64 ≤ b.length → b.length ≤ mx → ¬ control → fcsOk b = false →
            exec (.frameReceive p b l) s = .next (enters (v.bump (Reg.LIF_FCS_ERR_COUNT (octOf n) (slotOf n)))
              (b.take (b.length - 4)) (some 0)))))) ∧
    ∀ (s : State) (r : Fin 1024) (n : Nat) (c : CmdEnt), Handed s r n 0xC0 c →
      let k := 128 + s.rf (Reg.HIF_RING_CFG r) 23 22
      let d := domPipe (fld c.desc 144 142)
      (s.domain d ≠ .on → exec (.inject r n) s = .next (s.finish r n St.busy)) ∧
      (s.domain d = .on → admitIngress s k = false →
        exec (.inject r n) s = .next ((s.bump (Reg.SWC_ING_DROP_COUNT k)).finish r n St.noSpace)) ∧
      (s.domain d = .on → admitIngress s k = true → (c.dmaFail = true ∨ c.mute = true) →
        exec (.inject r n) s = .next (s.finish r n St.dmaError)) ∧
      (s.domain d = .on → admitIngress s k = true → c.dmaFail = false → c.mute = false → exec (.inject r n) s =
        .next (frameNew (s.modCmd r n fun c => { c with phase := .running }) (injectFrame s c r)).1)

/-- BUF_ENABLE with ENABLE 1 writes SWC_BUF_CTRL where the set-up check passes, the cells withheld before then withholding the buffers they
lie in, and is a bad value where it fails; ENABLE 0 is a bad value once the buffer is in service. The manager serves requests in its
cycle of up to eight, in a rotating order over the requesters, and out of turn the state stays. Pool 0 with a free cell serves the
request of an ingress fabric port whose oldest frame still takes cells with the first one in its search order, tags it with its owner
and moves its pointer past it; the requester's grant holds the handle, and the cell becomes the next of that frame, linked into its
chain; with nothing free in an episode already reported the grant is empty. Other requests take nothing here. A free of another owner
than the requester's does nothing; a bad one frees nothing and is reported; an accepted one gives the buffer back, or withholds it where
one of its cells is condemned, which the first such cell of a block reports, and ends its charge. BLOCK_RELEASE returns the block's
quarantined cells, clears its failure count and completes OK. The model's choice, not the spec's words: the cycle of the manager and
what the commands stand for (log entry 184); the count of a fall-back and the return of lent buffers (log entry 100); the cells withheld
before the buffer is in service (log entry 136); when a ring hands a command over (log entry 34). exec of blockRelease, bufEnable,
bufferAllocate, bufferFree answers a next state in every state, with every operand. -/
def Obligations.BufferPools : Prop :=
  (∀ (s : State) (r : Fin 1024) (n : Nat), (∃ t, exec (.blockRelease r n) s = .next t)) ∧
  (∀ (s : State) (value : W32), (∃ t, exec (.bufEnable value) s = .next t)) ∧
  (∀ (s : State) (requester : Fin 32) (pool : Fin 16), (∃ t, exec (.bufferAllocate requester pool) s = .next t)) ∧
  (∀ (s : State) (requester : Fin 32) (handle : BitVec 24) (owner : Fin 8),
     (∃ t, exec (.bufferFree requester handle owner) s = .next t)) ∧
  (∀ (s : State) (v : W32), barOpen s = true → s.pkg.sealed = false →
      (bit v 0 = true → bufCheck s = true →
        exec (.bufEnable v) s = .next ((if bufEnabled s then s else layTags s).setReg Reg.SWC_BUF_CTRL (v &&& 0xF))) ∧
      (s.bpm.cellTag = [] → layTags s = s) ∧
      (bit v 0 = true → bufCheck s = false → exec (.bufEnable v) s = .next (badWrite s)) ∧
      (bit v 0 = false → bufEnabled s = true → exec (.bufEnable v) s = .next (badWrite s)) ∧
      (bit v 0 = false → bufEnabled s = false → exec (.bufEnable v) s = .next (s.setReg Reg.SWC_BUF_CTRL (v &&& 0xF)))) ∧
    (∀ (s : State) (r : Fin 32) (p : Fin 16),
      (16 ≤ r.val ∨ p.val ≠ 0 ∨ fillingFrame s r = none → exec (.bufferAllocate r p) s = .next s) ∧
      (∀ f x, r.val < 16 → p.val = 0 → fillingFrame s r = some (f, x) →
        let s0 := if (allocTurn s).isSome then s else { s with bpm := { s.bpm with rotate := (s.bpm.rotate + 1) % 32, served := [] } }
        let s1 := { s0 with bpm := { s0.bpm with served := r.val :: s0.bpm.served } }
        (allocTurn s0 ≠ some r.val → exec (.bufferAllocate r p) s = .next s) ∧
        (∀ c, allocTurn s0 = some r.val → poolFind s1 0 = some c →
          let w := (poolTake { s1 with bpm := { s1.bpm with episode := s1.bpm.episode.filter (· != 0) } } 0 c .swc).1
          let g := { w with bpm := { w.bpm with grant := fset w.bpm.grant r.val (some c) } }
          exec (.bufferAllocate r p) s = .next (relink (g.modFrame f fun x => { x with
            cells := x.cells ++ [c], reserved := x.reserved - 1 }) f)) ∧
        (allocTurn s0 = some r.val → poolFind s1 0 = none → fallback s1 0 = none → (0 : Nat) ∈ s1.bpm.episode →
          exec (.bufferAllocate r p) s = .next { s1 with bpm := { s1.bpm with grant := fset s1.bpm.grant r.val none } }))) ∧
    (∀ (s : State) (r : Fin 32) (h : BitVec 24) (o : Fin 8),
      let n := h.toNat
      (18 < r.val ∨ (reqOwner r).code ≠ o.val → exec (.bufferFree r h o) s = .next s) ∧
      (r.val ≤ 18 → (reqOwner r).code = o.val →
        (∀ k, badFree s n o = some k → exec (.bufferFree r h o) s = .next (poolFree s r n o)) ∧
        (badFree s n o = none → r.val = 17 → exec (.bufferFree r h o) s =
          .next (unchargeIn (bufferBack s n) 128 (poolCells s (n / 2 ^ 20)))) ∧
        (badFree s n o = none → r.val ≠ 17 → (2 ^ 20 ≤ n ∨ cellHolder s n = none) → exec (.bufferFree r h o) s =
          .next (bufferBack s n)) ∧
        (∀ f x, badFree s n o = none → r.val ≠ 17 → n < 2 ^ 20 → cellHolder s n = some (f, x) → exec (.bufferFree r h o) s =
          .next (pfcCheck (unchargeIn ((bufferBack s n).setFrame f { x with cells := x.cells.filter (· != n) }) x.port 1)
            x.port x.prio))) ∧
      ((∀ k ∈ handleList s n, k ∉ s.swc.condemned) →
        (n < 2 ^ 20 → bufferBack s n = cellFree s n) ∧
        (2 ^ 20 ≤ n → bufferBack s n = s.setBufTag (n % 2 ^ 20) .free)) ∧
      ((∃ k ∈ handleList s n, k ∈ s.swc.condemned) → 2 ^ 20 ≤ n →
        let u := { s with swc := { s.swc with condemned := s.swc.condemned.filter fun k => !(handleList s n).contains k } }
        bufferBack s n = if blockHeld s (n % 2 ^ 20 / 4096) then u.setBufTag (n % 2 ^ 20) .quarantine
          else swcEvent (u.setBufTag (n % 2 ^ 20) .quarantine) 0x69 [(97, 91, n % 2 ^ 20 / 4096)])) ∧
    ∀ (s : State) (r : Fin 1024) (n : Nat) (c : CmdEnt), Handed s r n 0x74 c →
      let u := blockUnquarantine s (fld c.desc 198 192)
      exec (.blockRelease r n) s = .next ({ u with swc := { u.swc with
        blockFail := ferase u.swc.blockFail (fld c.desc 198 192) } }.finish r n St.ok)

/-- One cell time matches in three iterations, the first of which moves the pointers, and a cell of each matched pair crosses: the first of
a copy offers it, the last ends the match, and one whose check fails takes its copies with it. An offered copy whose frame's tail is in,
and that no earlier one of its ingress port and queue precedes, is refused and counted where its queue does not take its port, its
recirculation port's pipeline is not ON, or the operative gate list bounds its size; a unicast copy whose queue is in spill state, or at
its threshold with spilling allowed, goes to the spilled part, or is dropped and counted where the spill region does not take it; any
other joins the on-die part where the limits of port and queue hold it, and else is refused and counted. A copy that waits to be written
to the spill region is written, its cells verified; the oldest spilled frame comes back while its queue holds few cells on die, or none
before it. The copy on a port's wire ends and the copy that the scheduler selects begins on the wire; a host port transmits by its
rings. PORT_FLUSH takes the copies enqueued before it was accepted out of the queues of its port and classes, and completes OK with
their number and cells. The model's choice, not the spec's words: the segments of a copy and when one comes back (log entries 181, 182);
the checks of cells (log entries 179, 180); recirculation ports (log entry 96); PORT_FLUSH (log entries 99, 183); the order within a
priority (log entry 102); when a copy on a wire ends (log entry 105); when a ring hands a command over (log entry 34). exec of
portFlush, crossbarMatch, enqueue, spillWrite, spillRefill, transmitStart answers a next state in every state, with every operand. -/
def Obligations.CopiesAndQueues : Prop :=
  (∀ (s : State) (r : Fin 1024) (n : Nat), (∃ t, exec (.portFlush r n) s = .next t)) ∧
  (∀ (s : State), (∃ t, exec .crossbarMatch s = .next t)) ∧
  (∀ (s : State) (frame : Nat) (port : Fin 140), (∃ t, exec (.enqueue frame port) s = .next t)) ∧
  (∀ (s : State) (queue : Nat), (∃ t, exec (.spillWrite queue) s = .next t) ∧ (∃ t, exec (.spillRefill queue) s = .next t)) ∧
  (∀ (s : State) (port : Fin 140), (∃ t, exec (.transmitStart port) s = .next t)) ∧
  (∀ (s : State), let u := matchIter (matchIter (matchIter s true) false) false
      exec .crossbarMatch s = .next (u.swc.matched.foldl (fun s m => crossCell s m.1 m.2) u)) ∧
    (∀ (s : State) (i e : Nat),
      (fget s.swc.voqs [] (16 * i + e) = [] →
        crossCell s i e = { s with swc := { s.swc with matched := ferase s.swc.matched i } }) ∧
      (∀ x rest fr, fget s.swc.voqs [] (16 * i + e) = x :: rest → s.frame? x.copy.frame = some fr →
        (fr.cells[x.crossed]? = none → crossCell s i e = s) ∧
        (∀ c, fr.cells[x.crossed]? = some c → c ∉ s.swc.badCells →
          let u := if x.crossed = 0 then { s with swc := { s.swc with offered := s.swc.offered ++ [x.copy] } } else s
          (x.crossed + 1 < needCells fr → crossCell s i e = { u with swc := { u.swc with
            voqs := fset u.swc.voqs (16 * i + e) ({ x with crossed := x.crossed + 1 } :: rest) } }) ∧
          (needCells fr ≤ x.crossed + 1 → crossCell s i e = settle { u with swc := { u.swc with
            voqs := fput u.swc.voqs [] (16 * i + e) rest, matched := ferase u.swc.matched i } } x.copy.frame)) ∧
        (∀ c, fr.cells[x.crossed]? = some c → c ∈ s.swc.badCells →
          let v := cellFail s x.copy.frame c
          crossCell s i e = if fget v.swc.voqs [] (16 * i + e) = x :: rest then crossOn v i e fr x rest
            else settle v x.copy.frame))) ∧
    (∀ (s : State) (f : Nat) (p : Fin 140) (c : Copy) (x : Frame),
      s.swc.offered.find? (fun c => c.frame == f && c.port == p.val) = some c → s.frame? f = some x → x.tail = true →
      behindOffer s x c = false →
      let q := s.queue c.queue
      let k := needCells x
      let mx := fld (s.node 3 c.queue) 147 128
      let on := p.val < 132 ∨ s.domain (domPipe (p.val - 132)) = .on
      let sdu := gateSdu s p (queueClass s c.queue)
      let fits := sdu = 0 ∨ x.bytes.length + 4 ≤ sdu
      let spills := c.mcast = false ∧ (q.spill = true ∨
        (s.rf (Reg.SWC_SPILL_LIMIT p) 23 0 ≠ 0 ∧ s.rf Reg.SWC_SPILL_THRESH 15 0 ≤ queueCells q))
      (queueTakes s c.queue p = false → exec (.enqueue f p) s = .next (refuseCopy (s.bump Reg.TMG_BAD_QUEUE_COUNT) c)) ∧
      (queueTakes s c.queue p = true → ¬ on → exec (.enqueue f p) s = .next (refuseCopy (s.bump (Reg.SWC_EG_DROP_COUNT p)) c)) ∧
      (queueTakes s c.queue p = true → on → ¬ fits → exec (.enqueue f p) s = .next (refuseCopy (s.bump Reg.TMG_GATE_OVERSIZE_COUNT) c)) ∧
      (queueTakes s c.queue p = true → on → fits → spills →
        let u := { s with freeCtr := s.freeCtr + 1 }
        (∀ k, spillRefuses s x p = some k → exec (.enqueue f p) s = .next (refuseCopy (u.bump (Reg.SWC_SPILL_DROP_COUNT k)) c)) ∧
        (spillRefuses s x p = none → exec (.enqueue f p) s = .next (spillPush (unoffer u c) x c))) ∧
      (queueTakes s c.queue p = true → on → fits → ¬ spills →
        s.egCells p + k ≤ s.rf (Reg.SWC_EG_LIMIT p) 19 0 → (mx = 0 ∨ q.spill = true ∨ queueCells q + k ≤ mx) →
        exec (.enqueue f p) s = .next (queuePush (unoffer s c) c k)) ∧
      (queueTakes s c.queue p = true → on → fits → ¬ spills →
        (s.rf (Reg.SWC_EG_LIMIT p) 19 0 < s.egCells p + k ∨ (mx ≠ 0 ∧ q.spill = false ∧ mx < queueCells q + k)) →
        exec (.enqueue f p) s = .next (refuseCopy (s.bump (if c.mcast then Reg.SWC_MC_DROP_COUNT p else Reg.SWC_EG_DROP_COUNT p)) c))) ∧
    (∀ (s : State) (q : Nat) (c : Copy), (s.queue q).spilled.find? (·.cells != 0) = some c → badCell s c.frame = none →
      (∀ x, s.frame? c.frame = some x → exec (.spillWrite q) s = .next (settle (modSpilled (spillPosts (spillCells s x c) c 4 true) q
        (sameCopy c) fun k => { k with cells := 0 }) c.frame))) ∧
    (∀ (s : State) (q : Nat) (c : Copy) (rest : List Copy) (x : Frame), (s.queue q).spilled = c :: rest →
      s.frame? c.frame = some x → (s.queue q).spill = true → c.cells = 0 →
      (queueCells (s.queue q) < s.rf Reg.SWC_SPILL_THRESH 31 16 ∨ queueHead (s.queue q) = none) → 64 + needCells x ≤ sharedFree s →
      c.frame ∉ s.swc.badSpill → x.cells ≠ [] →
      let u := spillPosts s c 5 false
      let v := unchargeSegs (u.setQueue q { u.queue q with spilled := rest, spill := !rest.isEmpty }) c.port c.segs
      exec (.spillRefill q) s = .next (dieInsert v { c with cells := needCells x, segs := 0, segAt := [] })) ∧
    (∀ (s : State) (p : Fin 140), 128 ≤ p.val → p.val < 132 → exec (.transmitStart p) s = .next s) ∧
    (∀ (s : State) (p : Fin 140) (u : State) (c : Copy), (p.val < 128 ∨ 132 ≤ p.val) → ffind? s.swc.wire p.val = none →
      portUp s p = true → selectCopy (dropOversize (gatesRefresh s p) p) p (fun _ => true) = (u, some c) →
      exec (.transmitStart p) s = .next (wireStart u p c)) ∧
    (∀ (s : State) (p : Fin 140) (w : OnWire), (p.val < 128 ∨ 132 ≤ p.val) → ffind? s.swc.wire p.val = some w →
      wireReady s p = true → portUp (wireFinish (s.reach w.endNs) p) p = false →
      exec (.transmitStart p) s = .next (wireFinish (s.reach w.endNs) p)) ∧
    ∀ (s : State) (r : Fin 1024) (n : Nat) (c : CmdEnt), Handed s r n 0x73 c →
      let qs := (s.swc.queues.map (·.1)).filter fun q => queuePort s q == fld c.desc 79 72 && (fld c.desc 87 80).testBit (queueClass s q)
      let u := qs.foldl (fun (a : State × List Copy) q =>
        ((flushQueue a.1 q c.no).1, a.2 ++ (flushQueue a.1 q c.no).2)) (s, [])
      exec (.portFlush r n) s = .next ((u.2.foldl (fun s k => settle s k.frame) u.1).finish r n St.ok 0
        (u.2.length % 2 ^ 32 + 2 ^ 32 * ((u.2.map (copyCells s)).sum % 2 ^ 32)))

/-- MCAST_GROUP_WRITE with a reserved bit set completes with BAD_FIELD; else it writes COUNT groups from FIRST and completes OK, and
MCAST_GROUP_READ writes them to the buffer. REWRITE_TEMPLATE_WRITE writes the image in every named pipeline. TM_NODE_WRITE checks every
entry before any is applied: a bad one completes BAD_FIELD; one good entry is applied, its failure named in the result. TM_NODE_READ
writes COUNT node images from FIRST, or completes BAD_FIELD at byte 28 past the level's last node. POLICER_PROFILE_WRITE writes the
profiles in all 16 slices; profile 0, a range beyond 4,095 or a reserved bit completes with BAD_FIELD. The model's choice, not the
spec's words: when a ring hands a command over, and the byte of DETAIL (log entries 34, 36, 38); when the slices see a profile (log
entry 78). exec of mcastGroupWrite, mcastGroupRead, rewriteTemplateWrite, tmNodeWrite, tmNodeRead, policerProfileWrite answers a next
state in every state, with every operand. -/
def Obligations.SwitchAndNodeTables : Prop :=
  (∀ (s : State) (r : Fin 1024) (n : Nat), (∃ t, exec (.mcastGroupWrite r n) s = .next t) ∧
     (∃ t, exec (.mcastGroupRead r n) s = .next t) ∧ (∃ t, exec (.rewriteTemplateWrite r n) s = .next t) ∧
     (∃ t, exec (.tmNodeWrite r n) s = .next t) ∧ (∃ t, exec (.tmNodeRead r n) s = .next t) ∧
     (∃ t, exec (.policerProfileWrite r n) s = .next t)) ∧
  ∀ (s : State) (r : Fin 1024) (n : Nat) (c : CmdEnt),
      let first := fld c.desc 207 192
      let count := fld c.desc 223 208
      let groups := entriesOf 256 count c.buf
      let nodes := entriesOf 256 (fld c.desc 207 192) c.buf
      let from' := fld c.desc 255 224
      let m := fld c.desc 207 192
      let profs := entriesOf 128 m c.buf
      let level := fld c.desc 74 73
      (∀ e ∈ groups, Handed s r n 0x70 c → zeroFields e [(143, 140), (255, 154)] = false →
        exec (.mcastGroupWrite r n) s = .next (s.badField r n)) ∧
      (Handed s r n 0x70 c → (∀ e ∈ groups, zeroFields e [(143, 140), (255, 154)] = true) → exec (.mcastGroupWrite r n) s =
        .next ((((groups.zipIdx first).foldl (fun u e => { u with swc := { u.swc with
          groups := fput u.swc.groups 0 e.2 e.1 } }) s)).finish r n St.ok)) ∧
      (Handed s r n 0x71 c → exec (.mcastGroupRead r n) s =
        .next ((s.output c ((List.range count).flatMap fun i => bytesOf (s.mgroup (first + i)))).finish r n St.ok)) ∧
      (Handed s r n 0x72 c → exec (.rewriteTemplateWrite r n) s = .next ((forAll s (maskList 8 (fld c.desc 71 64)) fun u p =>
        { u with swc := { u.swc with rewrites := fput u.swc.rewrites 0 (256 * p + first) (ofBytes 1024 c.buf) } }).finish
          r n St.ok)) ∧
      (∀ e ∈ nodes, Handed s r n 0x78 c → nodeOk s e = false → exec (.tmNodeWrite r n) s = .next (s.badField r n)) ∧
      (∀ e, Handed s r n 0x78 c → nodes = [e] → nodeOk s e = true →
        ((nodeApply s e).2 = 0 → exec (.tmNodeWrite r n) s = .next ((nodeApply s e).1.finish r n St.ok)) ∧
        ((nodeApply s e).2 ≠ 0 → exec (.tmNodeWrite r n) s =
          .next ((nodeApply s e).1.finish r n St.ok 0 (2 ^ 16 * (nodeApply s e).2)))) ∧
      (Handed s r n 0x79 c → nodeCount level < from' + m → exec (.tmNodeRead r n) s = .next (s.badField r n 28)) ∧
      (Handed s r n 0x79 c → from' + m ≤ nodeCount level → exec (.tmNodeRead r n) s =
        .next ((s.output c ((List.range m).flatMap fun i => bytesOf (nodeImage s level (from' + i)))).finish r n St.ok)) ∧
      (Handed s r n 0x7A c → (from' = 0 ∨ 4096 < from' + m) → exec (.policerProfileWrite r n) s = .next (s.badField r n 28)) ∧
      (∀ e ∈ profs, Handed s r n 0x7A c → from' ≠ 0 → from' + m ≤ 4096 → fld e 127 64 ≠ 0 →
        exec (.policerProfileWrite r n) s = .next (s.badField r n)) ∧
      (Handed s r n 0x7A c → from' ≠ 0 → from' + m ≤ 4096 → (∀ e ∈ profs, fld e 127 64 = 0) →
        exec (.policerProfileWrite r n) s = .next ((forAll s (List.range 16) fun u i => u.setSlice i { u.slice i with
          profiles := (profs.zipIdx from').foldl (fun m (e : BitVec 128 × Nat) => fput m 0 e.2 e.1) (u.slice i).profiles }).finish
            r n St.ok))

/-- GATE_LIST_WRITE with a bad list completes with BAD_FIELD; with a good one, and no list of the port waiting to be armed, the list waits
to be armed and replaces any armed one, and the command runs on. GATE_LIST_ARM arms it, from BASE_TIME on or, where that has passed,
from a later cycle with LATE_BASE, and completes that command OK. GATE_LIST_CHANGE makes the armed list operative at its change time, in
the other bank. GATE_ENTRY_CHANGE begins the next entry of the operative list as its entry ends. GATE_LIST_READ writes the operative or
the armed list to the buffer, or completes NOT_FOUND where there is none. The model's choice, not the spec's words: lists that wait,
ports that go and lists that are not there (log entry 104); when a ring hands a command over (log entry 34). exec of gateListWrite,
gateListArm, gateListRead, gateEntryChange, gateListChange answers a next state in every state, with every operand. -/
def Obligations.GateLists : Prop :=
  (∀ (s : State) (r : Fin 1024) (n : Nat), (∃ t, exec (.gateListWrite r n) s = .next t) ∧ (∃ t, exec (.gateListRead r n) s = .next t)) ∧
  (∀ (s : State) (port : Fin 128), (∃ t, exec (.gateListArm port) s = .next t) ∧ (∃ t, exec (.gateEntryChange port) s = .next t) ∧
     (∃ t, exec (.gateListChange port) s = .next t)) ∧
  (∀ (s : State) (r : Fin 1024) (n : Nat) (c : CmdEnt),
      let p := fld c.desc 71 64
      let ok := gateListOk (gateHeader c.buf) (gateEntries c.buf)
      let shown := if bit c.desc 72 then (s.gatesOf p).armed else (s.gatesOf p).oper
      (Handed s r n 0x7B c → ok = false → exec (.gateListWrite r n) s = .next (s.badField r n)) ∧
      (Handed s r n 0x7B c → ok = true → (s.gatesOf p).written = none → exec (.gateListWrite r n) s =
        .next ((s.setGates p { s.gatesOf p with armed := none, written := some ⟨gateHeader c.buf, gateEntries c.buf, 0⟩,
                                                command := some (r.val, n) }).modCmd r n fun c => { c with phase := .running })) ∧
      (Handed s r n 0x7B c → ok = true → (s.gatesOf p).written ≠ none → exec (.gateListWrite r n) s = .next s) ∧
      (∀ g, Handed s r n 0x7C c → shown = some g → exec (.gateListRead r n) s =
        .next ((s.output c (bytesOf g.header ++ g.entries.flatMap bytesOf)).finish r n St.ok)) ∧
      (Handed s r n 0x7C c → shown = none → exec (.gateListRead r n) s = .next (s.finish r n St.notFound))) ∧
    (∀ (s : State) (p : Fin 128) (g : GateList) (r i : Nat), (s.gatesOf p).written = some g → (s.gatesOf p).command = some (r, i) →
      let u := s.setGates p { s.gatesOf p with written := none, command := none }
      exec (.gateListArm p) s = .next ((gateArm u p g).finish r i St.ok) ∧
      (u.tmu.time.nanos < g.base → gateArm u p g = u.setGates p { u.gatesOf p with
        armed := some { g with change := g.base } })) ∧
    (∀ (s : State) (p : Fin 128) (a : GateList), (s.gatesOf p).armed = some a → a.change ≤ (s.reachDev a.change).tmu.time.nanos →
      let u := s.reachDev a.change
      exec (.gateListChange p) s = .next (gatesRefresh (u.setGates p { u.gatesOf p with
        oper := some a, armed := none, operBank := !(u.gatesOf p).operBank }) p)) ∧
    ∀ (s : State) (p : Fin 128) (g : GateList), (s.gatesOf p).oper = some g →
      let now := gateAt g (s.gatesOf p).armed s.tmu.time.nanos
      (now.entry = (s.gatesOf p).entry → now.gates = (s.gatesOf p).gates → exec (.gateEntryChange p) s =
        .next (gatesRefresh (s.reachDev now.ends.toNat) p)) ∧
      (¬(now.entry = (s.gatesOf p).entry ∧ now.gates = (s.gatesOf p).gates) → exec (.gateEntryChange p) s =
        .next (s.setGates p { s.gatesOf p with entry := now.entry, gates := now.gates }))

/-- A PFC frame at a port that is up is counted, and pauses each enabled class that the port obeys for its timer, or ends its pause where
the timer is 0; at a port that is down nothing arrives. A pause ends when its timer has run out. A class is paused while its pause's end
lies ahead. While a priority's count stays above XON_CELLS, XOFF is sent again after half of its quanta. A class whose queue has held a
copy and been paused without a break for WATCHDOG_US, the pause lasting that long, is in storm: the bit is set, reported, and with
IGNORE its pause ends. STORM_CLEAR with 1 in a bit clears it. A sampling pass samples the queue of every valid entry in index order; the
first begins at once, a later one PERIOD_US after the last one, or, where a pass with an entry to read has overrun, which a free value
says, later by a free value and counted; with sampling off it does nothing. The model's choice, not the spec's words: events that let
time go on to their moment (log entries 4, 200); how PFC frames are laid out (log entry 103); when a sampling pass starts (log entry
185). exec of stormClear, pfcXoffRepeat, pfcReceive, pfcPauseExpire, pfcStorm, queueSamplePass answers a next state in every state, with
every operand. -/
def Obligations.FlowControlAndSampling : Prop :=
  (∀ (s : State) (port : Fin 128) (value : W32), (∃ t, exec (.stormClear port value) s = .next t)) ∧
  (∀ (s : State) (port : Fin 128) (prio : Fin 8), (∃ t, exec (.pfcXoffRepeat port prio) s = .next t) ∧
     (∃ t, exec (.pfcPauseExpire port prio) s = .next t) ∧ (∃ t, exec (.pfcStorm port prio) s = .next t)) ∧
  (∀ (s : State) (port : Fin 128) (enable : BitVec 16) (timers : List W16), (∃ t, exec (.pfcReceive port enable timers) s = .next t)) ∧
  (∀ (s : State), (∃ t, exec .queueSamplePass s = .next t)) ∧
  (∀ (s : State) (p : Fin 128) (e : BitVec 16) (ts : List W16),
      (portUp s p = false → exec (.pfcReceive p e ts) s = .next s) ∧
      (portUp s p = true → exec (.pfcReceive p e ts) s = .next ((List.range 8).foldl (fun u c =>
        if e.toNat.testBit c && pfcObeyed u p c then pfcPause u p c ((ts.map (·.toNat)).getD c 0) else u)
        (s.bump (Reg.TMG_PFC_RX_COUNT p))))) ∧
    (∀ (s : State) (n c t : Nat),
      pfcPause s n c 0 = s.setPfc n { s.pfcOf n with ends := ferase (s.pfcOf n).ends c, since := ferase (s.pfcOf n).since c } ∧
      (classPaused s n c = true ↔ ∃ e, ffind? (s.pfcOf n).ends c = some e ∧ s.ns < e) ∧
      (t ≠ 0 → classPaused s n c = false → pfcPause s n c t = s.setPfc n { s.pfcOf n with
        ends := fset (s.pfcOf n).ends c (s.ns + 512 * t / max 1 (portRate s n)), since := fset (s.pfcOf n).since c s.ns })) ∧
    (∀ (s : State) (p : Fin 128) (c : Fin 8) (t : Nat), ffind? (s.pfcOf p).ends c.val = some t →
      exec (.pfcPauseExpire p c) s = .next ((s.reach t).setPfc p { s.pfcOf p with
        ends := ferase (s.pfcOf p).ends c.val, since := ferase (s.pfcOf p).since c.val })) ∧
    (∀ (s : State) (p : Fin 128) (c : Fin 8) (t : Nat), ffind? (s.pfcOf p).sentAt c.val = some t → c.val ∈ (s.pfcOf p).xoff →
      let q := s.rf (Reg.TMG_PFC_TIMER p) 15 0
      let u := s.reach (t + 512 * q / max 1 (portRate s p) / 2)
      (pfcXon s p < pfcCount s p c → exec (.pfcXoffRepeat p c) s =
        .next (pfcSend (u.setPfc p { s.pfcOf p with sentAt := fset (s.pfcOf p).sentAt c.val u.ns }) p c q)) ∧
      (pfcCount s p c ≤ pfcXon s p → exec (.pfcXoffRepeat p c) s = .next s)) ∧
    (∀ (s : State) (p : Fin 128) (c : Fin 8) (d : Nat), stormSince s p c = some d →
      s.rf (Reg.TMG_PFC_TIMER p) 31 16 ≠ 0 → c.val ∉ (s.pfcOf p).storm →
      (ffind? (s.pfcOf p).ends c.val).any (fun t => s.ns + (1000 * s.rf (Reg.TMG_PFC_TIMER p) 31 16 - d) ≤ t) = true →
      let u := s.advance (1000 * s.rf (Reg.TMG_PFC_TIMER p) 31 16 - d)
      let x := { u.pfcOf p with storm := c.val :: (u.pfcOf p).storm }
      let y := if u.rf (Reg.TMG_PFC_CFG p) 19 19 = 1 then { x with ends := ferase x.ends c.val, since := ferase x.since c.val } else x
      exec (.pfcStorm p c) s = .next (intRaise (raiseOn (u.setPfc p y) (u.rf Reg.TMG_EVENT_CTRL 9 0) Reg.TMG_EVENT_DROP_COUNT 0x7F
        [(71, 64, p.val), (74, 72, c.val)]) 10 1)) ∧
    (∀ (s : State) (p : Fin 128) (v : W32), exec (.stormClear p v) s = .next (if barOpen s then s.setPfc p { s.pfcOf p with
      storm := (s.pfcOf p).storm.filter fun c => !bit v (16 + c) } else s)) ∧
    ∀ (s : State),
      (bit (s.reg Reg.TMG_SAMPLE_CTRL) 0 = false → exec .queueSamplePass s = .next s) ∧
      (bit (s.reg Reg.TMG_SAMPLE_CTRL) 0 = true → exec .queueSamplePass s =
        .next (((List.range 4096).filter fun i => bit (s.reg (Reg.TMG_SAMPLE_LIST i)) 31).foldl
          (fun u i => sampleQueue u (u.rf (Reg.TMG_SAMPLE_LIST i) 18 0)) (passBegin s))) ∧
      let late := s.tmg.sampleRan = true ∧ s.free.1 % 2 = 1
      let u := s.tmg.sampleLast.elim s.free.2 fun t =>
        s.free.2.reach (t + 1000 * s.rf Reg.TMG_SAMPLE_CTRL 31 16 + if late then s.free.1 / 2 else 0)
      let v := { u with tmg := { u.tmg with sampleLast := some u.ns
                                            sampleRan := !((List.range 4096).filter fun i => bit (s.reg (Reg.TMG_SAMPLE_LIST i)) 31).isEmpty } }
      passBegin s = if late then intRaise (v.bump Reg.TMG_SAMPLE_OVERRUN_COUNT) 10 2 else v

/-- KEY_WRITE answers the first status of R348 that holds; with none, once the slot named, or the next free one, stands in the key cache,
that slot takes the unsealed content, pinned where the blob asks, and the command completes OK with slot and generation. A key command
that names a slot it may not use completes with that status. KEY_ERASE of one it may use makes it ERASING and runs on;
KEY_ERASE_COMPLETE, once no core holds a request of the slot, zeroises it at its next generation. KEY_STATE_READ writes what R347 names
of the slot, in the model's layout (log 171), and completes OK. KEY_PIN pins or unpins, and completes NO_SPACE at 1,024 pinned slots. A
command on a slot that is not cached starts its fetch and waits. LOCKET_READY makes the store ready once all four stacks are trained and
the boot ROM has drawn the storage key. The model's choice, not the spec's words: the cryptographic functions and the layouts of SEALED
and of the state (log entries 13, 170, 171); what a slot starts from, evictions, unwritten slots and pins (log entries 109, 110, 111,
112); a slot that is not cached (log entry 191); audit subjects, hand-over, DETAIL and records (log entries 65, 34, 36, 40). exec of
keyWrite, keyErase, keyEraseComplete, keyStateRead, keyPin, locketReady answers a next state in every state, with every operand. -/
def Obligations.KeyCommands : Prop :=
  (∀ (s : State) (r : Fin 1024) (n : Nat), (∃ t, exec (.keyWrite r n) s = .next t) ∧ (∃ t, exec (.keyErase r n) s = .next t) ∧
     (∃ t, exec (.keyStateRead r n) s = .next t) ∧ (∃ t, exec (.keyPin r n) s = .next t)) ∧
  (∀ (s : State) (key : BitVec 22), (∃ t, exec (.keyEraseComplete key) s = .next t)) ∧
  (∀ (s : State), (∃ t, exec .locketReady s = .next t)) ∧
  (∀ (s : State) (r : Fin 1024) (n : Nat) (c : CmdEnt),
      let k := keyOf c.desc
      let g := keyGen c.desc
      let bs := c.buf.take 128
      let st := keyWriteStatus s c bs
      let kw := if bit c.desc 96 then slotTop s else k
      let early := st ∈ [St.badField, St.authFail, St.denied, St.busy] ∨ (bit c.desc 96 = true ∧ st ≠ St.ok)
      let w := cipMend s kw
      let t := cipMend s k
      let full := t.cip.pinned.contains k = false ∧ 1024 ≤ t.cip.pinned.length
      let there := s.cip.cached.contains k = true ∧ ffind? s.cip.upset k ≠ some 2
      (Handed s r n 0x80 c → early → exec (.keyWrite r n) s = .next (keyEnd s r n c st k g 0)) ∧
      (Handed s r n 0x80 c → ¬ early → s.cip.cached.contains kw = false → exec (.keyWrite r n) s = .next (cipFetch s kw)) ∧
      (Handed s r n 0x80 c → ¬ early → s.cip.cached.contains kw = true → ffind? s.cip.upset kw ≠ some 2 →
        (∀ m, keyWriteStatus w c bs = St.ok → blobOpen w (fld c.desc 101 98) bs = some m →
          exec (.keyWrite r n) s = .next (keyInstall w r n c (ofBytes 1024 bs) m)) ∧
        (keyWriteStatus w c bs ≠ St.ok →
          exec (.keyWrite r n) s = .next (keyEnd w r n c (keyWriteStatus w c bs) k g 0))) ∧
      (Handed s r n 0x81 c → keyRefuse s c .keys = St.ok →
        let u := eraseStart (s.modCmd r n fun c => { c with phase := .running }) k
        exec (.keyErase r n) s = .next { u with cip := { u.cip with erasing := u.cip.erasing ++ [(k, r.val, n)] } }) ∧
      (Handed s r n 0x81 c → keyRefuse s c .keys ≠ St.ok →
        exec (.keyErase r n) s = .next (keyEnd s r n c (keyRefuse s c .keys) k g 0)) ∧
      (Handed s r n 0x82 c → keyRefuse s c .plain ≠ St.denied → keyRefuse s c .plain ≠ St.busy →
        (s.cip.cached.contains k = false → exec (.keyStateRead r n) s = .next (cipFetch s k)) ∧
        (there → keyRefuse t c .plain = St.ok → exec (.keyStateRead r n) s =
          .next ((t.output c (keyState t k)).finish r n St.ok)) ∧
        (there → keyRefuse t c .plain ≠ St.ok → exec (.keyStateRead r n) s =
          .next (t.finish r n (keyRefuse t c .plain)))) ∧
      (Handed s r n 0x82 c → keyRefuse s c .plain = St.busy → exec (.keyStateRead r n) s = .next (s.finish r n St.busy)) ∧
      (Handed s r n 0x83 c → keyRefuse s c .keys ≠ St.denied → keyRefuse s c .keys ≠ St.busy →
        (s.cip.cached.contains k = false → exec (.keyPin r n) s = .next (cipFetch s k)) ∧
        (there → keyRefuse t c .keys = St.ok →
          (bit c.desc 97 = true → ¬ full → exec (.keyPin r n) s = .next (keyEnd (cipPin t k true) r n c St.ok k g 0)) ∧
          (bit c.desc 97 = true → full → exec (.keyPin r n) s = .next (keyEnd t r n c St.noSpace k g 0)) ∧
          (bit c.desc 97 = false → exec (.keyPin r n) s = .next (keyEnd (cipPin t k false) r n c St.ok k g 0))))) ∧
    (∀ (s : State) (k : BitVec 22), (s.keySlot k.toNat).state = .erasing →
      ((∀ e ∈ s.cip.cores, e.2.slot ≠ k.toNat) → exec (.keyEraseComplete k) s = .next (eraseEnd s k.toNat)) ∧
      ((∃ e ∈ s.cip.cores, e.2.slot = k.toNat) → exec (.keyEraseComplete k) s = .next s)) ∧
    ∀ s : State, s.cip.ready = false → s.hmk.boot ≠ 0 → s.hmk.boot ≠ 3 → (∀ h < 4, (s.stack h).trained = true) →
      exec .locketReady s = .next { s with cip := { s.cip with
        ready := true, wipes := s.cip.wipes + 1, slots := s.cip.slots.map fun e => (e.1, { e.2 with writes := e.2.writes + 1 }) } }

/-- In a cycle of the scheduler the first request in its order that can go on does, and the order's turn moves on: a request whose slot is
not cached starts its fetch and waits; one that fails a check of acceptance leaves its queue, is counted and fails with that status; any
other leaves the queue, is counted and occupies the lowest-numbered free powered core under its slot and its sequence number; with no
such request only the turn moves. A fetch that ends well puts the slot in the key cache; one whose checks fail fails the slot. A core's
request ends: its slot's replay window moves; with an ICV that does not verify it fails with status 8, with a frame it cannot transform
with status 11, beyond the longest frame with 12, without a cell for its output with 13; else its result reaches its packet, or is
discarded where nothing takes it. The model's choice, not the spec's words: what counts and what is discarded (log entries 106, 107);
frames and numbers that are refused (log entries 108, 187); a PAIR slot, an eviction (log entries 109, 110); the rotating order (log
entry 188); a cell that fails (log entry 189); the last number of an erased slot (log entry 190); the cryptographic functions and upsets
(log entries 13, 166). exec of cipherAccept, keyFetchDone, cipherComplete answers a next state in every state, with every operand. -/
def Obligations.CipherEngine : Prop :=
  (∀ (s : State) (core : Fin 32) (upsets : List Upset), (∃ t, exec (.cipherAccept core upsets) s = .next t)) ∧
  (∀ (s : State) (key : BitVec 22), (∃ t, exec (.keyFetchDone key) s = .next t)) ∧
  (∀ (s : State) (core : Fin 32), (∃ t, exec (.cipherComplete core) s = .next t)) ∧
  (∀ (s0 : State) (c : Fin 32) (us : List Upset), let s := strike s0 us
      let isFree := fun (i : Nat) => coreOn s i && (ffind? s.cip.cores i).isNone
      let low := isFree c.val && !(List.range c.val).any isFree
      let t := { s with cip := { s.cip with turn := (s.cip.turn + 1) % 8 } }
      ((reqOrder s).find? (reqReady s low) = none → exec (.cipherAccept c us) s0 = .next t) ∧
      (∀ r f x, (reqOrder s).find? (reqReady s low) = some r → reqFrame t r = some (f, x) → badCell t f = none →
        let o := x.parsed.getD {}
        let u := (reqDrop ((acceptReads t r x.bytes o).foldl cipMend t) r).bump64 Reg.CIP_ACCEPT_COUNT_LO 1
        (∀ k, acceptCheck t r x.bytes o = .fetch k → exec (.cipherAccept c us) s0 = .next (cipFetch t k)) ∧
        (∀ k, acceptCheck t r x.bytes o = .broken k → exec (.cipherAccept c us) s0 = .next (slotFailed t k 2)) ∧
        (∀ k, acceptCheck t r x.bytes o = .fail k → exec (.cipherAccept c us) s0 = .next (cipFail u r k)) ∧
        (∀ k n, acceptCheck t r x.bytes o = .go k n → exec (.cipherAccept c us) s0 = .next (cipTake u c r f x k n)))) ∧
    (∀ (s : State) (k : BitVec 22),
      (s.cip.fetching.contains k.toNat = true → s.hlt.solo = false →
        (fetchCause s k.toNat = none → exec (.keyFetchDone k) s = .next (cipCache s k.toNat)) ∧
        (∀ cause, fetchCause s k.toNat = some cause → exec (.keyFetchDone k) s = .next (slotFailed s k.toNat cause))) ∧
      (s.cip.fetching.contains k.toNat = false → exec (.keyFetchDone k) s = .next s)) ∧
    ∀ (s : State) (c : Fin 32),
      (ffind? s.cip.cores c.val = none → exec (.cipherComplete c) s = .next s) ∧
      (∀ j, ffind? s.cip.cores c.val = some j →
        let out := jobRun j
        let v := jobWindow { s with cip := { s.cip with cores := ferase s.cip.cores c.val } } j out.1
        (out.1 = false → exec (.cipherComplete c) s = .next (cipFail v j.req 8)) ∧
        (out.1 = true → out.2 = none → exec (.cipherComplete c) s = .next (cipFail v j.req 11)) ∧
        (∀ y, out.1 = true → out.2 = some y →
          (maxFrame v < y.bytes.length + 4 → exec (.cipherComplete c) s = .next (cipFail v j.req 12)) ∧
          (∀ x, y.bytes.length + 4 ≤ maxFrame v → v.frame? j.frame = some x → jobWanted v j = true →
            exec (.cipherComplete c) s = .next (if (cellsFit v j.frame x y).2 then jobGive (cellsFit v j.frame x y).1 j j.frame
              else cipFail (cellsFit v j.frame x y).1 j.req 13)) ∧
          (y.bytes.length + 4 ≤ maxFrame v → (v.frame? j.frame = none ∨ jobWanted v j = false) →
            exec (.cipherComplete c) s = .next (cipDiscard v j.req))))

/-- MEM_SLOT_TABLE_WRITE without a stack, or with a bad or missing owner, completes with BAD_FIELD; with a write under way that names one of
the stacks it waits; else the shadow banks take the table, and at the table wrap SLOT_TABLE_SWITCH exchanges the stack's banks, the last
such stack completing it OK. MEM_REQ_CFG_WRITE within the limits writes a requester's settings; out of them, or above requester 11,
where no register is mapped, it is discarded and counted. An arbiter slot, the next that the pseudo-channel has not run, grants and
issues; a grant at its burst limit ends. A refresh that neither a retraining step nor a real-time burst keeps issues, in Solitaire mode
too; the fourth postponement splits the burst. A SID idle for IDLE_CYCLES powers down. Retraining falls due, steps under its grant,
after which the refreshes of the step issue, and ends, its settings taking effect together; a failed one keeps the old ones and starts
again, and the third loses the stack. An uncorrectable read is counted and reported, a parity error whose retry fails is counted; at an
address of no stack either faults as hbmUnpopulated. A catastrophic temperature loses the stack, its queued reads failing; training
makes it trained. The model's choice, not the spec's words: the arbiter's order and the phase of slots (log entries 119, 120); failed
reads (log entries 121, 204, 233); a command that waits (log entry 122); neighbour refreshes and split bursts (log entries 192, 193);
slots and steps (log entries 228, 229); when a retraining is due (log entries 196, 200); reset, and addresses of no stack (log entries
144, 145); hand-over and DETAIL (log entries 34, 36). exec of memSlotTableWrite, memReqCfgWrite, hbmTrained, arbiterSlot,
burstLimitExpire, slotTableSwitch, refreshDue, rankPowerDown, retrainDue, retrainStep, retrainDone, stackCatastrophicTemp answers a next
state in every state, with every operand. -/
def Obligations.ArbiterAndHbm : Prop :=
  (∀ (s : State) (r : Fin 1024) (n : Nat), (∃ t, exec (.memSlotTableWrite r n) s = .next t)) ∧
  (∀ (s : State) (stack : Fin 4) (requester : Fin 32) (value : W64), (∃ t, exec (.memReqCfgWrite stack requester value) s = .next t)) ∧
  (∀ (s : State) (stack : Fin 4), (∃ t, exec (.hbmTrained stack) s = .next t) ∧ (∃ t, exec (.slotTableSwitch stack) s = .next t) ∧
     (∃ t, exec (.stackCatastrophicTemp stack) s = .next t)) ∧
  (∀ (s : State) (stack : Fin 4) (channel : Fin 32), (∃ t, exec (.arbiterSlot stack channel) s = .next t) ∧
     (∃ t, exec (.burstLimitExpire stack channel) s = .next t) ∧ (∃ t, exec (.retrainDue stack channel) s = .next t) ∧
     (∃ t, exec (.retrainDone stack channel) s = .next t)) ∧
  (∀ (s : State) (stack : Fin 4) (channel : Fin 32) (bank : Nat), (∃ t, exec (.refreshDue stack channel bank) s = .next t)) ∧
  (∀ (s : State) (stack : Fin 4) (channel : Fin 32) (sid : Fin 2), (∃ t, exec (.rankPowerDown stack channel sid) s = .next t)) ∧
  (∀ (s : State) (stack : Fin 4) (channel : Fin 32) (found : Option W32), (∃ t, exec (.retrainStep stack channel found) s = .next t)) ∧
  (∀ (s : State) (r : Fin 1024) (n : Nat) (c : CmdEnt),
      let hs := maskList 4 (fld c.desc 67 64)
      let es := (c.buf.take 256).map (·.toNat)
      let good := (∀ o ∈ es, o < 12 ∨ (28 ≤ o ∧ o ≤ 30)) ∧ 30 ∈ es
      (hs = [] → Handed s r n 0x90 c → exec (.memSlotTableWrite r n) s = .next (s.badField r n 8)) ∧
      (hs ≠ [] → ¬ good → Handed s r n 0x90 c → exec (.memSlotTableWrite r n) s = .next (s.badField r n)) ∧
      (hs ≠ [] → good → tablesBusy s hs = true → Handed s r n 0x90 c → exec (.memSlotTableWrite r n) s = .next s) ∧
      (hs ≠ [] → good → tablesBusy s hs = false → Handed s r n 0x90 c → exec (.memSlotTableWrite r n) s =
        .next (forAll (s.modCmd r n fun c => { c with phase := .running }) hs fun u h => u.setStack h { u.stack h with
          table := es.zipIdx.foldl (fun (m : FMap Nat) e => fput m (slotReset e.2) (256 * (!(u.stack h).bank).toNat + e.2) e.1)
            (u.stack h).table
          command := some (r.val, n) }))) ∧
    (∀ (s : State) (h : Fin 4) (r i : Nat), (s.stack h).command = some (r, i) →
      let u := s.reach (20480 * ((s.ns + 20479) / 20480))
      let v := u.setStack h { u.stack h with bank := !(s.stack h).bank, command := none }
      ((∀ k < 4, (v.stack k).command ≠ some (r, i)) → exec (.slotTableSwitch h) s = .next (v.finish r i St.ok)) ∧
      ((∃ k < 4, (v.stack k).command = some (r, i)) → exec (.slotTableSwitch h) s = .next v)) ∧
    (∀ (s : State) (h : Fin 4) (r : Fin 32) (v : W64), barOpen s = true →
      let w := BitVec.ofNat 32 v.toNat
      let olds := (List.range 32).foldl (fun m c => fset m (32 * c + r.val) (s.reg (Reg.MEM_REQ_CFG h r))) (s.stack h).oldCfg
      (r.val < 12 → 4 ≤ fld w 12 4 → fld w 12 4 ≤ 256 → fld w 31 16 ≠ 0 → exec (.memReqCfgWrite h r v) s =
        .next ((s.setStack h { s.stack h with oldCfg := olds, oldAt := s.ns }).setReg (Reg.MEM_REQ_CFG h r) (w &&& 0xFFFF1FF7))) ∧
      (r.val < 12 → (fld w 12 4 < 4 ∨ 256 < fld w 12 4 ∨ fld w 31 16 = 0) → exec (.memReqCfgWrite h r v) s = .next (badWrite s)) ∧
      (12 ≤ r.val → exec (.memReqCfgWrite h r v) s = .next (badWrite s))) ∧
    (∀ (s : State) (h : Fin 4) (c : Fin 32),
      let x := s.chan h c
      (stackOn s h = true →
        let t := s.reach (80 * x.nextSlot)
        let u := t.setChan h c { t.chan h c with nextSlot := t.ns / 80 + 1, issued := [] }
        exec (.arbiterSlot h c) s = .next (issueRun (slotRun
          (if retrainDefers u h c then u.bump (Reg.MEM_RETRAIN_DEFER_COUNT h) else u) h c
          (retrainSlot u h && !retrainDefers u h c) 200 0) h c 64 0)) ∧
      (stackOn s h = false → exec (.arbiterSlot h c) s = .next s) ∧
      (x.holder ≠ none → x.limit ≤ x.held → exec (.burstLimitExpire h c) s = .next (s.setChan h c { x with holder := none, held := 0 })) ∧
      (x.held < x.limit → exec (.burstLimitExpire h c) s = .next s) ∧
      (∀ b < 32, stackLive s h = true → x.holder = some 11 → exec (.refreshDue h c b) s =
        .next (s.setChan h c (x.setBank b { x.bank b with due := (x.bank b).due + 1, stepped := true }))) ∧
      (∀ b < 32, stackLive s h = true → x.holder ≠ some 11 → realTime x b = false → exec (.refreshDue h c b) s = .next (refreshNow s h c b)) ∧
      (∀ b < 32, stackLive s h = true → x.holder ≠ some 11 → realTime x b = true →
        let k := x.bank b
        let n := if k.due = 0 then k.postponed else k.postponed + 1
        let u := (s.setChan h c (x.setBank b { k with due := k.due + 1, postponed := n, waits := k.waits + 1 })).peak (Reg.MEM_POSTPONE_PEAK h) n
        let v := if k.waits = 0 then u else neighbourNow u h c b
        (n < 4 → exec (.refreshDue h c b) s = .next v) ∧
        (4 ≤ n → exec (.refreshDue h c b) s = .next (refreshNow (v.bump (Reg.MEM_SPLIT_COUNT h)) h c b))) ∧
      (∀ b, (32 ≤ b ∨ stackLive s h = false) → exec (.refreshDue h c b) s = .next s) ∧
      (∀ d : Fin 2, bit (s.reg (Reg.MEM_PD_CTRL h)) 0 = true → (∀ t ∈ x.queue, ∀ b ∈ t.banks, b / 16 ≠ d.val) →
        (∀ e ∈ x.banks, e.1 / 16 = d.val → e.2.due = 0) → d.val ∉ x.down →
        let u := s.reach (fget x.lastUse 0 d.val + (5 * s.rf (Reg.MEM_PD_CTRL h) 19 4 + 3) / 4)
        exec (.rankPowerDown h c d) s = .next (u.setChan h c { x with down := d.val :: x.down })) ∧
      (stackOn s h = true → x.retrain = none →
        let u := s.reach (x.retrainAt + 1000000 * s.rf (Reg.MEM_RETRAIN_CTRL h) 7 0)
        exec (.retrainDue h c) s = .next (retrainStart u h c) ∧
        ((u.chan h c).retrain = none → stackOn u h = true → retrainStart u h c = u.setChan h c { u.chan h c with
          retrain := some 0, retrainAt := u.ns, failed := false, found := [] })) ∧
      (∀ k w, x.retrain = some k → k < 8 → x.holder = some 11 → x.failed = false → exec (.retrainStep h c (some w)) s =
        .next (((List.range 32).filter fun b => (x.bank b).stepped).foldl (fun u b => refreshNow u h c b)
          (s.setChan h c { x with holder := none, retrain := some (k + 1), failed := false, found := x.found ++ [w] }))) ∧
      (∀ k, x.retrain = some k → k < 8 → x.holder = some 11 → x.failed = false → exec (.retrainStep h c none) s =
        .next (((List.range 32).filter fun b => (x.bank b).stepped).foldl (fun u b => refreshNow u h c b)
          (s.setChan h c { x with holder := none, retrain := some 8, failed := true }))) ∧
      (x.retrain = some 8 → x.failed = false → exec (.retrainDone h c) s =
        .next (s.setChan h c { x with retrain := none, fails := 0, timing := x.found, found := [] })) ∧
      (x.retrain = some 8 → x.failed = true →
        let u := intRaise ((s.setChan h c { x with retrain := some 0, failed := false, fails := x.fails + 1, found := [] }).bump
          (Reg.MEM_RETRAIN_FAIL_COUNT h)) 11 (4 * h + 2)
        exec (.retrainDone h c) s = .next (if 3 ≤ x.fails + 1 then stackLost u h 0 else u))) ∧
    (∀ (s : State) (h : Fin 4) (e : MemError),
      let counted := fun (u : State) =>
        let es := u.ns :: (u.stack h).errors.filter fun t => u.ns < t + 1000000
        let v := u.setStack h { u.stack h with errors := es }
        if 64 < es.length then stackLost v h 2 else v
      (hbmMap e.addr = none → exec (.memUncorrectable h e) s = .fault .hbmUnpopulated) ∧
      (∀ l, hbmMap e.addr = some l → (l.stack ≠ h.val ∨ stackOn s h = false) → exec (.memUncorrectable h e) s = .next s) ∧
      (∀ l, hbmMap e.addr = some l → l.stack = h.val → stackOn s h = true →
        let u := memEvent ((readFails s e.addr).bump (Reg.MEM_UE_COUNT h)) h 0x90 0 (memFields l e.addr (readReq s l e.addr) 0)
        (e.parity = true → exec (.memUncorrectable h e) s = .next (counted s)) ∧
        (e.parity = false → exec (.memUncorrectable h e) s = .next (counted u)))) ∧
    ∀ (s : State) (h : Fin 4), s.pkg.inReset = false →
      (s.hlt.shutdown = false → exec (.stackCatastrophicTemp h) s = .next (stackLost s h 1)) ∧
      ((s.stack h).lost = true → stackLost s h 1 = s) ∧
      ((s.stack h).lost = false →
        let cs := (s.stack h).channels.map fun (e : Nat × Channel) => (e.1, { e.2 with waiting := [], queue := [], holder := none })
        let u := s.setStack h { s.stack h with lost := true, cause := 1, channels := cs }
        let v := ((s.stack h).channels.flatMap fun (e : Nat × Channel) => e.2.queue ++ e.2.waiting).foldl (fun s t => txnFailed s h t) u
        stackLost s h 1 = soloEnter (memEvent v h 0x91 1 [(65, 64, h.val), (166, 165, 1)]) 0) ∧
      ((s.stack h).lost = false → s.domain (domMem h) = .on →
        exec (.hbmTrained h) s = .next (s.setStack h { s.stack h with trained := true }))

/-- A port in AN whose partner advertises its one technology goes on to TRAINING, or to ALIGN where its configuration skips it; with any
other partner, or on a failed attempt, the attempt is counted and backs off; at its end the port starts again with the back-off doubled,
1,280 ms at most. Training ends in ALIGN; lock and alignment without a fault lead to HOLD; after UP_HOLD_MS with every lane's delay
published the port is UP, its back-off 10 ms, and reported. A local or remote fault takes it from HOLD or UP to ALIGN; its end is noted;
for as long as a local fault lasts the port sends remote fault. PORT_MODE_WRITE without a quad completes BAD_FIELD at byte 8, with half
an eight-lane mode at byte 9, with cells charged to a port that goes BUSY; else the modes are written, ports removed and created, and it
completes OK. PORT_ADMIN starts a DISABLED port, or takes a port to DISABLED with cause ADMIN, and completes OK; for a port that does
not exist, BAD_FIELD at byte 10. The model's choice, not the spec's words: ports of a domain that is not ON (log entry 124); what a port
advertises (log entry 225); when the lane status bits are set (log entry 226); the last cause (log entry 227); events that let time go
on (log entries 4, 200); a slot without a port (log entry 21); hand-over and DETAIL (log entries 34, 36). exec of portModeWrite,
portAdmin, anComplete, anFail, anBackoffExpire, trainingComplete, portAligned, linkUp, linkFault answers a next state in every state,
with every operand. -/
def Obligations.PortStates : Prop :=
  (∀ (s : State) (r : Fin 1024) (n : Nat), (∃ t, exec (.portModeWrite r n) s = .next t) ∧ (∃ t, exec (.portAdmin r n) s = .next t)) ∧
  (∀ (s : State) (partner : Partner), (∃ t, exec (.anComplete partner) s = .next t)) ∧
  (∀ (s : State) (port : Fin 128), (∃ t, exec (.anFail port) s = .next t) ∧ (∃ t, exec (.anBackoffExpire port) s = .next t) ∧
     (∃ t, exec (.trainingComplete port) s = .next t) ∧ (∃ t, exec (.portAligned port) s = .next t) ∧
     (∃ t, exec (.linkUp port) s = .next t)) ∧
  (∀ (s : State) (port : Fin 128) (fault : FaultKind), (∃ t, exec (.linkFault port fault) s = .next t)) ∧
  (∀ (s : State) (p : Fin 128), portExists s p = true →
      let x := s.port p
      let fault := fun (on : Bool) =>
        let u := s.setPort p { x with localFault := on }
        if x.localFault = on then u else u.emit (.remoteFault p.val on)
      (∀ ts, x.state = 1 → x.waiting = false →
        let tech : Tech := { mode := quadMode s p, copper := bit x.cfg 2 && quadMode s p != 7 }
        let v := modLanes s p fun l => { l with signal := true }
        (tech ∈ ts → bit x.cfg 1 = true → exec (.anComplete ⟨p, ts⟩) s = .next (v.setPort p { x with state := 2 })) ∧
        (tech ∈ ts → bit x.cfg 1 = false → exec (.anComplete ⟨p, ts⟩) s = .next (portAlign v p)) ∧
        (tech ∉ ts → exec (.anComplete ⟨p, ts⟩) s = .next ((v.setPort p { v.port p with waiting := true, since := v.ns }).bump
          (Reg.LIF_AN_FAIL_COUNT (octOf p) (slotOf p))))) ∧
      ((x.state = 1 ∨ x.state = 2) → x.waiting = false → exec (.anFail p) s =
        .next ((s.setPort p { x with waiting := true, since := s.ns }).bump (Reg.LIF_AN_FAIL_COUNT (octOf p) (slotOf p)))) ∧
      (x.waiting = true → exec (.anBackoffExpire p) s =
        .next (portStart ((s.reach (x.since + 1000000 * x.backoff)).setPort p { x with backoff := min 1280 (2 * x.backoff) }) p)) ∧
      (x.state = 2 → x.waiting = false → exec (.trainingComplete p) s =
        .next (portAlign (modLanes s p fun l => { l with signal := true, cdr := true, trained := true }) p)) ∧
      (x.state = 3 → x.localFault = false → x.remoteFault = false → refOk s (octOf p) = true → exec (.portAligned p) s =
        .next (modLanes (s.setPort p { x with state := 4, since := s.ns }) p fun l =>
          { l with signal := true, cdr := true, lock := true })) ∧
      (x.state = 4 → (∀ l ∈ portLanes s p, (s.lane l).valid = true) → exec (.linkUp p) s =
        .next (linkEvent ((s.reach (x.since + 1000000 * fld x.cfg 13 4)).setPort p { x with state := 5, backoff := 10 }) p 0x98 0)) ∧
      (x.state = 5 → exec (.linkFault p .localFault) s =
        .next (portAlign (portLeave (fault true) p 3) p)) ∧
      (x.state = 4 → exec (.linkFault p .localFault) s = .next (portAlign (fault true) p)) ∧
      (x.state = 5 → exec (.linkFault p .remoteFault) s =
        .next (portAlign (portLeave (s.setPort p { x with remoteFault := true }) p 4) p)) ∧
      (x.state = 4 → exec (.linkFault p .remoteFault) s = .next (portAlign (s.setPort p { x with remoteFault := true }) p)) ∧
      (x.state = 3 → exec (.linkFault p .localFault) s = .next (fault true)) ∧
      (3 ≤ x.state → exec (.linkFault p .localEnd) s = .next (fault false)) ∧
      (3 ≤ x.state → exec (.linkFault p .remoteEnd) s = .next (s.setPort p { x with remoteFault := false }))) ∧
    (∀ (s : State) (r : Fin 1024) (n : Nat) (c : CmdEnt), Handed s r n 0x98 c →
      let o := fld c.desc 67 64
      let m0 := newMode s c.desc 0
      let m1 := newMode s c.desc 1
      let qs := [0, 1].filter fun q => newMode s c.desc q != s.mode o q
      let gone := qs.flatMap (quadPorts s o)
      let half := (m0 = 4 ∧ m1 ≠ 4) ∨ (m0 ≠ 4 ∧ m1 = 4) ∨ (s.mode o 0 = 4 ∧ fld c.desc 69 68 ≠ 3)
      let used := ∃ p ∈ gone, s.egCells p ≠ 0 ∨ s.portSegs p ≠ 0
      (fld c.desc 69 68 = 0 → exec (.portModeWrite r n) s = .next (s.badField r n 8)) ∧
      (fld c.desc 69 68 ≠ 0 → half → exec (.portModeWrite r n) s = .next (s.badField r n 9)) ∧
      (fld c.desc 69 68 ≠ 0 → ¬ half → used → exec (.portModeWrite r n) s = .next (s.finish r n St.busy)) ∧
      (fld c.desc 69 68 ≠ 0 → ¬ half → ¬ used →
        let u := gone.foldl portRemove s
        let v := { u with lif := { u.lif with modes := fput (fput u.lif.modes 0 (2 * o) m0) 0 (2 * o + 1) m1 } }
        exec (.portModeWrite r n) s = .next (((qs.flatMap (quadPorts v o)).foldl portCreate v).finish r n St.ok))) ∧
    ∀ (s : State) (r : Fin 1024) (n : Nat) (c : CmdEnt), Handed s r n 0x99 c →
      let p := fld c.desc 87 80
      let u := portOff (leaveUp s p 0) p
      (portExists s p = false → exec (.portAdmin r n) s = .next (s.badField r n 10)) ∧
      (portExists s p = true → bit c.desc 88 = true → (s.port p).state = 0 → exec (.portAdmin r n) s =
        .next ((portStart (s.setPort p { s.port p with admin := true }) p).finish r n St.ok)) ∧
      (portExists s p = true → bit c.desc 88 = true → (s.port p).state ≠ 0 → exec (.portAdmin r n) s = .next (s.finish r n St.ok)) ∧
      (portExists s p = true → bit c.desc 88 = false → exec (.portAdmin r n) s =
        .next ((u.setPort p { u.port p with
          admin := false, cause := if (s.port p).state = 0 then (s.port p).cause else 0 }).finish r n St.ok))

/-- A lane of a port that is UP loses signal, or one in ALIGN or HOLD its lock: its status and port are taken down, counted, and the port
starts again. A reference that fails is noted, each lane it clocks that has lock loses it and is counted, and its ports in ALIGN, HOLD
or UP start again; its return is noted. A dwell at the corner whose turn it is, of no more symbols than it has, over the threshold of a
lane not low marks it low and reports its corner; one under it at a low lane is a clean corner, the last of which ends it; time goes on
to the end of the dwell. A published delay, the mean of the marker measurements, is the lane's, 128 us after the one before, counted
where it moves by over 65,536 from an earlier one; without measurements the old one stands. LANE_EYE_READ starts a scan, and ends it,
once every cell has dwelt, with the map and OK; for a lane that is off it completes BUSY. HLT_SPARE_CTRL is written where its interval
is 10 or more. An idle enabled test slice copies its macro MACRO_INTERVAL_US after the one before, swaps and marches, after the cycles
that its words take; a pass copies back and goes to the next macro; after the last, and when a failing macro has been retired and
reported, a pass is counted and reported. The model's choice, not the spec's words: the markers of a window, and when an eye read starts
and ends (log entries 125, 126); the order of the corners (log entry 198); events that let time go on (log entries 4, 200); a pass that
retires a macro (log entry 123); the cycles of a macro of 256 words (log entry 197); the status of lanes (log entry 226); hand-over (log
entry 34). exec of laneEyeRead, spareEnableWrite, linkDown, refclkLoss, loupeDwell, rxDelayPublish, spareMacroStart, spareSwap,
spareMarchDone, spareSwapBack, refclkReturn answers a next state in every state, with every operand. -/
def Obligations.LanesAndSpares : Prop :=
  (∀ (s : State) (r : Fin 1024) (n : Nat) (map : List W16), (∃ t, exec (.laneEyeRead r n map) s = .next t)) ∧
  (∀ (s : State) (value : W32), (∃ t, exec (.spareEnableWrite value) s = .next t)) ∧
  (∀ (s : State) (lane : Fin 128) (cause : LaneLoss), (∃ t, exec (.linkDown lane cause) s = .next t)) ∧
  (∀ (s : State) (octet : Fin 16), (∃ t, exec (.refclkLoss octet) s = .next t) ∧ (∃ t, exec (.refclkReturn octet) s = .next t)) ∧
  (∀ (s : State) (lane : Fin 128) (eye : Fin 3) (corner : Fin 4) (count : Nat),
     (∃ t, exec (.loupeDwell lane eye corner count) s = .next t)) ∧
  (∀ (s : State) (lane : Fin 128) (marks : List Marker), (∃ t, exec (.rxDelayPublish lane marks) s = .next t)) ∧
  (∀ (s : State) (group : Fin 224), (∃ t, exec (.spareMacroStart group) s = .next t) ∧ (∃ t, exec (.spareSwap group) s = .next t) ∧
     (∃ t, exec (.spareSwapBack group) s = .next t)) ∧
  (∀ (s : State) (group : Fin 224) (ok : Bool), (∃ t, exec (.spareMarchDone group ok) s = .next t)) ∧
  (∀ (s : State) (l : Fin 128) (p : Nat), lanePort s l = some p →
      ((s.port p).state = 5 → exec (.linkDown l .signal) s = .next (portStart (portLeave
        ((s.setLane l { s.lane l with signal := false, cdr := false, lock := false }).bump
          (Reg.LIF_LANE_LOCK_LOSS_COUNT (octOf l) (slotOf l))) p 1) p)) ∧
      ((s.port p).state < 3 → (s.lane l).lock = false → exec (.linkDown l .lock) s = .next s) ∧
      (((s.port p).state = 3 ∨ (s.port p).state = 4) → exec (.linkDown l .lock) s = .next (portStart
        ((s.setLane l { s.lane l with cdr := false, lock := false }).bump (Reg.LIF_LANE_LOCK_LOSS_COUNT (octOf l) (slotOf l))) p)) ∧
      ((s.port p).state < 3 → ∀ marks, exec (.rxDelayPublish l marks) s = .next s) ∧
      (3 ≤ (s.port p).state →
        let v := s.reach ((s.lane l).pubAt + 128000)
        exec (.rxDelayPublish l []) s = .next (v.setLane l { s.lane l with pubAt := v.ns })) ∧
      (∀ marks : List Marker, marks ≠ [] → 3 ≤ (s.port p).state →
        let m := (marks.map fun k => k.exit - k.pins).sum / marks.length % 2 ^ 32
        let v := s.reach ((s.lane l).pubAt + 128000)
        let u := v.setLane l { s.lane l with delay := m, valid := true, measured := true, pubAt := v.ns }
        let moved := (s.lane l).measured = true ∧ ((s.lane l).delay + 65536 < m ∨ m + 65536 < (s.lane l).delay)
        (¬ moved → exec (.rxDelayPublish l marks) s = .next u) ∧
        (moved → exec (.rxDelayPublish l marks) s = .next (u.bump (Reg.LIF_DELAY_STEP_COUNT (octOf p) (slotOf p))))) ∧
      (∀ (e : Fin 3) (k : Fin 4) (m : Nat),
        let i := 4 * e.val + k.val
        let top := 2 ^ s.rf (Reg.LIF_LOUPE_CTRL (octOf l) (slotOf l)) 15 10
        let mar : W32 := pack 32 [(1, 0, e.val), (3, 2, k.val), (31, 4, min m (2 ^ 28 - 1))]
        let v := s.reach ((s.lane l).dwellAt + dwellNs s l)
        let x := { s.lane l with dwellAt := v.ns, corner := (i + 1) % (4 * laneEyes s l) }
        let turn := (s.port p).state = 5 ∧ (s.lane l).scan = none ∧ e.val < laneEyes s l ∧
          (s.lane l).corner % (4 * laneEyes s l) = i ∧ m ≤ 2 ^ s.rf (Reg.LIF_LOUPE_CTRL (octOf l) (slotOf l)) 20 16
        (¬ turn → exec (.loupeDwell l e k m) s = .next s) ∧
        (turn → top < m → (s.lane l).low = false → exec (.loupeDwell l e k m) s =
          .next (intRaise (lifEvent ((v.setLane l x).setLane l { x with margin := mar, low := true, clean := [] }) (octOf l) 0x9A
            [(70, 64, l.val), (72, 71, e.val), (74, 73, k.val), (111, 80, min m (2 ^ 32 - 1))]) 2 (octOf l))) ∧
        (turn → top < m → (s.lane l).low = true → exec (.loupeDwell l e k m) s =
          .next ((v.setLane l x).setLane l { x with margin := mar, low := true, clean := (s.lane l).clean.filter (· != i) })) ∧
        (turn → m ≤ top → ((s.lane l).low = false ∨ m = top) → exec (.loupeDwell l e k m) s = .next (v.setLane l x)) ∧
        (turn → m < top → (s.lane l).low = true →
          let cs := if i ∈ (s.lane l).clean then (s.lane l).clean else i :: (s.lane l).clean
          exec (.loupeDwell l e k m) s = .next ((v.setLane l x).setLane l
            (if cs.length = 4 * laneEyes (v.setLane l x) l then { x with low := false, clean := [] } else { x with clean := cs })))))  ∧
    (∀ (s : State) (o : Fin 16),
      (s.lif.refLost.contains o.val = true → exec (.refclkLoss o) s = .next s) ∧
      (s.lif.refLost.contains o.val = false →
        let u := { s with lif := { s.lif with refLost := o.val :: s.lif.refLost } }
        let v := ((refOctets o).flatMap fun o => (List.range 8).map (8 * o + ·)).foldl laneUnlock u
        exec (.refclkLoss o) s = .next (((refOctets o).flatMap (octPorts s)).foldl
          (fun s n => if (s.port n).state < 3 then s else portStart (leaveUp s n 2) n) v)) ∧
      (∀ l, ((s.lane l).cdr = true ∨ (s.lane l).lock = true) → laneUnlock s l =
        (s.setLane l { s.lane l with cdr := false, lock := false }).bump (Reg.LIF_LANE_LOCK_LOSS_COUNT (octOf l) (slotOf l))) ∧
      (∀ l, (s.lane l).cdr = false → (s.lane l).lock = false → laneUnlock s l = s) ∧
      exec (.refclkReturn o) s = .next { s with lif := { s.lif with refLost := s.lif.refLost.filter (· != o.val) } }) ∧
    (∀ (s : State) (r : Fin 1024) (n : Nat) (c : CmdEnt) (map : List W16), s.cmd? r n = some c → descOp c.desc = 0x9A →
      let l := fld c.desc 70 64
      (∀ p, c.phase = .accepted → s.next? r = some c → c.slot = n → lanePort s l = some p → (s.port p).state ≠ 0 →
        (s.lane l).scan = none → exec (.laneEyeRead r n map) s = .next ((s.modCmd r n fun c => { c with
          phase := .running }).setLane l { s.lane l with scan := some (r.val, n), scanAt := s.ns })) ∧
      (c.phase = .accepted → s.next? r = some c → c.slot = n → lanePort s l = none →
        exec (.laneEyeRead r n map) s = .next (s.finish r n St.busy)) ∧
      (c.phase = .running → (s.lane l).scan = some (r.val, n) → exec (.laneEyeRead r n map) s =
        .next ((((s.reach ((s.lane l).scanAt + 1024 * laneEyes s l * dwellNs s l)).setLane l { s.lane l with
          scan := none }).output c (eyeMap s l map)).finish r n St.ok))) ∧
    (∀ (s : State) (v : W32), barOpen s = true → s.pkg.sealed = false →
      (10 ≤ fld v 31 16 → exec (.spareEnableWrite v) s = .next (s.setReg Reg.HLT_SPARE_CTRL (v &&& 0xFFFF3FF1))) ∧
      (fld v 31 16 < 10 → exec (.spareEnableWrite v) s = .next (badWrite s))) ∧
    ∀ (s : State) (g : Fin 224),
      let x := s.spare g
      let w := groupWords g
      let v := s.reach (x.since + 1000 * s.rf Reg.HLT_SPARE_CTRL 31 16)
      (bit (s.reg Reg.HLT_SPARE_CTRL) 0 = true → x.phase = 0 → x.retired = none → s.domain (groupDomain g) = .on →
        exec (.spareMacroStart g) s = .next (v.setSpare g { x with phase := 1, since := v.ns })) ∧
      (x.phase = 1 → exec (.spareSwap g) s = .next ((spareReach s g w).setSpare g { x with phase := 2 })) ∧
      (x.phase = 2 → exec (.spareMarchDone g true) s = .next ((spareReach s g (11 * w + 1)).setSpare g { x with phase := 3 })) ∧
      let pass := fun (u : State) => spareEvent (u.setSpare g { u.spare g with passes := ((u.spare g).passes + 1) % 2 ^ 23 }) 0xB1 g 0
        (((u.spare g).passes + 1) % 2 ^ 23)
      (x.phase = 2 →
        let u := (spareReach s g (11 * w + 1)).setSpare g { x with phase := 0, retired := some x.live }
        exec (.spareMarchDone g false) s = .next (pass (intRaise (spareEvent { u with hlt := { u.hlt with
          groups := fset u.hlt.groups g.val x.live } } 0xB0 g x.live x.passes) 0 2))) ∧
      (x.phase = 3 → x.live + 1 ≠ groupMacros g →
        exec (.spareSwapBack g) s = .next ((spareReach s g (12 * w + 1)).setSpare g { x with phase := 0, live := x.live + 1 })) ∧
      (x.phase = 3 → x.live + 1 = groupMacros g →
        exec (.spareSwapBack g) s = .next (pass ((spareReach s g (12 * w + 1)).setSpare g { x with phase := 0, live := 0 })))

/-- The boot ROM that passes, with the random source sound and an identity key whose hash is the fused one, ends in BOOT with a storage key
drawn, else in HALT. BOOT_IMAGE_LOAD outside BOOT, or without fresh randomness, completes BUSY; an image that fails a check is counted
and completes with its status; a good one burns the floor, loads every cluster's vendor region and Hallmark's firmware, draws the boot
nonce, runs and writes the BOOT record. IDENT_CERT_READ and ATTEST write the certificate and the signed evidence. ROLE_CHALLENGE draws
32 bytes for its ring and writes them, or is BUSY while the random source fails. ROLE_AUTH answers its status, records a session of the
ring that has run out, with OK opens the ring's session, and spends the challenge unless its form is bad; ROLE_CLOSE closes it; both are
recorded, with the session's duration. A ticket that is good and proved acts; one of a bad form or length completes BAD_FIELD.
CODE_KEY_LOAD takes a modulus whose hash is held, else AUTH_FAIL, for a key ID that does not exist BAD_FIELD at byte 8. The model's
choice, not the spec's words: the fuses and the cryptographic functions (log entries 7, 13); the buffer lengths of tickets (log entry
42); session records, spent nonces, randomness, BOOT and HALT (log entries 56, 57, 58, 59, 60); what tickets and key commands refuse
(log entries 61, 62, 63, 67, 68); the salt of a signature (log entry 194). exec of bootImageLoad, identCertRead, attest, roleChallenge,
roleAuth, roleClose, ticketExec, codeKeyLoad, bootRomDone answers a next state in every state, with every operand. -/
def Obligations.BootAndRoles : Prop :=
  (∀ (s : State) (r : Fin 1024) (n : Nat), (∃ t, exec (.bootImageLoad r n) s = .next t) ∧ (∃ t, exec (.identCertRead r n) s = .next t) ∧
     (∃ t, exec (.attest r n) s = .next t) ∧ (∃ t, exec (.roleChallenge r n) s = .next t) ∧ (∃ t, exec (.roleAuth r n) s = .next t) ∧
     (∃ t, exec (.roleClose r n) s = .next t) ∧ (∃ t, exec (.ticketExec r n) s = .next t) ∧
     (∃ t, exec (.codeKeyLoad r n) s = .next t)) ∧
  (∀ (s : State) (pass : Bool), (∃ t, exec (.bootRomDone pass) s = .next t)) ∧
  (∀ s : State, s.pkg.inReset = false → s.hlt.shutdown = false → s.hmk.boot = 0 →
      let ident := s.hmk.fuses.identHash = Config.sha512 (Config.identKey s.hmk.fuses.root)
      (s.hmk.rngFail = false → ident →
        let d := rngDraw s 32
        exec (.bootRomDone true) s = .next { d.1 with
          hmk := { d.1.hmk with boot := 1 }, cip := { d.1.cip with storage := ofBytes 256 d.2 } }) ∧
      (∀ ok, (ok = false ∨ s.hmk.rngFail = true ∨ ¬ ident) → exec (.bootRomDone ok) s = .next { s.free.2 with
        hmk := { s.free.2.hmk with boot := 3, lastErr := s.free.1 % 256 } })) ∧
    (∀ (s : State) (ok : Bool), (s.hlt.shutdown = true ∨ s.hmk.boot ≠ 0) → exec (.bootRomDone ok) s = .next s) ∧
    (∀ (s : State) (r : Fin 1024) (n : Nat) (c : CmdEnt),
      let len := fld c.desc 223 192
      let b := c.buf.take len
      let st := imageStatus s len b
      let v := imageFld b 63 48
      let t := c.buf.take 1152
      let ts := authStatus s r t
      let id := fld c.desc 79 64
      let good := (id ≤ 7 ∧ makerOk s id (c.buf.take 512) = true) ∨ (0x100 ≤ id ∧ id ≤ 0x103 ∧
        Machine.slotOk s s.hmk.fuses.codeKey s.hmk.fuses.revCode (id - 0x100) (c.buf.take 512) = true)
      let secs := (imageParse len b).getD []
      let fw := (secs.filter (·.1 == 1)).flatMap (·.2)
      (Handed s r n 0xB0 c → (s.hmk.boot ≠ 1 ∨ s.hmk.rngFail = true) → exec (.bootImageLoad r n) s = .next (s.finish r n St.busy)) ∧
      (Handed s r n 0xB0 c → s.hmk.boot = 1 → s.hmk.rngFail = false → exec (.bootImageLoad r n) s = .next (
        if st = St.ok then
          let u := forAll (floorBurn s 0 v) (List.range 8) fun s k => vendorLoad s k v (imageRecs secs)
          let d := rngDraw u 32
          let h := { d.1.hmk with boot := 2, nonce := d.2, version := v, digest := Config.sha512 b, firmware := fw, ownDigest := Config.sha512 fw }
          (auditBoot { d.1 with hmk := h }
            (d.2 ++ bytesLE 2 v ++ (Config.sha512 b).take 16)).finish r n St.ok
        else ({ s with hmk := { s.hmk with lastErr := st, attempts := satAdd 0xFFFF s.hmk.attempts 1 } }).finish r n st
          (if st = St.badField then 0xFF else 0))) ∧
      (Handed s r n 0xB1 c → exec (.identCertRead r n) s =
        .next ((s.output c s.hmk.fuses.cert).finish r n St.ok 0 s.hmk.fuses.cert.length)) ∧
      (Handed s r n 0xB2 c → exec (.attest r n) s =
        .next ((outputSigned s c (evidence s (c.buf.take 32))).finish r n St.ok)) ∧
      (Handed s r n 0xB3 c → s.hmk.rngFail = true → exec (.roleChallenge r n) s = .next (s.finish r n St.busy)) ∧
      (Handed s r n 0xB3 c → s.hmk.rngFail = false →
        let d := rngDraw s 32
        exec (.roleChallenge r n) s = .next (({ d.1 with hmk := { d.1.hmk with
          challenges := fset s.hmk.challenges r.val (d.2, s.tmu.tick) } }.output c d.2).finish r n St.ok)) ∧
      (Handed s r n 0xB4 c → exec (.roleAuth r n) s = .next (
        let s0 := sessionLapse s r
        let u := if ts = St.badField then s0 else nonceSpent s0 r
        let v := if ts = St.ok then { u with hmk := { u.hmk with
          sessions := fset u.hmk.sessions r.val ⟨tokRole t, tokKey t, s.tmu.tick + giga * tokDuration t, tokDuration t⟩ } } else u
        (sessionRec v (tokRecord s r c t ts) 0 (tokDuration t)).finish r n ts (if ts = St.badField then 0xFF else 0))) ∧
      (Handed s r n 0xB5 c → exec (.roleClose r n) s = .next ((sessionRec (sessionClose s r)
        { sessRecord s r (s.session? r) with opcode := 0xB5, tag := fld c.desc 63 32 } 1
          (((s.session? r).map (·.lasts)).getD 0)).finish r n St.ok)) ∧
      (Handed s r n 0xB6 c → tokBad r t true = true → exec (.ticketExec r n) s =
        .next ((auditAdd s (tokRecord s r c t St.badField)).finish r n St.badField 0xFF)) ∧
      (Handed s r n 0xB6 c → tokBad r t true = false → len ≠ (if tokAction t = 7 then 1664 else 1152) →
        exec (.ticketExec r n) s = .next ((auditAdd s (tokRecord s r c t St.badField)).finish r n St.badField 24)) ∧
      (Handed s r n 0xB6 c → tokBad r t true = false → len = (if tokAction t = 7 then 1664 else 1152) →
        exec (.ticketExec r n) s = .next (
          if tokProved s r t then
            let u := ticketAct (nonceSpent s r) c t
            if u.2 = St.denied then (deniedAdd u.1 r c).finish r n St.denied
            else (auditAdd u.1 (tokRecord s r c t u.2)).finish r n u.2 (if u.2 = St.badField then 0xFF else 0)
          else (auditAdd (nonceSpent s r) (tokRecord s r c t St.authFail)).finish r n St.authFail 0)) ∧
      (Handed s r n 0xB7 c → 7 < id → id < 0x100 ∨ 0x103 < id → exec (.codeKeyLoad r n) s = .next (s.badField r n 8)) ∧
      (Handed s r n 0xB7 c → id ≤ 7 ∨ (0x100 ≤ id ∧ id ≤ 0x103) →
        (good → exec (.codeKeyLoad r n) s = .next ({ s with hmk := { s.hmk with
          codeKeys := fset s.hmk.codeKeys id (c.buf.take 512) } }.finish r n St.ok)) ∧
        (¬ good → exec (.codeKeyLoad r n) s = .next (s.finish r n St.authFail))))

/-- AUDIT_READ of a record that has been released or not been written completes NOT_FOUND; of staged ones, it writes up to COUNT records to
the buffer and completes OK with the last SEQ; of ones in HBM while it is out of reach, BUSY. AUDIT_RELEASE releases every record up to
SEQ and completes OK, or NOT_FOUND, and is recorded either way. AUDIT_SEAL writes the signed seal. The oldest staged record goes to the
audit region while HBM can be written. A ring's one-second window of refusals ends in one DENIED record, with opcode and count in four
bytes each. A session that has run out closes with its record and its duration. A re-verification pass, INTERVAL_MS after the last, is
counted; without mismatch, of a page or of Hallmark's own firmware, it clears its cause; each mismatch is recorded, reported and a cause
of Solitaire mode. A failing random source is noted with its interrupt; one that passes again is reseeded. The model's choice, not the
spec's words: the codes of session records (log entry 56); records out of reach (log entry 64); audit subjects and refusals (log entries
65, 40); clusters that are not ON (log entry 66); the window of refusals and events that let time go on (log entries 199, 200); a
mismatch of the firmware (log entry 202); records beyond the buffer (log entry 231); the cryptographic functions, reseeds and salts (log
entries 13, 63, 194); hand-over (log entry 34). exec of auditRead, auditRelease, auditSeal, rngHealthFail, reverifyPass, sessionExpire,
auditRecordWrite, rngHealthPass, deniedRecord answers a next state in every state, with every operand. -/
def Obligations.AuditAndWatch : Prop :=
  (∀ (s : State) (r : Fin 1024) (n : Nat), (∃ t, exec (.auditRead r n) s = .next t) ∧ (∃ t, exec (.auditRelease r n) s = .next t) ∧
     (∃ t, exec (.auditSeal r n) s = .next t)) ∧
  (∀ (s : State), (∃ t, exec .rngHealthFail s = .next t) ∧ (∃ t, exec .reverifyPass s = .next t) ∧
     (∃ t, exec .auditRecordWrite s = .next t) ∧ (∃ t, exec .rngHealthPass s = .next t)) ∧
  (∀ (s : State) (r : Fin 1024), (∃ t, exec (.sessionExpire r) s = .next t) ∧ (∃ t, exec (.deniedRecord r) s = .next t)) ∧
  (∀ (s : State) (r : Fin 1024) (n : Nat) (c : CmdEnt),
      let first := fld c.desc 287 224
      let m := min (fld c.desc 303 288) (s.hmk.seq - first)
      let upTo := { s with hmk := { s.hmk with released := first + 1, staging := s.hmk.staging.drop (first + 1 - stagedFrom s) } }
      (Handed s r n 0xB8 c → (first < s.hmk.released ∨ s.hmk.seq ≤ first) →
        exec (.auditRead r n) s = .next (s.finish r n St.notFound)) ∧
      (Handed s r n 0xB8 c → s.hmk.released ≤ first → first < s.hmk.seq → first < stagedFrom s → auditHbm s = false →
        exec (.auditRead r n) s = .next (s.finish r n St.busy)) ∧
      (Handed s r n 0xB8 c → s.hmk.released ≤ first → first < s.hmk.seq → stagedFrom s ≤ first → exec (.auditRead r n) s =
        .next ((s.output c ((List.range m).flatMap fun i => bytesOf (auditUnit s (first + i)))).finish r n St.ok 0 (first + m - 1))) ∧
      (Handed s r n 0xB9 c → (first < s.hmk.released ∨ s.hmk.seq ≤ first) →
        exec (.auditRelease r n) s = .next ((auditCmd s r c 9 St.notFound (bytesLE 8 first)).finish r n St.notFound)) ∧
      (Handed s r n 0xB9 c → s.hmk.released ≤ first → first < s.hmk.seq → exec (.auditRelease r n) s =
        .next ((auditCmd (if auditHeld upTo < 445644 then { upTo with hmk := { upTo.hmk with auditArmed := true } } else upTo)
          r c 9 St.ok (bytesLE 8 first)).finish r n St.ok)) ∧
      (Handed s r n 0xBA c → exec (.auditSeal r n) s = .next ((outputSigned s c (identBytes s ++ padTo 32 s.hmk.nonce ++
        bytesLE 8 (s.hmk.seq - 1) ++ padTo 32 s.hmk.chain ++ padTo 32 (c.buf.take 32))).finish r n St.ok))) ∧
    (∀ (s : State) (u : Unit128) (us : List Unit128), s.hmk.staging = u :: us →
      (auditHbm s = true → exec .auditRecordWrite s = .next ((memPost { s with hmk := { s.hmk with staging := us } } 9
        (auditAddr (stagedFrom s)) true 4).setUnit (auditAddr (stagedFrom s) / 128) u)) ∧
      (auditHbm s = false → exec .auditRecordWrite s = .next s)) ∧
    (∀ (s : State) (r : Fin 1024) (d : Denied), ffind? s.hmk.denied r.val = some d → 
      let u := s.reach (d.since + giga)
      u.session? r = none →
      exec (.deniedRecord r) s = .next (auditAdd { u with hmk := { u.hmk with denied := ferase u.hmk.denied r.val } }
        { kind := 4, fn := d.fn, ring := r.val, opcode := d.opcode, status := d.status, tag := d.tag
          subject := bytesLE 4 d.opcode ++ bytesLE 4 d.count })) ∧
    (∀ (s : State) (r : Fin 1024) (x : Session), ffind? s.hmk.sessions r.val = some x → s.tmu.counting = false →
      (x.ends ≤ s.tmu.tick → exec (.sessionExpire r) s = .next (auditAdd { s with hmk := { s.hmk with
        sessions := ferase s.hmk.sessions r.val } } { sessRecord s r (some x) with subject := bytesLE 1 2 ++ bytesLE 4 x.lasts })) ∧
      (s.tmu.tick < x.ends → exec (.sessionExpire r) s = .next s)) ∧
    (∀ s : State,
      let v := s.reach (s.hmk.revAt + 1000000 * s.rf Reg.HMK_REVERIFY_CTRL 15 0)
      let u := { v with hmk := { v.hmk with passes := (v.hmk.passes + 1) % 2 ^ 32, revMiss := false, revAt := v.ns } }
      (s.hmk.boot ≠ 2 → exec .reverifyPass s = .next s) ∧
      let cleared := fun (w : State) =>
        if w.hmk.revMiss then w else { w with hlt := { w.hlt with active := w.hlt.active.filter (· != 2) } }
      (s.hmk.boot = 2 → (∀ c < 8, v.domain (domCluster c) = .on → usedPages (v.cluster c) = []) →
        exec .reverifyPass s = .next (cleared (reverifyOwn u))) ∧
      (∀ (c p : Nat), s.hmk.boot = 2 → c < 8 → v.domain (domCluster c) = .on → usedPages (v.cluster c) = [p] →
        (∀ k < 8, k ≠ c → usedPages (v.cluster k) = []) →
        exec .reverifyPass s = .next (cleared (reverifyOwn (if pageFails v c p then reverifyFail u c p else u)))) ∧
      (Config.sha512 s.hmk.firmware = s.hmk.ownDigest → reverifyOwn s = s) ∧
      (Config.sha512 s.hmk.firmware ≠ s.hmk.ownDigest →
        reverifyOwn s = reverifyFail s.free.2 (s.free.1 % 256) (s.free.1 / 256 % 256)) ∧
      (∀ c p, let w := hmkEvent (auditAdd s { kind := 8, subject := bytesLE 1 c ++ bytesLE 1 p }) 0xBA (nextSeq s) c
        reverifyFail s c p = soloEnter { w with hmk := { w.hmk with revMiss := true } } 2)) ∧
    ∀ s : State,
      exec .rngHealthFail s = .next (intRaise { s with hmk := { s.hmk with rngFail := true } } 13 4) ∧
      (s.hmk.rngFail = true → exec .rngHealthPass s = .next { s with hmk := { s.hmk with
        rngFail := false, reseeds := (s.hmk.reseeds + 1) % 2 ^ 16 } }) ∧
      (s.hmk.rngFail = false → exec .rngHealthPass s = .next s)

/-- POWER_SET to a state that a named domain does not take completes BAD_FIELD at byte 24, with SHUTDOWN and another mask at byte 8; with a
transition of a named domain under way it waits; with a condition not met BUSY; with nothing to change OK; else the domains' transitions
start. With SHUTDOWN the copies of the test slices are abandoned, and once every slice stands everything but D0 goes OFF. A transition
that is done takes its state and, as the last, completes its command; each completion sets its interrupt source. TEMP_SAMPLE, 100 us
after the last, stores the readings and peaks and acts on the thresholds, after a shut-down too. BIST_RUN needs RETAIN, retires what
fails and completes OK with the domains that have failed, in logic or in a macro. HEALTH_RECORD_READ writes the record;
HEALTH_RECORD_LOAD after SEAL is BUSY, with a bad form BAD_FIELD. A cause enters Solitaire mode while it holds; the host's enters and
clears; an exit whose conditions do not hold is BUSY, outside the mode it completes OK, else it is accepted and ends the mode, BUSY
where a cause has come up between. KEEL_WRITE with a bad entry completes BAD_FIELD; one entry that clashes is left out with EXISTS, else
it applies; KEEL_READ writes COUNT entries, 0 where no pipeline holds one. The model's choice, not the spec's words: the keel table, its
writes and the exit (log entries 113, 116, 117, 118); POWER_SET and a shut-down (log entries 129, 130, 131, 132, 133, 208, 232); the
thresholds (log entries 134, 135); the record and BIST (log entries 136, 137); causes together (log entry 230); events that let time go
on (log entries 4, 200); hand-over and DETAIL (log entries 34, 36). exec of powerSet, powerTransitionDone, solitaireEnter,
solitaireExit, keelWrite, keelRead, healthRecordRead, healthRecordLoad, bistRun, tempSample answers a next state in every state, with
every operand. -/
def Obligations.PowerHealthAndSolitaire : Prop :=
  (∀ (s : State) (r : Fin 1024) (n : Nat), (∃ t, exec (.powerSet r n) s = .next t) ∧ (∃ t, exec (.solitaireExit r n) s = .next t) ∧
     (∃ t, exec (.keelWrite r n) s = .next t) ∧ (∃ t, exec (.keelRead r n) s = .next t) ∧
     (∃ t, exec (.healthRecordRead r n) s = .next t) ∧ (∃ t, exec (.healthRecordLoad r n) s = .next t)) ∧
  (∀ (s : State) (domain : Fin 64), (∃ t, exec (.powerTransitionDone domain) s = .next t)) ∧
  (∀ (s : State) (cause : Fin 4) (r : Fin 1024) (n : Nat), (∃ t, exec (.solitaireEnter cause r n) s = .next t)) ∧
  (∀ (s : State) (r : Fin 1024) (n : Nat) (domainFails : BitVec 64) (macroFails : List (Nat × Nat)),
     (∃ t, exec (.bistRun r n domainFails macroFails) s = .next t)) ∧
  (∀ (s : State) (dieC : List Int) (hbmC : List Int), (∃ t, exec (.tempSample dieC hbmC) s = .next t)) ∧
  (∀ (s : State) (r : Fin 1024) (n : Nat) (c : CmdEnt),
      let m := fld c.desc 127 64
      let ds := maskList 64 m
      let run := s.modCmd r n fun c => { c with phase := .running }
      let rec' := c.buf.take 384
      let first := fld c.desc 223 208
      let es := entriesOf 256 (fld c.desc 239 224) c.buf
      let ended := fun (u : State) (st detail : Nat) => intRaise (u.finish r n st detail) 0 3
      (Handed s r n 0xD0 c → fld c.desc 193 192 = 0 → (∀ d ∈ ds, domMoves s d = false) → (∀ d ∈ ds, powerMet s ds .on d = true) →
        ((∀ d ∈ ds, s.domain d = .on) → exec (.powerSet r n) s = .next (intRaise (s.finish r n St.ok) 0 3)) ∧
        (∀ d, ds = [d] → s.domain d ≠ .on → exec (.powerSet r n) s =
          .next { run with hlt := { run.hlt with moving := fset run.hlt.moving d ⟨.on, r.val, n⟩ } })) ∧
      (∀ d ∈ ds, Handed s r n 0xD0 c → fld c.desc 193 192 = 0 → domMoves s d = true → exec (.powerSet r n) s = .next s) ∧
      (∀ d ∈ ds, Handed s r n 0xD0 c → fld c.desc 193 192 = 0 → (∀ e ∈ ds, domMoves s e = false) → powerMet s ds .on d = false →
        exec (.powerSet r n) s = .next (ended s St.busy 0)) ∧
      (∀ d ∈ ds, Handed s r n 0xD0 c → fld c.desc 193 192 = 1 → domTakes d .retain = false →
        exec (.powerSet r n) s = .next (ended s St.badField 24)) ∧
      (Handed s r n 0xD0 c → fld c.desc 193 192 = 2 → bit c.desc 194 = true → m ≠ 2 ^ 64 - 2 →
        exec (.powerSet r n) s = .next (ended s St.badField 8)) ∧
      (Handed s r n 0xD0 c → fld c.desc 193 192 = 2 → bit c.desc 194 = true → m = 2 ^ 64 - 2 →
        let u := forAll s ((List.range 63).map (· + 1)) spareAbandon
        ((∀ i < 63, sparesIdle u (i + 1) = true) → exec (.powerSet r n) s =
          .next (shutDown (intRaise (completeCmd (u.finish r n St.ok) r n) 0 3))) ∧
        ((∃ i < 63, sparesIdle u (i + 1) = false) → exec (.powerSet r n) s = .next u)) ∧
      (∀ d, Handed s r n 0xD0 c → fld c.desc 193 192 = 1 → ds = [d] → domTakes d .retain = true → domMoves s d = false → powerMet s ds .retain d = true →
        s.domain d ≠ .retain → exec (.powerSet r n) s = .next (domStart run .retain r n d)) ∧
      (Handed s r n 0xD1 c → exec (.solitaireEnter 3 r n) s = .next ({ soloEnter s 3 with hlt := { (soloEnter s 3).hlt with
        active := (soloEnter s 3).hlt.active.filter (· != 3) } }.finish r n St.ok)) ∧
      (Handed s r n 0xD2 c → s.cmd? r n = some c →
        (exitAllowed s = false → exec (.solitaireExit r n) s = .next (endCmd s r n c St.busy 0 0)) ∧
        (exitAllowed s = true → s.hlt.solo = false → exec (.solitaireExit r n) s = .next (endCmd s r n c St.ok 0 0)) ∧
        (exitAllowed s = true → s.hlt.solo = true → exec (.solitaireExit r n) s =
          .next { run with hlt := { run.hlt with exiting := some (r.val, n) } })) ∧
      (s.cmd? r n = some c → c.phase = .running → descOp c.desc = 0xD2 →
        let u := { s with hlt := { s.hlt with solo := false, exiting := none } }
        let v := cipSoloExit (if bit (s.reg Reg.FLW_CTRL) 0 then forAll u (List.range 16) sliceStart else u)
        let w := endCmd (soloRecord v 1 s.hlt.cause) r n c St.ok 0 0
        (s.hlt.exiting = some (r.val, n) → exec (.solitaireExit r n) s = .next (intRaise (hltEvent w 0xD1 0 (hottest w)) 15 1)) ∧
        (s.hlt.exiting ≠ some (r.val, n) → exec (.solitaireExit r n) s = .next (endCmd s r n c St.busy 0 0))) ∧
      (∀ e ∈ es, Handed s r n 0xD3 c → keelEntBad e = true → exec (.keelWrite r n) s = .next (endCmd s r n c St.badField 0xFF 0)) ∧
      (∀ e, Handed s r n 0xD3 c → es = [e] → keelEntBad e = false → exec (.keelWrite r n) s =
        .next (if keelClash s first e then endCmd s r n c St.exists_ 0 0 else endCmd (keelPut s first e) r n c St.ok 0 0)) ∧
      (Handed s r n 0xD4 c → exec (.keelRead r n) s = .next ((s.output c ((List.range (fld c.desc 239 224)).flatMap fun i =>
        bytesOf (if keelHeld s (first + i) then fget s.hlt.keel 0 (first + i) else 0))).finish r n St.ok)) ∧
      (Handed s r n 0xD5 c → exec (.healthRecordRead r n) s = .next ((s.output c (healthRecord s)).finish r n St.ok)) ∧
      (Handed s r n 0xD6 c → s.pkg.sealed = true → exec (.healthRecordLoad r n) s = .next (s.finish r n St.busy)) ∧
      (Handed s r n 0xD6 c → s.pkg.sealed = false → healthBad rec' = true → exec (.healthRecordLoad r n) s = .next (s.badField r n)) ∧
      (Handed s r n 0xD6 c → s.pkg.sealed = false → healthBad rec' = false → exec (.healthRecordLoad r n) s = .next (
        if rec'.drop 0x140 = healthMac s (rec'.take 0x140) ∧ (rec'.drop 8).take 8 = identBytes s then
          let u := forAll s (List.range 224) fun s g => groupLoad s g (recByte rec' (0x38 + g))
          let v := forAll u ((List.range 128).filter fun k => (natLE ((rec'.drop 0x118).take 16)).testBit k ||
            fget u.hlt.groups 0xFF k == 0xFE) blockQuarantine
          { v with hlt := { v.hlt with healthLoaded := true } }.finish r n St.ok
        else s.finish r n St.authFail)) ∧
      (∀ (fs : BitVec 64) (ms : List (Nat × Nat)),
        (∀ d ∈ ds, Handed s r n 0xD7 c → s.domain d ≠ .retain → exec (.bistRun r n fs ms) s = .next (endCmd s r n c St.busy 0 0)) ∧
        (Handed s r n 0xD7 c → (∀ d ∈ ds, s.domain d = .retain ∧ domMoves s d = false) →
          let bad := ms.filter fun e => e.1 < 224 && e.2 ≤ groupMacros e.1 && ds.contains (groupDomain e.1)
          let u := forAll (bad.foldl (fun s e => bistMacro s e.1 e.2) s) ds bistLeave
          exec (.bistRun r n fs ms) s = .next (endCmd (u.output c (healthRecord u)) r n c St.ok 0
            (bad.foldl (fun k e => k ||| 2 ^ groupDomain e.1) (fs.toNat &&& m)))))) ∧
    (∀ (s : State) (d : Fin 64) (m : Moving), ffind? s.hlt.moving d.val = some m → (m.target = .on ∨ sparesIdle s d = true) →
      let u := domArrive s d m.target
      ((∀ e ∈ u.hlt.moving, e.2.ring ≠ m.ring ∨ e.2.slot ≠ m.slot) → exec (.powerTransitionDone d) s =
        .next (intRaise (u.finish m.ring m.slot St.ok) 0 3)) ∧
      ((∃ e ∈ u.hlt.moving, e.2.ring = m.ring ∧ e.2.slot = m.slot) → exec (.powerTransitionDone d) s = .next u)) ∧
    (∀ (s : State) (k : Fin 4) (r : Fin 1024) (n : Nat), k.val < 3 → s.hlt.shutdown = false →
      (causeHolds s k = true → exec (.solitaireEnter k r n) s = .next (soloEnter s k)) ∧
      (causeHolds s k = false → exec (.solitaireEnter k r n) s = .next s)) ∧
    ∀ (s : State) (ts hs : List Int), s.pkg.inReset = false → ts ≠ [] →
      let v := s.reach (s.hlt.tempAt + 100000)
      let dt := tempPut v.hlt.dieTemp 16 ts
      let ht := tempPut v.hlt.hbmTemp 4 hs
      let peak := fun (p : Option Int) (t : Int) => some (max (p.getD t) t)
      let u := { v with hlt := { v.hlt with
        tempAt := v.ns, dieTemp := dt, hbmTemp := ht, peakDie := if dt.isEmpty then none else peak v.hlt.peakDie (hottestOf dt 0)
        peakHbm := if ht.isEmpty then none else peak v.hlt.peakHbm (hottestOf ht 0) } }
      (v.hlt.shutdown = true → dt ≠ [] → exec (.tempSample ts hs) s =
        .next (thermCrit (thermTrip (thermWarn u (hottestOf dt 0)) (hottestOf dt 0)) (hottestOf dt 0))) ∧
      (v.hlt.shutdown = false → dt ≠ [] → exec (.tempSample ts hs) s = .next (thermCrit (thermTrip (thermWarn
        (forAll u (List.range 4) stackHot) (hottestOf dt 0)) (hottestOf dt 0)) (hottestOf dt 0)))
end

