-- ==== Sys2Proof/Laws/FMap.lean ====
section
/-!
SUPPORT. Laws/FMap.lean: sparse tables: what reading after writing gives, and that writing keeps the canonical form.
-/

namespace Sys2Proof.Machine

variable {α : Type}

/-! ### Reading after writing -/

@[simp] theorem ffind?_fset_same (m : FMap α) (k : Nat) (v : α) : ffind? (fset m k v) k = some v := by
  induction m with
  | nil => simp [fset, ffind?]
  | cons e m ih =>
    obtain ⟨j, w⟩ := e
    simp only [fset]
    split
    · simp [ffind?]
    · split
      · simp [ffind?]
      · rename_i h; simp [ffind?, Ne.symm h, ih]

theorem ffind?_fset_other (m : FMap α) {k j : Nat} (v : α) (h : j ≠ k) : ffind? (fset m k v) j = ffind? m j := by
  induction m with
  | nil => simp [fset, ffind?, Ne.symm h]
  | cons e m ih =>
    obtain ⟨i, w⟩ := e
    simp only [fset]
    split
    · simp [ffind?, Ne.symm h]
    · split
      · rename_i _ hk; subst hk; simp [ffind?, Ne.symm h]
      · simp [ffind?, ih]

theorem ffind?_ferase_other (m : FMap α) {k j : Nat} (h : j ≠ k) : ffind? (ferase m k) j = ffind? m j := by
  induction m with
  | nil => simp [ferase, ffind?]
  | cons e m ih =>
    obtain ⟨i, w⟩ := e
    simp only [ferase]
    split
    · rename_i hi; subst hi; simp [ffind?, Ne.symm h]
    · simp [ffind?, ih]

theorem ffind?_none_of_sortedFrom {m : FMap α} {b k : Nat} (hm : sortedFrom b m = true) (h : k < b) : ffind? m k = none := by
  induction m generalizing b with
  | nil => rfl
  | cons e m ih =>
    obtain ⟨i, w⟩ := e
    simp only [sortedFrom, Bool.and_eq_true, decide_eq_true_eq] at hm
    have : i ≠ k := by omega
    simp [ffind?, this, ih hm.2 (by omega)]

theorem ffind?_ferase_same_from {m : FMap α} {b k : Nat} (hm : sortedFrom b m = true) : ffind? (ferase m k) k = none := by
  induction m generalizing b with
  | nil => rfl
  | cons e m ih =>
    obtain ⟨i, w⟩ := e
    simp only [sortedFrom, Bool.and_eq_true, decide_eq_true_eq] at hm
    simp only [ferase]
    split
    · rename_i h; subst h; exact ffind?_none_of_sortedFrom hm.2 (by omega)
    · rename_i h; simp [ffind?, h, ih hm.2]

theorem ffind?_ferase_same {m : FMap α} (k : Nat) (hm : FMap.sorted m = true) : ffind? (ferase m k) k = none :=
  ffind?_ferase_same_from hm

theorem ffind?_fput_other [DecidableEq α] (m : FMap α) (d : α) {k j : Nat} (v : α) (h : j ≠ k) :
    ffind? (fput m d k v) j = ffind? m j := by
  unfold fput; split
  · exact ffind?_ferase_other m h
  · exact ffind?_fset_other m v h

/-- What is read at a key after a value has been put there. -/
theorem getD_ffind?_fput [DecidableEq α] {m : FMap α} (d : α) (k : Nat) (v : α) (hm : FMap.sorted m = true) :
    (ffind? (fput m d k v) k).getD d = v := by
  unfold fput; split
  · rename_i h; simp [ffind?_ferase_same k hm, h]
  · simp

/-- Putting a value that differs from what an unlisted key reads as needs no order of keys. -/
theorem ffind?_fput_ne [DecidableEq α] (m : FMap α) {d v : α} (k : Nat) (h : v ≠ d) : ffind? (fput m d k v) k = some v := by
  simp [fput, h]

theorem fget_fput_same [DecidableEq α] {m : FMap α} (d : α) (k : Nat) (v : α) (hm : FMap.sorted m = true) :
    fget (fput m d k v) d k = v := getD_ffind?_fput d k v hm

theorem fget_fput_ne [DecidableEq α] (m : FMap α) {d v : α} (k : Nat) (h : v ≠ d) : fget (fput m d k v) d k = v := by
  simp [fget, ffind?_fput_ne m k h]

theorem fget_fput_other [DecidableEq α] (m : FMap α) (d : α) {k j : Nat} (v : α) (h : j ≠ k) :
    fget (fput m d k v) d j = fget m d j := by
  simp [fget, ffind?_fput_other m d v h]

/-! ### The canonical form -/

theorem sortedFrom_mono {m : FMap α} {a b : Nat} (h : a ≤ b) (hm : sortedFrom b m = true) : sortedFrom a m = true := by
  cases m with
  | nil => rfl
  | cons e m => simp only [sortedFrom, Bool.and_eq_true, decide_eq_true_eq] at *; exact ⟨by omega, hm.2⟩

theorem sortedFrom_fset {m : FMap α} {b k : Nat} (v : α) (hb : b ≤ k) (hm : sortedFrom b m = true) :
    sortedFrom b (fset m k v) = true := by
  induction m generalizing b with
  | nil => simp [fset, sortedFrom, hb]
  | cons e m ih =>
    obtain ⟨i, w⟩ := e
    simp only [sortedFrom, Bool.and_eq_true, decide_eq_true_eq] at hm
    simp only [fset]
    split
    · simp only [sortedFrom, Bool.and_eq_true, decide_eq_true_eq]; exact ⟨hb, by omega, hm.2⟩
    · split
      · rename_i h; subst h; simp [sortedFrom, hm]
      · simp only [sortedFrom, Bool.and_eq_true, decide_eq_true_eq]; exact ⟨hm.1, ih (by omega) hm.2⟩

theorem sortedFrom_ferase {m : FMap α} {b : Nat} (k : Nat) (hm : sortedFrom b m = true) :
    sortedFrom b (ferase m k) = true := by
  induction m generalizing b with
  | nil => rfl
  | cons e m ih =>
    obtain ⟨i, w⟩ := e
    simp only [sortedFrom, Bool.and_eq_true, decide_eq_true_eq] at hm
    simp only [ferase]
    split
    · exact sortedFrom_mono (by omega) hm.2
    · simp only [sortedFrom, Bool.and_eq_true, decide_eq_true_eq]; exact ⟨hm.1, ih hm.2⟩

theorem sortedFrom_filter {m : FMap α} {b : Nat} (p : Nat × α → Bool) (hm : sortedFrom b m = true) :
    sortedFrom b (m.filter p) = true := by
  induction m generalizing b with
  | nil => rfl
  | cons e m ih =>
    obtain ⟨i, w⟩ := e
    simp only [sortedFrom, Bool.and_eq_true, decide_eq_true_eq] at hm
    simp only [List.filter]
    split
    · simp only [sortedFrom, Bool.and_eq_true, decide_eq_true_eq]; exact ⟨hm.1, ih hm.2⟩
    · exact sortedFrom_mono (by omega) (ih hm.2)

theorem mem_fset {m : FMap α} {k : Nat} {v : α} {e : Nat × α} (h : e ∈ fset m k v) : e = (k, v) ∨ e ∈ m := by
  induction m with
  | nil => simpa [fset] using h
  | cons x m ih =>
    obtain ⟨i, w⟩ := x
    simp only [fset] at h
    split at h
    · simpa using h
    · split at h
      · rcases List.mem_cons.mp h with h | h
        · exact .inl h
        · exact .inr (List.mem_cons_of_mem _ h)
      · rcases List.mem_cons.mp h with h | h
        · exact .inr (h ▸ List.mem_cons_self ..)
        · exact (ih h).imp id (List.mem_cons_of_mem _)

theorem mem_ferase {m : FMap α} {k : Nat} {e : Nat × α} (h : e ∈ ferase m k) : e ∈ m := by
  induction m with
  | nil => simp [ferase] at h
  | cons x m ih =>
    obtain ⟨i, w⟩ := x
    simp only [ferase] at h
    split at h
    · exact List.mem_cons_of_mem _ h
    · rcases List.mem_cons.mp h with h | h
      · exact h ▸ List.mem_cons_self ..
      · exact List.mem_cons_of_mem _ (ih h)

/-- Putting a value, where an unlisted key `k` reads as `d k`, keeps the canonical form. -/
theorem canon_fput [DecidableEq α] {m : FMap α} {d : Nat → α} (k : Nat) (v : α) (hm : FMap.canon m d = true) :
    FMap.canon (fput m (d k) k v) d = true := by
  simp only [FMap.canon, FMap.sorted, FMap.pruned, Bool.and_eq_true, List.all_eq_true, decide_eq_true_eq] at *
  unfold fput; split
  · exact ⟨sortedFrom_ferase k hm.1, fun e he => hm.2 e (mem_ferase he)⟩
  · rename_i h
    refine ⟨sortedFrom_fset v (Nat.zero_le k) hm.1, fun e he => ?_⟩
    rcases mem_fset he with rfl | he
    · exact h
    · exact hm.2 e he

theorem canon_fput_const [DecidableEq α] {m : FMap α} {d : α} (k : Nat) (v : α) (hm : FMap.canon m (fun _ => d) = true) :
    FMap.canon (fput m d k v) (fun _ => d) = true := canon_fput (d := fun _ => d) k v hm

theorem canon_fputD [DecidableEq α] {m : FMap α} {d : Nat → α} (k : Nat) (v : α) (hm : FMap.canon m d = true) :
    FMap.canon (fputD m d k v) d = true := canon_fput k v hm

theorem canon_fkeep [DecidableEq α] {m : FMap α} {d : Nat → α} (p : Nat → Bool) (hm : FMap.canon m d = true) :
    FMap.canon (fkeep m p) d = true := by
  simp only [FMap.canon, FMap.sorted, FMap.pruned, fkeep, Bool.and_eq_true, List.all_eq_true, decide_eq_true_eq] at *
  exact ⟨sortedFrom_filter _ hm.1, fun e he => hm.2 e (List.mem_of_mem_filter he)⟩

theorem canon_nil [DecidableEq α] (d : Nat → α) : FMap.canon ([] : FMap α) d = true := rfl

theorem sorted_of_canon [DecidableEq α] {m : FMap α} {d : Nat → α} (hm : FMap.canon m d = true) : FMap.sorted m = true := by
  simp only [FMap.canon, Bool.and_eq_true] at hm; exact hm.1

end Sys2Proof.Machine
end

