-- ==== Sys2Proof/Laws/State.lean ====
section
/-!
SUPPORT. Laws/State.lean: one lemma for each field that an update of the state leaves alone, and what each table reads as after it has
been written.
-/

namespace Sys2Proof.Machine

open Sys2Proof

/-! setRing -/

@[simp] theorem setRing_pending (s : State) (r : Nat) (x : Ring) : (s.setRing r x).pending = s.pending := rfl
@[simp] theorem setRing_order (s : State) (r : Nat) (x : Ring) : (s.setRing r x).order = s.order := rfl
@[simp] theorem setRing_regs (s : State) (r : Nat) (x : Ring) : (s.setRing r x).regs = s.regs := rfl
@[simp] theorem setRing_latch (s : State) (r : Nat) (x : Ring) : (s.setRing r x).latch = s.latch := rfl
@[simp] theorem setRing_busRead (s : State) (r : Nat) (x : Ring) : (s.setRing r x).busRead = s.busRead := rfl
@[simp] theorem setRing_ns (s : State) (r : Nat) (x : Ring) : (s.setRing r x).ns = s.ns := rfl
@[simp] theorem setRing_freeCtr (s : State) (r : Nat) (x : Ring) : (s.setRing r x).freeCtr = s.freeCtr := rfl
@[simp] theorem setRing_out (s : State) (r : Nat) (x : Ring) : (s.setRing r x).out = s.out := rfl
@[simp] theorem setRing_hostMem (s : State) (r : Nat) (x : Ring) : (s.setRing r x).hostMem = s.hostMem := rfl
@[simp] theorem setRing_hbm (s : State) (r : Nat) (x : Ring) : (s.setRing r x).hbm = s.hbm := rfl
@[simp] theorem setRing_pkg (s : State) (r : Nat) (x : Ring) : (s.setRing r x).pkg = s.pkg := rfl
@[simp] theorem setRing_tmu (s : State) (r : Nat) (x : Ring) : (s.setRing r x).tmu = s.tmu := rfl
@[simp] theorem setRing_hlt (s : State) (r : Nat) (x : Ring) : (s.setRing r x).hlt = s.hlt := rfl
@[simp] theorem setRing_hmk (s : State) (r : Nat) (x : Ring) : (s.setRing r x).hmk = s.hmk := rfl
@[simp] theorem setRing_bpm (s : State) (r : Nat) (x : Ring) : (s.setRing r x).bpm = s.bpm := rfl
@[simp] theorem setRing_flw (s : State) (r : Nat) (x : Ring) : (s.setRing r x).flw = s.flw := rfl
@[simp] theorem setRing_prs (s : State) (r : Nat) (x : Ring) : (s.setRing r x).prs = s.prs := rfl
@[simp] theorem setRing_fwd (s : State) (r : Nat) (x : Ring) : (s.setRing r x).fwd = s.fwd := rfl
@[simp] theorem setRing_tcm (s : State) (r : Nat) (x : Ring) : (s.setRing r x).tcm = s.tcm := rfl
@[simp] theorem setRing_clusters (s : State) (r : Nat) (x : Ring) : (s.setRing r x).clusters = s.clusters := rfl
@[simp] theorem setRing_swc (s : State) (r : Nat) (x : Ring) : (s.setRing r x).swc = s.swc := rfl
@[simp] theorem setRing_tmg (s : State) (r : Nat) (x : Ring) : (s.setRing r x).tmg = s.tmg := rfl
@[simp] theorem setRing_cip (s : State) (r : Nat) (x : Ring) : (s.setRing r x).cip = s.cip := rfl
@[simp] theorem setRing_mem (s : State) (r : Nat) (x : Ring) : (s.setRing r x).mem = s.mem := rfl
@[simp] theorem setRing_lif (s : State) (r : Nat) (x : Ring) : (s.setRing r x).lif = s.lif := rfl

/-! setSlice -/

@[simp] theorem setSlice_pending (s : State) (i : Nat) (x : Slice) : (s.setSlice i x).pending = s.pending := rfl
@[simp] theorem setSlice_order (s : State) (i : Nat) (x : Slice) : (s.setSlice i x).order = s.order := rfl
@[simp] theorem setSlice_regs (s : State) (i : Nat) (x : Slice) : (s.setSlice i x).regs = s.regs := rfl
@[simp] theorem setSlice_latch (s : State) (i : Nat) (x : Slice) : (s.setSlice i x).latch = s.latch := rfl
@[simp] theorem setSlice_busRead (s : State) (i : Nat) (x : Slice) : (s.setSlice i x).busRead = s.busRead := rfl
@[simp] theorem setSlice_ns (s : State) (i : Nat) (x : Slice) : (s.setSlice i x).ns = s.ns := rfl
@[simp] theorem setSlice_freeCtr (s : State) (i : Nat) (x : Slice) : (s.setSlice i x).freeCtr = s.freeCtr := rfl
@[simp] theorem setSlice_out (s : State) (i : Nat) (x : Slice) : (s.setSlice i x).out = s.out := rfl
@[simp] theorem setSlice_hostMem (s : State) (i : Nat) (x : Slice) : (s.setSlice i x).hostMem = s.hostMem := rfl
@[simp] theorem setSlice_hbm (s : State) (i : Nat) (x : Slice) : (s.setSlice i x).hbm = s.hbm := rfl
@[simp] theorem setSlice_pkg (s : State) (i : Nat) (x : Slice) : (s.setSlice i x).pkg = s.pkg := rfl
@[simp] theorem setSlice_hif (s : State) (i : Nat) (x : Slice) : (s.setSlice i x).hif = s.hif := rfl
@[simp] theorem setSlice_tmu (s : State) (i : Nat) (x : Slice) : (s.setSlice i x).tmu = s.tmu := rfl
@[simp] theorem setSlice_hlt (s : State) (i : Nat) (x : Slice) : (s.setSlice i x).hlt = s.hlt := rfl
@[simp] theorem setSlice_hmk (s : State) (i : Nat) (x : Slice) : (s.setSlice i x).hmk = s.hmk := rfl
@[simp] theorem setSlice_bpm (s : State) (i : Nat) (x : Slice) : (s.setSlice i x).bpm = s.bpm := rfl
@[simp] theorem setSlice_prs (s : State) (i : Nat) (x : Slice) : (s.setSlice i x).prs = s.prs := rfl
@[simp] theorem setSlice_fwd (s : State) (i : Nat) (x : Slice) : (s.setSlice i x).fwd = s.fwd := rfl
@[simp] theorem setSlice_tcm (s : State) (i : Nat) (x : Slice) : (s.setSlice i x).tcm = s.tcm := rfl
@[simp] theorem setSlice_clusters (s : State) (i : Nat) (x : Slice) : (s.setSlice i x).clusters = s.clusters := rfl
@[simp] theorem setSlice_swc (s : State) (i : Nat) (x : Slice) : (s.setSlice i x).swc = s.swc := rfl
@[simp] theorem setSlice_tmg (s : State) (i : Nat) (x : Slice) : (s.setSlice i x).tmg = s.tmg := rfl
@[simp] theorem setSlice_cip (s : State) (i : Nat) (x : Slice) : (s.setSlice i x).cip = s.cip := rfl
@[simp] theorem setSlice_mem (s : State) (i : Nat) (x : Slice) : (s.setSlice i x).mem = s.mem := rfl
@[simp] theorem setSlice_lif (s : State) (i : Nat) (x : Slice) : (s.setSlice i x).lif = s.lif := rfl

/-! setPipe -/

@[simp] theorem setPipe_pending (s : State) (p : Nat) (x : Prs) : (s.setPipe p x).pending = s.pending := rfl
@[simp] theorem setPipe_order (s : State) (p : Nat) (x : Prs) : (s.setPipe p x).order = s.order := rfl
@[simp] theorem setPipe_regs (s : State) (p : Nat) (x : Prs) : (s.setPipe p x).regs = s.regs := rfl
@[simp] theorem setPipe_latch (s : State) (p : Nat) (x : Prs) : (s.setPipe p x).latch = s.latch := rfl
@[simp] theorem setPipe_busRead (s : State) (p : Nat) (x : Prs) : (s.setPipe p x).busRead = s.busRead := rfl
@[simp] theorem setPipe_ns (s : State) (p : Nat) (x : Prs) : (s.setPipe p x).ns = s.ns := rfl
@[simp] theorem setPipe_freeCtr (s : State) (p : Nat) (x : Prs) : (s.setPipe p x).freeCtr = s.freeCtr := rfl
@[simp] theorem setPipe_out (s : State) (p : Nat) (x : Prs) : (s.setPipe p x).out = s.out := rfl
@[simp] theorem setPipe_hostMem (s : State) (p : Nat) (x : Prs) : (s.setPipe p x).hostMem = s.hostMem := rfl
@[simp] theorem setPipe_hbm (s : State) (p : Nat) (x : Prs) : (s.setPipe p x).hbm = s.hbm := rfl
@[simp] theorem setPipe_pkg (s : State) (p : Nat) (x : Prs) : (s.setPipe p x).pkg = s.pkg := rfl
@[simp] theorem setPipe_hif (s : State) (p : Nat) (x : Prs) : (s.setPipe p x).hif = s.hif := rfl
@[simp] theorem setPipe_tmu (s : State) (p : Nat) (x : Prs) : (s.setPipe p x).tmu = s.tmu := rfl
@[simp] theorem setPipe_hlt (s : State) (p : Nat) (x : Prs) : (s.setPipe p x).hlt = s.hlt := rfl
@[simp] theorem setPipe_hmk (s : State) (p : Nat) (x : Prs) : (s.setPipe p x).hmk = s.hmk := rfl
@[simp] theorem setPipe_bpm (s : State) (p : Nat) (x : Prs) : (s.setPipe p x).bpm = s.bpm := rfl
@[simp] theorem setPipe_flw (s : State) (p : Nat) (x : Prs) : (s.setPipe p x).flw = s.flw := rfl
@[simp] theorem setPipe_fwd (s : State) (p : Nat) (x : Prs) : (s.setPipe p x).fwd = s.fwd := rfl
@[simp] theorem setPipe_tcm (s : State) (p : Nat) (x : Prs) : (s.setPipe p x).tcm = s.tcm := rfl
@[simp] theorem setPipe_clusters (s : State) (p : Nat) (x : Prs) : (s.setPipe p x).clusters = s.clusters := rfl
@[simp] theorem setPipe_swc (s : State) (p : Nat) (x : Prs) : (s.setPipe p x).swc = s.swc := rfl
@[simp] theorem setPipe_tmg (s : State) (p : Nat) (x : Prs) : (s.setPipe p x).tmg = s.tmg := rfl
@[simp] theorem setPipe_cip (s : State) (p : Nat) (x : Prs) : (s.setPipe p x).cip = s.cip := rfl
@[simp] theorem setPipe_mem (s : State) (p : Nat) (x : Prs) : (s.setPipe p x).mem = s.mem := rfl
@[simp] theorem setPipe_lif (s : State) (p : Nat) (x : Prs) : (s.setPipe p x).lif = s.lif := rfl

/-! setFwd -/

@[simp] theorem setFwd_pending (s : State) (p : Nat) (x : Fwd) : (s.setFwd p x).pending = s.pending := rfl
@[simp] theorem setFwd_order (s : State) (p : Nat) (x : Fwd) : (s.setFwd p x).order = s.order := rfl
@[simp] theorem setFwd_regs (s : State) (p : Nat) (x : Fwd) : (s.setFwd p x).regs = s.regs := rfl
@[simp] theorem setFwd_latch (s : State) (p : Nat) (x : Fwd) : (s.setFwd p x).latch = s.latch := rfl
@[simp] theorem setFwd_busRead (s : State) (p : Nat) (x : Fwd) : (s.setFwd p x).busRead = s.busRead := rfl
@[simp] theorem setFwd_ns (s : State) (p : Nat) (x : Fwd) : (s.setFwd p x).ns = s.ns := rfl
@[simp] theorem setFwd_freeCtr (s : State) (p : Nat) (x : Fwd) : (s.setFwd p x).freeCtr = s.freeCtr := rfl
@[simp] theorem setFwd_out (s : State) (p : Nat) (x : Fwd) : (s.setFwd p x).out = s.out := rfl
@[simp] theorem setFwd_hostMem (s : State) (p : Nat) (x : Fwd) : (s.setFwd p x).hostMem = s.hostMem := rfl
@[simp] theorem setFwd_hbm (s : State) (p : Nat) (x : Fwd) : (s.setFwd p x).hbm = s.hbm := rfl
@[simp] theorem setFwd_pkg (s : State) (p : Nat) (x : Fwd) : (s.setFwd p x).pkg = s.pkg := rfl
@[simp] theorem setFwd_hif (s : State) (p : Nat) (x : Fwd) : (s.setFwd p x).hif = s.hif := rfl
@[simp] theorem setFwd_tmu (s : State) (p : Nat) (x : Fwd) : (s.setFwd p x).tmu = s.tmu := rfl
@[simp] theorem setFwd_hlt (s : State) (p : Nat) (x : Fwd) : (s.setFwd p x).hlt = s.hlt := rfl
@[simp] theorem setFwd_hmk (s : State) (p : Nat) (x : Fwd) : (s.setFwd p x).hmk = s.hmk := rfl
@[simp] theorem setFwd_bpm (s : State) (p : Nat) (x : Fwd) : (s.setFwd p x).bpm = s.bpm := rfl
@[simp] theorem setFwd_flw (s : State) (p : Nat) (x : Fwd) : (s.setFwd p x).flw = s.flw := rfl
@[simp] theorem setFwd_prs (s : State) (p : Nat) (x : Fwd) : (s.setFwd p x).prs = s.prs := rfl
@[simp] theorem setFwd_tcm (s : State) (p : Nat) (x : Fwd) : (s.setFwd p x).tcm = s.tcm := rfl
@[simp] theorem setFwd_clusters (s : State) (p : Nat) (x : Fwd) : (s.setFwd p x).clusters = s.clusters := rfl
@[simp] theorem setFwd_swc (s : State) (p : Nat) (x : Fwd) : (s.setFwd p x).swc = s.swc := rfl
@[simp] theorem setFwd_tmg (s : State) (p : Nat) (x : Fwd) : (s.setFwd p x).tmg = s.tmg := rfl
@[simp] theorem setFwd_cip (s : State) (p : Nat) (x : Fwd) : (s.setFwd p x).cip = s.cip := rfl
@[simp] theorem setFwd_mem (s : State) (p : Nat) (x : Fwd) : (s.setFwd p x).mem = s.mem := rfl
@[simp] theorem setFwd_lif (s : State) (p : Nat) (x : Fwd) : (s.setFwd p x).lif = s.lif := rfl

/-! setTcm -/

@[simp] theorem setTcm_pending (s : State) (p : Nat) (x : Tcm) : (s.setTcm p x).pending = s.pending := rfl
@[simp] theorem setTcm_order (s : State) (p : Nat) (x : Tcm) : (s.setTcm p x).order = s.order := rfl
@[simp] theorem setTcm_regs (s : State) (p : Nat) (x : Tcm) : (s.setTcm p x).regs = s.regs := rfl
@[simp] theorem setTcm_latch (s : State) (p : Nat) (x : Tcm) : (s.setTcm p x).latch = s.latch := rfl
@[simp] theorem setTcm_busRead (s : State) (p : Nat) (x : Tcm) : (s.setTcm p x).busRead = s.busRead := rfl
@[simp] theorem setTcm_ns (s : State) (p : Nat) (x : Tcm) : (s.setTcm p x).ns = s.ns := rfl
@[simp] theorem setTcm_freeCtr (s : State) (p : Nat) (x : Tcm) : (s.setTcm p x).freeCtr = s.freeCtr := rfl
@[simp] theorem setTcm_out (s : State) (p : Nat) (x : Tcm) : (s.setTcm p x).out = s.out := rfl
@[simp] theorem setTcm_hostMem (s : State) (p : Nat) (x : Tcm) : (s.setTcm p x).hostMem = s.hostMem := rfl
@[simp] theorem setTcm_hbm (s : State) (p : Nat) (x : Tcm) : (s.setTcm p x).hbm = s.hbm := rfl
@[simp] theorem setTcm_pkg (s : State) (p : Nat) (x : Tcm) : (s.setTcm p x).pkg = s.pkg := rfl
@[simp] theorem setTcm_hif (s : State) (p : Nat) (x : Tcm) : (s.setTcm p x).hif = s.hif := rfl
@[simp] theorem setTcm_tmu (s : State) (p : Nat) (x : Tcm) : (s.setTcm p x).tmu = s.tmu := rfl
@[simp] theorem setTcm_hlt (s : State) (p : Nat) (x : Tcm) : (s.setTcm p x).hlt = s.hlt := rfl
@[simp] theorem setTcm_hmk (s : State) (p : Nat) (x : Tcm) : (s.setTcm p x).hmk = s.hmk := rfl
@[simp] theorem setTcm_bpm (s : State) (p : Nat) (x : Tcm) : (s.setTcm p x).bpm = s.bpm := rfl
@[simp] theorem setTcm_flw (s : State) (p : Nat) (x : Tcm) : (s.setTcm p x).flw = s.flw := rfl
@[simp] theorem setTcm_prs (s : State) (p : Nat) (x : Tcm) : (s.setTcm p x).prs = s.prs := rfl
@[simp] theorem setTcm_fwd (s : State) (p : Nat) (x : Tcm) : (s.setTcm p x).fwd = s.fwd := rfl
@[simp] theorem setTcm_clusters (s : State) (p : Nat) (x : Tcm) : (s.setTcm p x).clusters = s.clusters := rfl
@[simp] theorem setTcm_swc (s : State) (p : Nat) (x : Tcm) : (s.setTcm p x).swc = s.swc := rfl
@[simp] theorem setTcm_tmg (s : State) (p : Nat) (x : Tcm) : (s.setTcm p x).tmg = s.tmg := rfl
@[simp] theorem setTcm_cip (s : State) (p : Nat) (x : Tcm) : (s.setTcm p x).cip = s.cip := rfl
@[simp] theorem setTcm_mem (s : State) (p : Nat) (x : Tcm) : (s.setTcm p x).mem = s.mem := rfl
@[simp] theorem setTcm_lif (s : State) (p : Nat) (x : Tcm) : (s.setTcm p x).lif = s.lif := rfl

/-! setCluster -/

@[simp] theorem setCluster_pending (s : State) (c : Nat) (x : Cluster) : (s.setCluster c x).pending = s.pending := rfl
@[simp] theorem setCluster_order (s : State) (c : Nat) (x : Cluster) : (s.setCluster c x).order = s.order := rfl
@[simp] theorem setCluster_regs (s : State) (c : Nat) (x : Cluster) : (s.setCluster c x).regs = s.regs := rfl
@[simp] theorem setCluster_latch (s : State) (c : Nat) (x : Cluster) : (s.setCluster c x).latch = s.latch := rfl
@[simp] theorem setCluster_busRead (s : State) (c : Nat) (x : Cluster) : (s.setCluster c x).busRead = s.busRead := rfl
@[simp] theorem setCluster_ns (s : State) (c : Nat) (x : Cluster) : (s.setCluster c x).ns = s.ns := rfl
@[simp] theorem setCluster_freeCtr (s : State) (c : Nat) (x : Cluster) : (s.setCluster c x).freeCtr = s.freeCtr := rfl
@[simp] theorem setCluster_out (s : State) (c : Nat) (x : Cluster) : (s.setCluster c x).out = s.out := rfl
@[simp] theorem setCluster_hostMem (s : State) (c : Nat) (x : Cluster) : (s.setCluster c x).hostMem = s.hostMem := rfl
@[simp] theorem setCluster_hbm (s : State) (c : Nat) (x : Cluster) : (s.setCluster c x).hbm = s.hbm := rfl
@[simp] theorem setCluster_pkg (s : State) (c : Nat) (x : Cluster) : (s.setCluster c x).pkg = s.pkg := rfl
@[simp] theorem setCluster_hif (s : State) (c : Nat) (x : Cluster) : (s.setCluster c x).hif = s.hif := rfl
@[simp] theorem setCluster_tmu (s : State) (c : Nat) (x : Cluster) : (s.setCluster c x).tmu = s.tmu := rfl
@[simp] theorem setCluster_hlt (s : State) (c : Nat) (x : Cluster) : (s.setCluster c x).hlt = s.hlt := rfl
@[simp] theorem setCluster_hmk (s : State) (c : Nat) (x : Cluster) : (s.setCluster c x).hmk = s.hmk := rfl
@[simp] theorem setCluster_bpm (s : State) (c : Nat) (x : Cluster) : (s.setCluster c x).bpm = s.bpm := rfl
@[simp] theorem setCluster_flw (s : State) (c : Nat) (x : Cluster) : (s.setCluster c x).flw = s.flw := rfl
@[simp] theorem setCluster_prs (s : State) (c : Nat) (x : Cluster) : (s.setCluster c x).prs = s.prs := rfl
@[simp] theorem setCluster_fwd (s : State) (c : Nat) (x : Cluster) : (s.setCluster c x).fwd = s.fwd := rfl
@[simp] theorem setCluster_tcm (s : State) (c : Nat) (x : Cluster) : (s.setCluster c x).tcm = s.tcm := rfl
@[simp] theorem setCluster_swc (s : State) (c : Nat) (x : Cluster) : (s.setCluster c x).swc = s.swc := rfl
@[simp] theorem setCluster_tmg (s : State) (c : Nat) (x : Cluster) : (s.setCluster c x).tmg = s.tmg := rfl
@[simp] theorem setCluster_cip (s : State) (c : Nat) (x : Cluster) : (s.setCluster c x).cip = s.cip := rfl
@[simp] theorem setCluster_mem (s : State) (c : Nat) (x : Cluster) : (s.setCluster c x).mem = s.mem := rfl
@[simp] theorem setCluster_lif (s : State) (c : Nat) (x : Cluster) : (s.setCluster c x).lif = s.lif := rfl

/-! setStack -/

@[simp] theorem setStack_pending (s : State) (h : Nat) (x : Stack) : (s.setStack h x).pending = s.pending := rfl
@[simp] theorem setStack_order (s : State) (h : Nat) (x : Stack) : (s.setStack h x).order = s.order := rfl
@[simp] theorem setStack_regs (s : State) (h : Nat) (x : Stack) : (s.setStack h x).regs = s.regs := rfl
@[simp] theorem setStack_latch (s : State) (h : Nat) (x : Stack) : (s.setStack h x).latch = s.latch := rfl
@[simp] theorem setStack_busRead (s : State) (h : Nat) (x : Stack) : (s.setStack h x).busRead = s.busRead := rfl
@[simp] theorem setStack_ns (s : State) (h : Nat) (x : Stack) : (s.setStack h x).ns = s.ns := rfl
@[simp] theorem setStack_freeCtr (s : State) (h : Nat) (x : Stack) : (s.setStack h x).freeCtr = s.freeCtr := rfl
@[simp] theorem setStack_out (s : State) (h : Nat) (x : Stack) : (s.setStack h x).out = s.out := rfl
@[simp] theorem setStack_hostMem (s : State) (h : Nat) (x : Stack) : (s.setStack h x).hostMem = s.hostMem := rfl
@[simp] theorem setStack_hbm (s : State) (h : Nat) (x : Stack) : (s.setStack h x).hbm = s.hbm := rfl
@[simp] theorem setStack_pkg (s : State) (h : Nat) (x : Stack) : (s.setStack h x).pkg = s.pkg := rfl
@[simp] theorem setStack_hif (s : State) (h : Nat) (x : Stack) : (s.setStack h x).hif = s.hif := rfl
@[simp] theorem setStack_tmu (s : State) (h : Nat) (x : Stack) : (s.setStack h x).tmu = s.tmu := rfl
@[simp] theorem setStack_hlt (s : State) (h : Nat) (x : Stack) : (s.setStack h x).hlt = s.hlt := rfl
@[simp] theorem setStack_hmk (s : State) (h : Nat) (x : Stack) : (s.setStack h x).hmk = s.hmk := rfl
@[simp] theorem setStack_bpm (s : State) (h : Nat) (x : Stack) : (s.setStack h x).bpm = s.bpm := rfl
@[simp] theorem setStack_flw (s : State) (h : Nat) (x : Stack) : (s.setStack h x).flw = s.flw := rfl
@[simp] theorem setStack_prs (s : State) (h : Nat) (x : Stack) : (s.setStack h x).prs = s.prs := rfl
@[simp] theorem setStack_fwd (s : State) (h : Nat) (x : Stack) : (s.setStack h x).fwd = s.fwd := rfl
@[simp] theorem setStack_tcm (s : State) (h : Nat) (x : Stack) : (s.setStack h x).tcm = s.tcm := rfl
@[simp] theorem setStack_clusters (s : State) (h : Nat) (x : Stack) : (s.setStack h x).clusters = s.clusters := rfl
@[simp] theorem setStack_swc (s : State) (h : Nat) (x : Stack) : (s.setStack h x).swc = s.swc := rfl
@[simp] theorem setStack_tmg (s : State) (h : Nat) (x : Stack) : (s.setStack h x).tmg = s.tmg := rfl
@[simp] theorem setStack_cip (s : State) (h : Nat) (x : Stack) : (s.setStack h x).cip = s.cip := rfl
@[simp] theorem setStack_lif (s : State) (h : Nat) (x : Stack) : (s.setStack h x).lif = s.lif := rfl

/-! setPort -/

@[simp] theorem setPort_pending (s : State) (n : Nat) (x : PortSt) : (s.setPort n x).pending = s.pending := rfl
@[simp] theorem setPort_order (s : State) (n : Nat) (x : PortSt) : (s.setPort n x).order = s.order := rfl
@[simp] theorem setPort_regs (s : State) (n : Nat) (x : PortSt) : (s.setPort n x).regs = s.regs := rfl
@[simp] theorem setPort_latch (s : State) (n : Nat) (x : PortSt) : (s.setPort n x).latch = s.latch := rfl
@[simp] theorem setPort_busRead (s : State) (n : Nat) (x : PortSt) : (s.setPort n x).busRead = s.busRead := rfl
@[simp] theorem setPort_ns (s : State) (n : Nat) (x : PortSt) : (s.setPort n x).ns = s.ns := rfl
@[simp] theorem setPort_freeCtr (s : State) (n : Nat) (x : PortSt) : (s.setPort n x).freeCtr = s.freeCtr := rfl
@[simp] theorem setPort_out (s : State) (n : Nat) (x : PortSt) : (s.setPort n x).out = s.out := rfl
@[simp] theorem setPort_hostMem (s : State) (n : Nat) (x : PortSt) : (s.setPort n x).hostMem = s.hostMem := rfl
@[simp] theorem setPort_hbm (s : State) (n : Nat) (x : PortSt) : (s.setPort n x).hbm = s.hbm := rfl
@[simp] theorem setPort_pkg (s : State) (n : Nat) (x : PortSt) : (s.setPort n x).pkg = s.pkg := rfl
@[simp] theorem setPort_hif (s : State) (n : Nat) (x : PortSt) : (s.setPort n x).hif = s.hif := rfl
@[simp] theorem setPort_tmu (s : State) (n : Nat) (x : PortSt) : (s.setPort n x).tmu = s.tmu := rfl
@[simp] theorem setPort_hlt (s : State) (n : Nat) (x : PortSt) : (s.setPort n x).hlt = s.hlt := rfl
@[simp] theorem setPort_hmk (s : State) (n : Nat) (x : PortSt) : (s.setPort n x).hmk = s.hmk := rfl
@[simp] theorem setPort_bpm (s : State) (n : Nat) (x : PortSt) : (s.setPort n x).bpm = s.bpm := rfl
@[simp] theorem setPort_flw (s : State) (n : Nat) (x : PortSt) : (s.setPort n x).flw = s.flw := rfl
@[simp] theorem setPort_prs (s : State) (n : Nat) (x : PortSt) : (s.setPort n x).prs = s.prs := rfl
@[simp] theorem setPort_fwd (s : State) (n : Nat) (x : PortSt) : (s.setPort n x).fwd = s.fwd := rfl
@[simp] theorem setPort_tcm (s : State) (n : Nat) (x : PortSt) : (s.setPort n x).tcm = s.tcm := rfl
@[simp] theorem setPort_clusters (s : State) (n : Nat) (x : PortSt) : (s.setPort n x).clusters = s.clusters := rfl
@[simp] theorem setPort_swc (s : State) (n : Nat) (x : PortSt) : (s.setPort n x).swc = s.swc := rfl
@[simp] theorem setPort_tmg (s : State) (n : Nat) (x : PortSt) : (s.setPort n x).tmg = s.tmg := rfl
@[simp] theorem setPort_cip (s : State) (n : Nat) (x : PortSt) : (s.setPort n x).cip = s.cip := rfl
@[simp] theorem setPort_mem (s : State) (n : Nat) (x : PortSt) : (s.setPort n x).mem = s.mem := rfl

/-! setLane -/

@[simp] theorem setLane_pending (s : State) (n : Nat) (x : LaneSt) : (s.setLane n x).pending = s.pending := rfl
@[simp] theorem setLane_order (s : State) (n : Nat) (x : LaneSt) : (s.setLane n x).order = s.order := rfl
@[simp] theorem setLane_regs (s : State) (n : Nat) (x : LaneSt) : (s.setLane n x).regs = s.regs := rfl
@[simp] theorem setLane_latch (s : State) (n : Nat) (x : LaneSt) : (s.setLane n x).latch = s.latch := rfl
@[simp] theorem setLane_busRead (s : State) (n : Nat) (x : LaneSt) : (s.setLane n x).busRead = s.busRead := rfl
@[simp] theorem setLane_ns (s : State) (n : Nat) (x : LaneSt) : (s.setLane n x).ns = s.ns := rfl
@[simp] theorem setLane_freeCtr (s : State) (n : Nat) (x : LaneSt) : (s.setLane n x).freeCtr = s.freeCtr := rfl
@[simp] theorem setLane_out (s : State) (n : Nat) (x : LaneSt) : (s.setLane n x).out = s.out := rfl
@[simp] theorem setLane_hostMem (s : State) (n : Nat) (x : LaneSt) : (s.setLane n x).hostMem = s.hostMem := rfl
@[simp] theorem setLane_hbm (s : State) (n : Nat) (x : LaneSt) : (s.setLane n x).hbm = s.hbm := rfl
@[simp] theorem setLane_pkg (s : State) (n : Nat) (x : LaneSt) : (s.setLane n x).pkg = s.pkg := rfl
@[simp] theorem setLane_hif (s : State) (n : Nat) (x : LaneSt) : (s.setLane n x).hif = s.hif := rfl
@[simp] theorem setLane_tmu (s : State) (n : Nat) (x : LaneSt) : (s.setLane n x).tmu = s.tmu := rfl
@[simp] theorem setLane_hlt (s : State) (n : Nat) (x : LaneSt) : (s.setLane n x).hlt = s.hlt := rfl
@[simp] theorem setLane_hmk (s : State) (n : Nat) (x : LaneSt) : (s.setLane n x).hmk = s.hmk := rfl
@[simp] theorem setLane_bpm (s : State) (n : Nat) (x : LaneSt) : (s.setLane n x).bpm = s.bpm := rfl
@[simp] theorem setLane_flw (s : State) (n : Nat) (x : LaneSt) : (s.setLane n x).flw = s.flw := rfl
@[simp] theorem setLane_prs (s : State) (n : Nat) (x : LaneSt) : (s.setLane n x).prs = s.prs := rfl
@[simp] theorem setLane_fwd (s : State) (n : Nat) (x : LaneSt) : (s.setLane n x).fwd = s.fwd := rfl
@[simp] theorem setLane_tcm (s : State) (n : Nat) (x : LaneSt) : (s.setLane n x).tcm = s.tcm := rfl
@[simp] theorem setLane_clusters (s : State) (n : Nat) (x : LaneSt) : (s.setLane n x).clusters = s.clusters := rfl
@[simp] theorem setLane_swc (s : State) (n : Nat) (x : LaneSt) : (s.setLane n x).swc = s.swc := rfl
@[simp] theorem setLane_tmg (s : State) (n : Nat) (x : LaneSt) : (s.setLane n x).tmg = s.tmg := rfl
@[simp] theorem setLane_cip (s : State) (n : Nat) (x : LaneSt) : (s.setLane n x).cip = s.cip := rfl
@[simp] theorem setLane_mem (s : State) (n : Nat) (x : LaneSt) : (s.setLane n x).mem = s.mem := rfl

/-! setFrame -/

@[simp] theorem setFrame_pending (s : State) (f : Nat) (x : Frame) : (s.setFrame f x).pending = s.pending := rfl
@[simp] theorem setFrame_order (s : State) (f : Nat) (x : Frame) : (s.setFrame f x).order = s.order := rfl
@[simp] theorem setFrame_regs (s : State) (f : Nat) (x : Frame) : (s.setFrame f x).regs = s.regs := rfl
@[simp] theorem setFrame_latch (s : State) (f : Nat) (x : Frame) : (s.setFrame f x).latch = s.latch := rfl
@[simp] theorem setFrame_busRead (s : State) (f : Nat) (x : Frame) : (s.setFrame f x).busRead = s.busRead := rfl
@[simp] theorem setFrame_ns (s : State) (f : Nat) (x : Frame) : (s.setFrame f x).ns = s.ns := rfl
@[simp] theorem setFrame_freeCtr (s : State) (f : Nat) (x : Frame) : (s.setFrame f x).freeCtr = s.freeCtr := rfl
@[simp] theorem setFrame_out (s : State) (f : Nat) (x : Frame) : (s.setFrame f x).out = s.out := rfl
@[simp] theorem setFrame_hostMem (s : State) (f : Nat) (x : Frame) : (s.setFrame f x).hostMem = s.hostMem := rfl
@[simp] theorem setFrame_hbm (s : State) (f : Nat) (x : Frame) : (s.setFrame f x).hbm = s.hbm := rfl
@[simp] theorem setFrame_pkg (s : State) (f : Nat) (x : Frame) : (s.setFrame f x).pkg = s.pkg := rfl
@[simp] theorem setFrame_hif (s : State) (f : Nat) (x : Frame) : (s.setFrame f x).hif = s.hif := rfl
@[simp] theorem setFrame_tmu (s : State) (f : Nat) (x : Frame) : (s.setFrame f x).tmu = s.tmu := rfl
@[simp] theorem setFrame_hlt (s : State) (f : Nat) (x : Frame) : (s.setFrame f x).hlt = s.hlt := rfl
@[simp] theorem setFrame_hmk (s : State) (f : Nat) (x : Frame) : (s.setFrame f x).hmk = s.hmk := rfl
@[simp] theorem setFrame_bpm (s : State) (f : Nat) (x : Frame) : (s.setFrame f x).bpm = s.bpm := rfl
@[simp] theorem setFrame_flw (s : State) (f : Nat) (x : Frame) : (s.setFrame f x).flw = s.flw := rfl
@[simp] theorem setFrame_prs (s : State) (f : Nat) (x : Frame) : (s.setFrame f x).prs = s.prs := rfl
@[simp] theorem setFrame_fwd (s : State) (f : Nat) (x : Frame) : (s.setFrame f x).fwd = s.fwd := rfl
@[simp] theorem setFrame_tcm (s : State) (f : Nat) (x : Frame) : (s.setFrame f x).tcm = s.tcm := rfl
@[simp] theorem setFrame_clusters (s : State) (f : Nat) (x : Frame) : (s.setFrame f x).clusters = s.clusters := rfl
@[simp] theorem setFrame_tmg (s : State) (f : Nat) (x : Frame) : (s.setFrame f x).tmg = s.tmg := rfl
@[simp] theorem setFrame_cip (s : State) (f : Nat) (x : Frame) : (s.setFrame f x).cip = s.cip := rfl
@[simp] theorem setFrame_mem (s : State) (f : Nat) (x : Frame) : (s.setFrame f x).mem = s.mem := rfl
@[simp] theorem setFrame_lif (s : State) (f : Nat) (x : Frame) : (s.setFrame f x).lif = s.lif := rfl

/-! setQueue -/

@[simp] theorem setQueue_pending (s : State) (q : Nat) (x : QueueSt) : (s.setQueue q x).pending = s.pending := rfl
@[simp] theorem setQueue_order (s : State) (q : Nat) (x : QueueSt) : (s.setQueue q x).order = s.order := rfl
@[simp] theorem setQueue_regs (s : State) (q : Nat) (x : QueueSt) : (s.setQueue q x).regs = s.regs := rfl
@[simp] theorem setQueue_latch (s : State) (q : Nat) (x : QueueSt) : (s.setQueue q x).latch = s.latch := rfl
@[simp] theorem setQueue_busRead (s : State) (q : Nat) (x : QueueSt) : (s.setQueue q x).busRead = s.busRead := rfl
@[simp] theorem setQueue_ns (s : State) (q : Nat) (x : QueueSt) : (s.setQueue q x).ns = s.ns := rfl
@[simp] theorem setQueue_freeCtr (s : State) (q : Nat) (x : QueueSt) : (s.setQueue q x).freeCtr = s.freeCtr := rfl
@[simp] theorem setQueue_out (s : State) (q : Nat) (x : QueueSt) : (s.setQueue q x).out = s.out := rfl
@[simp] theorem setQueue_hostMem (s : State) (q : Nat) (x : QueueSt) : (s.setQueue q x).hostMem = s.hostMem := rfl
@[simp] theorem setQueue_hbm (s : State) (q : Nat) (x : QueueSt) : (s.setQueue q x).hbm = s.hbm := rfl
@[simp] theorem setQueue_pkg (s : State) (q : Nat) (x : QueueSt) : (s.setQueue q x).pkg = s.pkg := rfl
@[simp] theorem setQueue_hif (s : State) (q : Nat) (x : QueueSt) : (s.setQueue q x).hif = s.hif := rfl
@[simp] theorem setQueue_tmu (s : State) (q : Nat) (x : QueueSt) : (s.setQueue q x).tmu = s.tmu := rfl
@[simp] theorem setQueue_hlt (s : State) (q : Nat) (x : QueueSt) : (s.setQueue q x).hlt = s.hlt := rfl
@[simp] theorem setQueue_hmk (s : State) (q : Nat) (x : QueueSt) : (s.setQueue q x).hmk = s.hmk := rfl
@[simp] theorem setQueue_bpm (s : State) (q : Nat) (x : QueueSt) : (s.setQueue q x).bpm = s.bpm := rfl
@[simp] theorem setQueue_flw (s : State) (q : Nat) (x : QueueSt) : (s.setQueue q x).flw = s.flw := rfl
@[simp] theorem setQueue_prs (s : State) (q : Nat) (x : QueueSt) : (s.setQueue q x).prs = s.prs := rfl
@[simp] theorem setQueue_fwd (s : State) (q : Nat) (x : QueueSt) : (s.setQueue q x).fwd = s.fwd := rfl
@[simp] theorem setQueue_tcm (s : State) (q : Nat) (x : QueueSt) : (s.setQueue q x).tcm = s.tcm := rfl
@[simp] theorem setQueue_clusters (s : State) (q : Nat) (x : QueueSt) : (s.setQueue q x).clusters = s.clusters := rfl
@[simp] theorem setQueue_tmg (s : State) (q : Nat) (x : QueueSt) : (s.setQueue q x).tmg = s.tmg := rfl
@[simp] theorem setQueue_cip (s : State) (q : Nat) (x : QueueSt) : (s.setQueue q x).cip = s.cip := rfl
@[simp] theorem setQueue_mem (s : State) (q : Nat) (x : QueueSt) : (s.setQueue q x).mem = s.mem := rfl
@[simp] theorem setQueue_lif (s : State) (q : Nat) (x : QueueSt) : (s.setQueue q x).lif = s.lif := rfl

/-! setKeySlot -/

@[simp] theorem setKeySlot_pending (s : State) (k : Nat) (x : KeySlot) : (s.setKeySlot k x).pending = s.pending := rfl
@[simp] theorem setKeySlot_order (s : State) (k : Nat) (x : KeySlot) : (s.setKeySlot k x).order = s.order := rfl
@[simp] theorem setKeySlot_regs (s : State) (k : Nat) (x : KeySlot) : (s.setKeySlot k x).regs = s.regs := rfl
@[simp] theorem setKeySlot_latch (s : State) (k : Nat) (x : KeySlot) : (s.setKeySlot k x).latch = s.latch := rfl
@[simp] theorem setKeySlot_busRead (s : State) (k : Nat) (x : KeySlot) : (s.setKeySlot k x).busRead = s.busRead := rfl
@[simp] theorem setKeySlot_ns (s : State) (k : Nat) (x : KeySlot) : (s.setKeySlot k x).ns = s.ns := rfl
@[simp] theorem setKeySlot_freeCtr (s : State) (k : Nat) (x : KeySlot) : (s.setKeySlot k x).freeCtr = s.freeCtr := rfl
@[simp] theorem setKeySlot_out (s : State) (k : Nat) (x : KeySlot) : (s.setKeySlot k x).out = s.out := rfl
@[simp] theorem setKeySlot_hostMem (s : State) (k : Nat) (x : KeySlot) : (s.setKeySlot k x).hostMem = s.hostMem := rfl
@[simp] theorem setKeySlot_hbm (s : State) (k : Nat) (x : KeySlot) : (s.setKeySlot k x).hbm = s.hbm := rfl
@[simp] theorem setKeySlot_pkg (s : State) (k : Nat) (x : KeySlot) : (s.setKeySlot k x).pkg = s.pkg := rfl
@[simp] theorem setKeySlot_hif (s : State) (k : Nat) (x : KeySlot) : (s.setKeySlot k x).hif = s.hif := rfl
@[simp] theorem setKeySlot_tmu (s : State) (k : Nat) (x : KeySlot) : (s.setKeySlot k x).tmu = s.tmu := rfl
@[simp] theorem setKeySlot_hlt (s : State) (k : Nat) (x : KeySlot) : (s.setKeySlot k x).hlt = s.hlt := rfl
@[simp] theorem setKeySlot_hmk (s : State) (k : Nat) (x : KeySlot) : (s.setKeySlot k x).hmk = s.hmk := rfl
@[simp] theorem setKeySlot_bpm (s : State) (k : Nat) (x : KeySlot) : (s.setKeySlot k x).bpm = s.bpm := rfl
@[simp] theorem setKeySlot_flw (s : State) (k : Nat) (x : KeySlot) : (s.setKeySlot k x).flw = s.flw := rfl
@[simp] theorem setKeySlot_prs (s : State) (k : Nat) (x : KeySlot) : (s.setKeySlot k x).prs = s.prs := rfl
@[simp] theorem setKeySlot_fwd (s : State) (k : Nat) (x : KeySlot) : (s.setKeySlot k x).fwd = s.fwd := rfl
@[simp] theorem setKeySlot_tcm (s : State) (k : Nat) (x : KeySlot) : (s.setKeySlot k x).tcm = s.tcm := rfl
@[simp] theorem setKeySlot_clusters (s : State) (k : Nat) (x : KeySlot) : (s.setKeySlot k x).clusters = s.clusters := rfl
@[simp] theorem setKeySlot_swc (s : State) (k : Nat) (x : KeySlot) : (s.setKeySlot k x).swc = s.swc := rfl
@[simp] theorem setKeySlot_tmg (s : State) (k : Nat) (x : KeySlot) : (s.setKeySlot k x).tmg = s.tmg := rfl
@[simp] theorem setKeySlot_mem (s : State) (k : Nat) (x : KeySlot) : (s.setKeySlot k x).mem = s.mem := rfl
@[simp] theorem setKeySlot_lif (s : State) (k : Nat) (x : KeySlot) : (s.setKeySlot k x).lif = s.lif := rfl

/-! setGates -/

@[simp] theorem setGates_pending (s : State) (n : Nat) (x : Gates) : (s.setGates n x).pending = s.pending := rfl
@[simp] theorem setGates_order (s : State) (n : Nat) (x : Gates) : (s.setGates n x).order = s.order := rfl
@[simp] theorem setGates_regs (s : State) (n : Nat) (x : Gates) : (s.setGates n x).regs = s.regs := rfl
@[simp] theorem setGates_latch (s : State) (n : Nat) (x : Gates) : (s.setGates n x).latch = s.latch := rfl
@[simp] theorem setGates_busRead (s : State) (n : Nat) (x : Gates) : (s.setGates n x).busRead = s.busRead := rfl
@[simp] theorem setGates_ns (s : State) (n : Nat) (x : Gates) : (s.setGates n x).ns = s.ns := rfl
@[simp] theorem setGates_freeCtr (s : State) (n : Nat) (x : Gates) : (s.setGates n x).freeCtr = s.freeCtr := rfl
@[simp] theorem setGates_out (s : State) (n : Nat) (x : Gates) : (s.setGates n x).out = s.out := rfl
@[simp] theorem setGates_hostMem (s : State) (n : Nat) (x : Gates) : (s.setGates n x).hostMem = s.hostMem := rfl
@[simp] theorem setGates_hbm (s : State) (n : Nat) (x : Gates) : (s.setGates n x).hbm = s.hbm := rfl
@[simp] theorem setGates_pkg (s : State) (n : Nat) (x : Gates) : (s.setGates n x).pkg = s.pkg := rfl
@[simp] theorem setGates_hif (s : State) (n : Nat) (x : Gates) : (s.setGates n x).hif = s.hif := rfl
@[simp] theorem setGates_tmu (s : State) (n : Nat) (x : Gates) : (s.setGates n x).tmu = s.tmu := rfl
@[simp] theorem setGates_hlt (s : State) (n : Nat) (x : Gates) : (s.setGates n x).hlt = s.hlt := rfl
@[simp] theorem setGates_hmk (s : State) (n : Nat) (x : Gates) : (s.setGates n x).hmk = s.hmk := rfl
@[simp] theorem setGates_bpm (s : State) (n : Nat) (x : Gates) : (s.setGates n x).bpm = s.bpm := rfl
@[simp] theorem setGates_flw (s : State) (n : Nat) (x : Gates) : (s.setGates n x).flw = s.flw := rfl
@[simp] theorem setGates_prs (s : State) (n : Nat) (x : Gates) : (s.setGates n x).prs = s.prs := rfl
@[simp] theorem setGates_fwd (s : State) (n : Nat) (x : Gates) : (s.setGates n x).fwd = s.fwd := rfl
@[simp] theorem setGates_tcm (s : State) (n : Nat) (x : Gates) : (s.setGates n x).tcm = s.tcm := rfl
@[simp] theorem setGates_clusters (s : State) (n : Nat) (x : Gates) : (s.setGates n x).clusters = s.clusters := rfl
@[simp] theorem setGates_swc (s : State) (n : Nat) (x : Gates) : (s.setGates n x).swc = s.swc := rfl
@[simp] theorem setGates_cip (s : State) (n : Nat) (x : Gates) : (s.setGates n x).cip = s.cip := rfl
@[simp] theorem setGates_mem (s : State) (n : Nat) (x : Gates) : (s.setGates n x).mem = s.mem := rfl
@[simp] theorem setGates_lif (s : State) (n : Nat) (x : Gates) : (s.setGates n x).lif = s.lif := rfl

/-! setPfc -/

@[simp] theorem setPfc_pending (s : State) (n : Nat) (x : Pfc) : (s.setPfc n x).pending = s.pending := rfl
@[simp] theorem setPfc_order (s : State) (n : Nat) (x : Pfc) : (s.setPfc n x).order = s.order := rfl
@[simp] theorem setPfc_regs (s : State) (n : Nat) (x : Pfc) : (s.setPfc n x).regs = s.regs := rfl
@[simp] theorem setPfc_latch (s : State) (n : Nat) (x : Pfc) : (s.setPfc n x).latch = s.latch := rfl
@[simp] theorem setPfc_busRead (s : State) (n : Nat) (x : Pfc) : (s.setPfc n x).busRead = s.busRead := rfl
@[simp] theorem setPfc_ns (s : State) (n : Nat) (x : Pfc) : (s.setPfc n x).ns = s.ns := rfl
@[simp] theorem setPfc_freeCtr (s : State) (n : Nat) (x : Pfc) : (s.setPfc n x).freeCtr = s.freeCtr := rfl
@[simp] theorem setPfc_out (s : State) (n : Nat) (x : Pfc) : (s.setPfc n x).out = s.out := rfl
@[simp] theorem setPfc_hostMem (s : State) (n : Nat) (x : Pfc) : (s.setPfc n x).hostMem = s.hostMem := rfl
@[simp] theorem setPfc_hbm (s : State) (n : Nat) (x : Pfc) : (s.setPfc n x).hbm = s.hbm := rfl
@[simp] theorem setPfc_pkg (s : State) (n : Nat) (x : Pfc) : (s.setPfc n x).pkg = s.pkg := rfl
@[simp] theorem setPfc_hif (s : State) (n : Nat) (x : Pfc) : (s.setPfc n x).hif = s.hif := rfl
@[simp] theorem setPfc_tmu (s : State) (n : Nat) (x : Pfc) : (s.setPfc n x).tmu = s.tmu := rfl
@[simp] theorem setPfc_hlt (s : State) (n : Nat) (x : Pfc) : (s.setPfc n x).hlt = s.hlt := rfl
@[simp] theorem setPfc_hmk (s : State) (n : Nat) (x : Pfc) : (s.setPfc n x).hmk = s.hmk := rfl
@[simp] theorem setPfc_bpm (s : State) (n : Nat) (x : Pfc) : (s.setPfc n x).bpm = s.bpm := rfl
@[simp] theorem setPfc_flw (s : State) (n : Nat) (x : Pfc) : (s.setPfc n x).flw = s.flw := rfl
@[simp] theorem setPfc_prs (s : State) (n : Nat) (x : Pfc) : (s.setPfc n x).prs = s.prs := rfl
@[simp] theorem setPfc_fwd (s : State) (n : Nat) (x : Pfc) : (s.setPfc n x).fwd = s.fwd := rfl
@[simp] theorem setPfc_tcm (s : State) (n : Nat) (x : Pfc) : (s.setPfc n x).tcm = s.tcm := rfl
@[simp] theorem setPfc_clusters (s : State) (n : Nat) (x : Pfc) : (s.setPfc n x).clusters = s.clusters := rfl
@[simp] theorem setPfc_swc (s : State) (n : Nat) (x : Pfc) : (s.setPfc n x).swc = s.swc := rfl
@[simp] theorem setPfc_cip (s : State) (n : Nat) (x : Pfc) : (s.setPfc n x).cip = s.cip := rfl
@[simp] theorem setPfc_mem (s : State) (n : Nat) (x : Pfc) : (s.setPfc n x).mem = s.mem := rfl
@[simp] theorem setPfc_lif (s : State) (n : Nat) (x : Pfc) : (s.setPfc n x).lif = s.lif := rfl

/-! setVector -/

@[simp] theorem setVector_pending (s : State) (v : Nat) (x : Vector) : (s.setVector v x).pending = s.pending := rfl
@[simp] theorem setVector_order (s : State) (v : Nat) (x : Vector) : (s.setVector v x).order = s.order := rfl
@[simp] theorem setVector_regs (s : State) (v : Nat) (x : Vector) : (s.setVector v x).regs = s.regs := rfl
@[simp] theorem setVector_latch (s : State) (v : Nat) (x : Vector) : (s.setVector v x).latch = s.latch := rfl
@[simp] theorem setVector_busRead (s : State) (v : Nat) (x : Vector) : (s.setVector v x).busRead = s.busRead := rfl
@[simp] theorem setVector_ns (s : State) (v : Nat) (x : Vector) : (s.setVector v x).ns = s.ns := rfl
@[simp] theorem setVector_freeCtr (s : State) (v : Nat) (x : Vector) : (s.setVector v x).freeCtr = s.freeCtr := rfl
@[simp] theorem setVector_out (s : State) (v : Nat) (x : Vector) : (s.setVector v x).out = s.out := rfl
@[simp] theorem setVector_hostMem (s : State) (v : Nat) (x : Vector) : (s.setVector v x).hostMem = s.hostMem := rfl
@[simp] theorem setVector_hbm (s : State) (v : Nat) (x : Vector) : (s.setVector v x).hbm = s.hbm := rfl
@[simp] theorem setVector_pkg (s : State) (v : Nat) (x : Vector) : (s.setVector v x).pkg = s.pkg := rfl
@[simp] theorem setVector_tmu (s : State) (v : Nat) (x : Vector) : (s.setVector v x).tmu = s.tmu := rfl
@[simp] theorem setVector_hlt (s : State) (v : Nat) (x : Vector) : (s.setVector v x).hlt = s.hlt := rfl
@[simp] theorem setVector_hmk (s : State) (v : Nat) (x : Vector) : (s.setVector v x).hmk = s.hmk := rfl
@[simp] theorem setVector_bpm (s : State) (v : Nat) (x : Vector) : (s.setVector v x).bpm = s.bpm := rfl
@[simp] theorem setVector_flw (s : State) (v : Nat) (x : Vector) : (s.setVector v x).flw = s.flw := rfl
@[simp] theorem setVector_prs (s : State) (v : Nat) (x : Vector) : (s.setVector v x).prs = s.prs := rfl
@[simp] theorem setVector_fwd (s : State) (v : Nat) (x : Vector) : (s.setVector v x).fwd = s.fwd := rfl
@[simp] theorem setVector_tcm (s : State) (v : Nat) (x : Vector) : (s.setVector v x).tcm = s.tcm := rfl
@[simp] theorem setVector_clusters (s : State) (v : Nat) (x : Vector) : (s.setVector v x).clusters = s.clusters := rfl
@[simp] theorem setVector_swc (s : State) (v : Nat) (x : Vector) : (s.setVector v x).swc = s.swc := rfl
@[simp] theorem setVector_tmg (s : State) (v : Nat) (x : Vector) : (s.setVector v x).tmg = s.tmg := rfl
@[simp] theorem setVector_cip (s : State) (v : Nat) (x : Vector) : (s.setVector v x).cip = s.cip := rfl
@[simp] theorem setVector_mem (s : State) (v : Nat) (x : Vector) : (s.setVector v x).mem = s.mem := rfl
@[simp] theorem setVector_lif (s : State) (v : Nat) (x : Vector) : (s.setVector v x).lif = s.lif := rfl

/-! setReg -/

@[simp] theorem setReg_pending (s : State) (a : Nat) (v : W32) : (s.setReg a v).pending = s.pending := rfl
@[simp] theorem setReg_order (s : State) (a : Nat) (v : W32) : (s.setReg a v).order = s.order := rfl
@[simp] theorem setReg_latch (s : State) (a : Nat) (v : W32) : (s.setReg a v).latch = s.latch := rfl
@[simp] theorem setReg_busRead (s : State) (a : Nat) (v : W32) : (s.setReg a v).busRead = s.busRead := rfl
@[simp] theorem setReg_ns (s : State) (a : Nat) (v : W32) : (s.setReg a v).ns = s.ns := rfl
@[simp] theorem setReg_freeCtr (s : State) (a : Nat) (v : W32) : (s.setReg a v).freeCtr = s.freeCtr := rfl
@[simp] theorem setReg_out (s : State) (a : Nat) (v : W32) : (s.setReg a v).out = s.out := rfl
@[simp] theorem setReg_hostMem (s : State) (a : Nat) (v : W32) : (s.setReg a v).hostMem = s.hostMem := rfl
@[simp] theorem setReg_hbm (s : State) (a : Nat) (v : W32) : (s.setReg a v).hbm = s.hbm := rfl
@[simp] theorem setReg_pkg (s : State) (a : Nat) (v : W32) : (s.setReg a v).pkg = s.pkg := rfl
@[simp] theorem setReg_hif (s : State) (a : Nat) (v : W32) : (s.setReg a v).hif = s.hif := rfl
@[simp] theorem setReg_tmu (s : State) (a : Nat) (v : W32) : (s.setReg a v).tmu = s.tmu := rfl
@[simp] theorem setReg_hlt (s : State) (a : Nat) (v : W32) : (s.setReg a v).hlt = s.hlt := rfl
@[simp] theorem setReg_hmk (s : State) (a : Nat) (v : W32) : (s.setReg a v).hmk = s.hmk := rfl
@[simp] theorem setReg_bpm (s : State) (a : Nat) (v : W32) : (s.setReg a v).bpm = s.bpm := rfl
@[simp] theorem setReg_flw (s : State) (a : Nat) (v : W32) : (s.setReg a v).flw = s.flw := rfl
@[simp] theorem setReg_prs (s : State) (a : Nat) (v : W32) : (s.setReg a v).prs = s.prs := rfl
@[simp] theorem setReg_fwd (s : State) (a : Nat) (v : W32) : (s.setReg a v).fwd = s.fwd := rfl
@[simp] theorem setReg_tcm (s : State) (a : Nat) (v : W32) : (s.setReg a v).tcm = s.tcm := rfl
@[simp] theorem setReg_clusters (s : State) (a : Nat) (v : W32) : (s.setReg a v).clusters = s.clusters := rfl
@[simp] theorem setReg_swc (s : State) (a : Nat) (v : W32) : (s.setReg a v).swc = s.swc := rfl
@[simp] theorem setReg_tmg (s : State) (a : Nat) (v : W32) : (s.setReg a v).tmg = s.tmg := rfl
@[simp] theorem setReg_cip (s : State) (a : Nat) (v : W32) : (s.setReg a v).cip = s.cip := rfl
@[simp] theorem setReg_mem (s : State) (a : Nat) (v : W32) : (s.setReg a v).mem = s.mem := rfl
@[simp] theorem setReg_lif (s : State) (a : Nat) (v : W32) : (s.setReg a v).lif = s.lif := rfl

/-! setUnit -/

@[simp] theorem setUnit_pending (s : State) (u : Nat) (v : Unit128) : (s.setUnit u v).pending = s.pending := rfl
@[simp] theorem setUnit_order (s : State) (u : Nat) (v : Unit128) : (s.setUnit u v).order = s.order := rfl
@[simp] theorem setUnit_regs (s : State) (u : Nat) (v : Unit128) : (s.setUnit u v).regs = s.regs := rfl
@[simp] theorem setUnit_latch (s : State) (u : Nat) (v : Unit128) : (s.setUnit u v).latch = s.latch := rfl
@[simp] theorem setUnit_busRead (s : State) (u : Nat) (v : Unit128) : (s.setUnit u v).busRead = s.busRead := rfl
@[simp] theorem setUnit_ns (s : State) (u : Nat) (v : Unit128) : (s.setUnit u v).ns = s.ns := rfl
@[simp] theorem setUnit_freeCtr (s : State) (u : Nat) (v : Unit128) : (s.setUnit u v).freeCtr = s.freeCtr := rfl
@[simp] theorem setUnit_out (s : State) (u : Nat) (v : Unit128) : (s.setUnit u v).out = s.out := rfl
@[simp] theorem setUnit_hostMem (s : State) (u : Nat) (v : Unit128) : (s.setUnit u v).hostMem = s.hostMem := rfl
@[simp] theorem setUnit_pkg (s : State) (u : Nat) (v : Unit128) : (s.setUnit u v).pkg = s.pkg := rfl
@[simp] theorem setUnit_hif (s : State) (u : Nat) (v : Unit128) : (s.setUnit u v).hif = s.hif := rfl
@[simp] theorem setUnit_tmu (s : State) (u : Nat) (v : Unit128) : (s.setUnit u v).tmu = s.tmu := rfl
@[simp] theorem setUnit_hlt (s : State) (u : Nat) (v : Unit128) : (s.setUnit u v).hlt = s.hlt := rfl
@[simp] theorem setUnit_hmk (s : State) (u : Nat) (v : Unit128) : (s.setUnit u v).hmk = s.hmk := rfl
@[simp] theorem setUnit_bpm (s : State) (u : Nat) (v : Unit128) : (s.setUnit u v).bpm = s.bpm := rfl
@[simp] theorem setUnit_flw (s : State) (u : Nat) (v : Unit128) : (s.setUnit u v).flw = s.flw := rfl
@[simp] theorem setUnit_prs (s : State) (u : Nat) (v : Unit128) : (s.setUnit u v).prs = s.prs := rfl
@[simp] theorem setUnit_fwd (s : State) (u : Nat) (v : Unit128) : (s.setUnit u v).fwd = s.fwd := rfl
@[simp] theorem setUnit_tcm (s : State) (u : Nat) (v : Unit128) : (s.setUnit u v).tcm = s.tcm := rfl
@[simp] theorem setUnit_clusters (s : State) (u : Nat) (v : Unit128) : (s.setUnit u v).clusters = s.clusters := rfl
@[simp] theorem setUnit_swc (s : State) (u : Nat) (v : Unit128) : (s.setUnit u v).swc = s.swc := rfl
@[simp] theorem setUnit_tmg (s : State) (u : Nat) (v : Unit128) : (s.setUnit u v).tmg = s.tmg := rfl
@[simp] theorem setUnit_cip (s : State) (u : Nat) (v : Unit128) : (s.setUnit u v).cip = s.cip := rfl
@[simp] theorem setUnit_mem (s : State) (u : Nat) (v : Unit128) : (s.setUnit u v).mem = s.mem := rfl
@[simp] theorem setUnit_lif (s : State) (u : Nat) (v : Unit128) : (s.setUnit u v).lif = s.lif := rfl

/-! emit -/

@[simp] theorem emit_pending (s : State) (o : Out) : (s.emit o).pending = s.pending := rfl
@[simp] theorem emit_order (s : State) (o : Out) : (s.emit o).order = s.order := rfl
@[simp] theorem emit_regs (s : State) (o : Out) : (s.emit o).regs = s.regs := rfl
@[simp] theorem emit_latch (s : State) (o : Out) : (s.emit o).latch = s.latch := rfl
@[simp] theorem emit_busRead (s : State) (o : Out) : (s.emit o).busRead = s.busRead := rfl
@[simp] theorem emit_ns (s : State) (o : Out) : (s.emit o).ns = s.ns := rfl
@[simp] theorem emit_freeCtr (s : State) (o : Out) : (s.emit o).freeCtr = s.freeCtr := rfl
@[simp] theorem emit_hostMem (s : State) (o : Out) : (s.emit o).hostMem = s.hostMem := rfl
@[simp] theorem emit_hbm (s : State) (o : Out) : (s.emit o).hbm = s.hbm := rfl
@[simp] theorem emit_pkg (s : State) (o : Out) : (s.emit o).pkg = s.pkg := rfl
@[simp] theorem emit_hif (s : State) (o : Out) : (s.emit o).hif = s.hif := rfl
@[simp] theorem emit_tmu (s : State) (o : Out) : (s.emit o).tmu = s.tmu := rfl
@[simp] theorem emit_hlt (s : State) (o : Out) : (s.emit o).hlt = s.hlt := rfl
@[simp] theorem emit_hmk (s : State) (o : Out) : (s.emit o).hmk = s.hmk := rfl
@[simp] theorem emit_bpm (s : State) (o : Out) : (s.emit o).bpm = s.bpm := rfl
@[simp] theorem emit_flw (s : State) (o : Out) : (s.emit o).flw = s.flw := rfl
@[simp] theorem emit_prs (s : State) (o : Out) : (s.emit o).prs = s.prs := rfl
@[simp] theorem emit_fwd (s : State) (o : Out) : (s.emit o).fwd = s.fwd := rfl
@[simp] theorem emit_tcm (s : State) (o : Out) : (s.emit o).tcm = s.tcm := rfl
@[simp] theorem emit_clusters (s : State) (o : Out) : (s.emit o).clusters = s.clusters := rfl
@[simp] theorem emit_swc (s : State) (o : Out) : (s.emit o).swc = s.swc := rfl
@[simp] theorem emit_tmg (s : State) (o : Out) : (s.emit o).tmg = s.tmg := rfl
@[simp] theorem emit_cip (s : State) (o : Out) : (s.emit o).cip = s.cip := rfl
@[simp] theorem emit_mem (s : State) (o : Out) : (s.emit o).mem = s.mem := rfl
@[simp] theorem emit_lif (s : State) (o : Out) : (s.emit o).lif = s.lif := rfl

/-! modCmd -/

@[simp] theorem modCmd_pending (s : State) (r n : Nat) (f : CmdEnt → CmdEnt) : (s.modCmd r n f).pending = s.pending := rfl
@[simp] theorem modCmd_order (s : State) (r n : Nat) (f : CmdEnt → CmdEnt) : (s.modCmd r n f).order = s.order := rfl
@[simp] theorem modCmd_regs (s : State) (r n : Nat) (f : CmdEnt → CmdEnt) : (s.modCmd r n f).regs = s.regs := rfl
@[simp] theorem modCmd_latch (s : State) (r n : Nat) (f : CmdEnt → CmdEnt) : (s.modCmd r n f).latch = s.latch := rfl
@[simp] theorem modCmd_busRead (s : State) (r n : Nat) (f : CmdEnt → CmdEnt) : (s.modCmd r n f).busRead = s.busRead := rfl
@[simp] theorem modCmd_ns (s : State) (r n : Nat) (f : CmdEnt → CmdEnt) : (s.modCmd r n f).ns = s.ns := rfl
@[simp] theorem modCmd_freeCtr (s : State) (r n : Nat) (f : CmdEnt → CmdEnt) : (s.modCmd r n f).freeCtr = s.freeCtr := rfl
@[simp] theorem modCmd_out (s : State) (r n : Nat) (f : CmdEnt → CmdEnt) : (s.modCmd r n f).out = s.out := rfl
@[simp] theorem modCmd_hostMem (s : State) (r n : Nat) (f : CmdEnt → CmdEnt) : (s.modCmd r n f).hostMem = s.hostMem := rfl
@[simp] theorem modCmd_hbm (s : State) (r n : Nat) (f : CmdEnt → CmdEnt) : (s.modCmd r n f).hbm = s.hbm := rfl
@[simp] theorem modCmd_pkg (s : State) (r n : Nat) (f : CmdEnt → CmdEnt) : (s.modCmd r n f).pkg = s.pkg := rfl
@[simp] theorem modCmd_tmu (s : State) (r n : Nat) (f : CmdEnt → CmdEnt) : (s.modCmd r n f).tmu = s.tmu := rfl
@[simp] theorem modCmd_hlt (s : State) (r n : Nat) (f : CmdEnt → CmdEnt) : (s.modCmd r n f).hlt = s.hlt := rfl
@[simp] theorem modCmd_hmk (s : State) (r n : Nat) (f : CmdEnt → CmdEnt) : (s.modCmd r n f).hmk = s.hmk := rfl
@[simp] theorem modCmd_bpm (s : State) (r n : Nat) (f : CmdEnt → CmdEnt) : (s.modCmd r n f).bpm = s.bpm := rfl
@[simp] theorem modCmd_flw (s : State) (r n : Nat) (f : CmdEnt → CmdEnt) : (s.modCmd r n f).flw = s.flw := rfl
@[simp] theorem modCmd_prs (s : State) (r n : Nat) (f : CmdEnt → CmdEnt) : (s.modCmd r n f).prs = s.prs := rfl
@[simp] theorem modCmd_fwd (s : State) (r n : Nat) (f : CmdEnt → CmdEnt) : (s.modCmd r n f).fwd = s.fwd := rfl
@[simp] theorem modCmd_tcm (s : State) (r n : Nat) (f : CmdEnt → CmdEnt) : (s.modCmd r n f).tcm = s.tcm := rfl
@[simp] theorem modCmd_clusters (s : State) (r n : Nat) (f : CmdEnt → CmdEnt) : (s.modCmd r n f).clusters = s.clusters := rfl
@[simp] theorem modCmd_swc (s : State) (r n : Nat) (f : CmdEnt → CmdEnt) : (s.modCmd r n f).swc = s.swc := rfl
@[simp] theorem modCmd_tmg (s : State) (r n : Nat) (f : CmdEnt → CmdEnt) : (s.modCmd r n f).tmg = s.tmg := rfl
@[simp] theorem modCmd_cip (s : State) (r n : Nat) (f : CmdEnt → CmdEnt) : (s.modCmd r n f).cip = s.cip := rfl
@[simp] theorem modCmd_mem (s : State) (r n : Nat) (f : CmdEnt → CmdEnt) : (s.modCmd r n f).mem = s.mem := rfl
@[simp] theorem modCmd_lif (s : State) (r n : Nat) (f : CmdEnt → CmdEnt) : (s.modCmd r n f).lif = s.lif := rfl

/-! finish -/

@[simp] theorem finish_pending (s : State) (r n st d : Nat) (res : Nat) : (s.finish r n st d res).pending = s.pending := rfl
@[simp] theorem finish_order (s : State) (r n st d : Nat) (res : Nat) : (s.finish r n st d res).order = s.order := rfl
@[simp] theorem finish_regs (s : State) (r n st d : Nat) (res : Nat) : (s.finish r n st d res).regs = s.regs := rfl
@[simp] theorem finish_latch (s : State) (r n st d : Nat) (res : Nat) : (s.finish r n st d res).latch = s.latch := rfl
@[simp] theorem finish_busRead (s : State) (r n st d : Nat) (res : Nat) : (s.finish r n st d res).busRead = s.busRead := rfl
@[simp] theorem finish_ns (s : State) (r n st d : Nat) (res : Nat) : (s.finish r n st d res).ns = s.ns := rfl
@[simp] theorem finish_freeCtr (s : State) (r n st d : Nat) (res : Nat) : (s.finish r n st d res).freeCtr = s.freeCtr := rfl
@[simp] theorem finish_out (s : State) (r n st d : Nat) (res : Nat) : (s.finish r n st d res).out = s.out := rfl
@[simp] theorem finish_hostMem (s : State) (r n st d : Nat) (res : Nat) : (s.finish r n st d res).hostMem = s.hostMem := rfl
@[simp] theorem finish_hbm (s : State) (r n st d : Nat) (res : Nat) : (s.finish r n st d res).hbm = s.hbm := rfl
@[simp] theorem finish_pkg (s : State) (r n st d : Nat) (res : Nat) : (s.finish r n st d res).pkg = s.pkg := rfl
@[simp] theorem finish_tmu (s : State) (r n st d : Nat) (res : Nat) : (s.finish r n st d res).tmu = s.tmu := rfl
@[simp] theorem finish_hlt (s : State) (r n st d : Nat) (res : Nat) : (s.finish r n st d res).hlt = s.hlt := rfl
@[simp] theorem finish_hmk (s : State) (r n st d : Nat) (res : Nat) : (s.finish r n st d res).hmk = s.hmk := rfl
@[simp] theorem finish_bpm (s : State) (r n st d : Nat) (res : Nat) : (s.finish r n st d res).bpm = s.bpm := rfl
@[simp] theorem finish_flw (s : State) (r n st d : Nat) (res : Nat) : (s.finish r n st d res).flw = s.flw := rfl
@[simp] theorem finish_prs (s : State) (r n st d : Nat) (res : Nat) : (s.finish r n st d res).prs = s.prs := rfl
@[simp] theorem finish_fwd (s : State) (r n st d : Nat) (res : Nat) : (s.finish r n st d res).fwd = s.fwd := rfl
@[simp] theorem finish_tcm (s : State) (r n st d : Nat) (res : Nat) : (s.finish r n st d res).tcm = s.tcm := rfl
@[simp] theorem finish_clusters (s : State) (r n st d : Nat) (res : Nat) : (s.finish r n st d res).clusters = s.clusters := rfl
@[simp] theorem finish_swc (s : State) (r n st d : Nat) (res : Nat) : (s.finish r n st d res).swc = s.swc := rfl
@[simp] theorem finish_tmg (s : State) (r n st d : Nat) (res : Nat) : (s.finish r n st d res).tmg = s.tmg := rfl
@[simp] theorem finish_cip (s : State) (r n st d : Nat) (res : Nat) : (s.finish r n st d res).cip = s.cip := rfl
@[simp] theorem finish_mem (s : State) (r n st d : Nat) (res : Nat) : (s.finish r n st d res).mem = s.mem := rfl
@[simp] theorem finish_lif (s : State) (r n st d : Nat) (res : Nat) : (s.finish r n st d res).lif = s.lif := rfl

/-! badField -/

@[simp] theorem badField_pending (s : State) (r n : Nat) (off : Nat) : (s.badField r n off).pending = s.pending := rfl
@[simp] theorem badField_order (s : State) (r n : Nat) (off : Nat) : (s.badField r n off).order = s.order := rfl
@[simp] theorem badField_regs (s : State) (r n : Nat) (off : Nat) : (s.badField r n off).regs = s.regs := rfl
@[simp] theorem badField_latch (s : State) (r n : Nat) (off : Nat) : (s.badField r n off).latch = s.latch := rfl
@[simp] theorem badField_busRead (s : State) (r n : Nat) (off : Nat) : (s.badField r n off).busRead = s.busRead := rfl
@[simp] theorem badField_ns (s : State) (r n : Nat) (off : Nat) : (s.badField r n off).ns = s.ns := rfl
@[simp] theorem badField_freeCtr (s : State) (r n : Nat) (off : Nat) : (s.badField r n off).freeCtr = s.freeCtr := rfl
@[simp] theorem badField_out (s : State) (r n : Nat) (off : Nat) : (s.badField r n off).out = s.out := rfl
@[simp] theorem badField_hostMem (s : State) (r n : Nat) (off : Nat) : (s.badField r n off).hostMem = s.hostMem := rfl
@[simp] theorem badField_hbm (s : State) (r n : Nat) (off : Nat) : (s.badField r n off).hbm = s.hbm := rfl
@[simp] theorem badField_pkg (s : State) (r n : Nat) (off : Nat) : (s.badField r n off).pkg = s.pkg := rfl
@[simp] theorem badField_tmu (s : State) (r n : Nat) (off : Nat) : (s.badField r n off).tmu = s.tmu := rfl
@[simp] theorem badField_hlt (s : State) (r n : Nat) (off : Nat) : (s.badField r n off).hlt = s.hlt := rfl
@[simp] theorem badField_hmk (s : State) (r n : Nat) (off : Nat) : (s.badField r n off).hmk = s.hmk := rfl
@[simp] theorem badField_bpm (s : State) (r n : Nat) (off : Nat) : (s.badField r n off).bpm = s.bpm := rfl
@[simp] theorem badField_flw (s : State) (r n : Nat) (off : Nat) : (s.badField r n off).flw = s.flw := rfl
@[simp] theorem badField_prs (s : State) (r n : Nat) (off : Nat) : (s.badField r n off).prs = s.prs := rfl
@[simp] theorem badField_fwd (s : State) (r n : Nat) (off : Nat) : (s.badField r n off).fwd = s.fwd := rfl
@[simp] theorem badField_tcm (s : State) (r n : Nat) (off : Nat) : (s.badField r n off).tcm = s.tcm := rfl
@[simp] theorem badField_clusters (s : State) (r n : Nat) (off : Nat) : (s.badField r n off).clusters = s.clusters := rfl
@[simp] theorem badField_swc (s : State) (r n : Nat) (off : Nat) : (s.badField r n off).swc = s.swc := rfl
@[simp] theorem badField_tmg (s : State) (r n : Nat) (off : Nat) : (s.badField r n off).tmg = s.tmg := rfl
@[simp] theorem badField_cip (s : State) (r n : Nat) (off : Nat) : (s.badField r n off).cip = s.cip := rfl
@[simp] theorem badField_mem (s : State) (r n : Nat) (off : Nat) : (s.badField r n off).mem = s.mem := rfl
@[simp] theorem badField_lif (s : State) (r n : Nat) (off : Nat) : (s.badField r n off).lif = s.lif := rfl

/-! setRing, within hif -/

@[simp] theorem setRing_hif_speed (s : State) (r : Nat) (x : Ring) : (s.setRing r x).hif.speed = s.hif.speed := rfl
@[simp] theorem setRing_hif_width (s : State) (r : Nat) (x : Ring) : (s.setRing r x).hif.width = s.hif.width := rfl
@[simp] theorem setRing_hif_flit (s : State) (r : Nat) (x : Ring) : (s.setRing r x).hif.flit = s.hif.flit := rfl
@[simp] theorem setRing_hif_linkUp (s : State) (r : Nat) (x : Ring) : (s.setRing r x).hif.linkUp = s.hif.linkUp := rfl
@[simp] theorem setRing_hif_busOff (s : State) (r : Nat) (x : Ring) : (s.setRing r x).hif.busOff = s.hif.busOff := rfl
@[simp] theorem setRing_hif_vectors (s : State) (r : Nat) (x : Ring) : (s.setRing r x).hif.vectors = s.hif.vectors := rfl
@[simp] theorem setRing_hif_pba (s : State) (r : Nat) (x : Ring) : (s.setRing r x).hif.pba = s.hif.pba := rfl
@[simp] theorem setRing_hif_vfMsix (s : State) (r : Nat) (x : Ring) : (s.setRing r x).hif.vfMsix = s.hif.vfMsix := rfl
@[simp] theorem setRing_hif_perf (s : State) (r : Nat) (x : Ring) : (s.setRing r x).hif.perf = s.hif.perf := rfl
@[simp] theorem setRing_hif_perfVal (s : State) (r : Nat) (x : Ring) : (s.setRing r x).hif.perfVal = s.hif.perfVal := rfl
@[simp] theorem setRing_hif_snapSeq (s : State) (r : Nat) (x : Ring) : (s.setRing r x).hif.snapSeq = s.hif.snapSeq := rfl
@[simp] theorem setRing_hif_snapNs (s : State) (r : Nat) (x : Ring) : (s.setRing r x).hif.snapNs = s.hif.snapNs := rfl
@[simp] theorem setRing_hif_serve (s : State) (r : Nat) (x : Ring) : (s.setRing r x).hif.serve = s.hif.serve := rfl

/-! setSlice, within flw -/

@[simp] theorem setSlice_flw_hashKey (s : State) (i : Nat) (x : Slice) : (s.setSlice i x).flw.hashKey = s.flw.hashKey := rfl
@[simp] theorem setSlice_flw_fixedKey (s : State) (i : Nat) (x : Slice) : (s.setSlice i x).flw.fixedKey = s.flw.fixedKey := rfl
@[simp] theorem setSlice_flw_expProf (s : State) (i : Nat) (x : Slice) : (s.setSlice i x).flw.expProf = s.flw.expProf := rfl
@[simp] theorem setSlice_flw_expSeq (s : State) (i : Nat) (x : Slice) : (s.setSlice i x).flw.expSeq = s.flw.expSeq := rfl
@[simp] theorem setSlice_flw_expMsgs (s : State) (i : Nat) (x : Slice) : (s.setSlice i x).flw.expMsgs = s.flw.expMsgs := rfl
@[simp] theorem setSlice_flw_expClosed (s : State) (i : Nat) (x : Slice) : (s.setSlice i x).flw.expClosed = s.flw.expClosed := rfl
@[simp] theorem setSlice_flw_pktCount (s : State) (i : Nat) (x : Slice) : (s.setSlice i x).flw.pktCount = s.flw.pktCount := rfl
@[simp] theorem setSlice_flw_byteCount (s : State) (i : Nat) (x : Slice) : (s.setSlice i x).flw.byteCount = s.flw.byteCount := rfl

/-! setPort, within lif -/

@[simp] theorem setPort_lif_modes (s : State) (n : Nat) (x : PortSt) : (s.setPort n x).lif.modes = s.lif.modes := rfl
@[simp] theorem setPort_lif_lanes (s : State) (n : Nat) (x : PortSt) : (s.setPort n x).lif.lanes = s.lif.lanes := rfl
@[simp] theorem setPort_lif_spares (s : State) (n : Nat) (x : PortSt) : (s.setPort n x).lif.spares = s.lif.spares := rfl
@[simp] theorem setPort_lif_spareDrops (s : State) (n : Nat) (x : PortSt) : (s.setPort n x).lif.spareDrops = s.lif.spareDrops := rfl
@[simp] theorem setPort_lif_refLost (s : State) (n : Nat) (x : PortSt) : (s.setPort n x).lif.refLost = s.lif.refLost := rfl

/-! setLane, within lif -/

@[simp] theorem setLane_lif_modes (s : State) (n : Nat) (x : LaneSt) : (s.setLane n x).lif.modes = s.lif.modes := rfl
@[simp] theorem setLane_lif_ports (s : State) (n : Nat) (x : LaneSt) : (s.setLane n x).lif.ports = s.lif.ports := rfl
@[simp] theorem setLane_lif_spares (s : State) (n : Nat) (x : LaneSt) : (s.setLane n x).lif.spares = s.lif.spares := rfl
@[simp] theorem setLane_lif_spareDrops (s : State) (n : Nat) (x : LaneSt) : (s.setLane n x).lif.spareDrops = s.lif.spareDrops := rfl
@[simp] theorem setLane_lif_refLost (s : State) (n : Nat) (x : LaneSt) : (s.setLane n x).lif.refLost = s.lif.refLost := rfl

/-! setFrame, within swc -/

@[simp] theorem setFrame_swc_nextFrame (s : State) (f : Nat) (x : Frame) : (s.setFrame f x).swc.nextFrame = s.swc.nextFrame := rfl
@[simp] theorem setFrame_swc_inCells (s : State) (f : Nat) (x : Frame) : (s.setFrame f x).swc.inCells = s.swc.inCells := rfl
@[simp] theorem setFrame_swc_egCells (s : State) (f : Nat) (x : Frame) : (s.setFrame f x).swc.egCells = s.swc.egCells := rfl
@[simp] theorem setFrame_swc_segs (s : State) (f : Nat) (x : Frame) : (s.setFrame f x).swc.segs = s.swc.segs := rfl
@[simp] theorem setFrame_swc_voqs (s : State) (f : Nat) (x : Frame) : (s.setFrame f x).swc.voqs = s.swc.voqs := rfl
@[simp] theorem setFrame_swc_grantPtr (s : State) (f : Nat) (x : Frame) : (s.setFrame f x).swc.grantPtr = s.swc.grantPtr := rfl
@[simp] theorem setFrame_swc_acceptPtr (s : State) (f : Nat) (x : Frame) : (s.setFrame f x).swc.acceptPtr = s.swc.acceptPtr := rfl
@[simp] theorem setFrame_swc_matched (s : State) (f : Nat) (x : Frame) : (s.setFrame f x).swc.matched = s.swc.matched := rfl
@[simp] theorem setFrame_swc_offered (s : State) (f : Nat) (x : Frame) : (s.setFrame f x).swc.offered = s.swc.offered := rfl
@[simp] theorem setFrame_swc_queues (s : State) (f : Nat) (x : Frame) : (s.setFrame f x).swc.queues = s.swc.queues := rfl
@[simp] theorem setFrame_swc_wire (s : State) (f : Nat) (x : Frame) : (s.setFrame f x).swc.wire = s.swc.wire := rfl
@[simp] theorem setFrame_swc_blockFail (s : State) (f : Nat) (x : Frame) : (s.setFrame f x).swc.blockFail = s.swc.blockFail := rfl
@[simp] theorem setFrame_swc_badCells (s : State) (f : Nat) (x : Frame) : (s.setFrame f x).swc.badCells = s.swc.badCells := rfl
@[simp] theorem setFrame_swc_condemned (s : State) (f : Nat) (x : Frame) : (s.setFrame f x).swc.condemned = s.swc.condemned := rfl
@[simp] theorem setFrame_swc_badSpill (s : State) (f : Nat) (x : Frame) : (s.setFrame f x).swc.badSpill = s.swc.badSpill := rfl
@[simp] theorem setFrame_swc_groups (s : State) (f : Nat) (x : Frame) : (s.setFrame f x).swc.groups = s.swc.groups := rfl
@[simp] theorem setFrame_swc_rewrites (s : State) (f : Nat) (x : Frame) : (s.setFrame f x).swc.rewrites = s.swc.rewrites := rfl
@[simp] theorem setFrame_swc_links (s : State) (f : Nat) (x : Frame) : (s.setFrame f x).swc.links = s.swc.links := rfl
@[simp] theorem setFrame_swc_spillLinks (s : State) (f : Nat) (x : Frame) : (s.setFrame f x).swc.spillLinks = s.swc.spillLinks := rfl

/-! setQueue, within swc -/

@[simp] theorem setQueue_swc_frames (s : State) (q : Nat) (x : QueueSt) : (s.setQueue q x).swc.frames = s.swc.frames := rfl
@[simp] theorem setQueue_swc_nextFrame (s : State) (q : Nat) (x : QueueSt) : (s.setQueue q x).swc.nextFrame = s.swc.nextFrame := rfl
@[simp] theorem setQueue_swc_inCells (s : State) (q : Nat) (x : QueueSt) : (s.setQueue q x).swc.inCells = s.swc.inCells := rfl
@[simp] theorem setQueue_swc_egCells (s : State) (q : Nat) (x : QueueSt) : (s.setQueue q x).swc.egCells = s.swc.egCells := rfl
@[simp] theorem setQueue_swc_segs (s : State) (q : Nat) (x : QueueSt) : (s.setQueue q x).swc.segs = s.swc.segs := rfl
@[simp] theorem setQueue_swc_voqs (s : State) (q : Nat) (x : QueueSt) : (s.setQueue q x).swc.voqs = s.swc.voqs := rfl
@[simp] theorem setQueue_swc_grantPtr (s : State) (q : Nat) (x : QueueSt) : (s.setQueue q x).swc.grantPtr = s.swc.grantPtr := rfl
@[simp] theorem setQueue_swc_acceptPtr (s : State) (q : Nat) (x : QueueSt) : (s.setQueue q x).swc.acceptPtr = s.swc.acceptPtr := rfl
@[simp] theorem setQueue_swc_matched (s : State) (q : Nat) (x : QueueSt) : (s.setQueue q x).swc.matched = s.swc.matched := rfl
@[simp] theorem setQueue_swc_offered (s : State) (q : Nat) (x : QueueSt) : (s.setQueue q x).swc.offered = s.swc.offered := rfl
@[simp] theorem setQueue_swc_wire (s : State) (q : Nat) (x : QueueSt) : (s.setQueue q x).swc.wire = s.swc.wire := rfl
@[simp] theorem setQueue_swc_blockFail (s : State) (q : Nat) (x : QueueSt) : (s.setQueue q x).swc.blockFail = s.swc.blockFail := rfl
@[simp] theorem setQueue_swc_badCells (s : State) (q : Nat) (x : QueueSt) : (s.setQueue q x).swc.badCells = s.swc.badCells := rfl
@[simp] theorem setQueue_swc_condemned (s : State) (q : Nat) (x : QueueSt) : (s.setQueue q x).swc.condemned = s.swc.condemned := rfl
@[simp] theorem setQueue_swc_badSpill (s : State) (q : Nat) (x : QueueSt) : (s.setQueue q x).swc.badSpill = s.swc.badSpill := rfl
@[simp] theorem setQueue_swc_groups (s : State) (q : Nat) (x : QueueSt) : (s.setQueue q x).swc.groups = s.swc.groups := rfl
@[simp] theorem setQueue_swc_rewrites (s : State) (q : Nat) (x : QueueSt) : (s.setQueue q x).swc.rewrites = s.swc.rewrites := rfl
@[simp] theorem setQueue_swc_links (s : State) (q : Nat) (x : QueueSt) : (s.setQueue q x).swc.links = s.swc.links := rfl
@[simp] theorem setQueue_swc_spillLinks (s : State) (q : Nat) (x : QueueSt) : (s.setQueue q x).swc.spillLinks = s.swc.spillLinks := rfl

/-! setKeySlot, within cip -/

@[simp] theorem setKeySlot_cip_ready (s : State) (k : Nat) (x : KeySlot) : (s.setKeySlot k x).cip.ready = s.cip.ready := rfl
@[simp] theorem setKeySlot_cip_idleGen (s : State) (k : Nat) (x : KeySlot) : (s.setKeySlot k x).cip.idleGen = s.cip.idleGen := rfl
@[simp] theorem setKeySlot_cip_cached (s : State) (k : Nat) (x : KeySlot) : (s.setKeySlot k x).cip.cached = s.cip.cached := rfl
@[simp] theorem setKeySlot_cip_pinned (s : State) (k : Nat) (x : KeySlot) : (s.setKeySlot k x).cip.pinned = s.cip.pinned := rfl
@[simp] theorem setKeySlot_cip_dirty (s : State) (k : Nat) (x : KeySlot) : (s.setKeySlot k x).cip.dirty = s.cip.dirty := rfl
@[simp] theorem setKeySlot_cip_freed (s : State) (k : Nat) (x : KeySlot) : (s.setKeySlot k x).cip.freed = s.cip.freed := rfl
@[simp] theorem setKeySlot_cip_fresh (s : State) (k : Nat) (x : KeySlot) : (s.setKeySlot k x).cip.fresh = s.cip.fresh := rfl
@[simp] theorem setKeySlot_cip_fetching (s : State) (k : Nat) (x : KeySlot) : (s.setKeySlot k x).cip.fetching = s.cip.fetching := rfl
@[simp] theorem setKeySlot_cip_broken (s : State) (k : Nat) (x : KeySlot) : (s.setKeySlot k x).cip.broken = s.cip.broken := rfl
@[simp] theorem setKeySlot_cip_queues (s : State) (k : Nat) (x : KeySlot) : (s.setKeySlot k x).cip.queues = s.cip.queues := rfl
@[simp] theorem setKeySlot_cip_reqNo (s : State) (k : Nat) (x : KeySlot) : (s.setKeySlot k x).cip.reqNo = s.cip.reqNo := rfl
@[simp] theorem setKeySlot_cip_cores (s : State) (k : Nat) (x : KeySlot) : (s.setKeySlot k x).cip.cores = s.cip.cores := rfl
@[simp] theorem setKeySlot_cip_erasing (s : State) (k : Nat) (x : KeySlot) : (s.setKeySlot k x).cip.erasing = s.cip.erasing := rfl
@[simp] theorem setKeySlot_cip_storage (s : State) (k : Nat) (x : KeySlot) : (s.setKeySlot k x).cip.storage = s.cip.storage := rfl
@[simp] theorem setKeySlot_cip_upset (s : State) (k : Nat) (x : KeySlot) : (s.setKeySlot k x).cip.upset = s.cip.upset := rfl
@[simp] theorem setKeySlot_cip_turn (s : State) (k : Nat) (x : KeySlot) : (s.setKeySlot k x).cip.turn = s.cip.turn := rfl
@[simp] theorem setKeySlot_cip_wipes (s : State) (k : Nat) (x : KeySlot) : (s.setKeySlot k x).cip.wipes = s.cip.wipes := rfl

/-! setGates, within tmg -/

@[simp] theorem setGates_tmg_nodes (s : State) (n : Nat) (x : Gates) : (s.setGates n x).tmg.nodes = s.tmg.nodes := rfl
@[simp] theorem setGates_tmg_dyn (s : State) (n : Nat) (x : Gates) : (s.setGates n x).tmg.dyn = s.tmg.dyn := rfl
@[simp] theorem setGates_tmg_pfc (s : State) (n : Nat) (x : Gates) : (s.setGates n x).tmg.pfc = s.tmg.pfc := rfl
@[simp] theorem setGates_tmg_sampleLast (s : State) (n : Nat) (x : Gates) : (s.setGates n x).tmg.sampleLast = s.tmg.sampleLast := rfl

/-! setPfc, within tmg -/

@[simp] theorem setPfc_tmg_nodes (s : State) (n : Nat) (x : Pfc) : (s.setPfc n x).tmg.nodes = s.tmg.nodes := rfl
@[simp] theorem setPfc_tmg_dyn (s : State) (n : Nat) (x : Pfc) : (s.setPfc n x).tmg.dyn = s.tmg.dyn := rfl
@[simp] theorem setPfc_tmg_gates (s : State) (n : Nat) (x : Pfc) : (s.setPfc n x).tmg.gates = s.tmg.gates := rfl
@[simp] theorem setPfc_tmg_sampleLast (s : State) (n : Nat) (x : Pfc) : (s.setPfc n x).tmg.sampleLast = s.tmg.sampleLast := rfl

/-! setVector, within hif -/

@[simp] theorem setVector_hif_speed (s : State) (v : Nat) (x : Vector) : (s.setVector v x).hif.speed = s.hif.speed := rfl
@[simp] theorem setVector_hif_width (s : State) (v : Nat) (x : Vector) : (s.setVector v x).hif.width = s.hif.width := rfl
@[simp] theorem setVector_hif_flit (s : State) (v : Nat) (x : Vector) : (s.setVector v x).hif.flit = s.hif.flit := rfl
@[simp] theorem setVector_hif_linkUp (s : State) (v : Nat) (x : Vector) : (s.setVector v x).hif.linkUp = s.hif.linkUp := rfl
@[simp] theorem setVector_hif_busOff (s : State) (v : Nat) (x : Vector) : (s.setVector v x).hif.busOff = s.hif.busOff := rfl
@[simp] theorem setVector_hif_rings (s : State) (v : Nat) (x : Vector) : (s.setVector v x).hif.rings = s.hif.rings := rfl
@[simp] theorem setVector_hif_pba (s : State) (v : Nat) (x : Vector) : (s.setVector v x).hif.pba = s.hif.pba := rfl
@[simp] theorem setVector_hif_vfMsix (s : State) (v : Nat) (x : Vector) : (s.setVector v x).hif.vfMsix = s.hif.vfMsix := rfl
@[simp] theorem setVector_hif_perf (s : State) (v : Nat) (x : Vector) : (s.setVector v x).hif.perf = s.hif.perf := rfl
@[simp] theorem setVector_hif_perfVal (s : State) (v : Nat) (x : Vector) : (s.setVector v x).hif.perfVal = s.hif.perfVal := rfl
@[simp] theorem setVector_hif_snapSeq (s : State) (v : Nat) (x : Vector) : (s.setVector v x).hif.snapSeq = s.hif.snapSeq := rfl
@[simp] theorem setVector_hif_snapNs (s : State) (v : Nat) (x : Vector) : (s.setVector v x).hif.snapNs = s.hif.snapNs := rfl
@[simp] theorem setVector_hif_serve (s : State) (v : Nat) (x : Vector) : (s.setVector v x).hif.serve = s.hif.serve := rfl

/-! modCmd, within hif -/

@[simp] theorem modCmd_hif_speed (s : State) (r n : Nat) (f : CmdEnt → CmdEnt) : (s.modCmd r n f).hif.speed = s.hif.speed := rfl
@[simp] theorem modCmd_hif_width (s : State) (r n : Nat) (f : CmdEnt → CmdEnt) : (s.modCmd r n f).hif.width = s.hif.width := rfl
@[simp] theorem modCmd_hif_flit (s : State) (r n : Nat) (f : CmdEnt → CmdEnt) : (s.modCmd r n f).hif.flit = s.hif.flit := rfl
@[simp] theorem modCmd_hif_linkUp (s : State) (r n : Nat) (f : CmdEnt → CmdEnt) : (s.modCmd r n f).hif.linkUp = s.hif.linkUp := rfl
@[simp] theorem modCmd_hif_busOff (s : State) (r n : Nat) (f : CmdEnt → CmdEnt) : (s.modCmd r n f).hif.busOff = s.hif.busOff := rfl
@[simp] theorem modCmd_hif_vectors (s : State) (r n : Nat) (f : CmdEnt → CmdEnt) : (s.modCmd r n f).hif.vectors = s.hif.vectors := rfl
@[simp] theorem modCmd_hif_pba (s : State) (r n : Nat) (f : CmdEnt → CmdEnt) : (s.modCmd r n f).hif.pba = s.hif.pba := rfl
@[simp] theorem modCmd_hif_vfMsix (s : State) (r n : Nat) (f : CmdEnt → CmdEnt) : (s.modCmd r n f).hif.vfMsix = s.hif.vfMsix := rfl
@[simp] theorem modCmd_hif_perf (s : State) (r n : Nat) (f : CmdEnt → CmdEnt) : (s.modCmd r n f).hif.perf = s.hif.perf := rfl
@[simp] theorem modCmd_hif_perfVal (s : State) (r n : Nat) (f : CmdEnt → CmdEnt) : (s.modCmd r n f).hif.perfVal = s.hif.perfVal := rfl
@[simp] theorem modCmd_hif_snapSeq (s : State) (r n : Nat) (f : CmdEnt → CmdEnt) : (s.modCmd r n f).hif.snapSeq = s.hif.snapSeq := rfl
@[simp] theorem modCmd_hif_snapNs (s : State) (r n : Nat) (f : CmdEnt → CmdEnt) : (s.modCmd r n f).hif.snapNs = s.hif.snapNs := rfl
@[simp] theorem modCmd_hif_serve (s : State) (r n : Nat) (f : CmdEnt → CmdEnt) : (s.modCmd r n f).hif.serve = s.hif.serve := rfl

/-! finish, within hif -/

@[simp] theorem finish_hif_speed (s : State) (r n st d : Nat) (res : Nat) : (s.finish r n st d res).hif.speed = s.hif.speed := rfl
@[simp] theorem finish_hif_width (s : State) (r n st d : Nat) (res : Nat) : (s.finish r n st d res).hif.width = s.hif.width := rfl
@[simp] theorem finish_hif_flit (s : State) (r n st d : Nat) (res : Nat) : (s.finish r n st d res).hif.flit = s.hif.flit := rfl
@[simp] theorem finish_hif_linkUp (s : State) (r n st d : Nat) (res : Nat) : (s.finish r n st d res).hif.linkUp = s.hif.linkUp := rfl
@[simp] theorem finish_hif_busOff (s : State) (r n st d : Nat) (res : Nat) : (s.finish r n st d res).hif.busOff = s.hif.busOff := rfl
@[simp] theorem finish_hif_vectors (s : State) (r n st d : Nat) (res : Nat) : (s.finish r n st d res).hif.vectors = s.hif.vectors := rfl
@[simp] theorem finish_hif_pba (s : State) (r n st d : Nat) (res : Nat) : (s.finish r n st d res).hif.pba = s.hif.pba := rfl
@[simp] theorem finish_hif_vfMsix (s : State) (r n st d : Nat) (res : Nat) : (s.finish r n st d res).hif.vfMsix = s.hif.vfMsix := rfl
@[simp] theorem finish_hif_perf (s : State) (r n st d : Nat) (res : Nat) : (s.finish r n st d res).hif.perf = s.hif.perf := rfl
@[simp] theorem finish_hif_perfVal (s : State) (r n st d : Nat) (res : Nat) : (s.finish r n st d res).hif.perfVal = s.hif.perfVal := rfl
@[simp] theorem finish_hif_snapSeq (s : State) (r n st d : Nat) (res : Nat) : (s.finish r n st d res).hif.snapSeq = s.hif.snapSeq := rfl
@[simp] theorem finish_hif_snapNs (s : State) (r n st d : Nat) (res : Nat) : (s.finish r n st d res).hif.snapNs = s.hif.snapNs := rfl
@[simp] theorem finish_hif_serve (s : State) (r n st d : Nat) (res : Nat) : (s.finish r n st d res).hif.serve = s.hif.serve := rfl

/-! Reading what has been written -/

theorem setRing_ring_other (s : State) {r j : Nat} (x : Ring) (h : j ≠ r) : (s.setRing r x).ring j = s.ring j :=
  fget_fput_other _ _ x h
theorem setRing_ring_same (s : State) (r : Nat) (x : Ring) (h : FMap.sorted s.hif.rings = true) : (s.setRing r x).ring r = x :=
  fget_fput_same _ r x h
theorem setRing_ring_ne (s : State) (r : Nat) {x : Ring} (h : x ≠ ({} : Ring)) : (s.setRing r x).ring r = x :=
  fget_fput_ne _ r h

theorem setSlice_slice_other (s : State) {i j : Nat} (x : Slice) (h : j ≠ i) : (s.setSlice i x).slice j = s.slice j :=
  fget_fput_other _ _ x h
theorem setSlice_slice_same (s : State) (i : Nat) (x : Slice) (h : FMap.sorted s.flw.slices = true) : (s.setSlice i x).slice i = x :=
  fget_fput_same _ i x h
theorem setSlice_slice_ne (s : State) (i : Nat) {x : Slice} (h : x ≠ ({} : Slice)) : (s.setSlice i x).slice i = x :=
  fget_fput_ne _ i h

theorem setPipe_pipe_other (s : State) {p j : Nat} (x : Prs) (h : j ≠ p) : (s.setPipe p x).pipe j = s.pipe j :=
  fget_fput_other _ _ x h
theorem setPipe_pipe_same (s : State) (p : Nat) (x : Prs) (h : FMap.sorted s.prs = true) : (s.setPipe p x).pipe p = x :=
  fget_fput_same _ p x h
theorem setPipe_pipe_ne (s : State) (p : Nat) {x : Prs} (h : x ≠ ({} : Prs)) : (s.setPipe p x).pipe p = x :=
  fget_fput_ne _ p h

theorem setFwd_fwdOf_other (s : State) {p j : Nat} (x : Fwd) (h : j ≠ p) : (s.setFwd p x).fwdOf j = s.fwdOf j :=
  fget_fput_other _ _ x h
theorem setFwd_fwdOf_same (s : State) (p : Nat) (x : Fwd) (h : FMap.sorted s.fwd = true) : (s.setFwd p x).fwdOf p = x :=
  fget_fput_same _ p x h
theorem setFwd_fwdOf_ne (s : State) (p : Nat) {x : Fwd} (h : x ≠ ({} : Fwd)) : (s.setFwd p x).fwdOf p = x :=
  fget_fput_ne _ p h

theorem setTcm_tcmOf_other (s : State) {p j : Nat} (x : Tcm) (h : j ≠ p) : (s.setTcm p x).tcmOf j = s.tcmOf j :=
  fget_fput_other _ _ x h
theorem setTcm_tcmOf_same (s : State) (p : Nat) (x : Tcm) (h : FMap.sorted s.tcm = true) : (s.setTcm p x).tcmOf p = x :=
  fget_fput_same _ p x h
theorem setTcm_tcmOf_ne (s : State) (p : Nat) {x : Tcm} (h : x ≠ ({} : Tcm)) : (s.setTcm p x).tcmOf p = x :=
  fget_fput_ne _ p h

theorem setCluster_cluster_other (s : State) {c j : Nat} (x : Cluster) (h : j ≠ c) : (s.setCluster c x).cluster j = s.cluster j :=
  fget_fput_other _ _ x h
theorem setCluster_cluster_same (s : State) (c : Nat) (x : Cluster) (h : FMap.sorted s.clusters = true) : (s.setCluster c x).cluster c = x :=
  fget_fput_same _ c x h
theorem setCluster_cluster_ne (s : State) (c : Nat) {x : Cluster} (h : x ≠ ({} : Cluster)) : (s.setCluster c x).cluster c = x :=
  fget_fput_ne _ c h

theorem setStack_stack_other (s : State) {k j : Nat} (x : Stack) (h : j ≠ k) : (s.setStack k x).stack j = s.stack j :=
  fget_fput_other _ _ x h
theorem setStack_stack_same (s : State) (k : Nat) (x : Stack) (h : FMap.sorted s.mem = true) : (s.setStack k x).stack k = x :=
  fget_fput_same _ k x h
theorem setStack_stack_ne (s : State) (k : Nat) {x : Stack} (h : x ≠ ({} : Stack)) : (s.setStack k x).stack k = x :=
  fget_fput_ne _ k h

theorem setPort_port_other (s : State) {n j : Nat} (x : PortSt) (h : j ≠ n) : (s.setPort n x).port j = s.port j :=
  fget_fput_other _ _ x h
theorem setPort_port_same (s : State) (n : Nat) (x : PortSt) (h : FMap.sorted s.lif.ports = true) : (s.setPort n x).port n = x :=
  fget_fput_same _ n x h
theorem setPort_port_ne (s : State) (n : Nat) {x : PortSt} (h : x ≠ ({} : PortSt)) : (s.setPort n x).port n = x :=
  fget_fput_ne _ n h

theorem setLane_lane_other (s : State) {n j : Nat} (x : LaneSt) (h : j ≠ n) : (s.setLane n x).lane j = s.lane j :=
  fget_fput_other _ _ x h
theorem setLane_lane_same (s : State) (n : Nat) (x : LaneSt) (h : FMap.sorted s.lif.lanes = true) : (s.setLane n x).lane n = x :=
  fget_fput_same _ n x h
theorem setLane_lane_ne (s : State) (n : Nat) {x : LaneSt} (h : x ≠ ({} : LaneSt)) : (s.setLane n x).lane n = x :=
  fget_fput_ne _ n h

theorem setQueue_queue_other (s : State) {q j : Nat} (x : QueueSt) (h : j ≠ q) : (s.setQueue q x).queue j = s.queue j :=
  fget_fput_other _ _ x h
theorem setQueue_queue_same (s : State) (q : Nat) (x : QueueSt) (h : FMap.sorted s.swc.queues = true) : (s.setQueue q x).queue q = x :=
  fget_fput_same _ q x h
theorem setQueue_queue_ne (s : State) (q : Nat) {x : QueueSt} (h : x ≠ ({} : QueueSt)) : (s.setQueue q x).queue q = x :=
  fget_fput_ne _ q h

theorem setKeySlot_keySlot_other (s : State) {k j : Nat} (x : KeySlot) (h : j ≠ k) : (s.setKeySlot k x).keySlot j = s.keySlot j :=
  fget_fput_other _ _ x h
theorem setKeySlot_keySlot_same (s : State) (k : Nat) (x : KeySlot) (h : FMap.sorted s.cip.slots = true) : (s.setKeySlot k x).keySlot k = x :=
  fget_fput_same _ k x h
theorem setKeySlot_keySlot_ne (s : State) (k : Nat) {x : KeySlot} (h : x ≠ ({ gen := s.cip.idleGen, writes := s.cip.wipes } : KeySlot)) : (s.setKeySlot k x).keySlot k = x :=
  fget_fput_ne _ k h

theorem setGates_gatesOf_other (s : State) {n j : Nat} (x : Gates) (h : j ≠ n) : (s.setGates n x).gatesOf j = s.gatesOf j :=
  fget_fput_other _ _ x h
theorem setGates_gatesOf_same (s : State) (n : Nat) (x : Gates) (h : FMap.sorted s.tmg.gates = true) : (s.setGates n x).gatesOf n = x :=
  fget_fput_same _ n x h
theorem setGates_gatesOf_ne (s : State) (n : Nat) {x : Gates} (h : x ≠ ({} : Gates)) : (s.setGates n x).gatesOf n = x :=
  fget_fput_ne _ n h

theorem setPfc_pfcOf_other (s : State) {n j : Nat} (x : Pfc) (h : j ≠ n) : (s.setPfc n x).pfcOf j = s.pfcOf j :=
  fget_fput_other _ _ x h
theorem setPfc_pfcOf_same (s : State) (n : Nat) (x : Pfc) (h : FMap.sorted s.tmg.pfc = true) : (s.setPfc n x).pfcOf n = x :=
  fget_fput_same _ n x h
theorem setPfc_pfcOf_ne (s : State) (n : Nat) {x : Pfc} (h : x ≠ ({} : Pfc)) : (s.setPfc n x).pfcOf n = x :=
  fget_fput_ne _ n h

theorem setVector_vector_other (s : State) {v j : Nat} (x : Vector) (h : j ≠ v) : (s.setVector v x).vector j = s.vector j :=
  fget_fput_other _ _ x h
theorem setVector_vector_same (s : State) (v : Nat) (x : Vector) (h : FMap.sorted s.hif.vectors = true) : (s.setVector v x).vector v = x :=
  fget_fput_same _ v x h
theorem setVector_vector_ne (s : State) (v : Nat) {x : Vector} (h : x ≠ ({} : Vector)) : (s.setVector v x).vector v = x :=
  fget_fput_ne _ v h

@[simp] theorem setFrame_frame?_same (s : State) (f : Nat) (x : Frame) : (s.setFrame f x).frame? f = some x := by
  simp [State.frame?, State.setFrame]

theorem setFrame_frame?_other (s : State) {f j : Nat} (x : Frame) (h : j ≠ f) : (s.setFrame f x).frame? j = s.frame? j := by
  simp [State.frame?, State.setFrame, ffind?_fset_other _ _ h]

theorem setReg_reg_other (s : State) {a b : Nat} (v : W32) (h : b ≠ a) : (s.setReg a v).reg b = s.reg b := by
  simp [State.reg, State.setReg, ffind?_fput_other _ _ v h]

theorem setReg_reg_same (s : State) (a : Nat) (v : W32) (h : FMap.sorted s.regs = true) : (s.setReg a v).reg a = v :=
  getD_ffind?_fput _ _ _ h

theorem setUnit_unit_other (s : State) {u j : Nat} (v : Unit128) (h : j ≠ u) : (s.setUnit u v).unit j = s.unit j := by
  simp [State.unit, State.setUnit, fputD, ffind?_fput_other _ _ v h]

theorem setUnit_unit_same (s : State) (u : Nat) (v : Unit128) (h : FMap.sorted s.hbm = true) : (s.setUnit u v).unit u = v :=
  getD_ffind?_fput _ _ _ h

end Sys2Proof.Machine
end

