-- ==== Sys2Proof/Laws/Memory.lean ====
section
/-!
SUPPORT. Laws/Memory.lean: the memories keep their canonical form, and what a byte of host memory reads as after a write.
-/

namespace Sys2Proof.Machine

open Sys2Proof

theorem Memory.wf_iff (s : State) : Memory.wf s = true ↔
    FMap.canon s.regs regDefault = true ∧ FMap.canon s.latch (fun _ => 0) = true ∧
      FMap.canon s.hostMem (fun _ => 0) = true ∧ FMap.canon s.hbm hbmDefault = true := by
  simp [Memory.wf, and_assoc]

/-- Two states with the same memories are canonical together. -/
theorem Memory.wf_congr {s t : State} (h : Memory.wf s = true) (h1 : t.regs = s.regs) (h2 : t.latch = s.latch)
    (h3 : t.hostMem = s.hostMem) (h4 : t.hbm = s.hbm) : Memory.wf t = true := by
  rw [Memory.wf_iff] at *; rw [h1, h2, h3, h4]; exact h

theorem Memory.wf_regs {s : State} (h : Memory.wf s = true) : FMap.canon s.regs regDefault = true := ((Memory.wf_iff s).mp h).1
theorem Memory.wf_latch {s : State} (h : Memory.wf s = true) : FMap.canon s.latch (fun _ => 0) = true := ((Memory.wf_iff s).mp h).2.1
theorem Memory.wf_hostMem {s : State} (h : Memory.wf s = true) : FMap.canon s.hostMem (fun _ => 0) = true :=
  ((Memory.wf_iff s).mp h).2.2.1
theorem Memory.wf_hbm {s : State} (h : Memory.wf s = true) : FMap.canon s.hbm hbmDefault = true := ((Memory.wf_iff s).mp h).2.2.2

theorem setReg_wf (s : State) (a : Nat) (v : W32) (h : Memory.wf s = true) : Memory.wf (s.setReg a v) = true := by
  rw [Memory.wf_iff] at *; exact ⟨canon_fput (d := regDefault) a v h.1, h.2⟩

theorem setUnit_wf (s : State) (u : Nat) (v : Unit128) (h : Memory.wf s = true) : Memory.wf (s.setUnit u v) = true := by
  rw [Memory.wf_iff] at *; exact ⟨h.1, h.2.1, h.2.2.1, canon_fputD u v h.2.2.2⟩

/-- One byte put into host memory. -/
theorem hostPut_wf (s : State) (a : Nat) (b : Byte) (h : Memory.wf s = true) :
    Memory.wf { s with hostMem := fput s.hostMem 0 a b } = true := by
  rw [Memory.wf_iff] at *; exact ⟨h.1, h.2.1, canon_fput_const a b h.2.2.1, h.2.2.2⟩

theorem hostWrite_wf (s : State) (a : Nat) (bs : List Byte) (h : Memory.wf s = true) : Memory.wf (hostWrite s a bs) = true := by
  induction bs generalizing s a with
  | nil => exact h
  | cons b bs ih => exact ih _ _ (hostPut_wf s _ b h)

theorem reset_wf : Memory.wf State.reset = true := by decide

/-! ### What a write of host memory leaves alone -/

/-- A write of host memory changes host memory alone. -/
theorem hostWrite_eq (s : State) (a : Nat) (bs : List Byte) : hostWrite s a bs = { s with hostMem := (hostWrite s a bs).hostMem } := by
  induction bs generalizing s a with
  | nil => rfl
  | cons b bs ih => rw [hostWrite, ih]

@[simp] theorem hostWrite_regs (s : State) (a : Nat) (bs : List Byte) : (hostWrite s a bs).regs = s.regs := by rw [hostWrite_eq]
@[simp] theorem hostWrite_hif (s : State) (a : Nat) (bs : List Byte) : (hostWrite s a bs).hif = s.hif := by rw [hostWrite_eq]
@[simp] theorem hostWrite_hbm (s : State) (a : Nat) (bs : List Byte) : (hostWrite s a bs).hbm = s.hbm := by rw [hostWrite_eq]
@[simp] theorem hostWrite_latch (s : State) (a : Nat) (bs : List Byte) : (hostWrite s a bs).latch = s.latch := by rw [hostWrite_eq]
@[simp] theorem hostWrite_ns (s : State) (a : Nat) (bs : List Byte) : (hostWrite s a bs).ns = s.ns := by rw [hostWrite_eq]
@[simp] theorem hostWrite_tmu (s : State) (a : Nat) (bs : List Byte) : (hostWrite s a bs).tmu = s.tmu := by rw [hostWrite_eq]
@[simp] theorem hostWrite_pending (s : State) (a : Nat) (bs : List Byte) : (hostWrite s a bs).pending = s.pending := by rw [hostWrite_eq]

/-- A byte outside a write reads as before. -/
theorem hostWrite_hbyte_other (s : State) (a b : Nat) (bs : List Byte)
    (h : ∀ i, i < bs.length → b % 2 ^ 64 ≠ (a + i) % 2 ^ 64) : (hostWrite s a bs).hbyte b = s.hbyte b := by
  induction bs generalizing s a with
  | nil => rfl
  | cons x xs ih =>
    rw [hostWrite, ih _ _ (fun i hi => by have := h (i + 1) (by simp; omega); rwa [show a + 1 + i = a + (i + 1) by omega])]
    have h0 := h 0 (by simp)
    exact fget_fput_other _ _ _ (by simpa using h0)

/-- A byte within a write that does not wrap onto itself reads as written. -/
theorem hostWrite_hbyte_same (s : State) (a i : Nat) (bs : List Byte) (hs : Memory.wf s = true) (hi : i < bs.length)
    (hl : bs.length ≤ 2 ^ 64) : (hostWrite s a bs).hbyte (a + i) = bs.getD i 0 := by
  induction bs generalizing s a i with
  | nil => simp at hi
  | cons x xs ih =>
    simp only [List.length_cons] at hl hi
    rw [hostWrite]
    cases i with
    | zero =>
      rw [hostWrite_hbyte_other]
      · have := sorted_of_canon (Memory.wf_hostMem hs)
        simp only [State.hbyte, Nat.add_zero, List.getD_cons_zero]
        exact fget_fput_same _ _ _ this
      · intro j hj; omega
    | succ i =>
      rw [show a + (i + 1) = a + 1 + i by omega, ih _ _ _ (hostPut_wf s _ x hs) (by omega) (by omega)]
      simp

end Sys2Proof.Machine
end

