-- ==== Sys2Proof/Laws/Ops.lean ====
section
/-!
SUPPORT. Laws/Ops.lean: for the shared operations, everything that each can do.
-/

namespace Sys2Proof.Machine

open Sys2Proof

/-! ### Time -/

theorem clk10Rise_eq (s : State) (m k : Nat) :
    clk10Rise s m k = { s with tmu := (clk10Rise s m k).tmu, out := (clk10Rise s m k).out } := by
  unfold clk10Rise; split <;> rfl

/-- Steps that change the timing unit and the output alone change nothing else together. -/
theorem foldl_tmu_out (f : State → Nat → State) (hf : ∀ s i, f s i = { s with tmu := (f s i).tmu, out := (f s i).out })
    (xs : List Nat) (s : State) : xs.foldl f s = { s with tmu := (xs.foldl f s).tmu, out := (xs.foldl f s).out } := by
  induction xs generalizing s with
  | nil => rfl
  | cons x xs ih => rw [List.foldl_cons, ih, hf s x]

theorem clk10Edges_eq (s : State) (a b k : Nat) :
    clk10Edges s a b k = { s with tmu := (clk10Edges s a b k).tmu, out := (clk10Edges s a b k).out } := by
  unfold clk10Edges; split
  · exact foldl_tmu_out _ (fun s i => clk10Rise_eq s _ _) _ _
  · rfl

/-- Time that goes on changes real time, the timing unit and the edges of CLK10M_OUT alone. -/
theorem advance_eq (s : State) (n : Nat) :
    s.advance n = { s with ns := s.ns + n, tmu := (s.advance n).tmu, out := (s.advance n).out } := by
  unfold State.advance; dsimp only; split
  · rw [clk10Edges_eq]
  · rfl

/-- An event that is due at a time leaves it reached, and nothing but real time, the timing unit and the edges of CLK10M_OUT changed. -/
theorem reach_eq (s : State) (t : Nat) :
    s.reach t = { s with ns := s.ns + (t - s.ns), tmu := (s.reach t).tmu, out := (s.reach t).out } :=
  advance_eq s _

theorem reach_ns (s : State) (t : Nat) : (s.reach t).ns = max s.ns t := by
  rw [reach_eq]; dsimp only; omega

@[simp] theorem reach_pending (s : State) (t : Nat) : (s.reach t).pending = s.pending := by rw [reach_eq]
@[simp] theorem reach_regs (s : State) (t : Nat) : (s.reach t).regs = s.regs := by rw [reach_eq]
@[simp] theorem reach_latch (s : State) (t : Nat) : (s.reach t).latch = s.latch := by rw [reach_eq]
@[simp] theorem reach_busRead (s : State) (t : Nat) : (s.reach t).busRead = s.busRead := by rw [reach_eq]
@[simp] theorem reach_freeCtr (s : State) (t : Nat) : (s.reach t).freeCtr = s.freeCtr := by rw [reach_eq]
@[simp] theorem reach_order (s : State) (t : Nat) : (s.reach t).order = s.order := by rw [reach_eq]
@[simp] theorem reach_hostMem (s : State) (t : Nat) : (s.reach t).hostMem = s.hostMem := by rw [reach_eq]
@[simp] theorem reach_hbm (s : State) (t : Nat) : (s.reach t).hbm = s.hbm := by rw [reach_eq]
@[simp] theorem reach_pkg (s : State) (t : Nat) : (s.reach t).pkg = s.pkg := by rw [reach_eq]
@[simp] theorem reach_hif (s : State) (t : Nat) : (s.reach t).hif = s.hif := by rw [reach_eq]
@[simp] theorem reach_hlt (s : State) (t : Nat) : (s.reach t).hlt = s.hlt := by rw [reach_eq]
@[simp] theorem reach_hmk (s : State) (t : Nat) : (s.reach t).hmk = s.hmk := by rw [reach_eq]
@[simp] theorem reach_bpm (s : State) (t : Nat) : (s.reach t).bpm = s.bpm := by rw [reach_eq]
@[simp] theorem reach_flw (s : State) (t : Nat) : (s.reach t).flw = s.flw := by rw [reach_eq]
@[simp] theorem reach_prs (s : State) (t : Nat) : (s.reach t).prs = s.prs := by rw [reach_eq]
@[simp] theorem reach_fwd (s : State) (t : Nat) : (s.reach t).fwd = s.fwd := by rw [reach_eq]
@[simp] theorem reach_tcm (s : State) (t : Nat) : (s.reach t).tcm = s.tcm := by rw [reach_eq]
@[simp] theorem reach_clusters (s : State) (t : Nat) : (s.reach t).clusters = s.clusters := by rw [reach_eq]
@[simp] theorem reach_swc (s : State) (t : Nat) : (s.reach t).swc = s.swc := by rw [reach_eq]
@[simp] theorem reach_tmg (s : State) (t : Nat) : (s.reach t).tmg = s.tmg := by rw [reach_eq]
@[simp] theorem reach_cip (s : State) (t : Nat) : (s.reach t).cip = s.cip := by rw [reach_eq]
@[simp] theorem reach_mem (s : State) (t : Nat) : (s.reach t).mem = s.mem := by rw [reach_eq]
@[simp] theorem reach_lif (s : State) (t : Nat) : (s.reach t).lif = s.lif := by rw [reach_eq]

/-! ### The life of a command -/

/-- A command that its ring hands over runs its meaning. -/
theorem onCmd_of_handed {s : State} {r n op : Nat} {c : CmdEnt} (h : Handed s r n op c) (f : CmdEnt → State) :
    onCmd s r n op f = .next (f c) := by
  obtain ⟨h1, h2, h3, h4, h5⟩ := h
  simp [onCmd, h1, h2, h3, h4, h5]

/-- Whatever stands in the rings, a command's event runs its meaning, ends the command BUSY or changes nothing. -/
theorem onCmd_cases (s : State) (r n op : Nat) (f : CmdEnt → State) :
    (∃ c, s.next? r = some c ∧ c.slot = n ∧ descOp c.desc = op ∧ onCmd s r n op f = .next (f c)) ∨
      (∃ c, s.next? r = some c ∧ onCmd s r n op f = .next ((unlockCmd s c r n).finish r n St.busy)) ∨ onCmd s r n op f = .next s := by
  unfold onCmd
  split
  · rename_i c hc
    split
    · rename_i h
      simp only [Bool.and_eq_true, beq_iff_eq] at h
      split
      · exact .inl ⟨c, hc, h.1.1, h.1.2, rfl⟩
      · exact .inr (.inl ⟨c, hc, rfl⟩)
    · exact .inr (.inr rfl)
  · exact .inr (.inr rfl)

theorem onBar_open {s : State} (h : barOpen s = true) (t : State) : onBar s t = .next t := by simp [onBar, h]
theorem onBar2_up {s : State} (h : barUp s = true) (t : State) : onBar2 s t = .next t := by simp [onBar2, h]

theorem modCmd_ring_other (s : State) {r q : Nat} (n : Nat) (f : CmdEnt → CmdEnt) (h : q ≠ r) :
    (s.modCmd r n f).ring q = s.ring q := setRing_ring_other _ _ h

theorem modCmd_ring_same (s : State) (r n : Nat) (f : CmdEnt → CmdEnt) (h : (s.ring r).cmds ≠ []) :
    (s.modCmd r n f).ring r = { s.ring r with cmds := (s.ring r).cmds.map fun c => if c.slot == n then f c else c } := by
  refine setRing_ring_ne _ _ fun e => h ?_
  have := congrArg Ring.cmds e
  simpa using this

theorem finish_ring_other (s : State) {r q : Nat} (n st d res : Nat) (h : q ≠ r) : (s.finish r n st d res).ring q = s.ring q :=
  modCmd_ring_other _ _ _ h

/-! ### Counters, messages and interrupts -/

theorem perfCount_eq (s : State) (a hi lo n : Nat) :
    perfCount s a hi lo n = { s with hif := { s.hif with perf := (perfCount s a hi lo n).hif.perf } } := rfl

@[simp] theorem perfCount_regs (s : State) (a hi lo n : Nat) : (perfCount s a hi lo n).regs = s.regs := rfl

/-- Counting an event changes that counter register and the performance counters alone. -/
theorem bump_regs (s : State) (a : Nat) :
    (s.bump a).regs = (s.setReg a (BitVec.ofNat 32 (satAdd (2 ^ 32 - 1) (s.reg a).toNat 1))).regs := rfl

theorem bump_reg_other (s : State) {a b : Nat} (h : b ≠ a) : (s.bump a).reg b = s.reg b :=
  setReg_reg_other s _ h

/-- Sending an MSI-X message changes the pending bits or what the outside sees, and nothing else. -/
theorem msixSend_cases (s : State) (fn e : Nat) :
    (∃ p, msixSend s fn e = { s with hif := { s.hif with pba := p } }) ∨ msixSend s fn e = s.emit (.msix fn e) := by
  unfold msixSend; split
  · exact .inl ⟨_, rfl⟩
  · exact .inr rfl

theorem msixSend_regs (s : State) (fn e : Nat) : (msixSend s fn e).regs = s.regs := by
  rcases msixSend_cases s fn e with ⟨p, h⟩ | h <;> rw [h] <;> rfl

theorem msixSend_wf (s : State) (fn e : Nat) (h : Memory.wf s = true) : Memory.wf (msixSend s fn e) = true := by
  rcases msixSend_cases s fn e with ⟨p, h'⟩ | h' <;> rw [h'] <;> exact h

/-- A device vector's message goes through its owner's table, or through the PF's. -/
theorem vectorMsg_cases (s : State) (v : Nat) : ∃ fn e, vectorMsg s v = msixSend s fn e := by
  unfold vectorMsg; split <;> exact ⟨_, _, rfl⟩

/-- Setting a source stores the group's status, and sends at most the group's one message. -/
theorem intStore_cases (s : State) (g a : Nat) (v : W32) :
    intStore s g a v = s.setReg a v ∨ intStore s g a v = intMsg (s.setReg a v) g := by
  unfold intStore
  dsimp only
  split
  · exact .inr rfl
  · exact .inl rfl

theorem intStore_regs (s : State) (g a : Nat) (v : W32) : (intStore s g a v).regs = (s.setReg a v).regs := by
  rcases intStore_cases s g a v with h | h
  · rw [h]
  · rw [h]; exact msixSend_regs _ _ _

/-! ### Vectors -/

/-- A vector's sending condition either does nothing or clears the vector and sends its message. -/
theorem vectorTry_cases (s : State) (v : Nat) :
    vectorTry s v = s ∨ vectorTry s v = vectorMsg (s.setVector v {}) v := by
  unfold vectorTry; split
  · exact .inr rfl
  · exact .inl rfl

/-- Counting towards a vector changes vectors, pending bits and what the outside sees: neither registers nor host memory nor rings. -/
theorem vectorCount_keeps (s : State) (v : Nat) : (vectorCount s v).regs = s.regs ∧ (vectorCount s v).hostMem = s.hostMem ∧
    (vectorCount s v).hif.rings = s.hif.rings ∧ (vectorCount s v).latch = s.latch ∧ (vectorCount s v).hbm = s.hbm := by
  unfold vectorCount
  dsimp only
  rcases vectorTry_cases (s.setVector v { s.vector v with count := (s.vector v).count + 1, since := some ((s.vector v).since.getD s.ns) })
    v with h | h
  · rw [h]; exact ⟨rfl, rfl, rfl, rfl, rfl⟩
  · rw [h]
    obtain ⟨fn, e, h2⟩ := vectorMsg_cases _ v
    rw [h2]
    rcases msixSend_cases _ fn e with ⟨p, h3⟩ | h3 <;> rw [h3] <;> exact ⟨rfl, rfl, rfl, rfl, rfl⟩

/-! ### Event rings -/

/-- What an event is written as, or that it is not written. -/
theorem eventWrite_cases (s : State) (r typ : Nat) (fs : List (Nat × Nat × Nat)) :
    (eventRoom s r = true ∧ (eventWrite s r typ fs).2 = true ∧
      ∃ u, (u = (hostWrite s (slotAddr s r (s.ring r).dev) (bytesOf (pack 512 (fs ++ [(7, 0, typ), (8, 8, (s.ring r).phase.toNat),
          (9, 9, (s.ring r).gap.toNat), (31, 16, (s.ring r).seq), (63, 32, s.tick)])))).setRing r
            { s.ring r with dev := ((s.ring r).dev + 1) % ringSize s r
                            phase := if ((s.ring r).dev + 1) % ringSize s r = 0 then !(s.ring r).phase else (s.ring r).phase
                            seq := ((s.ring r).seq + 1) % 2 ^ 16, gap := false }) ∧
        ((eventWrite s r typ fs).1 = u ∨ (eventWrite s r typ fs).1 = vectorCount u (ringVec s r))) ∨
    (eventRoom s r = false ∧ eventOff s r = false ∧ (eventWrite s r typ fs).2 = false ∧
      (eventWrite s r typ fs).1 = s.setRing r { s.ring r with gap := (s.ring r).gap || ((s.ring r).enabled && ringType s r == 4) }) ∨
    (eventOff s r = true ∧ eventWrite s r typ fs = (eventStop s r, false)) := by
  unfold eventWrite
  split
  · rename_i h
    refine .inl ⟨h, rfl, _, rfl, ?_⟩
    dsimp only [eventPut]
    split
    · exact .inr rfl
    · exact .inl rfl
  · rename_i h
    split <;> rename_i h2
    · exact .inr (.inr ⟨h2, rfl⟩)
    · exact .inr (.inl ⟨by simpa using h, by simpa using h2, rfl, rfl⟩)

/-- An entry is written to no ring whose function's DMA is off. -/
theorem eventRoom_on (s : State) (r : Nat) (h : eventRoom s r = true) : eventOff s r = false := by
  unfold eventRoom at h
  simp only [Bool.and_eq_true, Bool.not_eq_true'] at h
  exact h.1.2

/-- Raising an event writes it, or counts it as dropped. -/
theorem raiseOn_cases (s : State) (ring drop typ : Nat) (fs : List (Nat × Nat × Nat)) :
    raiseOn s ring drop typ fs = (eventWrite s ring typ fs).1 ∨
      raiseOn s ring drop typ fs = (eventWrite s ring typ fs).1.bump drop := by
  unfold raiseOn
  split <;> rename_i h <;> simp [h]

end Sys2Proof.Machine
end

