-- ==== Sys2Proof/Tests/Helpers.lean ====
section
/-!
SUPPORT. Tests/Helpers.lean: small states that the tests and witnesses start from.
-/

namespace Sys2Proof.Tests

open Sys2Proof Sys2Proof.Machine

/-- A command in slot 0 of a ring that has been accepted, with its staged buffer. -/
def cmdEnt (d : Desc) (buf : List Byte := []) : CmdEnt := { slot := 0, desc := d, phase := .accepted, buf := buf }

/-- A state whose ring 5 has an accepted command to hand over. -/
def withCmd (s : State) (d : Desc) (buf : List Byte := []) : State := s.setRing 5 { enabled := true, cmds := [cmdEnt d buf] }

/-- The state after reset with an accepted command in ring 5. -/
def cmdState (d : Desc) (buf : List Byte := []) : State := withCmd State.reset d buf

/-- The state after reset with Hallmark running its code. -/
def bootedState : State := { State.reset with hmk := { boot := 2 } }

/-- An IPv4 flow key: zone 0, TCP, 10.0.0.1 port 1 and 10.0.0.2 port 2. -/
def flowKey : Key := pack 384 [(127, 96, 0x0100000A), (255, 224, 0x0200000A), (271, 256, 0x0100),
  (287, 272, 0x0200), (295, 288, 6), (303, 296, 1)]

/-- The state after reset, but for a hash key of 0 in place of the one that is drawn. -/
def flowStart : State := { State.reset with flw := { hashKey := 0 } }

/-- The home slice of that flow while the hash key is 0. -/
def flowSlice : Nat := hHome (flowHash flowStart flowKey)

/-- Its record at the slice's first index. -/
def flowRec : Unit128 := sealUnit (recAddr (flowSlice * 2 ^ 25)) (pack 1024 [(383, 0, flowKey.toNat), (384, 384, 1)])

/-- The handle of that record. -/
def flowHandle : Nat := flowSlice * 2 ^ 25

/-- A READY slice that holds nothing, and a command in ring 5. -/
def emptyFlowState (d : Desc) (buf : List Byte) : State := withCmd (flowStart.setSlice flowSlice { ready := true }) d buf

/-- A READY slice whose hot cache holds that record, and a command in ring 5. -/
def flowState (d : Desc) (buf : List Byte) : State :=
  let h := flowHash flowStart flowKey
  withCmd (flowStart.setSlice flowSlice { ready := true, records := 1, wmark := 1,
                                            hot := [(0, ⟨flowHandle, flowRec, false, true⟩)],
                                            tags := [⟨hSet h, hFp h, 0, false, false⟩] }) d buf

/-- That command. -/
def flowCmd (d : Desc) (buf : List Byte) : CmdEnt := cmdEnt d buf

end Sys2Proof.Tests
end

