-- ==== Sys2Proof/Tests/Slice0.lean ====
section
/-!
SUPPORT. Tests/Slice0.lean: an ill-formed command for each check of WellFormed, the spec's worked examples, and one step of a few commands
of every family. Every expected value is the spec's own (its worked example, its reset table, its rule), or a published vector of the
algorithm that the spec names.
-/

namespace Sys2Proof.Tests

set_option Elab.async false
set_option maxRecDepth 100000

open Sys2Proof Sys2Proof.Machine

/-- Does an outcome go on to a state of which a check holds? -/
def goesTo (o : Out') (p : State → Bool) : Bool :=
  match o with
  | .next t => p t
  | _ => false

/-- The end of the command in slot 0 of ring 5: its status and its result. -/
def ended (t : State) : Option (Nat × Nat) :=
  match (t.ring 5).cmds with
  | [c] => if c.phase == .done then some (c.status, c.result.toNat) else none
  | _ => none

/-! ### WellFormed -/

theorem test_wf_command : (Instr.flowLookup 1023 65535).wf = true := by decide
theorem test_wf_slot : (Instr.flowLookup 0 65536).wf = false := by decide
theorem test_wf_clasp_slot : (Instr.claspLock 7 2 1023 65536).wf = false := by decide
theorem test_wf_eye_map : (Instr.laneEyeRead 0 0 (List.replicate 3073 0)).wf = false := by decide +kernel
theorem test_wf_bist_macro : (Instr.bistRun 0 0 0 [(223, 0), (224, 0)]).wf = false := by decide
theorem test_wf_write_outside : (Instr.registerWrite .bar0 0x3FFFFFE 4 0).wf = false := by decide
theorem test_wf_write_vf_outside : (Instr.registerWrite (.bar2 1) 0x80000 4 0).wf = false := by decide
theorem test_wf_read_empty : (Instr.latchedRead .bar0 0 0).wf = false := by decide
theorem test_wf_rc_read_outside : (Instr.rcRead 0x4000000 4).wf = false := by decide
theorem test_wf_frame_empty : (Instr.frameReceive 0 [] {}).wf = false := by decide
theorem test_wf_pfc_timers : (Instr.pfcReceive 0 0xFF [1, 2, 3]).wf = false := by decide
theorem test_wf_write_back : (Instr.writeBackDone 0 (2 ^ 26)).wf = false := by decide
theorem test_wf_spill_write : (Instr.spillWrite 1120).wf = false := by decide
theorem test_wf_spill_refill : (Instr.spillRefill 1120).wf = false := by decide
theorem test_wf_refresh_bank : (Instr.refreshDue 0 0 32).wf = false := by decide
theorem test_wf_uncorrectable : (Instr.memUncorrectable 0 { addr := 2 ^ 37 }).wf = false := by decide
theorem test_wf_temp_count : (Instr.tempSample (List.replicate 15 40) (List.replicate 4 40)).wf = false := by decide
theorem test_wf_temp_range : (Instr.tempSample (List.replicate 16 40) [40, 40, 40, 128]).wf = false := by decide
theorem test_wf_rails : (Instr.railSample (List.replicate 10 65536)).wf = false := by decide

/-! ### Worked examples of the spec and published vectors -/

/-- The published vector of SipHash-2-4: key bytes 00 to 0F, message bytes 00 to 0E. -/
theorem test_siphash_vector : sipHash24 0x0f0e0d0c0b0a09080706050403020100#128 ((List.range 15).map fun k => BitVec.ofNat 8 k) =
    0xa129ca6149be45e5#64 := by decide +kernel

/-- The published check value of CRC-32C, over the digits 1 to 9. -/
theorem test_crc32c_vector : crc32c ((List.range 9).map fun k => BitVec.ofNat 8 (0x31 + k)) = 0xE3069283#32 := by decide +kernel

/-- The published check value of the Ethernet CRC-32, over the digits 1 to 9, least significant byte first. -/
theorem test_fcs_vector : fcsBytes ((List.range 9).map fun k => BitVec.ofNat 8 (0x31 + k)) = [0x26, 0x39, 0xF4, 0xCB] := by
  decide +kernel

/-- The traced record of the flow-record chapter: the fields of its hash (R40). -/
theorem test_hash_fields : let h := 0x3A5C91E704B26D19#64
    hHome h = 9 ∧ hPair h = 730833 ∧ hSet h = 2497 ∧ hFp h = 0xE97247 := by decide

/-- The traced record: its endpoints in order, its handle and its address (R36, R37, R44). -/
theorem test_traced_key : let unit : Endpoint := ⟨v4Field 0x0A141E28, 5000⟩
    let server : Endpoint := ⟨v4Field 0xC6336402, 2404⟩
    (mkKey server unit 6 1 0 [] 0).lo = unit ∧ (mkKey server unit 6 1 0 [] 0).hi = server := by decide +kernel
theorem test_traced_place : Rec.handle (pack 1024 [(388, 386, 2)]) 0x1212D687 = 0x5212D687 ∧ recAddr 0x1212D687 = 0x9096B4380 ∧
    128 * tagUnit 9 730833 = 0x1125936880 := by decide +kernel

/-- The signed difference of two ticks wraps at 2^48 (scope file). -/
theorem test_tick_diff : tickDiff 5 (2 ^ 48 - 3) = 8 ∧ tickDiff (2 ^ 48 - 3) 5 = -8 := by decide

/-- The DETERMINISTIC pool 3 of the worked example: port 40,000 of 203.0.113.37 falls in block 4,738. -/
theorem test_nat_block : let s := ((State.reset.setReg (Reg.FLW_NAT_CFG 3) (BitVec.ofNat 32 (1 + 2 + 4 * 9 + 2 ^ 16 * 255))).setReg
      (Reg.FLW_NAT_OUT_BASE 3) 0xCB007100).setReg (Reg.FLW_NAT_PORTS 3) (BitVec.ofNat 32 (1024 + 2 ^ 16 * 126))
    poolG s 3 = 32256 ∧ poolBlock s 3 0xCB007125 40000 = some 4738 := by decide +kernel

/-- The record of the opening in HBM (R361). -/
theorem test_hbm_map : hbmMap 0x9096B4380 = some ⟨2, 13, 1, 5, 602, 0⟩ := by decide

/-- The insertion of ENTRY_ID 42 at PRIORITY 800 into the worked example's bank 3 (R254). -/
theorem test_tcam_insert : let e := fun (id prio : Nat) => TcmEnt.mk 0 0 id prio 0
    insertPlan { ents := [(3 * 4096 + 100, e 1 900), (3 * 4096 + 101, e 7 800), (3 * 4096 + 102, e 2 500), (3 * 4096 + 103, e 3 500),
      (5 * 4096 + 10, e 9 800)] ++ (List.range 100).map fun k => (6 * 4096 + k, e (500 + k) 1) } 105 3 800 =
    some ([(103, 104), (102, 103)], 102) := by decide +kernel

/-- The servo's worked example (R433). -/
theorem test_servo_example : servoError 13107200 (-3) = 1759218 ∧ servoStep 0 13107200 (-3) 45875 19661 = (527770, -1759217) := by decide

/-- Its refused offset of 1,500 ns: FREQ stays, the refusal is recorded (R432). -/
theorem test_servo_refusal : goesTo (exec (.timeOffset 5 0) (cmdState (pack 512 [(7, 0, 0xA0), (191, 128, 1500 * 65536)]))) (fun t =>
    ended t == some (St.refused, 0) && t.tmu.refused && t.tmu.refusedCount == 1 && t.tmu.freq == 0) = true := by decide +kernel

/-! ### Steps of commands -/

/-- Idle ticks move nothing until the clock counts (R418). -/
theorem test_idle : goesTo (step State.reset) (fun t => t.time.units == 0 && t.pending == []) = true := by decide +kernel

/-- A write of an offset that maps no register is counted, and a read of the counter clears it (R10, R11). -/
theorem test_bad_write : goesTo (exec (.registerWrite .bar0 0x3FFFFFC 4 7) State.reset) (fun t =>
    t.reg Reg.GLB_BAD_WRITE_COUNT == 1 && goesTo (exec (.rcRead Reg.GLB_BAD_WRITE_COUNT 4) t) fun u =>
      u.busRead == 1 && u.reg Reg.GLB_BAD_WRITE_COUNT == 0) = true := by decide +kernel

/-- A 16-bit access is an Unsupported Request (R6). -/
theorem test_unsupported : goesTo (exec (.registerWrite .bar0 0 2 7) State.reset) (fun t => t.out == [.unsupported]) = true := by
  decide +kernel

/-- A seal, and an RWS write after it (R13, R538). -/
theorem test_seal : goesTo (exec (.setupSeal 0x5EA10001) State.reset) (fun t => t.pkg.sealed &&
    goesTo (exec (.registerWrite .bar0 Reg.TMU_EVENT_CTRL 4 1) t) fun u =>
      u.reg Reg.TMU_EVENT_CTRL == 0 && u.reg Reg.HLT_SEAL_WRITE_COUNT == 1) = true := by decide +kernel

/-- A seal with a wrong key is a reserved encoding (R538, R9). -/
theorem test_seal_key : goesTo (exec (.setupSeal 0x5EA20001) State.reset) (fun t => !t.pkg.sealed &&
    t.reg Reg.GLB_BAD_WRITE_COUNT == 1) = true := by decide +kernel

/-- TIME_STEP ABSOLUTE (R434), and its NS out of range: the field lies at byte 30 of the descriptor (R438). -/
theorem test_time_step : goesTo (exec (.timeStep 5 0) (cmdState (pack 512 [(7, 0, 0xA1), (239, 192, 7), (271, 240, 5)]))) (fun t =>
    t.time.sec == 7 && t.time.ns == 5 && ended t == some (St.ok, 0)) = true := by decide +kernel
theorem test_time_step_range : goesTo (exec (.timeStep 5 0) (cmdState (pack 512 [(7, 0, 0xA1), (271, 240, 1000000000)]))) (fun t =>
    (t.ring 5).cmds.map (fun c => (c.status, c.detail)) == [(St.badField, 30)]) = true := by decide +kernel

/-- FLOW_DELETE by key of a flow that is not there (R105). -/
theorem test_flow_delete : let d := pack 512 [(7, 0, 0x24), (64, 64, 1)]
    goesTo (exec (.flowDelete 5 0) (emptyFlowState d (bytesOf flowKey))) (fun t => ended t == some (St.notFound, 0)) = true := by
  decide +kernel

/-- FLOW_READ by a handle whose record is not VALID (R45). -/
theorem test_flow_read_stale : goesTo (exec (.flowRead 5 0) (emptyFlowState (pack 512 [(7, 0, 0x21), (95, 64, flowHandle)]) [])) (fun t =>
    ended t == some (St.staleHandle, 0)) = true := by decide +kernel

/-- The TCP tracker: SYN opens, ACK establishes, RST ends (R103). -/
theorem test_tcp_track : tcpTrack 0 0 0x02 = (1, 0) ∧ tcpTrack 1 3 0x10 = (2, 4) ∧ tcpTrack 2 2 0x04 = (5, 2) := by decide

/-- KEY_STATE_READ before the Locket is READY completes with BUSY (R342). -/
theorem test_key_busy : goesTo (exec (.keyStateRead 5 0) (cmdState (pack 512 [(7, 0, 0x82)]))) (fun t =>
    ended t == some (St.busy, 0)) = true := by decide +kernel

/-- POWER_SET with SHUTDOWN must name every domain from D1 to D63 (R502): DOMAIN_MASK starts at byte 8. -/
theorem test_shutdown_mask : goesTo (exec (.powerSet 5 0) (cmdState (pack 512 [(7, 0, 0xD0), (127, 64, 2), (194, 192, 6)]))) (fun t =>
    (t.ring 5).cmds.map (fun c => (c.status, c.detail)) == [(St.badField, 8)] && !t.hlt.shutdown) = true := by decide +kernel

/-- A sample of 40 °C everywhere raises no WARN (R506). -/
theorem test_temp_cold : goesTo (exec (.tempSample (List.replicate 16 40) (List.replicate 4 40)) State.reset) (fun t =>
    !t.hlt.warn) = true := by decide +kernel

/-- PERST_N low starts a device reset, which leaves no ring enabled (R532, R555). -/
theorem test_perst : goesTo (exec .perstNAssert (State.reset.setRing 5 { enabled := true })) (fun t =>
    t.pkg.inReset && !(t.ring 5).enabled) = true := by decide +kernel

/-- Raising an interrupt source sets its bit, and a W1C write clears it (R519, R520). -/
theorem test_interrupt : let s := intRaise State.reset 3 2
    s.reg (Reg.HLT_INT_STATUS 3) = 4 ∧
      goesTo (exec (.intStatusClear 3 4) s) (fun t => t.reg (Reg.HLT_INT_STATUS 3) == 0) = true := by decide +kernel

end Sys2Proof.Tests
end

