-- ==== Sys2Proof/Tests/Witnesses.lean ====
section
/-!
SUPPORT. Tests/Witnesses.lean: for each statement with hypotheses, states and operands that meet them together, clause by clause.
-/

namespace Sys2Proof.Tests

set_option Elab.async false
set_option maxRecDepth 100000

open Sys2Proof Sys2Proof.Machine

/-! StepRunsFront -/

theorem wit_StepRunsFront : ({ pending := [.pllRelock] } : State).pending = Instr.pllRelock :: [] := by rfl

/-! StepOnEmptyQueue -/

theorem wit_StepOnEmptyQueue_1 : State.reset.pending = [] ∧ State.reset.tmu.counting = false := by decide
theorem wit_StepOnEmptyQueue_2 : let s : State := { tmu := { counting := true, tickFrac := 2 ^ 40 - 1 } }
    s.tmu.counting = true ∧ s.tmu.freq = 0 ∧ s.tmu.tickFrac < 2 ^ 40 ∧ s.tmu.rem < 2 ^ 24 := by decide

/-! StepKeepsMemoryCanonical -/

theorem wit_StepKeepsMemoryCanonical : Memory.wf State.reset = true ∧
    (∃ t, step State.reset = .next t) := ⟨by decide, _, rfl⟩

/-! RegisterReadAfterWrite -/

theorem wit_RegisterReadAfterWrite : Memory.wf (State.reset.setReg Reg.GLB_SCRATCH 5) = true := by decide +kernel

/-! AccessSizes -/

theorem wit_AccessSizes_1 : barUp State.reset = true ∧ inBar .bar0 0x3FFFFFE 2 = true ∧
    ¬(((2 : Nat) = 4 ∧ 0x3FFFFFE % 4 = 0) ∨ ((2 : Nat) = 8 ∧ 0x3FFFFFE % 8 = 0)) := by decide
theorem wit_AccessSizes_2 : barUp State.reset = true ∧ inBar .bar0 0x3FFFFFC 4 = true ∧ 0x3FFFFFC % 4 = 0 := by decide
theorem wit_AccessSizes_3 : barUp State.reset = true ∧ inBar .bar0 0x3FFFFF8 8 = true ∧ 0x3FFFFF8 % 8 = 0 := by decide

/-! RegisterWriteRules -/

theorem wit_RegisterWriteRules_1 : let s := State.reset
    barUp s = true ∧ s.hmk.fuses.lcs ≠ 4 ∧ 0x3FFFFFC % 4 = 0 ∧ 0x3FFFFFC + 4 ≤ 0x4000000 ∧
    regRowAt 0x3FFFFFC = none := by decide +kernel
theorem wit_RegisterWriteRules_2 : let s : State := { pkg := { sealed := true } }
    barUp s = true ∧ s.hmk.fuses.lcs ≠ 4 ∧ Reg.TMU_EVENT_CTRL % 4 = 0 ∧
    (∃ row, regRowAt Reg.TMU_EVENT_CTRL = some row ∧ row.acc = .rws ∧ s.pkg.sealed = true) :=
  ⟨by decide, by decide, by decide +kernel, (regRowAt Reg.TMU_EVENT_CTRL).get (by decide +kernel), by decide +kernel⟩
theorem wit_RegisterWriteRules_3 : let s := State.reset
    (∃ row, regRowAt Reg.GLB_BAD_WRITE_COUNT = some row ∧ row.acc = .rc ∧ portRegDead s Reg.GLB_BAD_WRITE_COUNT = false) :=
  ⟨(regRowAt Reg.GLB_BAD_WRITE_COUNT).get (by decide +kernel), by decide +kernel⟩
theorem wit_RegisterWriteRules_4 : let s := State.reset
    (∃ row, regRowAt Reg.GLB_SCRATCH = some row ∧ row.acc = .rw ∧ portRegDead s Reg.GLB_SCRATCH = false ∧
      (writersA ++ writersB).find? (fun e => e.1 == row.base) = none) :=
  ⟨(regRowAt Reg.GLB_SCRATCH).get (by decide +kernel), by decide +kernel⟩

/-! UnmappedOffsets -/

theorem wit_UnmappedOffsets : let s := State.reset
    barOpen s = true ∧ 0x3FFFFFC % 4 = 0 ∧ 0x3FFFFFC + 4 ≤ 0x4000000 ∧ regRowAt 0x3FFFFFC = none ∧ Memory.wf s = true := by
  decide +kernel

/-! ReadClears -/

theorem wit_ReadClears : let a := Reg.GLB_BAD_WRITE_COUNT
    ∃ row, barUp State.reset = true ∧ State.reset.hmk.fuses.lcs ≠ 4 ∧ a % 4 = 0 ∧ a + 4 ≤ 0x4000000 ∧
    regRowAt a = some row ∧ row.acc = .rc ∧ portRegDead State.reset a = false ∧ latchedHigh a = false ∧ latchCount a = 0 :=
  ⟨(regRowAt Reg.GLB_BAD_WRITE_COUNT).get (by decide +kernel), by decide +kernel⟩

/-! TimeReadLatches -/

theorem wit_TimeReadLatches_1 : ∃ row, barUp State.reset = true ∧ State.reset.hmk.fuses.lcs ≠ 4 ∧
    regRowAt Reg.TMU_TIME_0 = some row ∧ latchedHigh Reg.TMU_TIME_0 = false ∧ Memory.wf State.reset = true :=
  ⟨(regRowAt Reg.TMU_TIME_0).get (by decide +kernel), by decide +kernel⟩
theorem wit_TimeReadLatches_2 : ∃ row, regRowAt Reg.TMU_TIME_4 = some row ∧ latchedHigh Reg.TMU_TIME_4 = true :=
  ⟨(regRowAt Reg.TMU_TIME_4).get (by decide +kernel), by decide +kernel⟩

/-! SealAndGlobalReset -/

theorem wit_SealAndGlobalReset_1 : barOpen State.reset = true ∧ bit (0x91280001#32) 0 = true ∧
    fld 0x91280001#32 31 16 = 0x9128 ∧ State.reset.pkg.perstLow = false := by decide
theorem wit_SealAndGlobalReset_2 : let s : State := { pkg := { perstLow := true } }
    barOpen s = true ∧ s.pkg.perstLow = true := by decide
theorem wit_SealAndGlobalReset_3 : barOpen State.reset = true ∧
    ¬(bit (0x91280000#32) 0 = true ∧ fld 0x91280000#32 31 16 = 0x9128) := by decide

/-! PowerGoodAndPerst -/

theorem wit_PowerGoodAndPerst_1 : (4 : Fin 5).val ∈ State.reset.pkg.good ++ State.reset.pkg.early := by decide
theorem wit_PowerGoodAndPerst_2 : State.reset.pkg.perstLow = false ∧ State.reset.pkg.inReset = false := by decide
theorem wit_PowerGoodAndPerst_3 : let s : State := { pkg := { inReset := true } }
    s.pkg.perstLow = false ∧ s.pkg.inReset = true := by decide
theorem wit_PowerGoodAndPerst_4 : ({ pkg := { perstLow := true } } : State).pkg.perstLow = true := by decide

/-! BoardPins -/

theorem wit_BoardPins_1 : [800, 1800, 800, 750, 750, 750, 1200, 1800, 1100, 0].length = 10 := by decide
theorem wit_BoardPins_2 : let s : State := {}
    smbusUp s = true ∧ (0x30#7).toNat = s.pkg.smbAddr ∧ (0x31#7).toNat ≠ s.pkg.smbAddr := by decide
theorem wit_BoardPins_3 : smbAlert { hlt := { warn := true } } = true := by decide

/-! TimeCommands -/

theorem wit_TimeCommands_1 : let d := pack 512 [(7, 0, 0xA0), (191, 128, 65536000)]
    Handed (cmdState d) 5 0 0xA0 (cmdEnt d) ∧
      (tmuValue (cmdEnt d).desc).natAbs ≤ 2 ^ 16 * (cmdState d).rf Reg.TMU_JUMP_THRESH 29 0 := by decide +kernel
theorem wit_TimeCommands_2 : let d := pack 512 [(7, 0, 0xA0), (191, 128, 65536001)]
    Handed (cmdState d) 5 0 0xA0 (cmdEnt d) ∧
      2 ^ 16 * (cmdState d).rf Reg.TMU_JUMP_THRESH 29 0 < (tmuValue (cmdEnt d).desc).natAbs := by decide +kernel
theorem wit_TimeCommands_3 : let d := pack 512 [(7, 0, 0xA1), (239, 192, 7), (271, 240, 999999999)]
    Handed (cmdState d) 5 0 0xA1 (cmdEnt d) ∧ bit d 64 = false ∧ fld d 271 240 < 1000000000 := by decide +kernel
theorem wit_TimeCommands_4 : let d := pack 512 [(7, 0, 0xA1), (271, 240, 1000000000)]
    Handed (cmdState d) 5 0 0xA1 (cmdEnt d) ∧ bit d 64 = false ∧ 1000000000 ≤ fld d 271 240 := by decide +kernel
theorem wit_TimeCommands_5 : let d := pack 512 [(7, 0, 0xA1), (64, 64, 1), (191, 128, 0)]
    Handed (cmdState d) 5 0 0xA1 (cmdEnt d) ∧ bit d 64 = true ∧ 0 ≤ (cmdState d).time.units + tmuValue d := by
  decide +kernel
theorem wit_TimeCommands_6 : let d := pack 512 [(7, 0, 0xA1), (64, 64, 1), (191, 128, 2 ^ 64 - 1)]
    Handed (cmdState d) 5 0 0xA1 (cmdEnt d) ∧ bit d 64 = true ∧ (cmdState d).time.units + tmuValue d < 0 := by
  decide +kernel
theorem wit_TimeCommands_7 : let d := pack 512 [(7, 0, 0xA2), (159, 128, 549755813)]
    Handed (cmdState d) 5 0 0xA2 (cmdEnt d) ∧
      (BitVec.ofNat 32 (fld d 159 128)).toInt.natAbs ≤ 549755813 := by decide +kernel
theorem wit_TimeCommands_8 : let d := pack 512 [(7, 0, 0xA2), (159, 128, 549755814)]
    Handed (cmdState d) 5 0 0xA2 (cmdEnt d) ∧
      549755813 < (BitVec.ofNat 32 (fld d 159 128)).toInt.natAbs := by decide +kernel

/-! StepKeepsTick -/

theorem wit_StepKeepsTick : ∃ t, exec (.timeStep 5 0) State.reset = .next t := ⟨_, rfl⟩

/-! ClockReference -/

theorem wit_ClockReference_1 : (clkSrc State.reset = true → State.reset.tmu.refPresent = true) ∧
    State.reset.pkg.inReset = false ∧ State.reset.domain 61 = .on ∧ barOpen State.reset = true := by decide +kernel
theorem wit_ClockReference_2 : let s := State.reset.setReg Reg.TMU_CLK_CTRL 1
    clkSrc s = true ∧ s.tmu.holdover = false := by decide +kernel
theorem wit_ClockReference_3 : clkSrc State.reset = false := by decide +kernel

/-! PulsesAndTimestamps -/

theorem wit_PulsesAndTimestamps_1 : let s := { State.reset with tmu := { counting := true } }.setReg Reg.TMU_PPS_CTRL 0x61A83
    bit (s.reg Reg.TMU_PPS_CTRL) 0 = true ∧ s.tmu.counting = true ∧ bit (s.reg Reg.TMU_PPS_CTRL) 1 = true ∧
      s.tmu.ppsIn = none := by decide +kernel
theorem wit_PulsesAndTimestamps_2 : let s : State := { ns := 499999999, tmu := { ppsIn := some 0 } }
    s.tmu.ppsIn = some 0 ∧ s.ns < 0 + 500000000 := by decide
theorem wit_PulsesAndTimestamps_3 : let e : TxTs := { status := 0, kind := false, tsId := 9, time := {} }
    let s := ({ State.reset with tmu := { txts := [(127, [e])] } }.setReg (Reg.HIF_RING_CFG 0) 0x24).setRing 0 { enabled := true }
    fget s.tmu.txts [] (127 : Fin 128).val = e :: [] ∧ e.waits = false ∧ eventRoom s (s.rf Reg.TMU_EVENT_CTRL 25 16) = true := by decide +kernel
theorem wit_PulsesAndTimestamps_4 : let s := State.reset.setReg (Reg.HIF_RING_CFG 0) 0x24
    fget { s with tmu := { txts := [(127, [⟨0, false, 9, {}, true⟩])] } }.tmu.txts [] (127 : Fin 128).val = [⟨0, false, 9, {}, true⟩] ∧
      eventRoom s (s.rf Reg.TMU_EVENT_CTRL 25 16) = false := by decide +kernel

/-! EventEntry -/

theorem wit_EventEntry_1 : let s := (State.reset.setReg (Reg.HIF_RING_CFG 3) 0x24).setRing 3 { enabled := true, dev := 14 }
    eventRoom s 3 = true ∧ Memory.wf s = true := by decide +kernel
theorem wit_EventEntry_2 : let s := (State.reset.setReg (Reg.HIF_RING_CFG 3) 0x24).setRing 3 { enabled := true, dev := 15 }
    eventRoom s 3 = false ∧ eventOff s 3 = false := by decide +kernel
theorem wit_EventEntry_3 : let s := ({ State.reset with hif := { busOff := [0] } }.setReg (Reg.HIF_RING_CFG 3) 0x24).setRing 3 { enabled := true }
    eventOff s 3 = true := by decide +kernel

/-! CommandEnds -/

theorem wit_CommandEnds : ((cmdState 0).ring 5).cmds ≠ [] := by decide +kernel

/-! RingSwitching -/

theorem wit_RingSwitching_1 : barOpen State.reset = true := by decide
theorem wit_RingSwitching_2 : let s := State.reset.setRing 1023 { enabled := true }
    barOpen s = true ∧ ((sessionClose s (1023 : Fin 1024).val).ring (1023 : Fin 1024).val).enabled = true := by decide +kernel
theorem wit_RingSwitching_3 : let s := State.reset.setRing 7 { idle := false }
    (s.ring 7).enabled = false ∧ (s.ring 7).cmds = [] := by decide +kernel

/-! Doorbells -/

theorem wit_Doorbells_1 : barUp State.reset = true ∧ pageRing State.reset (64 : Fin 65).val (64 : Fin 1024).val = none := by
  decide +kernel
theorem wit_Doorbells_2 : let s := (State.reset.setReg (Reg.HIF_RING_CFG 9) 0x20).setRing 9 { enabled := true }
    pageRing s (0 : Fin 65).val (9 : Fin 1024).val = some 9 ∧ (s.ring 9).enabled = true ∧ (s.ring 9).error = false ∧
      fld 0x1000F#32 15 0 < ringSize s 9 ∧ indexOk s 9 (fld 0x1000F#32 15 0) = true ∧ bit 0x1000F#32 17 = false := by
  decide +kernel
theorem wit_Doorbells_3 : pageRing State.reset (0 : Fin 65).val (9 : Fin 1024).val = some 9 ∧
    ¬((State.reset.ring 9).enabled = true) := by decide +kernel

/-! Fetching -/

theorem wit_Fetching_1 : let s := ({ State.reset with hmk := { boot := 2 } }.setReg (Reg.HIF_RING_CFG 9) 0x20).setRing 9 { enabled := true, host := 1 }
    ringPosted s (9 : Fin 1024).val = true ∧ busOff s (ringFn s 9) = false ∧ ringType s 9 = 0 ∧ ringServed s = some 9 := by
  decide +kernel
theorem wit_Fetching_5 : let s := ({ State.reset with hmk := { boot := 2 } }.setReg (Reg.HIF_RING_CFG 9) 0x21).setRing 9 { enabled := true, host := 1 }
    ringPosted s (9 : Fin 1024).val = true ∧ busOff s (ringFn s 9) = false ∧ ringType s 9 = 1 := by decide +kernel
theorem wit_Fetching_6 : let s := ((({ State.reset with hmk := { boot := 2 } }.setReg (Reg.HIF_RING_CFG 9) 0x20).setReg (Reg.HIF_RING_CFG 8) 0x20).setRing 9
      { enabled := true, host := 1 }).setRing 8 { enabled := true, host := 1 }
    ringPosted s (9 : Fin 1024).val = true ∧ ringType s 9 = 0 ∧ ringServed s = some 8 ∧ s.hif.serve.2 < 16 := by decide +kernel
theorem wit_Fetching_7 : let s := ({ State.reset with hmk := { boot := 2 }, hif := { busOff := [0] } }.setReg (Reg.HIF_RING_CFG 9) 0x20).setRing 9 { enabled := true, host := 1 }
    ringPosted s (9 : Fin 1024).val = true ∧ busOff s (ringFn s 9) = true ∧ ringType s 9 = 0 ∧ ringServed s = some 9 := by
  decide +kernel
theorem wit_Fetching_2 : let s := hostWrite ((State.reset.setReg (Reg.HIF_RING_CFG 9) 0x22).setRing 9 { enabled := true, host := 1 }) 0x11 [1]
    ringPosted s (9 : Fin 1024).val = true ∧ busOff s (ringFn s 9) = false ∧ 2 ≤ ringType s 9 ∧
      postBad (ofBytes 512 (hostRead s (slotAddr s 9 (s.ring 9).dev) 64)) = false := by decide +kernel
theorem wit_Fetching_3 : let s := (State.reset.setReg (Reg.HIF_RING_CFG 9) 0x22).setRing 9 { enabled := true, host := 1 }
    ringPosted s (9 : Fin 1024).val = true ∧ 2 ≤ ringType s 9 ∧
      postBad (ofBytes 512 (hostRead s (slotAddr s 9 (s.ring 9).dev) 64)) = true := by decide +kernel
theorem wit_Fetching_4 : let s := ({ State.reset with hif := { busOff := [0] } }.setReg (Reg.HIF_RING_CFG 9) 0x22).setRing 9 { enabled := true, host := 1 }
    ringPosted s (9 : Fin 1024).val = true ∧ busOff s (ringFn s 9) = true ∧ ringType s 9 ≠ 0 := by decide +kernel

/-! Acceptance -/

theorem wit_Acceptance_1 : let d := pack 512 [(7, 0, 0x20)]
    let s := ((bootedState.setReg Reg.SWC_BUF_CTRL 1).setReg (Reg.HIF_RING_CFG 9) 0x20).setRing 9 { enabled := true, cmds := [{ slot := 0, desc := d }] }
    let c : CmdEnt := { slot := 0, desc := d }
    nextFetched s (9 : Fin 1024).val = some c ∧ (s.ring 9).enabled = true ∧ (s.ring 9).error = false ∧
      acceptRefusal s 9 d = none ∧ descOp d ≠ 0xC0 ∧ 0 < stageLen s d ∧ busOff s (ringFn s 9) = false ∧
      (stageTake (s.rf Reg.HIF_STAGE_CTRL 3 0) 1 s [] 1).2.2 = true := by decide +kernel
theorem wit_Acceptance_2 : let d := pack 512 [(7, 0, 0xC0), (141, 128, 60)]
    let s := (bootedState.setReg (Reg.HIF_RING_CFG 9) 0x21).setRing 9 { enabled := true, cmds := [{ slot := 0, desc := d }] }
    nextFetched s (9 : Fin 1024).val = some { slot := 0, desc := d } ∧ acceptRefusal s 9 d = none := by decide +kernel
theorem wit_Acceptance_3 : let d := pack 512 [(7, 0, 0x00)]
    let c : CmdEnt := { slot := 0, desc := d }
    let s := (bootedState.setReg (Reg.HIF_RING_CFG 9) 0x20).setRing 9 { enabled := true, cmds := [c] }
    nextFetched s (9 : Fin 1024).val = some c ∧ hifServes s (ringType s 9) = true ∧ fenced (s.ring 9) c = false ∧
      targetTakes s d = true ∧ acceptRefusal s 9 d = some (0x02, 0) := by decide +kernel
theorem wit_Acceptance_4 : let d := pack 512 [(7, 0, 0xA2)]
    let c : CmdEnt := { slot := 0, desc := d }
    let s := (bootedState.setReg (Reg.HIF_RING_CFG 9) 0x20).setRing 9 { enabled := true, cmds := [c] }
    nextFetched s (9 : Fin 1024).val = some c ∧ hifServes s (ringType s 9) = true ∧ fenced (s.ring 9) c = false ∧
      targetTakes s d = true ∧ acceptRefusal s 9 d = none ∧ stageLen s d = 0 ∧ stagedBad s c = none := by decide +kernel
theorem wit_Acceptance_5 : let d := pack 512 [(7, 0, 0xA2)]
    let c : CmdEnt := { slot := 0, desc := d }
    let s := (bootedState.setReg (Reg.HIF_RING_CFG 9) 0x20).setRing 9 { enabled := true, cmds := [cmdEnt (pack 512 [(7, 0, 0xA0)]), { c with slot := 1 }] }
    nextFetched s (9 : Fin 1024).val = some { c with slot := 1 } ∧ targetTakes s d = false := by decide +kernel
theorem wit_Acceptance_6 : let d := pack 512 [(7, 0, 0x20)]
    let c : CmdEnt := { slot := 0, desc := d, staged := true, bufs := [7] }
    let s := { (bootedState.setReg (Reg.HIF_RING_CFG 9) 0x20).setRing 9 { enabled := true, cmds := [c] } with swc := { badCells := [7] } }
    nextFetched s (9 : Fin 1024).val = some c ∧ targetTakes s d = true ∧ acceptRefusal s 9 d = none ∧ stagedBad s c = some 7 := by
  decide +kernel

/-! CompletionWrites -/

theorem wit_CompletionWrites : let c : CmdEnt := { slot := 3, desc := 0xA2, phase := .done }
    let s := State.reset.setRing 1023 { enabled := true, cmds := [c] }
    s.cmd? (1023 : Fin 1024).val 3 = some c ∧ c.phase = .done ∧ c.mute = false ∧ c.bufs = [] ∧ Memory.wf s = true := by
  decide +kernel

/-! PuntAndExport -/

theorem wit_PuntAndExport_1 : let c : Copy := { frame := 0, port := 128, queue := 1024, punt := some { reason := 0x30 } }
    let s := ((State.reset.setReg (Reg.HIF_RING_CFG 0) 0x22).setRing 0 { enabled := true, posted := [⟨0, 0, 256⟩] }).setQueue 1024
      { onDie := [c] }
    let s1 := s.setFrame 0 { port := 1, pipe := 0, fabric := 0, bytes := List.replicate 60 0, tail := true }
    (selectCopy s1 128 (puntReady s1)).2 = some c ∧ badCell s1 c.frame = none ∧ (s1.frame? c.frame).isSome ∧
      (List.replicate 60 (0 : Byte)).length ≤ 256 := by decide +kernel
theorem wit_PuntAndExport_2 : let m : ExpMsg := { setId := 256, records := [], opened := 0, seq := 0 }
    let s : State := { flw := { expClosed := [(4095, m)], expMsgs := [(4094, m)] } }
    s.flw.expClosed.find? (fun e => e.1 == (4095 : Fin 4096).val) = some (4095, m) ∧
      s.flw.expClosed.find? (fun e => e.1 == (4094 : Fin 4096).val) = none ∧
      ffind? s.flw.expMsgs (4094 : Fin 4096).val = some m := by decide
theorem wit_PuntAndExport_3 : let m : ExpMsg := { setId := 256, records := [], opened := 0, seq := 0 }
    let s := (State.reset.setReg (Reg.HIF_RING_CFG 0) 0x23).setRing 0 { enabled := true, posted := [⟨0, 0, 256⟩] }
    (s.ring 0).enabled = true ∧ (s.ring 0).error = false ∧ ringType s 0 = 3 ∧ m.size ≤ 256 ∧ busOff s (ringFn s 0) = false ∧
      bit (s.reg (Reg.HIF_RING_CFG 0)) 15 = false ∧ fld (fget s.flw.expProf 0 0) 57 48 = 0 := by decide +kernel
theorem wit_PuntAndExport_4 : let s := State.reset.setVector 63 { since := some 0 }
    (s.vector (63 : Fin 64).val).since = some 0 := by decide +kernel

/-! Moderation -/

theorem wit_Moderation : (State.reset.vector 9).armed = false ∧ ((State.reset.setVector 9 { armed := true }).vector 9).armed = true := by
  decide +kernel

/-! FunctionResets -/

theorem wit_FunctionResets : State.reset.pkg.inReset = false ∧ State.reset.hlt.shutdown = false ∧ (64 : Nat) ≠ 0 := by decide

/-! PerformanceCounters -/

theorem wit_PerformanceCounters_1 : barOpen State.reset = true ∧ perfSelBad (BitVec.ofNat 32 (2 ^ 31 + Reg.HIF_DOORBELL_ERR_COUNT / 4)) = false ∧
    perfSelBad 0x18000000#32 = true ∧ perfSelBad (BitVec.ofNat 32 (Reg.HIF_DOORBELL_ERR_COUNT / 4)) = false := by decide +kernel
theorem wit_PerformanceCounters_2 : let x : Perf := { addr := 0, bitNo := 0, mode := 0, wraps := 1 }
    let s : State := { hif := { perf := [(511, x)] } }
    ffind? s.hif.perf (511 : Fin 512).val = some x ∧ 0 < x.wraps := by decide
theorem wit_PerformanceCounters_3 : let s := State.reset.setReg Reg.HIF_PERF_CTRL 0x10001
    bit (s.reg Reg.HIF_PERF_CTRL) 0 = true ∧ busOff s 0 = false := by decide +kernel

/-! InterruptClear -/

theorem wit_InterruptClear : Memory.wf State.reset = true ∧ barOpen State.reset = true := by decide

/-! RecordCommandsByKey -/

theorem wit_RecordCommandsByKey_1 :
    let s := flowState (pack 512 [(7, 0, 0x20)]) (bytesOf flowKey)
    let c := flowCmd (pack 512 [(7, 0, 0x20)]) (bytesOf flowKey)
    s.cmd? (5 : Fin 1024).val 0 = some c ∧ Handed s (5 : Fin 1024).val 0 0x20 c ∧ keyBad (bufKey c) = false ∧
      hostHome s (bufKey c) (fcPool c.desc) = some flowSlice ∧
      ServedAt s flowSlice (hostOp s flowSlice (5 : Fin 1024).val 0 c (some (bufKey c))) ∧
      (findKey (placed s flowSlice) flowSlice (bufKey c)).2.isSome = true := by decide +kernel
theorem wit_RecordCommandsByKey_2 :
    let d := pack 512 [(7, 0, 0x24), (120, 120, 1)]
    let s := flowState d (bytesOf flowKey)
    let c := flowCmd d (bytesOf flowKey)
    s.cmd? (5 : Fin 1024).val 0 = some c ∧ Handed s (5 : Fin 1024).val 0 0x24 c ∧ fcByKey c.desc = true ∧
      hostHome s (bufKey c) (fcPool c.desc) = some flowSlice ∧
      ServedAt s flowSlice (hostOp s flowSlice (5 : Fin 1024).val 0 c (some (bufKey c))) ∧
      (findKey (placed s flowSlice) flowSlice (bufKey c)).2.isSome = true := by decide +kernel
theorem wit_RecordCommandsByKey_3 :
    let d := pack 512 [(7, 0, 0x22)]
    let c := flowCmd d (bytesOf flowRec)
    let s := flowState d (bytesOf flowRec)
    Handed s (5 : Fin 1024).val 0 0x22 c ∧ zeroFields (bufRec c) recReserved = true ∧ keyBad (bufRec c).key = false ∧
      hHome (flowHash s (bufRec c).key) = flowSlice ∧ ServedAt s flowSlice (hostOp s flowSlice (5 : Fin 1024).val 0 c (some (bufRec c).key)) ∧
      (findKey (placed s flowSlice) flowSlice (installRec (bufRec c)).key).2.isSome = true := by decide +kernel
theorem wit_RecordCommandsByKey_4 :
    let d := pack 512 [(7, 0, 0x22)]
    let c := flowCmd d (bytesOf flowRec)
    let s := emptyFlowState d (bytesOf flowRec)
    Handed s (5 : Fin 1024).val 0 0x22 c ∧ ServedAt s flowSlice (hostOp s flowSlice (5 : Fin 1024).val 0 c (some (bufRec c).key)) ∧
      (findKey (placed s flowSlice) flowSlice (installRec (bufRec c)).key).2 = none ∧
      (buildRecord (findKey (placed s flowSlice) flowSlice (installRec (bufRec c)).key).1 flowSlice (installRec (bufRec c)) 0 false).2 =
        .handle (flowSlice * 2 ^ 25) := by decide +kernel
theorem wit_RecordCommandsByKey_5 :
    let d := pack 512 [(7, 0, 0x22)]
    let c := flowCmd d (bytesOf flowRec)
    let s0 := emptyFlowState d (bytesOf flowRec)
    let s := s0.setSlice flowSlice { s0.slice flowSlice with wmark := 2 ^ 25 }
    Handed s (5 : Fin 1024).val 0 0x22 c ∧ (findKey (placed s flowSlice) flowSlice (installRec (bufRec c)).key).2 = none ∧
      (buildRecord (findKey (placed s flowSlice) flowSlice (installRec (bufRec c)).key).1 flowSlice (installRec (bufRec c)) 0 false).2 =
        .refused 2 := by decide +kernel
theorem wit_RecordCommandsByKey_6 : let d := pack 512 [(7, 0, 0x20)]
    Handed (cmdState d) (5 : Fin 1024).val 0 0x20 (cmdEnt d) ∧ keyBad (bufKey (cmdEnt d)) = true := by decide +kernel

/-! RecordCommandsByHandle -/

theorem wit_RecordCommandsByHandle_1 :
    let d := pack 512 [(7, 0, 0x21), (95, 64, flowHandle)]
    let c := flowCmd d []
    let s := flowState d []
    s.cmd? (5 : Fin 1024).val 0 = some c ∧ handleSlice (fcHandle d) = flowSlice ∧
      ServedAt s flowSlice (hostOp s flowSlice (5 : Fin 1024).val 0 c none) ∧
      Handed s (5 : Fin 1024).val 0 0x21 c ∧ (byHandle (placed s flowSlice) flowSlice (fcHandle d)).2.isSome = true := by decide +kernel
theorem wit_RecordCommandsByHandle_2 :
    let d := pack 512 [(7, 0, 0x23), (95, 64, flowHandle + 2 ^ 29), (234, 224, 1)]
    let c := flowCmd d []
    let s := flowState d []
    handleSlice (fcHandle d) = flowSlice ∧ ServedAt s flowSlice (hostOp s flowSlice (5 : Fin 1024).val 0 c none) ∧
      Handed s (5 : Fin 1024).val 0 0x23 c ∧ fcMask d ≠ 0 ∧ zeroFields (bufRec c) recReserved = true ∧
      (byHandle (placed s flowSlice) flowSlice (fcHandle d)).2 = none := by decide +kernel
theorem wit_RecordCommandsByHandle_3 :
    let d := pack 512 [(7, 0, 0x23), (95, 64, flowHandle), (234, 224, 1)]
    let s := flowState d []
    Handed s (5 : Fin 1024).val 0 0x23 (flowCmd d []) ∧ (byHandle (placed s flowSlice) flowSlice (fcHandle d)).2.isSome = true := by decide +kernel
theorem wit_RecordCommandsByHandle_4 :
    let d := pack 512 [(7, 0, 0x24), (95, 64, flowHandle)]
    let s := flowState d []
    Handed s (5 : Fin 1024).val 0 0x24 (flowCmd d []) ∧ fcByKey d = false ∧
      (byHandle (placed s flowSlice) flowSlice (fcHandle d)).2.isSome = true := by decide +kernel
theorem wit_RecordCommandsByHandle_5 : let d := pack 512 [(7, 0, 0x21)]
    (cmdState d).cmd? (5 : Fin 1024).val 0 = some (cmdEnt d) ∧ Handed (cmdState d) (5 : Fin 1024).val 0 0x21 (cmdEnt d) ∧
      sliceUp (cmdState d) (handleSlice (fcHandle d)) = false := by decide +kernel
theorem wit_RecordCommandsByHandle_7 : let d := pack 512 [(7, 0, 0x23), (224, 224, 1)]
    Handed (cmdState d) (5 : Fin 1024).val 0 0x23 (cmdEnt d) ∧ fcMask d ≠ 0 ∧ zeroFields (bufRec (cmdEnt d)) recReserved = true ∧
      sliceUp (cmdState d) (handleSlice (fcHandle d)) = false := by decide +kernel
theorem wit_RecordCommandsByHandle_8 : let d := pack 512 [(7, 0, 0x24)]
    Handed (cmdState d) (5 : Fin 1024).val 0 0x24 (cmdEnt d) ∧ fcByKey d = false ∧
      sliceUp (cmdState d) (handleSlice (fcHandle d)) = false := by decide +kernel
theorem wit_RecordCommandsByHandle_6 : let d := pack 512 [(7, 0, 0x23)]
    Handed (cmdState d) (5 : Fin 1024).val 0 0x23 (cmdEnt d) ∧ fcMask d = 0 := by decide +kernel

/-! FlowImages -/

theorem wit_FlowImages_1 : let d := pack 512 [(7, 0, 0x25)]
    Handed (cmdState d) (5 : Fin 1024).val 0 0x25 (cmdEnt d) ∧
      zeroFields (ofBytes 512 (cmdEnt d).buf : BitVec 512) tmplReserved = true := by decide +kernel
theorem wit_FlowImages_2 : let d := pack 512 [(7, 0, 0x28), (75, 64, 4095)]
    let c := cmdEnt d [0, 0, 0, 1, 0, 1]
    let p : BitVec 128 := ofBytes 128 c.buf
    Handed (cmdState d [0, 0, 0, 1, 0, 1]) (5 : Fin 1024).val 0 0x28 c ∧ fld d 75 64 ≠ 0 ∧
      zeroFields p [(63, 58), (127, 96)] = true ∧ 256 ≤ fld p 31 16 ∧ 256 ≤ fld p 47 32 := by decide +kernel
theorem wit_FlowImages_3 : let d := pack 512 [(7, 0, 0x26), (111, 96, 0x8000), (223, 192, 8)]
    let s := (cmdState d).setReg Reg.FLW_FILIGREE_CTRL 1
    Handed (cmdState d) (5 : Fin 1024).val 0 0x26 (cmdEnt d) ∧ maskList 16 (fcSlices d) ≠ [] ∧ flgDual (cmdState d) = false ∧
      Handed s (5 : Fin 1024).val 0 0x26 (cmdEnt d) ∧ flgDual s = true ∧ 15 ∈ maskList 16 (fcSlices d) ∧
      (s.slice 15).bank = fcBank d ∧ fld d 223 192 % 8 = 0 ∧ 524288 < fld (pack 512 [(223, 192, 524296)]) 223 192 := by decide +kernel
theorem wit_FlowImages_4 : let d := pack 512 [(7, 0, 0x27), (111, 96, 0x8000)]
    let s := (cmdState d).setReg Reg.FLW_FILIGREE_CTRL 1
    Handed s (5 : Fin 1024).val 0 0x27 (cmdEnt d) ∧ maskList 16 (fcSlices d) ≠ [] ∧ flgDual s = true ∧
      flgDual (cmdState d) = false := by decide +kernel

/-! FlowRegisters -/

theorem wit_FlowRegisters_1 : barOpen State.reset = true ∧ State.reset.pkg.sealed = false ∧ bit 1#32 0 ≠ flgDual State.reset ∧
    bit 0#32 0 = flgDual State.reset ∧ 8 ≤ fld (0x11#32 &&& 0x1FFFFF#32) 20 1 ∧ bit (State.reset.reg Reg.FLW_CTRL) 0 = false := by
  decide +kernel
theorem wit_FlowRegisters_2 : let s := { State.reset with mem := (List.range 4).map fun h => (h, ({ trained := true } : Stack)) }.setReg Reg.FLW_CTRL 1
    bit (s.reg Reg.FLW_CTRL) 0 = true ∧ allTrained s = true ∧
      ∀ i, i < 16 → (s.slice i).starting = false ∧ (s.slice i).ready = false := by decide +kernel
theorem wit_FlowRegisters_3 : let s := State.reset.setSlice 15 { starting := true }
    (s.slice (15 : Fin 16).val).starting = true ∧ sliceOn s (15 : Fin 16).val = true := by decide +kernel

/-! SliceOrderPoint -/

theorem wit_SliceOrderPoint_1 : let o : FlowOp := { src := 7, act := .lookup 7 0 0 true false false [] 64, key := some flowKey }
    let s := eccMark (State.reset.setSlice 15 { ready := true, orderQ := [o], tags := [⟨0, 0, 0, false, false⟩] }) 15 [0] [0]
    orderHead (s.slice (15 : Fin 16).val) (7 : Fin 8).val FlowAct.isLookup = some o ∧ (s.slice (15 : Fin 16).val).ready = true ∧
      (s.slice (15 : Fin 16).val).flights.length < 8192 := by decide +kernel
theorem wit_SliceOrderPoint_2 : let o : FlowOp := { src := 7, act := .update true false false false 0 0 64, handle := 1 }
    let s := State.reset.setSlice 15 { ready := true, orderQ := [o] }
    orderHead (s.slice (15 : Fin 16).val) (7 : Fin 8).val (fun a => !a.isLookup) = some o ∧ (s.slice (15 : Fin 16).val).ready = true ∧
      flightFor s 15 o = none ∧ (byHandle s 15 o.handle).2 = none ∧
      orderHead ((State.reset.setSlice 15 { orderQ := [o] }).slice 15) 7 (fun a => !a.isLookup) = some o := by decide +kernel
theorem wit_SliceOrderPoint_3 : let o : FlowOp := { src := 7, act := .lookup 7 0 0 true false false [] 64, key := some flowKey }
    let s := eccMark (State.reset.setSlice 15 { orderQ := [o] }) 15 [] []
    orderHead (s.slice (15 : Fin 16).val) (7 : Fin 8).val FlowAct.isLookup = some o ∧ (s.slice (15 : Fin 16).val).ready = false := by
  decide +kernel
theorem wit_SliceOrderPoint_4 : let o : FlowOp := { src := 7, act := .lookup 7 0 0 true false false [] 64, key := some flowKey }
    let f : Flight := { id := 3, key := some flowKey, phase := .pairRead, opener := o, tick := 0 }
    flightFor (State.reset.setSlice 15 { flights := [f] }) 15 o = some f ∧ o.key = f.key := by decide +kernel
theorem wit_SliceOrderPoint_5 : let o : FlowOp := { src := 7, act := .lookup 7 0 0 true false false [] 64, key := some flowKey }
    let s := flowState 0 []
    flightFor s flowSlice o = none ∧ o.act.isLookup = true ∧ o.cold = false ∧ (hotSearch s flowSlice flowKey).2.isSome = true := by
  decide +kernel

/-! FlightProgress -/

theorem wit_FlightProgress_1 : let o : FlowOp := { src := 7, act := .lookup 7 0 0 true false false [] 64, key := some flowKey }
    let f : Flight := { id := 3, key := some flowKey, phase := .pairRead, opener := o, tick := 0 }
    let e : Flight := { id := 6, idx := some 7, phase := .idxRead, opener := o, tick := 0 }
    let g : Flight := { id := 4, key := some 0, phase := .recRead true [(9, false)], opener := o, tick := 0 }
    let h : Flight := { id := 5, key := some 1, phase := .held 0 (put 0 269 268 1) false, opener := o, tick := 0 }
    let s := State.reset.setSlice 15 { flights := [f, g, h, e], setupQ := List.replicate 1024 0 }
    s.flight? (15 : Fin 16).val 3 = some f ∧ s.flight? (15 : Fin 16).val 4 = some g ∧ s.flight? (15 : Fin 16).val 5 = some h ∧
      s.flight? (15 : Fin 16).val 6 = some e ∧ heldBefore (s.slice 15) 5 = false ∧
      1024 ≤ (s.slice (15 : Fin 16).val).setupQ.length ∧ fld (put (0 : BitVec 512) 269 268 1) 269 268 ≠ 0 := by decide +kernel
theorem wit_FlightProgress_2 : let o : FlowOp := { src := 7, act := .lookup 7 0 0 true false false [] 64, key := some flowKey }
    let f : Flight := { id := 3, key := some flowKey, phase := .setup 0 0, opener := o, tick := 0 }
    let s := flowStart.setSlice 15 { ready := true, flights := [f], setupQ := [3] }
    let m := tmplRecord 0 (leafTmpl 0) (f.key.getD 0) true (leafParam 0)
    setupHead (s.slice (15 : Fin 16).val) = some 3 ∧ s.flight? (15 : Fin 16).val 3 = some f ∧
      (buildRecord s 15 m (leafRule 0) (Tmpl.event 0)).2 = .handle (15 * 2 ^ 25) := by decide +kernel
theorem wit_FlightProgress_3 : ((State.reset.setSlice 15 { wbuf := [(7, 1)] }).slice (15 : Fin 16).val).pending? 7 = some 1 := by
  decide +kernel

/-! SweepVisits -/

theorem wit_SweepVisits : let s := (State.reset.setReg Reg.FLW_AGE_CTRL 0x11).setSlice 15 { ready := true, wmark := 1 }
    sliceUp s (15 : Fin 16).val = true ∧ bit (s.reg Reg.FLW_AGE_CTRL) 0 = true ∧
      (s.slice (15 : Fin 16).val).sweepNext < (s.slice (15 : Fin 16).val).wmark ∧
      (s.slice (15 : Fin 16).val).flights.length < 8192 := by decide +kernel

/-! TcpTracker -/

theorem wit_TcpTracker : Nat.testBit 0x04 2 = true ∧ Nat.testBit 0x12 2 = false := by decide

/-! IndirectionTables -/

theorem wit_IndirectionTables_1 : let d := pack 512 [(7, 0, 0x40), (71, 64, 3), (75, 72, 2), (80, 76, 5)]
    Handed (cmdState d) (5 : Fin 1024).val 0 0x40 (cmdEnt d) := by decide +kernel
theorem wit_IndirectionTables_2 : let d := pack 512 [(7, 0, 0x41), (71, 64, 6), (75, 72, 15)]
    Handed (cmdState d) (5 : Fin 1024).val 0 0x41 (cmdEnt d) ∧ maskList 8 (fld d 71 64) = [1, 2] := by decide +kernel

/-! TableCommands -/

theorem wit_TableCommands_1 : let d := pack 512 [(7, 0, 0x44), (71, 64, 1), (207, 192, 1)]
    let b := List.replicate 31 0 ++ [(1 : Byte)]
    let c := cmdEnt d b
    Handed (cmdState d b) (5 : Fin 1024).val 0 0x44 c ∧
      ((tableEntries 1 b).any fun e => entOk (tblOf d) e == false) = true := by decide +kernel
theorem wit_TableCommands_2 : let d := pack 512 [(7, 0, 0x44), (71, 64, 2), (73, 72, 0), (207, 192, 1)]
    let b := List.replicate 32 (0 : Byte)
    Handed (cmdState d b) (5 : Fin 1024).val 0 0x44 (cmdEnt d b) ∧ ((tableEntries 1 b).all (entOk 0)) = true ∧
      maskList 8 (fld d 71 64) = [1] ∧ mayWork (cmdState d b) (cmdEnt d b) (5 : Fin 1024).val 0 1 = true ∧
      ((cmdLand (applyAll (fun s e => tableApply s 1 0 e) (cmdState d b) (tableEntries 1 b)).1 5 0 1 0 []).cmd? 5 0).any
        (fun c => c.landedIn 1) = true := by decide +kernel
theorem wit_TableCommands_3 : let d := pack 512 [(7, 0, 0x44), (71, 64, 3), (73, 72, 0), (207, 192, 1)]
    let b := List.replicate 32 (0 : Byte)
    Handed (cmdState d b) (5 : Fin 1024).val 0 0x44 (cmdEnt d b) ∧ ((tableEntries 1 b).all (entOk 0)) = true ∧
      maskList 8 (fld d 71 64) = [0, 1] ∧
      ([0, 1].all fun p => mayWork (cmdState d b) (cmdEnt d b) (5 : Fin 1024).val 0 p) = true := by decide +kernel
theorem wit_TableCommands_4 : let d := pack 512 [(7, 0, 0x44), (71, 64, 1), (207, 192, 1)]
    let b := List.replicate 32 (0 : Byte)
    let s := setLock (cmdState d b) 0 0 (some (7, 7))
    Handed s (5 : Fin 1024).val 0 0x44 (cmdEnt d b) ∧ ((tableEntries 1 b).all (entOk 0)) = true ∧
      maskList 8 (fld d 71 64) = [0] ∧ mayWork s (cmdEnt d b) (5 : Fin 1024).val 0 0 = false ∧
      (cmdEnt d b).landedIn 0 = false := by decide +kernel
theorem wit_TableCommands_5 : let d := pack 512 [(7, 0, 0x45), (71, 64, 1), (73, 72, 3), (255, 224, 16384)]
    Handed (cmdState d) (5 : Fin 1024).val 0 0x45 (cmdEnt d) ∧ cursorBad (tblOf d) (fld d 255 224) = true := by decide +kernel
theorem wit_TableCommands_6 : let d := pack 512 [(7, 0, 0x45), (71, 64, 1), (73, 72, 3), (207, 192, 4), (255, 224, 16383)]
    Handed (cmdState d) (5 : Fin 1024).val 0 0x45 (cmdEnt d) ∧ cursorBad (tblOf d) (fld d 255 224) = false ∧
      maskList 8 (fld d 71 64) = [0] ∧ descPipes d = [0] ∧
      mayWork (cmdState d) (cmdEnt d) (5 : Fin 1024).val 0 0 = true := by decide +kernel
theorem wit_TableCommands_7 : let d := pack 512 [(7, 0, 0x45), (71, 64, 1), (73, 72, 3), (207, 192, 4)]
    let s := setLock (cmdState d) 0 1 (some (7, 7))
    Handed s (5 : Fin 1024).val 0 0x45 (cmdEnt d) ∧ cursorBad (tblOf d) (fld d 255 224) = false ∧
      descPipes d = [0] ∧ mayWork s (cmdEnt d) (5 : Fin 1024).val 0 0 = false := by decide +kernel
theorem wit_TableCommands_8 : let d := pack 512 [(7, 0, 0x45), (71, 64, 1), (73, 72, 3), (74, 74, 1), (207, 192, 4)]
    let s := cmdState d
    s.next? (5 : Fin 1024).val = some (cmdEnt d) ∧ (cmdEnt d).landedIn 0 = false ∧ tableTurn s (cmdEnt d) (0 : Fin 8).val = true ∧
      ((cmdDomains d).all fun d => s.domain d == .on) = true ∧ bit d 74 = true ∧ (fld d 71 64).testBit (0 : Fin 8).val = true ∧
      claspWants s (cmdEnt d) (1 : Fin 3).val = true ∧ lockOf s (0 : Fin 8).val (1 : Fin 3).val = none ∧
      lockOf (setLock s 0 1 (some (7, 7))) (0 : Fin 8).val (1 : Fin 3).val = some (7, 7) := by decide +kernel
theorem wit_TableCommands_10 : let d := pack 512 [(7, 0, 0x45), (71, 64, 1), (73, 72, 3), (207, 192, 4)]
    let e : CmdEnt := { cmdEnt d with no := 3 }
    let s := (cmdState d).setRing 9 { enabled := true, cmds := [e] }
    e ∈ tableCmds s ∧ e.no < { cmdEnt d with no := 4 }.no ∧ 0 ∈ descPipes e.desc ∧ e.landedIn 0 = false ∧
      descTable e.desc = descTable (cmdEnt d).desc := by decide +kernel
theorem wit_TableCommands_9 : let s := State.reset.setFwd 2 { State.reset.fwdOf 2 with learn := [(9, 1000)] }
    (s.fwdOf (2 : Fin 8).val).learn.find? (fun e => e.1 == (9 : BitVec 96)) = some (9, 1000) := by decide +kernel

/-! TcamCommands -/

theorem wit_TcamCommands_1 : let d := pack 512 [(7, 0, 0x46), (71, 64, 1), (207, 192, 1)]
    let b := List.replicate 191 0 ++ [(1 : Byte)]
    Handed (cmdState d b) (5 : Fin 1024).val 0 0x46 (cmdEnt d b) ∧
      ((tcmEntries 1 b).any fun e => tcmEntOk (cmdState d b) 0 e == false) = true ∧ maskList 8 (fld d 71 64) = [0] ∧
      tcmBegun (cmdState d b) (cmdEnt d b) (5 : Fin 1024).val 0 0 = false := by decide +kernel
theorem wit_TcamCommands_2 : let d := pack 512 [(7, 0, 0x46), (71, 64, 3), (207, 192, 1)]
    let b := List.replicate 192 (0 : Byte)
    Handed (cmdState d b) (5 : Fin 1024).val 0 0x46 (cmdEnt d b) ∧
      ([0, 1].all fun p => (tcmEntries 1 b).all (tcmEntOk (cmdState d b) p)) = true ∧
      ([0, 1].all fun p => mayTcam (cmdState d b) (cmdEnt d b) (5 : Fin 1024).val 0 p &&
        !tcmBegun (cmdState d b) (cmdEnt d b) (5 : Fin 1024).val 0 p) = true ∧
      (let s := setLock (cmdState d b) 1 2 (some (7, 7))
       mayTcam s (cmdEnt d b) (5 : Fin 1024).val 0 1 || tcmBegun s (cmdEnt d b) (5 : Fin 1024).val 0 1) = false := by decide +kernel
theorem wit_TcamCommands_3 : let d := pack 512 [(7, 0, 0x47), (71, 64, 4), (207, 192, 2)]
    Handed (cmdState d) (5 : Fin 1024).val 0 0x47 (cmdEnt d) ∧ maskList 8 (fld d 71 64) = [2] ∧
      descPipes d = [2] ∧ mayTcam (cmdState d) (cmdEnt d) (5 : Fin 1024).val 0 2 = true := by decide +kernel
theorem wit_TcamCommands_4 : let d := pack 512 [(7, 0, 0x48), (71, 64, 1), (207, 192, 1), (255, 224, 4096)]
    Handed (cmdState d) (5 : Fin 1024).val 0 0x48 (cmdEnt d) ∧ 4096 < fld d 255 224 + fld d 207 192 := by decide +kernel
theorem wit_TcamCommands_5 : let d := pack 512 [(7, 0, 0x48), (71, 64, 1), (207, 192, 1), (255, 224, 4095)]
    Handed (cmdState d) (5 : Fin 1024).val 0 0x48 (cmdEnt d) ∧ fld d 255 224 + fld d 207 192 ≤ 4096 ∧
      maskList 8 (fld d 71 64) = [0] ∧ bit d 74 = false ∧
      descPipes d = [0] ∧ mayTcam (cmdState d) (cmdEnt d) (5 : Fin 1024).val 0 0 = true := by decide +kernel
theorem wit_TcamCommands_9 : let d := pack 512 [(7, 0, 0x48), (71, 64, 1), (74, 74, 1), (207, 192, 1)]
    let s := setLock (cmdState d) 0 2 (some (5, 0))
    Handed s (5 : Fin 1024).val 0 0x48 (cmdEnt d) ∧ bit d 74 = true ∧ descPipes d = [0] ∧
      mayTcam s (cmdEnt d) (5 : Fin 1024).val 0 0 = true := by decide +kernel
theorem wit_TcamCommands_6 : barOpen bootedState = true ∧ bootedState.pkg.sealed = false ∧
    (∀ b < 16, fld (0x55555555 : W32) (2 * b + 1) (2 * b) ≠ 3) ∧ (bootedState.tcmOf (3 : Fin 8).val).ents = [] := by decide +kernel
theorem wit_TcamCommands_7 : fld (0xC0000000 : W32) (2 * 15 + 1) (2 * 15) = 3 := by decide +kernel
theorem wit_TcamCommands_8 : let s := bootedState.setTcm 0 { ents := [(4096 * 15, ⟨0, 0, 1, 1, 0⟩)] }
    fld (0x40000000 : W32) (2 * 15 + 1) (2 * 15) ≠ s.rf (Reg.TCM_BANK_CFG (0 : Fin 8).val) (2 * 15 + 1) (2 * 15) ∧
      (∃ e ∈ (s.tcmOf (0 : Fin 8).val).ents, e.1 / 4096 = 15) := by decide +kernel

/-! TcamEngines -/

def copyState : State := State.reset.setTcm 3
  { ents := [(4096 + 7, ⟨5, 7, 9, 11, 0⟩)], badUnits := [4096 + 7], move := some ⟨1, [(7, 8)], 7, ⟨1, 1, 2, 40, 0⟩⟩
    jobs := [⟨5, 0, [], []⟩] }
theorem wit_TcamEngines_1 : (copyState.tcmOf (3 : Fin 8).val).move = some ⟨1, [(7, 8)], 7, ⟨1, 1, 2, 40, 0⟩⟩ ∧
    tcmAt (copyState.tcmOf (3 : Fin 8).val) 1 7 = some ⟨5, 7, 9, 11, 0⟩ := by decide +kernel
theorem wit_TcamEngines_2 :
    let s := State.reset.setTcm 3 { move := some ⟨1, [], 7, ⟨1, 1, 2, 40, 0⟩⟩, jobs := [⟨5, 0, [], []⟩] }
    (s.tcmOf (3 : Fin 8).val).move = some ⟨1, [], 7, ⟨1, 1, 2, 40, 0⟩⟩ ∧ (s.tcmOf (3 : Fin 8).val).jobs = [⟨5, 0, [], []⟩] := by
  decide +kernel
theorem wit_TcamEngines_3 :
    let s := strike (State.reset.setTcm 3 { ents := [(4096 + 7, ⟨5, 7, 9, 11, 0⟩)] }) [.tcamUnit 3 1 7]
    (s.tcmOf (3 : Fin 8).val).move = none ∧ (4096 * (1 : Fin 16).val + (7 : Fin 4096).val) ∈ (s.tcmOf (3 : Fin 8).val).badUnits ∧
      tcmAt (s.tcmOf (3 : Fin 8).val) 1 ((7 : Fin 4096).val / bankUnits s 3 1) = some ⟨5, 7, 9, 11, 0⟩ := by decide +kernel
theorem wit_TcamEngines_4 : (4096 * (1 : Fin 16).val + (6 : Fin 4096).val) ∉ (copyState.tcmOf (3 : Fin 8).val).badUnits ∧
    (7, 8).1 = (7 : Fin 4096).val / bankUnits copyState 3 1 := by decide +kernel

/-! TemplatesAndPatches -/

theorem wit_TemplatesAndPatches_1 : let d := pack 512 [(7, 0, 0x50), (71, 64, 9), (79, 72, 3)]
    let b := [(1 : Byte)]
    Handed (cmdState d b) (5 : Fin 1024).val 0 0x50 (cmdEnt d b) ∧ maskList 8 (fld d 79 72) = [0, 1] ∧
      templateOk (templateBits (ofBytes 2048 b)) = false := by decide +kernel
theorem wit_TemplatesAndPatches_9 : let d := pack 512 [(7, 0, 0x50), (71, 64, 9)]
    let e := pack 512 [(7, 0, 0x51), (71, 64, 9)]
    Handed (cmdState d) (5 : Fin 1024).val 0 0x50 (cmdEnt d) ∧ maskList 8 (fld d 79 72) = [] ∧
      Handed (cmdState e) (5 : Fin 1024).val 0 0x51 (cmdEnt e) ∧ maskList 8 (fld e 79 72) = [] := by decide +kernel
theorem wit_TemplatesAndPatches_2 : let d := pack 512 [(7, 0, 0x50), (71, 64, 9), (79, 72, 3)]
    let b := bytesOf (pack 2048 [(0, 0, 1), (13, 9, 1), (18, 14, 31), (514, 512, 1)])
    Handed (cmdState d b) (5 : Fin 1024).val 0 0x50 (cmdEnt d b) ∧ maskList 8 (fld d 79 72) = [0, 1] ∧
      templateOk (templateBits (ofBytes 2048 b)) = true ∧ (((cmdState d b).cluster 0).retiring.all (·.template != 9)) = true ∧
      (((cmdState d b).cluster 1).retiring.all (·.template != 9)) = true := by decide +kernel
theorem wit_TemplatesAndPatches_3 : let d := pack 512 [(7, 0, 0x51), (71, 64, 255), (79, 72, 128)]
    Handed (cmdState d) (5 : Fin 1024).val 0 0x51 (cmdEnt d) ∧ maskList 8 (fld d 79 72) = [7] := by decide +kernel
theorem wit_TemplatesAndPatches_4 : let d := pack 512 [(7, 0, 0x52), (71, 64, 128)]
    Handed (cmdState d) (5 : Fin 1024).val 0 0x52 (cmdEnt d) ∧ maskList 8 (fld d 71 64) = [7] := by decide +kernel
theorem wit_TemplatesAndPatches_5 : let d := pack 512 [(7, 0, 0x52)]
    Handed (cmdState d) (5 : Fin 1024).val 0 0x52 (cmdEnt d) ∧ maskList 8 (fld d 71 64) = [] := by decide +kernel
theorem wit_TemplatesAndPatches_6 : let d := pack 512 [(7, 0, 0x53), (71, 64, 1)]
    Handed (cmdState d) (5 : Fin 1024).val 0 0x53 (cmdEnt d) ∧ maskList 8 (fld d 71 64) = [0] ∧
      ((cmdState d).cluster 0).staged = false := by decide +kernel
theorem wit_TemplatesAndPatches_7 : let d := pack 512 [(7, 0, 0x53), (71, 64, 1)]
    let s := (cmdState d).setCluster 0 { (cmdState d).cluster 0 with staged := true, stagedVersion := 7 }
    Handed s (5 : Fin 1024).val 0 0x53 (cmdEnt d) ∧ maskList 8 (fld d 71 64) = [0] ∧ (s.cluster 0).staged = true ∧
      s.domain (domCluster 0) = .on ∧ bit d 72 = false := by decide +kernel
theorem wit_TemplatesAndPatches_8 : let d := pack 512 [(7, 0, 0x53), (71, 64, 1), (72, 72, 1)]
    let s := (cmdState d).setCluster 0 { (cmdState d).cluster 0 with staged := true, stagedVersion := 7 }
    Handed s (5 : Fin 1024).val 0 0x53 (cmdEnt d) ∧ (s.cluster 0).staged = true ∧
      s.domain (domCluster 0) = .on ∧ bit d 72 = true := by decide +kernel

/-! FrameToPacket -/

/-- A frame of 60 zero bytes in pipeline 3, and a state that holds it. -/
def aFrame : Frame := { port := 48, pipe := 3, fabric := 6, bytes := List.replicate 60 0 }
def frameState (x : Frame) : State := State.reset.setFrame 4 x
theorem wit_FrameToPacket_1 : let s := frameState aFrame
    s.frame? 4 = some aFrame ∧ aFrame.held = true ∧ aFrame.parsed = none ∧ heldBehind s 3 4 = false ∧ behindPort s 4 aFrame = false ∧
      s.domain (domPipe 3) = .on ∧ aFrame.direct = none ∧ { aFrame with direct := some 9 }.direct = some 9 ∧
      (parseFrame s 3 48 aFrame.bytes).cls = 0 ∧ (parseFrame s 3 48 aFrame.bytes).stateful = false := by decide +kernel
theorem wit_FrameToPacket_2 : let s := (frameState aFrame).setReg (Reg.PRS_PATH 3 0) (BitVec.ofNat 32 0xE0000001)
    (parseFrame (s.setReg (Reg.PRS_PATH 3 1) 0x00003FFF) 3 48 aFrame.bytes).stateful = true := by decide +kernel
theorem wit_FrameToPacket_3 : let s := State.reset.setReg (Reg.PRS_NODE 3 0) 1
    (parseFrame s 3 48 aFrame.bytes).cls ≠ 0 := by decide +kernel
theorem wit_FrameToPacket_11 : let s := State.reset.setReg (Reg.PRS_NODE 3 0) 1
    let o := parseFrame s 3 48 aFrame.bytes
    let at' := fun (v : W32) => classAction (s.setReg (Reg.PRS_MALFORMED_ACTION 3) v) 3 o
    o.cls ≠ 0 ∧ (List.range 4).map (fun k => at' (BitVec.ofNat 32 (0x5555 * k))) = [0, 1, 2, 3] := by decide +kernel
/-- That frame as a stateful one that waits for an engine queue. -/
def waitFrame : Frame := { aFrame with parsed := some { stateful := true } }
theorem wit_FrameToPacket_4 : let s := frameState waitFrame
    s.frame? 4 = some waitFrame ∧ waitsForArray s 4 waitFrame = true ∧ heldBehind s 3 4 = false ∧ s.hlt.solo = false ∧
      gValid ((s.cluster 3).template 0) = false ∧ { s.hlt with solo := true }.solo = true := by decide +kernel
theorem wit_FrameToPacket_5 : let s := (frameState waitFrame).setCluster 3 { templates := [(0, 1)] }
    s.frame? 4 = some waitFrame ∧ waitsForArray s 4 waitFrame = true ∧ heldBehind s 3 4 = false ∧ s.hlt.solo = false ∧
      gValid ((s.cluster 3).template 0) = true ∧ (s.cluster 3).pkts.length < 4096 ∧ chooseEngine s 3 0 = some (0, 0) := by
  decide +kernel
theorem wit_FrameToPacket_6 :
    let s := (frameState waitFrame).setCluster 3 { templates := [(0, 1)]
                                                   pkts := List.replicate 32 { arr := 0, frame := 9, template := 0, engine := 0 } }
    waitsForArray s 4 waitFrame = true ∧ heldBehind s 3 4 = false ∧ s.hlt.solo = false ∧
      gValid ((s.cluster 3).template 0) = true ∧ (s.cluster 3).pkts.length < 4096 ∧ chooseEngine s 3 0 = none := by
  decide +kernel
theorem wit_FrameToPacket_7 :
    let s := (frameState waitFrame).setCluster 3 { templates := [(0, 1)]
                                                   pkts := List.replicate 4096 { arr := 0, frame := 9, template := 0, engine := 0 } }
    waitsForArray s 4 waitFrame = true ∧ heldBehind s 3 4 = false ∧ s.hlt.solo = false ∧
      gValid ((s.cluster 3).template 0) = true ∧ 4096 ≤ (s.cluster 3).pkts.length := by
  decide +kernel
/-- A packet of that frame in cluster 3, and a state that holds both. -/
def aPkt : Pkt := { arr := 6, frame := 4, template := 0, engine := 2 }
def pktState (p : Pkt) (x : Frame := waitFrame) : State := (frameState x).setCluster 3 { pkts := [p] }
theorem wit_FrameToPacket_8 : let s := pktState aPkt
    nextStart s (3 : Fin 8).val = some aPkt ∧ s.frame? aPkt.frame = some waitFrame ∧ aPkt.stage ≠ .resume ∧
      aPkt.arr ≠ { aPkt with arr := 9 }.arr := by decide +kernel
theorem wit_FrameToPacket_9 : let p := { aPkt with stage := .resume }
    let s := pktState p
    nextStart s (3 : Fin 8).val = some p ∧ s.frame? p.frame = some waitFrame := by decide +kernel
theorem wit_FrameToPacket_10 : let x := { waitFrame with cells := [77] }
    (frameState x).frame? 4 = some x ∧ x.held = true ∧ x.parsed.isSome = true ∧ x.tail = false ∧ x.bytes.length ≤ 256 ∧
      x.cells.length = needCells x ∧
      (!x.held && x.group.isNone && !heldOnDie (frameState x) 4 && (pendingCopies (frameState x) 4).isEmpty) = false ∧ x.inject = none ∧ { x with inject := some (5, 0) }.inject = some (5, 0) := by decide +kernel

/-! PacketOperations -/

/-- A running packet whose operation 2 has an entry and a phase. -/
def runPkt (e : Nat) (ph : OpPhase) : Pkt := { aPkt with
  stage := .running, image := pack 2048 [(0, 0, 1), (13, 9, 3), (799, 704, e)], ops := [(2, { phase := ph })] }
theorem wit_PacketOperations_1 : [1, 1 + 2 ^ 26, 3, 4, 7].all (fun e =>
    let p := runPkt e .ready
    (pktState p { waitFrame with tail := true }).pkt? (3 : Fin 8).val 6 == some p &&
      opNext (pktState p { waitFrame with tail := true }) (3 : Fin 8).val == some (6, (2 : Fin 16).val) && opEnt p.image (2 : Fin 16).val == BitVec.ofNat 96 e) = true := by decide +kernel
theorem wit_PacketOperations_6 : let e := BitVec.ofNat 96 1
    let s := pktState (runPkt 1 .ready)
    buildKey s (fld e 33 28) aPkt.window {} = none ∧ s.domain (domPipe 3) = .on ∧ lockOf s 3 0 = none ∧ cipherOn s = true ∧
      cipDepth s 3 = 0 ∧ lockOf (setLock s 3 0 (some (7, 7))) 3 0 = some (7, 7) := by decide +kernel
theorem wit_PacketOperations_2 : [1, 2, 3].all (fun t =>
    let p := runPkt (1 + 2 ^ 26 * t) .issued
    (pktState p).pkt? (3 : Fin 8).val 6 == some p && (p.op (2 : Fin 16).val).phase == .issued &&
      opType (opEnt p.image (2 : Fin 16).val) == 1 && fld (opEnt p.image (2 : Fin 16).val) 27 26 == t) = true := by decide +kernel
theorem wit_PacketOperations_3 : let p := { runPkt 7 .issued with stage := .parked, routines := [{ op := 2, pc := 0 }] }
    (pktState p).pkt? (3 : Fin 8).val 6 = some p ∧ canGoOn p = true ∧ canGoOn { p with routines := [] } = false := by decide +kernel
theorem wit_PacketOperations_4 : let p := { runPkt 7 .issued with abort := true }
    (pktState p).pkt? (3 : Fin 8).val 6 = some p ∧ p.abort = true ∧ p.verdict = none ∧ p.committed = false ∧
      p.exc = false ∧ { p with committed := true }.committed = true ∧ { p with verdict := some .forward }.verdict.isSome = true ∧
      { p with exc := true }.exc = true := by decide +kernel
theorem wit_PacketOperations_5 : let p := { aPkt with stage := .done, verdict := some .forward }
    let s := pktState p
    let t := (frameState waitFrame).setCluster 3 { pkts := [{ aPkt with arr := 5 }, p] }
    s.pkt? (3 : Fin 8).val 6 = some p ∧ p.arr = 6 ∧ (∀ q ∈ (s.cluster 3).pkts, q.arr < 6 → q.domain ≠ p.domain) ∧
      (∀ q ∈ (s.cluster 3).pkts, q.arr < 6 → takesSlot q = false ∨ mayLeave (s.cluster 3) q = false) ∧
      t.pkt? (3 : Fin 8).val 6 = some p ∧ (∃ q ∈ (t.cluster 3).pkts, q.arr < 6 ∧ q.domain = p.domain) := by decide +kernel

/-! Microwords -/

/-- A packet whose MICRO operation 2 is at address 0, and a control store with one word there. -/
def mcsPkt (pc : Nat) (stack : List Nat) : Pkt :=
  { runPkt 7 .issued with routines := [{ op := 2, pc := pc, stack := stack }] }
def mcsState (w : Word128) (p : Pkt) : State := (frameState waitFrame).setCluster 3 { pkts := [p], map0 := [(0, 0)], words := [(0, w)] }
theorem wit_Microwords_1 : [(0, []), (1, []), (2, []), (0x20, []), (0x20 + 2 ^ 82, []), (0x20 + 2 * 2 ^ 82, []), (0x21, [1, 2, 3]),
      (0x21, [1, 2, 3, 4]), (0x22, []), (0x22, [9]), (0x0A + 7 * 2 ^ 6, []), (0x10 + 2 ^ 23, []), (0x3F, [])].all (fun e =>
    let p := mcsPkt 0 e.2
    let s := (mcsState (BitVec.ofNat 128 e.1) p).setReg (Reg.MCS_STEP_LIMIT 3) 100
    let x := mwFetch (ctxServed s 3 p) 3 p { op := 2, pc := 0, stack := e.2 }
    s.pkt? (3 : Fin 8).val 6 == some p && p.stage == .running &&
      p.routines.find? (fun r => r.op == (2 : Fin 17).val) == some { op := 2, pc := 0, stack := e.2 } &&
      ((ctxTurn (s.cluster 3) 2).map (·.arr)) == some 6 && (ctxTurn (s.cluster 3) 4).isNone &&
      decide (x.2 = .inl (BitVec.ofNat 128 e.1)) && waitMet x.1 p (BitVec.ofNat 128 e.1) &&
      decide (mwOperands (waitLen x.1 3 p (BitVec.ofNat 128 e.1)).2 { op := 2, pc := 0, stack := e.2 } (BitVec.ofNat 128 e.1) = .inl (0, 0)) &&
      mwOp (BitVec.ofNat 128 e.1) == e.1 % 64) = true := by decide +kernel
theorem wit_Microwords_2 : let p := mcsPkt 0 []
    ((mcsState 0 p).setReg (Reg.MCS_STEP_LIMIT 3) 0).rf (Reg.MCS_STEP_LIMIT (3 : Fin 8).val) 14 0 ≤ 0 := by decide +kernel
theorem wit_Microwords_3 : mwTaken (mwCond (BitVec.ofNat 128 (0x20 + 2 ^ 82))) 0 0 = true ∧
    mwTaken (mwCond (BitVec.ofNat 128 (0x20 + 2 * 2 ^ 82))) 0 0 = false ∧ mwDst (BitVec.ofNat 128 (0x0A + 7 * 2 ^ 6)) = 7 ∧
    (mcsPkt 0 []).window.length < (0 + mwImm (BitVec.ofNat 128 (0x10 + 2 ^ 23))) % 2 ^ 32 + 4 ∧ isCustomer 0 = false := by
  decide +kernel

/-! FrameArrival -/

/-- Ports 0 to 3 in mode 1 (one lane each), port 2 up, and the packet buffer in service. -/
def portsState : State :=
  let s := State.reset.setReg Reg.SWC_BUF_CTRL 9
  let s := { s with lif := { s.lif with modes := [(0, 1)] } }
  s.setPort 2 { s.port 2 with state := 5 }
/-- A 64-byte frame of zeros with its FCS. -/
def aWire : List Byte := List.replicate 60 0 ++ fcsBytes (List.replicate 60 0)
/-- A MAC control frame of PFC. -/
def aControl : List Byte :=
  let b := List.replicate 12 (0 : Byte) ++ bytesBE 2 0x8808 ++ bytesBE 2 0x0101 ++ List.replicate 44 0
  b ++ fcsBytes b
theorem wit_FrameArrival_1 : portUp portsState (2 : Fin 128).val = true ∧ portUp portsState (3 : Fin 128).val = false ∧
    64 ≤ aWire.length ∧ aWire.length ≤ portsState.rf Reg.SWC_MAX_FRAME 13 0 ∧ beAt aWire 12 2 ≠ 0x8808 := by decide +kernel
theorem wit_FrameArrival_2 : fcsOk aWire = true := by decide +kernel
theorem wit_FrameArrival_3 : overruns portsState (2 : Fin 128).val = false ∧ admitIngress portsState (2 : Fin 128).val = true := by
  decide +kernel
theorem wit_FrameArrival_4 : let s := portsState.setReg Reg.SWC_BUF_CTRL 8
    portUp s (2 : Fin 128).val = true ∧ overruns s (2 : Fin 128).val = false ∧ admitIngress s (2 : Fin 128).val = false := by
  decide +kernel
theorem wit_FrameArrival_5 : let x : Frame := { port := 2, pipe := 0, fabric := 0, bytes := List.replicate 256 0 }
    let s := { portsState with swc := { portsState.swc with frames := (List.range 64).map fun i => (i, x) } }
    portUp s (2 : Fin 128).val = true ∧ overruns s (2 : Fin 128).val = true := by decide +kernel
theorem wit_FrameArrival_12 : let f : List Byte := List.replicate 12 (0 : Byte) ++ bytesBE 2 0x8808 ++ List.replicate 49 0 ++ [1]
    f ≠ [] ∧ beAt f 12 2 = 0x8808 ∧ fcsOk f = false ∧ f.length = 64 ∧
      (({ rxError := true } : LineErr).linkLost = false ∧ (f.take (f.length - 4)).length < 256) ∧
      ({ linkLost := true } : LineErr).linkLost = true := by decide +kernel
theorem wit_FrameArrival_6 : 64 ≤ aControl.length ∧ beAt aControl 12 2 = 0x8808 ∧ fcsOk aControl = true := by decide +kernel
theorem wit_FrameArrival_7 : let s := portsState.setReg Reg.SWC_MAX_FRAME 63
    portUp s (2 : Fin 128).val = true ∧ s.rf Reg.SWC_MAX_FRAME 13 0 < aWire.length ∧ overruns s (2 : Fin 128).val = false ∧
      admitIngress s (2 : Fin 128).val = true := by decide +kernel
theorem wit_FrameArrival_8 : let b : List Byte := List.replicate 63 0 ++ [1]
    fcsOk b = false ∧ beAt b 12 2 ≠ 0x8808 ∧ 64 ≤ b.length ∧ b.length ≤ portsState.rf Reg.SWC_MAX_FRAME 13 0 := by decide +kernel
def injDesc : Desc := pack 512 [(7, 0, 0xC0), (141, 128, 40), (144, 142, 5)]
theorem wit_FrameArrival_9 : let s := withCmd portsState injDesc
    Handed s (5 : Fin 1024).val 0 0xC0 (cmdEnt injDesc) ∧ s.domain (domPipe 5) = .on ∧
      admitIngress s (128 + s.rf (Reg.HIF_RING_CFG (5 : Fin 1024).val) 23 22) = true := by decide +kernel
theorem wit_FrameArrival_10 : let s := cmdState injDesc
    Handed s (5 : Fin 1024).val 0 0xC0 (cmdEnt injDesc) ∧ s.domain (domPipe 5) = .on ∧
      admitIngress s (128 + s.rf (Reg.HIF_RING_CFG (5 : Fin 1024).val) 23 22) = false := by decide +kernel
theorem wit_FrameArrival_11 : let c := { cmdEnt injDesc with dmaFail := true }
    let s := portsState.setRing 5 { enabled := true, cmds := [c] }
    Handed s (5 : Fin 1024).val 0 0xC0 c ∧ s.domain (domPipe 5) = .on ∧
      admitIngress s (128 + s.rf (Reg.HIF_RING_CFG (5 : Fin 1024).val) 23 22) = true ∧ c.mute = false ∧
      { c with mute := true, dmaFail := false }.mute = true := by decide +kernel

/-! BufferPools -/

theorem wit_BufferPools_1 : barOpen bootedState = true ∧ bootedState.pkg.sealed = false ∧ bufCheck bootedState = true ∧
    bufEnabled bootedState = false ∧ bufCheck (bootedState.setReg (Reg.SWC_EG_LIMIT 139) 63) = false ∧
    bufEnabled (bootedState.setReg Reg.SWC_BUF_CTRL 1) = true := by decide +kernel
theorem wit_BufferPools_2 : poolFind portsState (0 : Fin 16).val = some 0 ∧ fillingFrame portsState (15 : Fin 32).val = none := by
  decide +kernel
theorem wit_BufferPools_3 : let s := portsState.setFrame 4 { aFrame with reserved := 64 }
    let t := { s with bpm := { s.bpm with served := [6] } }
    poolFind s 0 = some 0 ∧ fillingFrame s (6 : Fin 32).val = some (4, { aFrame with reserved := 64 }) ∧
      allocTurn s = some (6 : Fin 32).val ∧ allocTurn t = none ∧
      allocTurn { s with bpm := { s.bpm with rotate := 1, served := [] } } = some (6 : Fin 32).val := by decide +kernel
theorem wit_BufferPools_7 : let x : Frame := { aFrame with reserved := 64 }
    let s := (portsState.setFrame 4 x).setFrame 5 { x with fabric := 5 }
    fillingFrame s (6 : Fin 32).val = some (4, x) ∧ allocTurn s = some 5 ∧
      (let t := { s with swc := { s.swc with condemned := [9] } }
       (9 : Nat) ∈ handleList (t.setReg (Reg.BPM_POOL_CFG 3) 5) (3 * 2 ^ 20 + 8)) := by decide +kernel
theorem wit_BufferPools_8 : let s := (State.reset.setReg (Reg.BPM_BLOCK_POOL 0) 3).setFrame 4 { aFrame with reserved := 64 }
    let t := { s with bpm := { s.bpm with episode := [0], served := [6] } }
    poolFind t 0 = none ∧ fallback t 0 = none ∧ (0 : Nat) ∈ t.bpm.episode ∧
      allocTurn { t with bpm := { t.bpm with served := [] } } = some (6 : Fin 32).val := by decide +kernel
theorem wit_BufferPools_4 : let s := portsState.setCellTag 7 .swc
    badFree s (7 : BitVec 24).toNat (1 : Fin 8).val = none ∧ cellHolder s 7 = none ∧
      badFree s (8 : BitVec 24).toNat (1 : Fin 8).val = some 2 ∧
      cellHolder (s.setFrame 4 { aFrame with cells := [7] }) 7 = some (4, { aFrame with cells := [7] }) ∧
      badFree (s.setFrame 4 { aFrame with cells := [7] }) 7 (1 : Fin 8).val = none ∧
      (reqOwner (3 : Fin 32).val).code = (1 : Fin 8).val ∧ (reqOwner (17 : Fin 32).val).code ≠ (1 : Fin 8).val ∧
      (∀ k ∈ handleList s 7, k ∉ s.swc.condemned) := by decide +kernel
theorem wit_BufferPools_5 : let s := ((portsState.setReg (Reg.BPM_POOL_CFG 3) 5).setReg (Reg.BPM_BLOCK_POOL 0) 3).setBufTag 8 .hif
    badFree s (BitVec.ofNat 24 (3 * 2 ^ 20 + 8)).toNat (2 : Fin 8).val = none ∧
      2 ^ 20 ≤ (BitVec.ofNat 24 (3 * 2 ^ 20 + 8)).toNat ∧ (reqOwner (17 : Fin 32).val).code = (2 : Fin 8).val := by decide +kernel
theorem wit_BufferPools_6 : let d := pack 512 [(7, 0, 0x74), (198, 192, 127)]
    Handed (cmdState d) (5 : Fin 1024).val 0 0x74 (cmdEnt d) := by decide +kernel

/-! CopiesAndQueues -/

/-- A copy of frame 4 for port 2, and the frame with its tail in. -/
def aCopy : Copy := { frame := 4, port := 2, queue := 16 }
def inFrame : Frame := { aFrame with cells := [77], tail := true, held := false, parsed := some {} }
def offerState : State :=
  let s := portsState.setFrame 4 inFrame
  { s with swc := { s.swc with offered := [aCopy] } }
theorem wit_CopiesAndQueues_1 : let s := offerState
    s.swc.offered.find? (fun c => c.frame == 4 && c.port == (2 : Fin 140).val) = some aCopy ∧ s.frame? 4 = some inFrame ∧
      inFrame.tail = true ∧ behindOffer s inFrame aCopy = false ∧ queueTakes s 16 (2 : Fin 140).val = true ∧ gateSdu s (2 : Fin 140).val (queueClass s 16) = 0 ∧
      s.rf (Reg.SWC_SPILL_LIMIT (2 : Fin 140).val) 23 0 = 0 ∧
      s.egCells (2 : Fin 140).val + needCells inFrame ≤ s.rf (Reg.SWC_EG_LIMIT (2 : Fin 140).val) 19 0 ∧
      fld (s.node 3 16) 147 128 = 0 := by decide +kernel
theorem wit_CopiesAndQueues_2 : let s := offerState.setReg (Reg.SWC_EG_LIMIT 2) 0
    queueTakes s 16 (2 : Fin 140).val = true ∧ s.rf (Reg.SWC_SPILL_LIMIT (2 : Fin 140).val) 23 0 = 0 ∧
      s.rf (Reg.SWC_EG_LIMIT (2 : Fin 140).val) 19 0 < s.egCells (2 : Fin 140).val + needCells inFrame := by decide +kernel
theorem wit_CopiesAndQueues_9 : let q := offerState.setQueue 16 { onDie := [{ aCopy with cells := 100 }] }
    let s := (q.setReg (Reg.SWC_SPILL_LIMIT 2) 8).setReg Reg.SWC_SPILL_THRESH 0x00400040
    aCopy.mcast = false ∧ s.rf (Reg.SWC_SPILL_LIMIT (2 : Fin 140).val) 23 0 ≠ 0 ∧
      s.rf Reg.SWC_SPILL_THRESH 15 0 ≤ queueCells (s.queue 16) ∧ spillRefuses s inFrame (2 : Fin 140).val = none ∧
      spillRefuses (offerState.setQueue 16 { spill := true }) inFrame (2 : Fin 140).val = some 1 := by decide +kernel
theorem wit_CopiesAndQueues_10 : let k : Copy := { aCopy with port := 135, queue := 1080 }
    let x : Frame := { inFrame with bytes := List.replicate 300 0 }
    let v : Nat → State := fun n => { offerState with swc := { offerState.swc with voqs := [(33, [{ copy := aCopy, crossed := n }])] } }
    { offerState with hlt := { domain := [(domPipe 3, Pwr.off)] } }.domain (domPipe (k.port - 132)) ≠ .on ∧
      fget (v 0).swc.voqs [] (16 * 2 + 1) = [{ copy := aCopy, crossed := 0 }] ∧ inFrame.cells[0]? = some 77 ∧
      inFrame.cells[1]? = none ∧ needCells inFrame = 1 ∧ needCells x = 2 ∧ 77 ∉ (v 0).swc.badCells ∧
      77 ∈ ({ (v 0).swc with badCells := [77] } : Swc).badCells := by decide +kernel
theorem wit_CopiesAndQueues_3 : let c := { aCopy with queue := 15 }
    let s := { offerState with swc := { offerState.swc with offered := [c] } }
    s.swc.offered.find? (fun c => c.frame == 4 && c.port == (2 : Fin 140).val) = some c ∧
      queueTakes s 15 (2 : Fin 140).val = false := by decide +kernel
/-- That copy in the spilled part of its queue. -/
def spillState (cells : Nat) : State :=
  (portsState.setFrame 4 inFrame).setQueue 16 { spilled := [{ aCopy with cells := cells, segs := 1 }], spill := true }
theorem wit_CopiesAndQueues_4 : ((spillState 1).queue 16).spilled.find? (·.cells != 0) = some { aCopy with cells := 1, segs := 1 } ∧
    badCell (spillState 1) 4 = none ∧ (spillState 1).frame? 4 = some inFrame := by decide +kernel
theorem wit_CopiesAndQueues_5 : let s := (spillState 0).setReg Reg.SWC_SPILL_THRESH 0x00010001
    (s.queue 16).spilled = [{ aCopy with segs := 1 }] ∧ s.frame? 4 = some inFrame ∧ (s.queue 16).spill = true ∧
      queueCells (s.queue 16) < s.rf Reg.SWC_SPILL_THRESH 31 16 ∧ 64 + needCells inFrame ≤ sharedFree s ∧
      4 ∉ s.swc.badSpill ∧ inFrame.cells ≠ [] := by decide +kernel
theorem wit_CopiesAndQueues_6 : let s := (portsState.setFrame 4 inFrame).setQueue 16 { onDie := [{ aCopy with cells := 1 }] }
    ffind? s.swc.wire (2 : Fin 140).val = none ∧ portUp s (2 : Fin 140).val = true ∧
      (selectCopy (dropOversize (gatesRefresh s 2) 2) (2 : Fin 140).val (fun _ => true)).2 = some { aCopy with cells := 1 } := by
  decide +kernel
theorem wit_CopiesAndQueues_7 : let w : OnWire := { copy := aCopy, endNs := 100, time := {}, bytes := inFrame.bytes, ts := none }
    let s := portsState.setFrame 4 inFrame
    let s := { s with swc := { s.swc with wire := [(2, w)] } }
    let s := s.setPort 2 { s.port 2 with state := 1 }
    ffind? s.swc.wire (2 : Fin 140).val = some w ∧ wireReady s (2 : Fin 140).val = true ∧
      portUp (wireFinish (s.reach 100) 2) (2 : Fin 140).val = false := by decide +kernel
theorem wit_CopiesAndQueues_8 : let d := pack 512 [(7, 0, 0x73), (79, 72, 2), (87, 80, 255)]
    Handed (cmdState d) (5 : Fin 1024).val 0 0x73 (cmdEnt d) := by decide +kernel

/-! SwitchAndNodeTables -/

theorem wit_SwitchAndNodeTables_1 : let d := pack 512 [(7, 0, 0x70), (207, 192, 9), (223, 208, 1)]
    Handed (cmdState d (List.replicate 32 255)) (5 : Fin 1024).val 0 0x70 (cmdEnt d (List.replicate 32 255)) ∧
      zeroFields ((entriesOf 256 1 (List.replicate 32 255)).getD 0 0) [(143, 140), (255, 154)] = false ∧
      Handed (cmdState d (List.replicate 32 0)) (5 : Fin 1024).val 0 0x70 (cmdEnt d (List.replicate 32 0)) ∧
      ((entriesOf 256 1 (List.replicate 32 0)).all fun e => zeroFields e [(143, 140), (255, 154)]) = true := by decide +kernel
theorem wit_SwitchAndNodeTables_2 : let d := pack 512 [(7, 0, 0x71), (207, 192, 65535), (223, 208, 1)]
    Handed (cmdState d) (5 : Fin 1024).val 0 0x71 (cmdEnt d) := by decide +kernel
theorem wit_SwitchAndNodeTables_3 : let d := pack 512 [(7, 0, 0x72), (71, 64, 129), (207, 192, 255)]
    Handed (cmdState d) (5 : Fin 1024).val 0 0x72 (cmdEnt d) := by decide +kernel
theorem wit_SwitchAndNodeTables_4 : let d := pack 512 [(7, 0, 0x78), (207, 192, 1)]
    let e : BitVec 256 := pack 256 [(1, 0, 3), (2, 2, 1), (21, 3, 7), (42, 24, 1), (53, 46, 1)]
    let b := bytesOf e
    Handed (cmdState d b) (5 : Fin 1024).val 0 0x78 (cmdEnt d b) ∧ entriesOf 256 1 b = [e] ∧ nodeOk (cmdState d b) e = true ∧
      (nodeApply (cmdState d b) e).2 = 0 ∧ nodeOk (cmdState d b) 0 = false := by decide +kernel
theorem wit_SwitchAndNodeTables_5 : let d := pack 512 [(7, 0, 0x78), (207, 192, 1)]
    let e : BitVec 256 := pack 256 [(1, 0, 3), (2, 2, 1), (21, 3, 7), (42, 24, 1), (53, 46, 1)]
    let s := (cmdState d (bytesOf e)).setQueue 7 { onDie := [{ aCopy with queue := 7, port := 0 }] }
    nodeOk s e = true ∧ (nodeApply s e).2 ≠ 0 := by decide +kernel
theorem wit_SwitchAndNodeTables_6 : let d := pack 512 [(7, 0, 0x79), (74, 73, 0), (207, 192, 2), (255, 224, 139)]
    Handed (cmdState d) (5 : Fin 1024).val 0 0x79 (cmdEnt d) ∧ nodeCount 0 < 139 + 2 ∧ 138 + 2 ≤ nodeCount 0 := by decide +kernel
theorem wit_SwitchAndNodeTables_7 : let d := pack 512 [(7, 0, 0x79), (74, 73, 0), (207, 192, 2), (255, 224, 138)]
    Handed (cmdState d) (5 : Fin 1024).val 0 0x79 (cmdEnt d) ∧ fld d 255 224 + fld d 207 192 ≤ nodeCount (fld d 74 73) := by
  decide +kernel
theorem wit_SwitchAndNodeTables_8 : let d := pack 512 [(7, 0, 0x7A), (207, 192, 1), (255, 224, 4096)]
    Handed (cmdState d) (5 : Fin 1024).val 0 0x7A (cmdEnt d) ∧ 4096 < fld d 255 224 + fld d 207 192 := by decide +kernel
theorem wit_SwitchAndNodeTables_9 : let d := pack 512 [(7, 0, 0x7A), (207, 192, 1), (255, 224, 4095)]
    Handed (cmdState d (List.replicate 16 0)) (5 : Fin 1024).val 0 0x7A (cmdEnt d (List.replicate 16 0)) ∧
      fld d 255 224 + fld d 207 192 ≤ 4096 ∧ ((entriesOf 128 1 (List.replicate 16 0)).all fun e => fld e 127 64 == 0) = true ∧
      Handed (cmdState d (List.replicate 16 1)) (5 : Fin 1024).val 0 0x7A (cmdEnt d (List.replicate 16 1)) ∧
      ((entriesOf 128 1 (List.replicate 16 1)).any fun e => fld e 127 64 != 0) = true := by decide +kernel

/-! GateLists -/

/-- A gate list of two entries: cycle 2,000 ns, base time 1 s. -/
def gateHdr : Desc := pack 512 [(47, 0, 1), (111, 80, 2000), (154, 144, 2)]
def gateEs : List W64 := [0xFF + 256 * 1000, 1 + 256 * 1000]
def gateBuf : List Byte := bytesOf gateHdr ++ gateEs.flatMap bytesOf
def aGate : GateList := ⟨gateHdr, gateEs, 0⟩
theorem wit_GateLists_1 : let d := pack 512 [(7, 0, 0x7B), (71, 64, 127)]
    Handed (cmdState d gateBuf) (5 : Fin 1024).val 0 0x7B (cmdEnt d gateBuf) ∧
      gateListOk (gateHeader gateBuf) (gateEntries gateBuf) = true ∧ ((cmdState d gateBuf).gatesOf 127).written = none ∧
      Handed (cmdState d) (5 : Fin 1024).val 0 0x7B (cmdEnt d) ∧ gateListOk (gateHeader []) (gateEntries []) = false := by
  decide +kernel
theorem wit_GateLists_2 : let d := pack 512 [(7, 0, 0x7B), (71, 64, 127)]
    let s := (cmdState d gateBuf).setGates 127 { written := some aGate, command := some (6, 0) }
    Handed s (5 : Fin 1024).val 0 0x7B (cmdEnt d gateBuf) ∧ (s.gatesOf (127 : Fin 128).val).written = some aGate ∧
      (s.gatesOf (127 : Fin 128).val).command = some (6, 0) ∧ s.tmu.time.nanos < aGate.base := by decide +kernel
theorem wit_GateLists_3 : let d := pack 512 [(7, 0, 0x7C), (71, 64, 127), (72, 72, 1)]
    let s := (cmdState d).setGates 127 { armed := some aGate }
    Handed s (5 : Fin 1024).val 0 0x7C (cmdEnt d) ∧ (if bit d 72 then (s.gatesOf 127).armed else (s.gatesOf 127).oper) = some aGate ∧
      (if bit d 72 then ((cmdState d).gatesOf 127).armed else ((cmdState d).gatesOf 127).oper) = none := by decide +kernel
theorem wit_GateLists_4 : let s := State.reset.setGates 3 { armed := some aGate }
    (s.gatesOf (3 : Fin 128).val).armed = some aGate ∧ aGate.change ≤ (s.reachDev aGate.change).tmu.time.nanos := by decide +kernel
theorem wit_GateLists_5 : let s := State.reset.setGates 3 { oper := some aGate }
    let t := State.reset.setGates 3 { oper := some aGate, entry := 1 }
    (s.gatesOf (3 : Fin 128).val).oper = some aGate ∧
      (gateAt aGate (s.gatesOf 3).armed s.tmu.time.nanos).entry = (s.gatesOf 3).entry ∧
      (gateAt aGate (s.gatesOf 3).armed s.tmu.time.nanos).gates = (s.gatesOf 3).gates ∧
      (gateAt aGate (t.gatesOf 3).armed t.tmu.time.nanos).entry ≠ (t.gatesOf 3).entry := by decide +kernel

/-! FlowControlAndSampling -/

theorem wit_FlowControlAndSampling_1 : let s := State.reset.setPfc 127 { ends := [(7, 900)], since := [(7, 100)], xoff := [7], sentAt := [(7, 50)] }
    ffind? (s.pfcOf (127 : Fin 128).val).ends (7 : Fin 8).val = some 900 ∧ (s.pfcOf 0).since = [] ∧
      ffind? (s.pfcOf (127 : Fin 128).val).sentAt (7 : Fin 8).val = some 50 ∧ (7 : Fin 8).val ∈ (s.pfcOf 127).xoff ∧
      pfcCount s 127 7 ≤ pfcXon s 127 := by decide +kernel
theorem wit_FlowControlAndSampling_2 :
    let s := (State.reset.setPfc 48 { xoff := [0], sentAt := [(0, 50)] }).setFrame 4 { aFrame with reserved := 64 }
    let s := s.setReg (Reg.TMG_PFC_THRESH 48) 0
    ffind? (s.pfcOf (48 : Fin 128).val).sentAt (0 : Fin 8).val = some 50 ∧ pfcXon s 48 < pfcCount s 48 0 := by decide +kernel
theorem wit_FlowControlAndSampling_3 :
    let s := (State.reset.setPfc 2 { since := [(0, 0)], ends := [(0, 2000)] }).setQueue 16 { onDie := [aCopy] }
    let s := s.setReg (Reg.TMG_PFC_TIMER 2) 0x00010000
    stormSince s (2 : Fin 128).val (0 : Fin 8).val = some 0 ∧ s.rf (Reg.TMG_PFC_TIMER (2 : Fin 128).val) 31 16 ≠ 0 ∧
      (0 : Fin 8).val ∉ (s.pfcOf (2 : Fin 128).val).storm ∧
      (ffind? (s.pfcOf (2 : Fin 128).val).ends (0 : Fin 8).val).any
        (fun t => s.ns + (1000 * s.rf (Reg.TMG_PFC_TIMER (2 : Fin 128).val) 31 16 - 0) ≤ t) = true := by decide +kernel
theorem wit_FlowControlAndSampling_4 : bit (State.reset.reg Reg.TMG_SAMPLE_CTRL) 0 = false ∧
    bit ((State.reset.setReg Reg.TMG_SAMPLE_CTRL 1).reg Reg.TMG_SAMPLE_CTRL) 0 = true := by decide +kernel

/-! KeyCommands -/

/-- The Locket store in service with slot 9 ACTIVE and cached, and a key command that names it. -/
def keyHeld (d : Desc) : State :=
  let s := withCmd bootedState d
  { s with cip := { s.cip with ready := true, slots := [(9, { gen := 3, state := .active })], cached := [9] } }
def keyDesc (op : Nat) (pin : Nat) : Desc := pack 512 [(7, 0, op), (85, 64, 9), (95, 86, 3), (97, 97, pin)]
/-- A key command accepted under a maker's session. -/
def makersCmd (op : Nat) : CmdEnt := { cmdEnt (keyDesc op 1) with role := 3 }
def withRight (s : State) : State := s.setRing 5 { s.ring 5 with cmds := (s.ring 5).cmds.map fun c => { c with role := 3 } }
theorem wit_KeyCommands_1 : let d := keyDesc 0x80 0
    let b := List.replicate 128 (255 : Byte)
    Handed (cmdState d b) (5 : Fin 1024).val 0 0x80 (cmdEnt d b) ∧
      keyWriteStatus (cmdState d b) (cmdEnt d b) (b.take 128) ∈ [St.badField, St.authFail, St.denied, St.busy] := by
  decide +kernel
theorem wit_KeyCommands_2 : let s := keyHeld (keyDesc 0x82 0)
    Handed s (5 : Fin 1024).val 0 0x82 (cmdEnt (keyDesc 0x82 0)) ∧ keyRefuse s (cmdEnt (keyDesc 0x82 0)) .plain = St.ok ∧
      s.cip.cached.contains 9 = true ∧ ffind? s.cip.upset 9 ≠ some 2 ∧
      keyRefuse (cmdState (keyDesc 0x82 0)) (cmdEnt (keyDesc 0x82 0)) .plain = St.busy ∧
      keyRefuse { s with cip := { s.cip with slots := [] } } (cmdEnt (keyDesc 0x82 0)) .plain = St.keyStale := by
  decide +kernel
theorem wit_KeyCommands_3 : [0x81, 0x83].all (fun op =>
    let s := withRight (keyHeld (keyDesc op 1))
    decide (Handed s (5 : Fin 1024).val 0 op (makersCmd op)) && keyRefuse s (makersCmd op) .keys == St.ok &&
      !s.cip.pinned.contains 9 && decide (s.cip.pinned.length < 1024)) = true := by decide +kernel
theorem wit_KeyCommands_4 : let s := withRight (keyHeld (keyDesc 0x83 1))
    let s := { s with cip := { s.cip with pinned := List.replicate 1024 8 } }
    Handed s (5 : Fin 1024).val 0 0x83 (makersCmd 0x83) ∧ keyRefuse s (makersCmd 0x83) .keys = St.ok ∧
      bit (keyDesc 0x83 1) 97 = true ∧ s.cip.pinned.contains 9 = false ∧ 1024 ≤ s.cip.pinned.length ∧
      bit (keyDesc 0x83 0) 97 = false ∧ keyRefuse (cmdState (keyDesc 0x81 0)) (cmdEnt (keyDesc 0x81 0)) .keys ≠ St.ok := by
  decide +kernel
theorem wit_KeyCommands_5 : let s := { State.reset with cip := { State.reset.cip with slots := [(9, { gen := 3, state := .erasing })] } }
    (s.keySlot (9 : BitVec 22).toNat).state = .erasing ∧ s.cip.cores = [] := by decide +kernel
theorem wit_KeyCommands_6 : let x : KeySlot := { gen := 3, state := .erasing }
    let j : CipJob := ⟨{ cluster := 0, pkt := 0, op := 0, mode := 0, slot := 9, gen := 3, no := 0 }, 9, x, 1, 0, [], {}⟩
    let s := { State.reset with cip := { State.reset.cip with slots := [(9, x)], cores := [(31, j)] } }
    (s.keySlot (9 : BitVec 22).toNat).state = .erasing ∧ (s.cip.cores.any fun e => e.2.slot == 9) = true := by decide +kernel
theorem wit_KeyCommands_7 : let s := [0, 1, 2, 3].foldl (fun s h => s.setStack h { trained := true }) bootedState
    s.cip.ready = false ∧ s.hmk.boot ≠ 0 ∧ s.hmk.boot ≠ 3 ∧ ∀ h < 4, (s.stack h).trained = true := by decide +kernel

/-! CipherEngine -/

/-- A request of a CIPHER of the packet of frame 4, queued at cluster 3, and a state in which its slot is not cached. -/
def aReq : CipReq := { cluster := 3, pkt := 6, op := 2, mode := 0, slot := 9, gen := 3, no := 0 }
def reqState (x : Cip) : State :=
  let s := pktState (runPkt 3 .issued) inFrame
  { s with cip := x }
theorem wit_CipherEngine_1 : let s := reqState { queues := [(3, [aReq])] }
    coreOn s (0 : Fin 32).val = true ∧ ffind? s.cip.cores (0 : Fin 32).val = none ∧
      (reqOrder s).find? (reqReady s true) = some aReq ∧
      reqFrame s aReq = some (4, inFrame) ∧ badCell s 4 = none ∧
      acceptCheck s aReq inFrame.bytes (inFrame.parsed.getD {}) = .fetch 9 ∧
      (reqOrder (reqState {})).find? (reqReady (reqState {}) true) = none := by
  decide +kernel
theorem wit_CipherEngine_2 : let s := reqState { queues := [(3, [aReq])], cached := [9], upset := [(9, 2)] }
    (reqOrder s).find? (reqReady s true) = some aReq ∧
      acceptCheck s aReq inFrame.bytes (inFrame.parsed.getD {}) = .broken 9 := by
  decide +kernel
theorem wit_CipherEngine_3 : let s := reqState { queues := [(3, [aReq])], cached := [9], slots := [(9, { gen := 4 })] }
    (reqOrder s).find? (reqReady s true) = some aReq ∧
      acceptCheck s aReq inFrame.bytes (inFrame.parsed.getD {}) = .fail 2 := by
  decide +kernel
theorem wit_CipherEngine_4 : let r := { aReq with mode := 2 }
    let s := reqState { queues := [(3, [r])], cached := [9], slots := [(9, { gen := 3, state := .active, usage := 2, counter := 7 })] }
    coreOn s (0 : Fin 32).val = true ∧ (reqOrder s).find? (reqReady s true) = some r ∧ reqFrame s r = some (4, inFrame) ∧
      acceptCheck s r inFrame.bytes (inFrame.parsed.getD {}) = .go 9 8 := by decide +kernel
theorem wit_CipherEngine_5 : let s := reqState { fetching := [9] }
    s.cip.fetching.contains (9 : BitVec 22).toNat = true ∧ s.hlt.solo = false ∧ fetchCause s (9 : BitVec 22).toNat = none ∧
      fetchCause (reqState { fetching := [9], broken := [(9, 1)] }) (9 : BitVec 22).toNat = some 1 := by decide +kernel
theorem wit_CipherEngine_6 : let j : CipJob := ⟨aReq, 9, { gen := 3 }, 1, 4, inFrame.bytes, {}⟩
    let s := reqState { cores := [(31, j)] }
    ffind? s.cip.cores (31 : Fin 32).val = some j ∧ s.frame? j.frame = some inFrame ∧ jobWanted s j = true := by decide +kernel

/-! ArbiterAndHbm -/

def slotDesc (m : Nat) : Desc := pack 512 [(7, 0, 0x90), (67, 64, m)]
def slotBuf : List Byte := List.replicate 255 11 ++ [30]
theorem wit_ArbiterAndHbm_1 : let b := slotBuf
    Handed (cmdState (slotDesc 0) b) (5 : Fin 1024).val 0 0x90 (cmdEnt (slotDesc 0) b) ∧
      maskList 4 (fld (slotDesc 0) 67 64) = [] ∧ maskList 4 (fld (slotDesc 10) 67 64) = [1, 3] ∧
      Handed (cmdState (slotDesc 10) b) (5 : Fin 1024).val 0 0x90 (cmdEnt (slotDesc 10) b) ∧
      tablesBusy (cmdState (slotDesc 10) b) [1, 3] = false ∧
      tablesBusy ((cmdState (slotDesc 10) b).setStack 3 { command := some (7, 7) }) [1, 3] = true ∧
      ((b.take 256).map (·.toNat)).all (fun o => decide (o < 12) || (decide (28 ≤ o) && decide (o ≤ 30))) = true ∧
      30 ∈ (b.take 256).map (·.toNat) ∧ 30 ∉ ((List.replicate 256 (12 : Byte)).take 256).map (·.toNat) := by decide +kernel
theorem wit_ArbiterAndHbm_2 : let s := (State.reset.setStack 1 { command := some (5, 0) }).setStack 3 { command := some (5, 0) }
    (s.stack (1 : Fin 4).val).command = some (5, 0) ∧ ((State.reset.setStack 1 { command := some (5, 0) }).stack 1).command = some (5, 0) ∧
      ((s.reach (20480 * ((s.ns + 20479) / 20480))).stack 3).command = some (5, 0) := by decide +kernel
theorem wit_ArbiterAndHbm_3 : barOpen bootedState = true ∧ fld (BitVec.ofNat 32 0x00011000) 12 4 = 256 ∧ fld (BitVec.ofNat 32 0x00011000) 31 16 ≠ 0 ∧
    fld (BitVec.ofNat 32 0x00010030) 12 4 = 3 ∧ 12 ≤ (31 : Fin 32).val := by decide +kernel
/-- A channel of stack 2, with the stack trained. -/
def chanState (x : Channel) : State := (State.reset.setStack 2 { trained := true }).setChan 2 31 x
theorem wit_ArbiterAndHbm_4 : let s := chanState {}
    stackOn s (2 : Fin 4).val = true ∧ stackLive s (2 : Fin 4).val = true ∧ stackOn State.reset (2 : Fin 4).val = false ∧
      stackLive State.reset (2 : Fin 4).val = false ∧ ((s.reach 0).chan 2 31).retrain = none ∧ stackOn (s.reach 0) 2 = true ∧ realTime (s.chan 2 31) 31 = false ∧ (s.chan 2 31).retrain = none ∧ s.pkg.inReset = false ∧
      s.hlt.shutdown = false ∧ (s.stack 2).lost = false ∧ s.domain (domMem 2) = .on := by decide +kernel
theorem wit_ArbiterAndHbm_5 : let s := chanState { holder := some 11, held := 4, limit := 4, retrain := some 7 }
    (s.chan 2 31).holder ≠ none ∧ (s.chan 2 31).limit ≤ (s.chan 2 31).held ∧ (s.chan 2 31).retrain = some 7 ∧
      (s.chan 2 31).holder = some 11 ∧ (s.chan 2 31).failed = false ∧
      ((chanState { holder := some 11, held := 3, limit := 4 }).chan 2 31).held < 4 := by decide +kernel
theorem wit_ArbiterAndHbm_6 : let t : MemTxn := { req := 4, addr := 0, write := false, beats := 4, banks := [31], row := 0, arrive := 0, passed := 0 }
    let s := chanState { queue := [t], banks := [(31, { due := 1, postponed := 3 })] }
    stackLive s 2 = true ∧ realTime (s.chan 2 31) 31 = true ∧ ((s.chan 2 31).bank 31).due ≠ 0 ∧
      4 ≤ ((s.chan 2 31).bank 31).postponed + 1 ∧ ((s.chan 2 31).bank 30).due = 0 ∧ ((s.chan 2 31).bank 30).postponed < 4 := by decide +kernel
theorem wit_ArbiterAndHbm_7 : let s := (chanState {}).setReg (Reg.MEM_PD_CTRL 2) 1
    let t : MemTxn := { req := 4, addr := 0, write := false, beats := 4, banks := [3], row := 0, arrive := 0, passed := 0 }
    let x := (chanState { queue := [t], banks := [(3, { due := 1 })] }).chan 2 31
    (∀ t ∈ x.queue, ∀ b ∈ t.banks, b / 16 ≠ (1 : Fin 2).val) ∧ (∀ e ∈ x.banks, e.1 / 16 = (1 : Fin 2).val → e.2.due = 0) ∧
    bit (s.reg (Reg.MEM_PD_CTRL (2 : Fin 4).val)) 0 = true ∧ (s.chan 2 31).queue = [] ∧ (s.chan 2 31).banks = [] ∧
      (1 : Fin 2).val ∉ (s.chan 2 31).down := by decide +kernel
theorem wit_ArbiterAndHbm_8 : ((chanState { retrain := some 8 }).chan 2 31).retrain = some 8 ∧
    ((chanState { retrain := some 8 }).chan 2 31).failed = false ∧
    ((chanState { retrain := some 8, failed := true, fails := 2 }).chan 2 31).failed = true := by decide +kernel
theorem wit_ArbiterAndHbm_9 : hbmMap (2 ^ 60) = none ∧ (hbmMap 0).isSome = true ∧
    ((hbmMap 0).map (·.stack)) = some (0 : Fin 4).val ∧ stackOn (State.reset.setStack 0 { trained := true }) 0 = true ∧
    ((State.reset.setStack 2 { lost := true }).stack 2).lost = true := by decide +kernel

/-! PortStates -/

/-- Port 2 of `portsState` in a state, with its configuration. -/
def linkState (x : PortSt) : State := portsState.setPort 2 x
theorem wit_PortStates_1 : [0, 1, 2, 3, 4, 5].all (fun k =>
    let s := linkState { state := k, cfg := 2 }
    portExists s (2 : Fin 128).val && (s.port 2).state == k && !(s.port 2).waiting && bit (s.port 2).cfg 1 &&
      !(s.port 2).localFault && !(s.port 2).remoteFault && refOk s (octOf 2)) = true := by decide +kernel
theorem wit_PortStates_7 : let s := linkState { state := 1, cfg := 2 }
    ({ mode := quadMode s (2 : Fin 128).val, copper := false } : Tech) ∈ [({ mode := 1, copper := false } : Tech)] ∧
      bit (s.port 2).cfg 2 = false ∧ ({ mode := quadMode s (2 : Fin 128).val, copper := false } : Tech) ∉ ([] : List Tech) := by
  decide +kernel
theorem wit_PortStates_2 : bit ((linkState { state := 1 }).port 2).cfg 1 = false ∧
    ((linkState { state := 1, waiting := true }).port 2).waiting = true ∧ portExists (linkState { waiting := true }) 2 = true := by
  decide +kernel
theorem wit_PortStates_3 : let s := (linkState { state := 4 }).setLane 2 { valid := true }
    portExists s (2 : Fin 128).val = true ∧ (s.port 2).state = 4 ∧ portLanes s 2 = [2] ∧ (s.lane 2).valid = true := by decide +kernel
def modeDesc (w m0 : Nat) : Desc := pack 512 [(7, 0, 0x98), (69, 68, w), (74, 72, m0)]
theorem wit_PortStates_4 : [(0, 0), (1, 4), (1, 2)].all (fun e =>
    decide (Handed (withCmd portsState (modeDesc e.1 e.2)) (5 : Fin 1024).val 0 0x98 (cmdEnt (modeDesc e.1 e.2)))) = true := by
  decide +kernel
theorem wit_PortStates_5 : let s := withCmd portsState (modeDesc 1 2)
    newMode s (modeDesc 1 2) 0 = 2 ∧ newMode s (modeDesc 1 2) 1 = 0 ∧ s.mode 0 0 = 1 ∧ newMode s (modeDesc 1 4) 0 = 4 ∧
      (([0, 1].filter fun q => newMode s (modeDesc 1 2) q != s.mode 0 q).flatMap (quadPorts s 0)) = [0, 1, 2, 3] ∧
      [0, 1, 2, 3].all (fun p => s.egCells p == 0 && s.portSegs p == 0) = true ∧ (chargeEg s 3 1).egCells 3 ≠ 0 ∧
      Handed (chargeEg s 3 1) (5 : Fin 1024).val 0 0x98 (cmdEnt (modeDesc 1 2)) := by decide +kernel
def adminDesc (p en : Nat) : Desc := pack 512 [(7, 0, 0x99), (87, 80, p), (88, 88, en)]
theorem wit_PortStates_6 : [(2, 0), (2, 1), (3, 1), (4, 1)].all (fun e =>
    let s := withCmd portsState (adminDesc e.1 e.2)
    decide (Handed s (5 : Fin 1024).val 0 0x99 (cmdEnt (adminDesc e.1 e.2))) && portExists s e.1 == decide (e.1 < 4) &&
      (s.port e.1).state == (if e.1 = 2 then 5 else 0)) = true := by decide +kernel

/-! LanesAndSpares -/

theorem wit_LanesAndSpares_1 : lanePort portsState (2 : Fin 128).val = some 2 ∧ (portsState.port 2).state = 5 ∧
    (portsState.lane 2).delay = 0 ∧ (portsState.lane 2).scan = none ∧ (portsState.lane 2).low = false ∧
    (2 : Fin 3).val < laneEyes portsState 2 := by decide +kernel
theorem wit_LanesAndSpares_10 : let s := portsState.setLane 2 { corner := 5 }
    let t := portsState.setLane 2 { corner := 0, lock := true, measured := true, delay := 2 ^ 20 }
    (s.lane (2 : Fin 128).val).corner % (4 * laneEyes s 2) = 4 * (1 : Fin 3).val + (1 : Fin 4).val ∧
      1 ≤ 2 ^ s.rf (Reg.LIF_LOUPE_CTRL (octOf (2 : Fin 128).val) (slotOf (2 : Fin 128).val)) 20 16 ∧
      (t.lane 2).corner % (4 * laneEyes t 2) ≠ 5 ∧ (t.lane 2).lock = true ∧ (t.lane 2).measured = true ∧
      [({ pins := 3, exit := 13 } : Marker)] ≠ [] ∧ 10 + 65536 < (t.lane 2).delay ∧
      ((portsState.setPort 2 { portsState.port 2 with state := 4 }).port 2).state = 4 := by decide +kernel
theorem wit_LanesAndSpares_11 : let s := portsState.setReg (Reg.LIF_LOUPE_CTRL (octOf (2 : Fin 128).val) (slotOf (2 : Fin 128).val)) 0x00080800
    2 ^ s.rf (Reg.LIF_LOUPE_CTRL (octOf (2 : Fin 128).val) (slotOf (2 : Fin 128).val)) 15 10 < 5 ∧
      5 ≤ 2 ^ s.rf (Reg.LIF_LOUPE_CTRL (octOf (2 : Fin 128).val) (slotOf (2 : Fin 128).val)) 20 16 := by decide +kernel
theorem wit_LanesAndSpares_2 : lanePort portsState (3 : Fin 128).val = some 3 ∧ (portsState.port 3).state < 3 ∧
    (portsState.lane 3).lock = false := by decide +kernel
theorem wit_LanesAndSpares_3 : let s := portsState.setLane 2 { low := true, corner := 11, clean := [0, 1, 2, 3, 4, 5, 6, 7, 8, 9, 10] }
    lanePort s (2 : Fin 128).val = some 2 ∧ (s.port 2).state = 5 ∧ (s.lane 2).low = true ∧
      (s.lane 2).corner % (4 * laneEyes s 2) = 4 * (2 : Fin 3).val + (3 : Fin 4).val ∧
      laneEyes (s.reach ((s.lane 2).dwellAt + dwellNs s 2)) 2 = 3 ∧
      (4 * (2 : Fin 3).val + (3 : Fin 4).val) ∉ (s.lane 2).clean ∧ (s.lane 2).clean.length + 1 = 4 * laneEyes s 2 := by
  decide +kernel
theorem wit_LanesAndSpares_4 : State.reset.lif.refLost.contains (4 : Fin 16).val = false ∧
    ({ State.reset with lif := { State.reset.lif with refLost := [4] } }).lif.refLost.contains (4 : Fin 16).val = true := by
  decide +kernel
def eyeDesc (l : Nat) : Desc := pack 512 [(7, 0, 0x9A), (70, 64, l)]
theorem wit_LanesAndSpares_5 : let s := withCmd portsState (eyeDesc 2)
    s.cmd? (5 : Fin 1024).val 0 = some (cmdEnt (eyeDesc 2)) ∧ descOp (eyeDesc 2) = 0x9A ∧
      s.next? (5 : Fin 1024).val = some (cmdEnt (eyeDesc 2)) ∧ lanePort s 2 = some 2 ∧ (s.port 2).state ≠ 0 ∧
      (s.lane 2).scan = none ∧ lanePort s 127 = none ∧
      (withCmd portsState (eyeDesc 127)).next? (5 : Fin 1024).val = some (cmdEnt (eyeDesc 127)) := by decide +kernel
theorem wit_LanesAndSpares_6 : let c := { cmdEnt (eyeDesc 2) with phase := .running }
    let s := (portsState.setRing 5 { enabled := true, cmds := [c] }).setLane 2 { scan := some (5, 0) }
    s.cmd? (5 : Fin 1024).val 0 = some c ∧ (s.lane 2).scan = some ((5 : Fin 1024).val, 0) := by decide +kernel
theorem wit_LanesAndSpares_7 : barOpen bootedState = true ∧ bootedState.pkg.sealed = false ∧ 10 ≤ fld (0x000A0001 : W32) 31 16 ∧
    fld (0x00090001 : W32) 31 16 < 10 := by decide +kernel
theorem wit_LanesAndSpares_8 : let s := State.reset.setReg Reg.HLT_SPARE_CTRL 0x000A0001
    bit (s.reg Reg.HLT_SPARE_CTRL) 0 = true ∧ (s.spare 223).phase = 0 ∧ (s.spare 223).retired = none ∧
      s.domain (groupDomain (223 : Fin 224).val) = .on := by decide +kernel
theorem wit_LanesAndSpares_9 : [1, 2, 3].all (fun k =>
    ((State.reset.setSpare 0 { phase := k, live := 14 }).spare (0 : Fin 224).val).phase == k) = true ∧
    14 + 1 ≠ groupMacros (0 : Fin 224).val ∧ 15 + 1 = groupMacros (0 : Fin 224).val := by decide +kernel

/-! BootAndRoles -/

theorem wit_BootAndRoles_1 : State.reset.pkg.inReset = false ∧ State.reset.hmk.boot = 0 ∧ State.reset.hmk.rngFail = false ∧
    State.reset.hlt.shutdown = false := by decide +kernel
theorem wit_BootAndRoles_7 : State.reset.hmk.fuses.identHash = Config.sha512 (Config.identKey State.reset.hmk.fuses.root) := rfl
theorem wit_BootAndRoles_2 : [0xB0, 0xB1, 0xB2, 0xB3, 0xB4, 0xB5, 0xB6, 0xB7].all (fun op =>
    let d := pack 512 [(7, 0, op)]
    decide (Handed (cmdState d) (5 : Fin 1024).val 0 op (cmdEnt d)) && (cmdState d).hmk.boot == 0) = true := by decide +kernel
theorem wit_BootAndRoles_3 : let d := pack 512 [(7, 0, 0xB0)]
    let s := { cmdState d with hmk := { State.reset.hmk with boot := 1 } }
    Handed s (5 : Fin 1024).val 0 0xB0 (cmdEnt d) ∧ s.hmk.boot = 1 ∧ s.hmk.rngFail = false ∧
      { s.hmk with rngFail := true }.rngFail = true := by decide +kernel
/-- A maker's ticket for ring 5 that revokes. -/
def aTicket : List Byte := bytesOf (pack 1024 [(7, 0, 3), (23, 16, 6), (41, 32, 5)]) ++ List.replicate 1024 0
theorem wit_BootAndRoles_4 : let d := pack 512 [(7, 0, 0xB6), (223, 192, 1152)]
    Handed (cmdState d aTicket) (5 : Fin 1024).val 0 0xB6 (cmdEnt d aTicket) ∧ tokBad (5 : Fin 1024).val (aTicket.take 1152) true = false ∧
      fld d 223 192 = (if tokAction (aTicket.take 1152) = 7 then 1664 else 1152) ∧
      fld (pack 512 [(7, 0, 0xB6)]) 223 192 ≠ (if tokAction (aTicket.take 1152) = 7 then 1664 else 1152) ∧ tokBad (5 : Fin 1024).val [] true = true := by
  decide +kernel
theorem wit_BootAndRoles_5 : let d := pack 512 [(7, 0, 0xB7), (79, 64, 0x104)]
    Handed (cmdState d) (5 : Fin 1024).val 0 0xB7 (cmdEnt d) ∧ 0x103 < fld d 79 64 ∧ 7 < fld d 79 64 := by decide +kernel
theorem wit_BootAndRoles_6 : let d := pack 512 [(7, 0, 0xB7), (79, 64, 0x103)]
    let s := cmdState d
    Handed s (5 : Fin 1024).val 0 0xB7 (cmdEnt d) ∧ fld d 79 64 ≤ 0x103 ∧ 0x100 ≤ fld d 79 64 ∧
      Machine.slotOk s s.hmk.fuses.codeKey s.hmk.fuses.revCode 3 [] = false := by decide +kernel

/-! AuditAndWatch -/

/-- Hallmark with three records, the last of them staged. -/
def auditState (op first : Nat) : State :=
  let s := cmdState (pack 512 [(7, 0, op), (287, 224, first), (303, 288, 4)])
  { s with hmk := { s.hmk with boot := 2, seq := 3, released := 1, staging := [77] } }
theorem wit_AuditAndWatch_1 : [0xB8, 0xB9, 0xBA].all (fun op => [0, 1, 2, 3].all fun k =>
    decide (Handed (auditState op k) (5 : Fin 1024).val 0 op (cmdEnt (pack 512 [(7, 0, op), (287, 224, k), (303, 288, 4)])))) = true := by
  decide +kernel
theorem wit_AuditAndWatch_2 : (auditState 0xB8 0).hmk.released = 1 ∧ stagedFrom (auditState 0xB8 1) = 2 ∧
    auditHbm (auditState 0xB8 1) = false ∧ (auditState 0xB8 2).hmk.staging = [77] ∧
    auditHbm ([0, 1, 2, 3].foldl (fun s h => s.setStack h { trained := true }) (auditState 0xB8 1)) = true := by decide +kernel
theorem wit_AuditAndWatch_3 : let d : Denied := ⟨0x81, 3, St.denied, 9, 0, 5⟩
    let s := { State.reset with hmk := { State.reset.hmk with denied := [(1023, d)] } }
    ffind? s.hmk.denied (1023 : Fin 1024).val = some d ∧ (s.reach (d.since + giga)).session? (1023 : Fin 1024).val = none := by decide +kernel
theorem wit_AuditAndWatch_4 : let s := { State.reset with
      hmk := { State.reset.hmk with sessions := [(7, ⟨1, 0, 0, 5⟩), (8, ⟨1, 0, 9, 5⟩)] }, tmu := { State.reset.tmu with counting := false } }
    ffind? s.hmk.sessions (7 : Fin 1024).val = some ⟨1, 0, 0, 5⟩ ∧ s.tmu.counting = false ∧ 0 ≤ s.tmu.tick ∧
      ffind? s.hmk.sessions (8 : Fin 1024).val = some ⟨1, 0, 9, 5⟩ ∧ s.tmu.tick < 9 := by decide +kernel
theorem wit_AuditAndWatch_5 : let at' := fun (s : State) => s.reach (s.hmk.revAt + 1000000 * s.rf Reg.HMK_REVERIFY_CTRL 15 0)
    bootedState.hmk.boot = 2 ∧ (∀ c < 8, usedPages ((at' bootedState).cluster c) = []) ∧
    (let s := at' (bootedState.setCluster 7 { map0 := [(0, 255)] })
     s.domain (domCluster 7) = .on ∧ usedPages (s.cluster 7) = [255] ∧ (∀ k < 8, k ≠ 7 → usedPages (s.cluster k) = [])) ∧
    State.reset.hmk.boot ≠ 2 ∧ State.reset.hmk.rngFail = false := by decide +kernel

/-! PowerHealthAndSolitaire -/

def powDesc (t d : Nat) : Desc := pack 512 [(7, 0, 0xD0), (127, 64, 2 ^ d), (193, 192, t)]
def domState (p : Pwr) (d : Desc) : State :=
  let s := cmdState d
  { s with hlt := { s.hlt with domain := [(29, p)] } }
theorem wit_PowerHealthAndSolitaire_1 : let s := domState .retain (powDesc 0 29)
    Handed s (5 : Fin 1024).val 0 0xD0 (cmdEnt (powDesc 0 29)) ∧ maskList 64 (fld (powDesc 0 29) 127 64) = [29] ∧
      fld (powDesc 0 29) 193 192 = 0 ∧ powerMet s [29] .on 29 = true ∧ s.domain 29 = .retain ∧
      (cmdState (powDesc 0 29)).domain 29 = .on ∧ powerMet (cmdState (powDesc 0 29)) [29] .on 29 = true ∧
      Handed (cmdState (powDesc 0 29)) (5 : Fin 1024).val 0 0xD0 (cmdEnt (powDesc 0 29)) := by decide +kernel
theorem wit_PowerHealthAndSolitaire_2 : let s := domState .off (powDesc 0 57)
    let s := { s with hlt := { s.hlt with domain := [(57, .off)] } }
    Handed s (5 : Fin 1024).val 0 0xD0 (cmdEnt (powDesc 0 57)) ∧ maskList 64 (fld (powDesc 0 57) 127 64) = [57] ∧
      powerMet s [57] .on 57 = false := by decide +kernel
theorem wit_PowerHealthAndSolitaire_3 :
    Handed (cmdState (powDesc 1 1)) (5 : Fin 1024).val 0 0xD0 (cmdEnt (powDesc 1 1)) ∧ fld (powDesc 1 1) 193 192 = 1 ∧
      domTakes 1 .retain = false ∧ maskList 64 (fld (powDesc 1 1) 127 64) = [1] := by decide +kernel
theorem wit_PowerHealthAndSolitaire_4 : let s := cmdState (powDesc 1 29)
    let s := { s with hlt := { s.hlt with solo := true } }
    Handed s (5 : Fin 1024).val 0 0xD0 (cmdEnt (powDesc 1 29)) ∧ maskList 64 (fld (powDesc 1 29) 127 64) = [29] ∧
      domTakes 29 .retain = true ∧ powerMet s [29] .retain 29 = true ∧ s.domain 29 = .on := by decide +kernel
theorem wit_PowerHealthAndSolitaire_5 : [0xD1, 0xD2, 0xD3, 0xD4, 0xD5, 0xD6, 0xD7].all (fun op =>
    let d := pack 512 [(7, 0, op), (239, 224, 1), (127, 64, 0)]
    decide (Handed (cmdState d) (5 : Fin 1024).val 0 op (cmdEnt d))) = true := by decide +kernel
theorem wit_PowerHealthAndSolitaire_6 : let s := { cmdState (pack 512 [(7, 0, 0xD2)]) with
      hlt := { State.reset.hlt with solo := true, active := [1] } }
    let t := [0, 1, 2, 3].foldl (fun s h => s.setStack h { trained := true }) { s with hlt := { s.hlt with active := [] } }
    Handed s (5 : Fin 1024).val 0 0xD2 (cmdEnt (pack 512 [(7, 0, 0xD2)])) ∧ s.hlt.solo = true ∧ s.hlt.active ≠ [] ∧
      Handed t (5 : Fin 1024).val 0 0xD2 (cmdEnt (pack 512 [(7, 0, 0xD2)])) ∧ t.hlt.solo = true ∧ exitAllowed t = true ∧
      bit (t.reg Reg.FLW_CTRL) 0 = false := by decide +kernel
theorem wit_PowerHealthAndSolitaire_7 : let e : BitVec 256 := pack 256 [(7, 0, 9), (160, 160, 1)]
    entriesOf 256 1 (bytesOf e) = [e] ∧ keelEntBad e = false ∧ keelEntBad (pack 256 [(83, 82, 3)]) = true ∧
      keelClash State.reset 0 e = false ∧ keelClash (keelPut State.reset 1 e) 0 e = true := by decide +kernel
theorem wit_PowerHealthAndSolitaire_8 : healthBad [] = true ∧
    healthBad (bytesLE 4 0x54484C48 ++ [1] ++ List.replicate 51 0 ++ List.replicate 224 255 ++ List.replicate 104 0) = false ∧
    (cmdState (pack 512 [(7, 0, 0xD6)])).pkg.sealed = false := by decide +kernel
theorem wit_PowerHealthAndSolitaire_9 : let d := pack 512 [(7, 0, 0xD7), (127, 64, 2 ^ 29)]
    Handed (domState .retain d) (5 : Fin 1024).val 0 0xD7 (cmdEnt d) ∧ maskList 64 (fld d 127 64) = [29] ∧
      (domState .retain d).domain 29 = .retain ∧ domMoves (domState .retain d) 29 = false ∧
      Handed (cmdState d) (5 : Fin 1024).val 0 0xD7 (cmdEnt d) ∧ (cmdState d).domain 29 ≠ .retain := by decide +kernel
theorem wit_PowerHealthAndSolitaire_10 : let m : Moving := ⟨.on, 5, 0⟩
    let s := { State.reset with hlt := { State.reset.hlt with domain := [(29, .retain)], moving := [(29, m)] } }
    let t := { s with hlt := { s.hlt with moving := [(29, m), (30, m)] } }
    ffind? s.hlt.moving (29 : Fin 64).val = some m ∧ (domArrive s 29 .on).hlt.moving = [] ∧
      ffind? t.hlt.moving (29 : Fin 64).val = some m ∧ (domArrive t 29 .on).hlt.moving = [(30, m)] := by decide +kernel
theorem wit_PowerHealthAndSolitaire_11 : causeHolds State.reset (2 : Fin 4).val = false ∧ State.reset.hlt.shutdown = false ∧
    causeHolds { State.reset with hmk := { State.reset.hmk with revMiss := true } } (2 : Fin 4).val = true ∧
    State.reset.pkg.inReset = false ∧ tempPut State.reset.hlt.dieTemp 16 [85] ≠ [] := by decide +kernel

end Sys2Proof.Tests
end

section
/-!
Every step keeps the register file, the latched words, host memory and HBM in canonical form. One lemma for each operation of the model, in
the order of the model's files: from a state whose memories are canonical it gives one whose memories are. The memories are written through
`setReg`, `hostWrite` and `setUnit` alone, but for what a reset or a restart drops and what a read latches; every other operation is put
together from these, and its lemma follows its definition.
-/

namespace Sys2Proof.Machine

open Sys2Proof

/-- Where an outcome is a next state, its memories stand in canonical form. -/
def NextWf (o : Out') : Prop := ∀ t, o = .next t → Memory.wf t = true

theorem next_of_wf {t : State} (h : Memory.wf t = true) : NextWf (.next t) := fun _ e => by cases e; exact h
theorem fault_next {r : Fault} : NextWf (.fault r) := fun _ e => by cases e
theorem refused_next {r : Refusal} : NextWf (.refused r) := fun _ e => by cases e

section

variable {α β : Type} {s t : State}

/-- An update of fields other than the four memories. -/
theorem update_wf (h : Memory.wf s = true)
    {pending busRead ns freeCtr order out pkg hif tmu hlt hmk bpm flw prs fwd tcm clusters swc tmg cip mem lif} :
    Memory.wf ⟨pending, s.regs, s.latch, busRead, ns, freeCtr, order, out, s.hostMem, s.hbm, pkg, hif, tmu, hlt, hmk, bpm, flw, prs, fwd,
      tcm, clusters, swc, tmg, cip, mem, lif⟩ = true := h

/-! A choice keeps the canonical form where each of its alternatives does. -/

variable {c : Prop} [Decidable c]

theorem ite_wf (hs : Memory.wf s = true) (ht : Memory.wf t = true) : Memory.wf (if c then s else t) = true := by
  split <;> assumption

theorem ite_wf_fst {p q : State × α} (hp : Memory.wf p.1 = true) (hq : Memory.wf q.1 = true) :
    Memory.wf (if c then p else q).1 = true := by split <;> assumption

theorem ite_wf_snd {p q : α × State} (hp : Memory.wf p.2 = true) (hq : Memory.wf q.2 = true) :
    Memory.wf (if c then p else q).2 = true := by split <;> assumption

theorem ite_next {x y : Out'} (hx : NextWf x) (hy : NextWf y) : NextWf (if c then x else y) := by split <;> assumption

/-- The state of a pair that is taken apart. -/
theorem wf_of_fst_eq {p : State × α} {x : α} (e : p = (t, x)) (h : Memory.wf p.1 = true) : Memory.wf t = true := by subst e; exact h

/-! An attempt that may fail. -/

/-- Where an attempt gives a state, its memories stand in canonical form. -/
def SomeWf (o : Option State) : Prop := ∀ t, o = some t → Memory.wf t = true

theorem some_someWf (h : Memory.wf s = true) : SomeWf (some s) := fun _ e => by cases e; exact h
theorem none_someWf : SomeWf none := fun _ e => by cases e

theorem ite_someWf {p q : Option State} (hp : SomeWf p) (hq : SomeWf q) : SomeWf (if c then p else q) := by split <;> assumption

theorem bind_someWf {p : Option State} {f : State → Option State} (hp : SomeWf p) (hf : ∀ s, Memory.wf s = true → SomeWf (f s)) :
    SomeWf (p.bind f) := by
  cases p with
  | none => exact none_someWf
  | some s => exact hf s (hp s rfl)

theorem map_someWf {p : Option State} {f : State → State} (hp : SomeWf p) (hf : ∀ s, Memory.wf s = true → Memory.wf (f s) = true) :
    SomeWf (p.map f) := by
  cases p with
  | none => exact none_someWf
  | some s => exact some_someWf (hf s (hp s rfl))

theorem foldl_someWf {f : Option State → α → Option State} {xs : List α} {p : Option State} (h : SomeWf p)
    (hf : ∀ p x, SomeWf p → SomeWf (f p x)) : SomeWf (xs.foldl f p) :=
  xs.foldlRecOn f h fun p hp x _ => hf p x hp

/-! A state paired with what an operation answers beside it. -/

theorem mk_wf_fst {x : α} (h : Memory.wf s = true) : Memory.wf (s, x).1 = true := h
theorem mk_wf_snd {x : α} (h : Memory.wf s = true) : Memory.wf (x, s).2 = true := h

/-! Repeated steps, each of which keeps it, keep it. -/

theorem foldl_wf {f : State → α → State} {xs : List α} (h : Memory.wf s = true)
    (hf : ∀ s x, Memory.wf s = true → Memory.wf (f s x) = true) : Memory.wf (xs.foldl f s) = true :=
  xs.foldlRecOn f h fun s hs x _ => hf s x hs

theorem foldl_wf_fst {f : State × β → α → State × β} {xs : List α} {p : State × β} (h : Memory.wf p.1 = true)
    (hf : ∀ p x, Memory.wf p.1 = true → Memory.wf (f p x).1 = true) : Memory.wf (xs.foldl f p).1 = true :=
  xs.foldlRecOn (motive := fun p => Memory.wf p.1 = true) f h fun p hp x _ => hf p x hp

theorem forAll_wf {f : State → Nat → State} {xs : List Nat} (h : Memory.wf s = true)
    (hf : ∀ s i, Memory.wf s = true → Memory.wf (f s i) = true) : Memory.wf (forAll s xs f) = true := foldl_wf h hf

end

/-! ### The operations of the model -/

section

variable {s : State} (hs : Memory.wf s = true)
include hs

/-! Machine/Ops -/

theorem setRing_wf {r : Nat} {x : Ring} : Memory.wf (s.setRing r x) = true := update_wf hs

theorem setSlice_wf {i : Nat} {x : Slice} : Memory.wf (s.setSlice i x) = true := update_wf hs

theorem setPipe_wf {p : Nat} {x : Prs} : Memory.wf (s.setPipe p x) = true := update_wf hs

theorem setFwd_wf {p : Nat} {x : Fwd} : Memory.wf (s.setFwd p x) = true := update_wf hs

theorem setTcm_wf {p : Nat} {x : Tcm} : Memory.wf (s.setTcm p x) = true := update_wf hs

theorem setCluster_wf {c : Nat} {x : Cluster} : Memory.wf (s.setCluster c x) = true := update_wf hs

theorem setStack_wf {h : Nat} {x : Stack} : Memory.wf (s.setStack h x) = true := update_wf hs

theorem setPort_wf {n : Nat} {x : PortSt} : Memory.wf (s.setPort n x) = true := update_wf hs

theorem setLane_wf {n : Nat} {x : LaneSt} : Memory.wf (s.setLane n x) = true := update_wf hs

theorem setFrame_wf {f : Nat} {x : Frame} : Memory.wf (s.setFrame f x) = true := update_wf hs

theorem setQueue_wf {q : Nat} {x : QueueSt} : Memory.wf (s.setQueue q x) = true := update_wf hs

theorem setKeySlot_wf {k : Nat} {x : KeySlot} : Memory.wf (s.setKeySlot k x) = true := update_wf hs

theorem setGates_wf {n : Nat} {x : Gates} : Memory.wf (s.setGates n x) = true := update_wf hs

theorem setPfc_wf {n : Nat} {x : Pfc} : Memory.wf (s.setPfc n x) = true := update_wf hs

theorem emit_wf {o : Out} : Memory.wf (s.emit o) = true := update_wf hs

theorem free_wf : Memory.wf (s.free).2 = true := update_wf hs

theorem perfCount_wf {a hi lo n : Nat} : Memory.wf (perfCount s a hi lo n) = true := update_wf hs

theorem bumpBy_wf {a n : Nat} : Memory.wf (s.bumpBy a n) = true := perfCount_wf (setReg_wf _ _ _ hs)

theorem bump_wf {a : Nat} : Memory.wf (s.bump a) = true := bumpBy_wf hs

theorem bumpField_wf {a hi lo : Nat} : Memory.wf (s.bumpField a hi lo) = true := perfCount_wf (setReg_wf _ _ _ hs)

theorem bump64_wf {a n : Nat} : Memory.wf (s.bump64 a n) = true := perfCount_wf (setReg_wf _ _ _ (setReg_wf _ _ _ hs))

theorem peak_wf {a v : Nat} : Memory.wf (s.peak a v) = true := ite_wf (setReg_wf _ _ _ hs) hs

theorem clk10Rise_wf {m k : Nat} : Memory.wf (clk10Rise s m k) = true := ite_wf (emit_wf (update_wf hs)) hs

theorem clk10Edges_wf {t0 t1 k : Nat} : Memory.wf (clk10Edges s t0 t1 k) = true := ite_wf (foldl_wf hs fun _ _ h => clk10Rise_wf h) hs

theorem advance_wf {n : Nat} : Memory.wf (s.advance n) = true :=
  have h := update_wf hs
  ite_wf (clk10Edges_wf (update_wf h)) h

theorem reach_wf {t : Nat} : Memory.wf (s.reach t) = true := advance_wf hs

theorem reachDev_wf {t : Nat} : Memory.wf (s.reachDev t) = true := ite_wf (advance_wf hs) hs

theorem vectorMsg_wf {v : Nat} : Memory.wf (vectorMsg s v) = true := by
  unfold vectorMsg
  split
  · exact msixSend_wf _ _ _ hs
  · exact msixSend_wf _ _ _ hs

theorem setVector_wf {v : Nat} {x : Vector} : Memory.wf (s.setVector v x) = true := update_wf hs

theorem vectorTry_wf {v : Nat} : Memory.wf (vectorTry s v) = true := ite_wf (vectorMsg_wf (setVector_wf hs)) hs

theorem vectorCount_wf {v : Nat} : Memory.wf (vectorCount s v) = true := vectorTry_wf (setVector_wf hs)

theorem intMsg_wf {g : Nat} : Memory.wf (intMsg s g) = true := msixSend_wf _ _ _ hs

theorem intStore_wf {g a : Nat} {v : W32} : Memory.wf (intStore s g a v) = true :=
  have h := setReg_wf _ _ _ hs
  ite_wf (intMsg_wf h) h

theorem intRaise_wf {g i : Nat} : Memory.wf (intRaise s g i) = true := intStore_wf hs

theorem badWrite_wf : Memory.wf (badWrite s) = true := intRaise_wf (bump_wf hs)

theorem sealedWrite_wf : Memory.wf (sealedWrite s) = true := intRaise_wf (bump_wf hs)

theorem onBar_wf {t : State} (ht : Memory.wf t = true) : NextWf (onBar s t) := next_of_wf (ite_wf ht hs)

theorem onBar2_wf {t : State} (ht : Memory.wf t = true) : NextWf (onBar2 s t) := next_of_wf (ite_wf ht hs)

theorem eventPut_wf {r typ : Nat} {fs : List (Nat × Nat × Nat)} : Memory.wf (eventPut s r typ fs) = true :=
  have h := setRing_wf (hostWrite_wf _ _ _ hs)
  ite_wf (vectorCount_wf h) h

theorem eventGap_wf {r : Nat} : Memory.wf (eventGap s r) = true := setRing_wf hs

theorem eventRingError_wf {r : Nat} : Memory.wf (eventRingError s r) = true :=
  have h := setRing_wf hs
  intRaise_wf (ite_wf (eventPut_wf h) (bump_wf (eventGap_wf h)))

theorem eventStop_wf {r : Nat} : Memory.wf (eventStop s r) = true :=
  have h := eventRingError_wf hs
  ite_wf (eventRingError_wf h) h

theorem eventWrite_wf {r typ : Nat} {fs : List (Nat × Nat × Nat)} : Memory.wf (eventWrite s r typ fs).1 = true :=
  ite_wf_fst (eventPut_wf hs) (ite_wf (eventStop_wf hs) (eventGap_wf hs))

theorem raiseOn_wf {ring drop typ : Nat} {fs : List (Nat × Nat × Nat)} : Memory.wf (raiseOn s ring drop typ fs) = true := by
  unfold raiseOn
  split
  · exact wf_of_fst_eq ‹_› (eventWrite_wf hs)
  · exact bump_wf (wf_of_fst_eq ‹_› (eventWrite_wf hs))

theorem modCmd_wf {r slot : Nat} {f : CmdEnt → CmdEnt} : Memory.wf (s.modCmd r slot f) = true := setRing_wf hs

theorem finish_wf {r slot status detail result : Nat} : Memory.wf (s.finish r slot status detail result) = true := modCmd_wf hs

theorem badField_wf {r slot off : Nat} : Memory.wf (s.badField r slot off) = true := finish_wf hs

theorem output_wf {c : CmdEnt} {bs : List Byte} : Memory.wf (s.output c bs) = true := ite_wf hs (hostWrite_wf _ _ _ hs)

theorem setLock_wf {p l : Nat} {h : Option (Nat × Nat)} : Memory.wf (setLock s p l h) = true := by
  unfold setLock
  split
  · exact setFwd_wf hs
  · exact setFwd_wf hs
  · exact setTcm_wf hs

theorem unlockAll_wf {ps : List Nat} {l ring slot : Nat} : Memory.wf (unlockAll s ps l ring slot) = true :=
  forAll_wf hs fun _ _ h => ite_wf (setLock_wf h) h

theorem unlockCmd_wf {c : CmdEnt} {ring slot : Nat} : Memory.wf (unlockCmd s c ring slot) = true := ite_wf (unlockAll_wf hs) hs

theorem onCmd_wf {r slot opcode : Nat} {f : CmdEnt → State} (hf : ∀ t, Memory.wf (f t) = true) : NextWf (onCmd s r slot opcode f) := by
  unfold onCmd
  split
  · exact ite_next (next_of_wf (ite_wf (hf _) (finish_wf (unlockCmd_wf hs)))) (next_of_wf hs)
  · exact next_of_wf hs

theorem abortWhere_wf {c : Nat} {which : Pkt → Bool} : Memory.wf (abortWhere s c which) = true := setCluster_wf hs

theorem strikeOne_wf {u : Upset} : Memory.wf (strikeOne s u) = true := by
  unfold strikeOne
  split
  · exact setFwd_wf hs
  · exact setFwd_wf hs
  · exact setFwd_wf hs
  · exact setTcm_wf hs
  · exact setTcm_wf hs
  · exact setCluster_wf hs
  · exact update_wf hs
  · exact update_wf hs
  · exact update_wf hs
  · exact update_wf hs
  · extract_lets
    split
    · exact setSlice_wf hs
    · exact hs

theorem strike_wf {us : List Upset} : Memory.wf (strike s us) = true := foldl_wf hs fun _ _ h => strikeOne_wf h

/-! Machine/Parser -/

theorem countParsed_wf {p : Nat} {o : Parsed} : Memory.wf (countParsed s p o) = true :=
  have h := ite_wf (bump_wf hs) (ite_wf (bump_wf hs) hs)
  ite_wf (bump_wf h) (ite_wf (bump_wf h) h)

theorem indirLoad_wf {p t rot : Nat} {buf : List Byte} : Memory.wf (indirLoad s p t rot buf) = true := setPipe_wf hs

theorem execIndirectionWrite_wf {ring : Fin 1024} {slot : Nat} : NextWf (execIndirectionWrite ring slot s) :=
  onCmd_wf hs fun _ => finish_wf (forAll_wf hs fun _ _ h => indirLoad_wf h)

theorem execIndirectionRead_wf {ring : Fin 1024} {slot : Nat} : NextWf (execIndirectionRead ring slot s) :=
  onCmd_wf hs fun _ => finish_wf (output_wf hs)

/-! Machine/Forward -/

theorem tableTileFail_wf {p table line : Nat} {fs : List (Nat × Nat × Nat)} : Memory.wf (tableTileFail s p table line fs) = true :=
  intRaise_wf (eventWrite_wf (bumpField_wf hs))

theorem exactSearch_wf {p : Nat} {k : BitVec 96} : Memory.wf (exactSearch s p k).1 = true := by
  unfold exactSearch
  extract_lets
  split
  · exact hs
  · exact ite_wf_fst (tableTileFail_wf (setFwd_wf hs)) hs

theorem lpmSearch_wf {p : Nat} {v6 : Bool} {a : Nat} : Memory.wf (lpmSearch s p v6 a).1 = true := by
  unfold lpmSearch
  extract_lets
  split
  · exact ite_wf_fst hs (tableTileFail_wf (setFwd_wf hs))
  · exact hs

theorem nexthopSearch_wf {p i : Nat} : Memory.wf (nexthopSearch s p i).1 = true :=
  ite_wf_fst hs (ite_wf_fst (tableTileFail_wf (setFwd_wf hs)) hs)

theorem applyWord_wf {p : Nat} {w : W64} {hash : Nat} : Memory.wf (applyWord s p w hash).1 = true := by
  unfold applyWord
  refine ite_wf_fst ?_ ?_
  · refine ite_wf_fst ?_ ?_
    · exact hs
    · split
      · exact wf_of_fst_eq ‹_› (nexthopSearch_wf hs)
      · exact wf_of_fst_eq ‹_› (nexthopSearch_wf hs)
  · exact hs

theorem setHit_wf {p i : Nat} {e : ExactEnt} : Memory.wf (setHit s p i e) = true := setFwd_wf hs

theorem learnEvent_wf {p port : Nat} {f : List Byte} {o : Parsed} {k : BitVec 96} {old : Option W64} :
    Memory.wf (learnEvent s p port f o k old) = true := by
  unfold learnEvent
  refine ite_wf ?_ ?_
  · exact hs
  · exact
      have h := intRaise_wf hs
      ite_wf
        (bump_wf h)
        (by split; exacts [bump_wf (setFwd_wf (wf_of_fst_eq ‹_› (eventWrite_wf h))), bump_wf (wf_of_fst_eq ‹_› (eventWrite_wf h))])

theorem learnFrame_wf {p port : Nat} {f : List Byte} {o : Parsed} : Memory.wf (learnFrame s p port f o) = true := by
  unfold learnFrame
  refine ite_wf ?_ ?_
  · extract_lets
    split
    · exact
        have h := setHit_wf (wf_of_fst_eq ‹_› (exactSearch_wf hs))
        ite_wf h (learnEvent_wf h)
    · exact learnEvent_wf (wf_of_fst_eq ‹_› (exactSearch_wf hs))
  · exact hs

theorem execLearnHoldoffExpire_wf {pipe : Fin 8} {key : BitVec 96} : NextWf (execLearnHoldoffExpire pipe key s) := by
  unfold execLearnHoldoffExpire
  extract_lets
  split
  · exact next_of_wf (setFwd_wf (reach_wf hs))
  · exact next_of_wf hs

theorem missOutcome_wf {action : Nat} {o : Parsed} : Memory.wf (missOutcome s action o).1 = true := by
  unfold missOutcome
  split
  · exact free_wf hs
  · exact hs
  · exact hs

theorem exactMiss_wf {p : Nat} {o : Parsed} : Memory.wf (exactMiss s p o).1 = true := missOutcome_wf (bump_wf hs)

theorem lpmMiss_wf {p : Nat} {o : Parsed} : Memory.wf (lpmMiss s p o).1 = true := missOutcome_wf (bump_wf hs)

theorem wordOutcome_wf {p : Nat} {o : Parsed} {w : W64} : Memory.wf (wordOutcome s p o w).1 = true := by
  unfold wordOutcome
  split
  · exact lpmMiss_wf (wf_of_fst_eq ‹_› (applyWord_wf hs))
  · exact wf_of_fst_eq ‹_› (applyWord_wf hs)
  · exact wf_of_fst_eq ‹_› (applyWord_wf hs)

theorem resolveStateless_wf {p port : Nat} {f : List Byte} {o : Parsed} : Memory.wf (resolveStateless s p port f o).1 = true := by
  unfold resolveStateless
  extract_lets
  split
  · refine ite_wf_fst ?_ ?_
    · refine ite_wf_fst ?_ ?_
      · exact lpmMiss_wf (wf_of_fst_eq ‹_› (exactSearch_wf hs))
      · split
        · split
          · exact wordOutcome_wf
              (wf_of_fst_eq ‹_› (nexthopSearch_wf (wf_of_fst_eq ‹_› (lpmSearch_wf (wf_of_fst_eq ‹_› (exactSearch_wf hs))))))
          · exact lpmMiss_wf
              (wf_of_fst_eq ‹_› (nexthopSearch_wf (wf_of_fst_eq ‹_› (lpmSearch_wf (wf_of_fst_eq ‹_› (exactSearch_wf hs))))))
        · exact lpmMiss_wf (wf_of_fst_eq ‹_› (lpmSearch_wf (wf_of_fst_eq ‹_› (exactSearch_wf hs))))
    · exact wordOutcome_wf (wf_of_fst_eq ‹_› (exactSearch_wf hs))
  · exact exactMiss_wf (wf_of_fst_eq ‹_› (exactSearch_wf hs))

theorem exactApply_wf {p : Nat} {e : BitVec 256} : Memory.wf (exactApply s p e).1 = true := by
  unfold exactApply
  extract_lets
  split
  · extract_lets
    split
    · exact wf_of_fst_eq ‹_› (exactSearch_wf hs)
    · exact setFwd_wf (wf_of_fst_eq ‹_› (exactSearch_wf hs))
    · exact setFwd_wf (wf_of_fst_eq ‹_› (exactSearch_wf hs))
  · refine ite_wf_fst ?_ ?_
    · exact wf_of_fst_eq ‹_› (exactSearch_wf hs)
    · split
      · exact setFwd_wf (wf_of_fst_eq ‹_› (exactSearch_wf hs))
      · exact wf_of_fst_eq ‹_› (exactSearch_wf hs)

theorem lpmApply_wf {p : Nat} {v6 : Bool} {e : BitVec 256} : Memory.wf (lpmApply s p v6 e).1 = true := by
  unfold lpmApply
  extract_lets
  split
  · exact ite_wf_fst (setFwd_wf hs) hs
  · exact ite_wf_fst (setFwd_wf hs) hs
  · exact setFwd_wf hs

theorem nexthopApply_wf {p : Nat} {e : BitVec 256} : Memory.wf (nexthopApply s p e).1 = true := setFwd_wf hs

theorem tableApply_wf {p t : Nat} {e : BitVec 256} : Memory.wf (tableApply s p t e).1 = true := by
  unfold tableApply
  split
  · exact exactApply_wf hs
  · exact nexthopApply_wf hs
  · exact lpmApply_wf hs

theorem applyAll_wf {α : Type} {f : State → α → State × Nat} {es : List α}
    (hf : ∀ t x, Memory.wf t = true → Memory.wf (f t x).1 = true) :
    Memory.wf (applyAll f s es).1 = true :=
  foldl_wf_fst (mk_wf_fst hs) fun _ _ h => hf _ _ h

theorem cmdLand_wf {ring slot p l : Nat} {fails : List (Nat × Nat)} : Memory.wf (cmdLand s ring slot p l fails) = true :=
  modCmd_wf (unlockAll_wf hs)

theorem execTableWrite_wf {ring : Fin 1024} {slot : Nat} : NextWf (execTableWrite ring slot s) :=
  onCmd_wf
    hs
    fun _ =>
      ite_wf
        (badField_wf (unlockCmd_wf hs))
        (have h1 := forAll_wf hs fun _ _ h2 => cmdLand_wf (applyAll_wf h2 fun _ _ h3 => tableApply_wf h3)
         by extract_lets; split; exacts [ite_wf (finish_wf h1) h1, h1])

theorem execTableRead_wf {ring : Fin 1024} {slot : Nat} : NextWf (execTableRead ring slot s) :=
  onCmd_wf
    hs
    fun _ =>
      ite_wf
        (badField_wf (unlockCmd_wf hs))
        (ite_wf
           (have h := output_wf hs
            finish_wf (unlockCmd_wf (update_wf (ite_wf (setFwd_wf h) (setFwd_wf h))))) hs)

/-! Machine/Nodes -/

theorem setNodeDyn_wf {level id : Nat} {d : NodeDyn} : Memory.wf (s.setNodeDyn level id d) = true := update_wf hs

/-! Machine/Pfc -/

theorem pfcOut_wf {n c timer : Nat} : Memory.wf (pfcOut s n c timer) = true := update_wf (emit_wf (bump_wf hs))

theorem pfcSend_wf {n c timer : Nat} : Memory.wf (pfcSend s n c timer) = true := ite_wf hs (ite_wf (setPfc_wf hs) (pfcOut_wf hs))

theorem pfcBoundary_wf {n : Nat} : Memory.wf (pfcBoundary s n) = true := foldl_wf (ite_wf hs (setPfc_wf hs)) fun _ _ h => pfcOut_wf h

theorem pfcCheck_wf {n c : Nat} : Memory.wf (pfcCheck s n c) = true :=
  ite_wf (ite_wf (ite_wf (pfcSend_wf (setPfc_wf hs)) hs) (ite_wf (pfcSend_wf (setPfc_wf hs)) hs)) hs

theorem execPfcXoffRepeat_wf {port : Fin 128} {prio : Fin 8} : NextWf (execPfcXoffRepeat port prio s) := by
  unfold execPfcXoffRepeat
  extract_lets
  split
  · exact ite_next (next_of_wf (pfcSend_wf (setPfc_wf (reach_wf hs)))) (next_of_wf hs)
  · exact next_of_wf hs

theorem pfcPause_wf {n c timer : Nat} : Memory.wf (pfcPause s n c timer) = true := ite_wf (setPfc_wf hs) (setPfc_wf hs)

theorem pfcTake_wf {n enable : Nat} {timers : List Nat} : Memory.wf (pfcTake s n enable timers) = true :=
  foldl_wf (bump_wf hs) fun _ _ h => ite_wf (pfcPause_wf h) h

theorem execPfcReceive_wf {port : Fin 128} {enable : BitVec 16} {timers : List W16} : NextWf (execPfcReceive port enable timers s) :=
  ite_next (next_of_wf (pfcTake_wf hs)) (next_of_wf hs)

theorem execPfcPauseExpire_wf {port : Fin 128} {prio : Fin 8} : NextWf (execPfcPauseExpire port prio s) := by
  unfold execPfcPauseExpire
  extract_lets
  split
  · exact next_of_wf (setPfc_wf (reach_wf hs))
  · exact next_of_wf hs

theorem execPfcStorm_wf {port : Fin 128} {prio : Fin 8} : NextWf (execPfcStorm port prio s) := by
  unfold execPfcStorm
  extract_lets
  split
  · exact ite_next (next_of_wf (intRaise_wf (raiseOn_wf (setPfc_wf (advance_wf hs))))) (next_of_wf hs)
  · exact next_of_wf hs

theorem stormClear_wf {n : Nat} {value : W32} : Memory.wf (stormClear s n value) = true := setPfc_wf hs

theorem execStormClear_wf {port : Fin 128} {value : W32} : NextWf (execStormClear port value s) := onBar_wf hs (stormClear_wf hs)

/-! Machine/HbmMap -/

theorem setChan_wf {h c : Nat} {x : Channel} : Memory.wf (s.setChan h c x) = true := setStack_wf hs

theorem memPost_wf {req addr : Nat} {write : Bool} {beats : Nat} : Memory.wf (memPost s req addr write beats) = true := by
  unfold memPost
  split
  · exact ite_wf (setChan_wf hs) hs
  · exact hs

theorem memPostIn_wf {req base size : Nat} {write : Bool} {beats : Nat} : Memory.wf (memPostIn s req base size write beats) = true :=
  memPost_wf (free_wf hs)

theorem counterPost_wf {req : Nat} {write : Bool} : Memory.wf (counterPost s req write) = true := memPostIn_wf hs

theorem memFlight_wf {i pairUnit : Nat} {x : FlightPhase} : Memory.wf (memFlight s i pairUnit x) = true := by
  unfold memFlight
  split
  · exact memPost_wf hs
  · exact memPost_wf hs
  · exact hs

theorem retrainStart_wf {h c : Nat} : Memory.wf (retrainStart s h c) = true := ite_wf (setChan_wf hs) hs

theorem retrainFresh_wf {h : Nat} : Memory.wf (retrainFresh s h) = true := forAll_wf hs fun _ _ h => setChan_wf h

/-! Machine/Pools -/

theorem setCellTag_wf {c : Nat} {t : Tag} : Memory.wf (s.setCellTag c t) = true := update_wf hs

theorem setBufTag_wf {c : Nat} {t : Tag} : Memory.wf (s.setBufTag c t) = true := update_wf hs

theorem poolMove_wf {p c : Nat} : Memory.wf (poolMove s p c) = true := update_wf hs

theorem poolTake_wf {p c : Nat} {t : Tag} : Memory.wf (poolTake s p c t).1 = true :=
  have h := update_wf hs
  poolMove_wf (ite_wf (setCellTag_wf h) (setBufTag_wf h))

theorem poolAlloc_wf {req p : Nat} {t : Tag} : Memory.wf (poolAlloc s req p t).1 = true := by
  unfold poolAlloc
  extract_lets
  exact
    have h1 := update_wf hs
    by split; exacts [poolTake_wf h1,
      (by split; exacts [(have h2 := bump_wf h1
          ite_wf_fst (poolTake_wf (update_wf (poolTake_wf h2))) (poolTake_wf h2)),
         ite_wf_fst hs (intRaise_wf (raiseOn_wf (bump_wf (update_wf hs))))])]

theorem lentBack_wf {l : Nat × Nat} : Memory.wf (lentBack s l) = true := ite_wf (update_wf (setBufTag_wf hs)) hs

theorem cellFree_wf {c : Nat} : Memory.wf (cellFree s c) = true := by
  unfold cellFree
  split
  · exact ite_wf (setCellTag_wf hs) (lentBack_wf (setCellTag_wf hs))
  · exact setCellTag_wf hs

theorem cellQuarantine_wf {c : Nat} : Memory.wf (cellQuarantine s c) = true := by
  unfold cellQuarantine
  split
  · exact foldl_wf (setCellTag_wf hs) fun _ _ h => ite_wf (setCellTag_wf h) h
  · exact setCellTag_wf hs

theorem swcEvent_wf {typ : Nat} {fs : List (Nat × Nat × Nat)} : Memory.wf (swcEvent s typ fs) = true := intRaise_wf (raiseOn_wf hs)

theorem bufferBack_wf {h : Nat} : Memory.wf (bufferBack s h) = true :=
  ite_wf
    (have h1 := update_wf hs
     have h2 := ite_wf (cellQuarantine_wf h1) (setBufTag_wf h1)
     ite_wf h2 (swcEvent_wf h2)) (ite_wf (cellFree_wf hs) (setBufTag_wf hs))

theorem poolFree_wf {req h owner : Nat} : Memory.wf (poolFree s req h owner) = true := by
  unfold poolFree
  extract_lets
  split
  · exact intRaise_wf (raiseOn_wf (update_wf (bumpField_wf hs)))
  · exact bufferBack_wf hs

theorem chainLinks_wf {xs : List Nat} {bs : List Byte} {done mark : Bool} : Memory.wf (chainLinks s xs bs done mark) = true :=
  foldl_wf hs fun _ _ h => update_wf h

theorem blockUnquarantine_wf {b : Nat} : Memory.wf (blockUnquarantine s b) = true :=
  foldl_wf (foldl_wf (update_wf hs) fun _ _ h1 => setCellTag_wf h1) fun _ _ h2 => lentBack_wf h2

theorem layTags_wf : Memory.wf (layTags s) = true := foldl_wf hs fun _ _ h => setBufTag_wf (setCellTag_wf h)

/-! Machine/Gates -/

theorem gatesRefresh_wf {n : Nat} : Memory.wf (gatesRefresh s n) = true := by
  unfold gatesRefresh
  extract_lets
  split
  · exact setGates_wf hs
  · exact hs

theorem gateArm_wf {n : Nat} {g : GateList} : Memory.wf (gateArm s n g) = true := by
  unfold gateArm
  extract_lets
  exact
    have h := setGates_wf hs
    by split; exacts [intRaise_wf (raiseOn_wf h), h]

theorem gatesStep_wf : Memory.wf (gatesStep s) = true :=
  foldl_wf hs fun _ _ h => gatesRefresh_wf (by split; exacts [ite_wf (gateArm_wf h) h, h])

theorem execGateListWrite_wf {ring : Fin 1024} {slot : Nat} : NextWf (execGateListWrite ring slot s) :=
  onCmd_wf hs fun _ => ite_wf (badField_wf hs) (ite_wf hs (modCmd_wf (setGates_wf hs)))

theorem execGateListArm_wf {port : Fin 128} : NextWf (execGateListArm port s) := by
  unfold execGateListArm
  extract_lets
  split
  · exact
      have h := gateArm_wf (setGates_wf hs)
      next_of_wf (by split; exacts [finish_wf h, h])
  · exact next_of_wf hs

theorem execGateListChange_wf {port : Fin 128} : NextWf (execGateListChange port s) := by
  unfold execGateListChange
  split
  · exact ite_next (next_of_wf (gatesRefresh_wf (setGates_wf (reachDev_wf hs)))) (next_of_wf hs)
  · exact next_of_wf hs

theorem execGateEntryChange_wf {port : Fin 128} : NextWf (execGateEntryChange port s) := by
  unfold execGateEntryChange
  extract_lets
  split
  · exact ite_next (next_of_wf (gatesRefresh_wf (reachDev_wf hs))) (next_of_wf (gatesRefresh_wf hs))
  · exact next_of_wf hs

theorem execGateListRead_wf {ring : Fin 1024} {slot : Nat} : NextWf (execGateListRead ring slot s) :=
  onCmd_wf hs fun _ => by extract_lets; split; exacts [finish_wf (output_wf hs), finish_wf hs]

/-! Machine/Time -/

theorem ppsAim_wf : Memory.wf (ppsAim s) = true := update_wf hs

theorem setTime_wf {t : DevTime} : Memory.wf (setTime s t) = true :=
  have h := update_wf hs
  ite_wf (clk10Rise_wf h) h

theorem txtsPush_wf {port status : Nat} {kind : Bool} {id : Nat} {t : DevTime} {waits : Bool} :
    Memory.wf (txtsPush s port status kind id t waits) = true :=
  ite_wf (update_wf hs) (intRaise_wf (bump_wf (update_wf hs)))

theorem txtsClose_wf {port status : Nat} : Memory.wf (txtsClose s port status) = true := update_wf hs

theorem execTxtsEventWrite_wf {port : Fin 128} : NextWf (execTxtsEventWrite port s) := by
  unfold execTxtsEventWrite
  split
  · exact next_of_wf hs
  · exact ite_next (next_of_wf hs) (ite_next (next_of_wf (update_wf (eventWrite_wf hs))) (next_of_wf (ite_wf (eventStop_wf hs) hs)))

theorem tmuEvent_wf {typ : Nat} {fs : List (Nat × Nat × Nat)} : Memory.wf (tmuEvent s typ fs) = true := intRaise_wf (raiseOn_wf hs)

theorem execTimeOffset_wf {ring : Fin 1024} {slot : Nat} : NextWf (execTimeOffset ring slot s) :=
  onCmd_wf hs fun _ => ite_wf (finish_wf (tmuEvent_wf (update_wf hs))) (finish_wf (update_wf hs))

theorem execTimeStep_wf {ring : Fin 1024} {slot : Nat} : NextWf (execTimeStep ring slot s) :=
  onCmd_wf
    hs
    fun _ =>
      ite_wf
        (ite_wf (badField_wf hs) (finish_wf (gatesStep_wf (setTime_wf hs))))
        (ite_wf (badField_wf hs) (finish_wf (gatesStep_wf (setTime_wf hs))))

theorem execTimeFreq_wf {ring : Fin 1024} {slot : Nat} : NextWf (execTimeFreq ring slot s) :=
  onCmd_wf hs fun _ => ite_wf (badField_wf hs) (finish_wf (update_wf hs))

theorem clkCtrlWrite_wf {value : W32} : Memory.wf (clkCtrlWrite s value) = true :=
  have h := setReg_wf _ _ _ hs
  ite_wf (update_wf h) h

theorem execClkSrcWrite_wf {value : W32} : NextWf (execClkSrcWrite value s) := onBar_wf hs (clkCtrlWrite_wf hs)

theorem execPllRelock_wf : NextWf (execPllRelock s) := ite_next (next_of_wf hs) (next_of_wf (update_wf hs))

theorem execClkRefLost_wf {edges : Bool} : NextWf (execClkRefLost edges s) :=
  have h := update_wf hs
  ite_next (next_of_wf (tmuEvent_wf (update_wf h))) (next_of_wf h)

theorem execClk10mInReturn_wf : NextWf (execClk10mInReturn s) := next_of_wf (update_wf hs)

theorem execPpsOutEdge_wf : NextWf (execPpsOutEdge s) := ite_next (next_of_wf (emit_wf (update_wf (reachDev_wf hs)))) (next_of_wf hs)

theorem execPpsInEdge_wf : NextWf (execPpsInEdge s) := ite_next (next_of_wf (tmuEvent_wf (update_wf hs))) (next_of_wf hs)

/-! Machine/Switch -/

theorem chargeIn_wf {n k : Nat} : Memory.wf (chargeIn s n k) = true := update_wf hs

theorem unchargeIn_wf {n k : Nat} : Memory.wf (unchargeIn s n k) = true := update_wf hs

theorem chargeEg_wf {n k : Nat} : Memory.wf (chargeEg s n k) = true := update_wf hs

theorem unchargeEg_wf {n k : Nat} : Memory.wf (unchargeEg s n k) = true := update_wf hs

theorem chargeSegs_wf {n k : Nat} : Memory.wf (chargeSegs s n k) = true := update_wf hs

theorem unchargeSegs_wf {n k : Nat} : Memory.wf (unchargeSegs s n k) = true := update_wf hs

theorem modFrame_wf {f : Nat} {g : Frame → Frame} : Memory.wf (s.modFrame f g) = true := by
  unfold State.modFrame
  split
  · exact setFrame_wf hs
  · exact hs

theorem frameNew_wf {x : Frame} : Memory.wf (frameNew s x).1 = true := pfcCheck_wf (chargeIn_wf (setFrame_wf (update_wf hs)))

theorem cutVoqs_wf {p : Copy → Bool} : Memory.wf (cutVoqs s p) = true := update_wf hs

theorem cutQueue_wf {q : Nat} {p : Copy → Bool} : Memory.wf (cutQueue s q p) = true :=
  foldl_wf (foldl_wf (setQueue_wf hs) fun _ _ h1 => unchargeEg_wf h1) fun _ _ h2 => unchargeSegs_wf h2

theorem notSent_wf {c : Copy} : Memory.wf (notSent s c) = true := by
  unfold notSent
  split
  · exact ite_wf (txtsPush_wf hs) hs
  · exact hs

theorem frameCellFree_wf {c : Nat} : Memory.wf (frameCellFree s c) = true := poolFree_wf hs

theorem relink_wf {f : Nat} : Memory.wf (relink s f) = true := by
  unfold relink
  split
  · exact chainLinks_wf hs
  · exact hs

theorem dropCount_wf {q n : Nat} : Memory.wf (dropCount s q n) = true := ite_wf hs (setQueue_wf hs)

theorem freeCells_wf {f : Nat} : Memory.wf (freeCells s f) = true := by
  unfold freeCells
  split
  · exact pfcCheck_wf (unchargeIn_wf (foldl_wf (setFrame_wf hs) fun _ _ h => frameCellFree_wf h))
  · exact hs

theorem settle_wf {f : Nat} : Memory.wf (settle s f) = true := by
  unfold settle
  split
  · exact ite_wf
      hs
      (have h := freeCells_wf hs
       ite_wf (update_wf h) h)
  · exact hs

theorem dropPending_wf {f : Nat} : Memory.wf (dropPending s f) = true :=
  foldl_wf (foldl_wf (update_wf (cutVoqs_wf hs)) fun _ _ h1 => cutQueue_wf (dropCount_wf h1)) fun _ _ h2 => notSent_wf h2

theorem frameDrop_wf {f : Nat} : Memory.wf (frameDrop s f) = true := settle_wf (dropPending_wf (modFrame_wf hs))

theorem tailMark_wf {f k : Nat} : Memory.wf (tailMark s f k) = true := ite_wf hs (bumpBy_wf (relink_wf (modFrame_wf hs)))

theorem cellCount_wf {c : Nat} : Memory.wf (cellCount s c) = true := bumpField_wf (update_wf hs)

theorem cellEvent_wf {c : Nat} {begun : Bool} : Memory.wf (cellEvent s c begun) = true := swcEvent_wf hs

theorem cellFail_wf {f c : Nat} : Memory.wf (cellFail s f c) = true :=
  cellEvent_wf (dropPending_wf (modFrame_wf (forAll_wf (tailMark_wf (cellCount_wf hs)) fun _ _ h => abortWhere_wf h)))

theorem frameFit_wf {f : Nat} {x : Frame} {bs : List Byte} {o : Option Parsed} : Memory.wf (frameFit s f x bs o).1 = true :=
  have h1 := update_wf hs
  ite_wf_fst
    (pfcCheck_wf (unchargeIn_wf (foldl_wf (relink_wf (setFrame_wf h1)) fun _ _ h2 => frameCellFree_wf h2)))
    (by split; exacts [pfcCheck_wf (chargeIn_wf (relink_wf (setFrame_wf (wf_of_fst_eq ‹_› (poolAlloc_wf h1))))),
       wf_of_fst_eq ‹_› (poolAlloc_wf h1)])

theorem sendCopy_wf {c : Copy} : Memory.wf (sendCopy s c) = true := by
  unfold sendCopy
  split
  · exact update_wf hs
  · exact hs

theorem groupSend_wf {f g cls rewrite : Nat} {srcs : List Nat} : Memory.wf (groupSend s f g cls rewrite srcs) = true := by
  unfold groupSend
  split
  · exact hs
  · exact
      have h1 := foldl_wf (setFrame_wf hs) fun _ _ h2 => bump_wf h2
      ite_wf (bump_wf h1) (foldl_wf h1 fun _ _ h3 => sendCopy_wf h3)

theorem sendGroup_wf {f g cls rewrite : Nat} {srcs : List Nat} : Memory.wf (sendGroup s f g cls rewrite srcs) = true := by
  unfold sendGroup
  split
  · exact ite_wf (groupSend_wf hs) (setFrame_wf hs)
  · exact hs

theorem matchIter_wf {first : Bool} : Memory.wf (matchIter s first) = true := foldl_wf hs fun _ _ h => update_wf h

theorem crossOn_wf {i e : Nat} {fr : Frame} {x : Crossing} {rest : List Crossing} : Memory.wf (crossOn s i e fr x rest) = true :=
  have h := ite_wf (update_wf hs) hs
  ite_wf (update_wf h) (settle_wf (update_wf h))

theorem crossCell_wf {i e : Nat} : Memory.wf (crossCell s i e) = true := by
  unfold crossCell
  extract_lets
  split
  · exact update_wf hs
  · split
    · exact hs
    · split
      · exact hs
      · exact ite_wf
          (have h := cellFail_wf hs
           ite_wf (crossOn_wf h) (settle_wf h)) (crossOn_wf hs)

theorem execCrossbarMatch_wf : NextWf (execCrossbarMatch s) :=
  next_of_wf (foldl_wf (matchIter_wf (matchIter_wf (matchIter_wf hs))) fun _ _ h => crossCell_wf h)

theorem unoffer_wf {c : Copy} : Memory.wf (unoffer s c) = true := update_wf hs

theorem refuseCopy_wf {c : Copy} : Memory.wf (refuseCopy s c) = true :=
  have h1 := cutVoqs_wf (unoffer_wf hs)
  have h2 := notSent_wf (ite_wf (dropCount_wf h1) h1)
  settle_wf (ite_wf (bump_wf h2) h2)

theorem dieInsert_wf {c : Copy} : Memory.wf (dieInsert s c) = true := chargeEg_wf (setQueue_wf hs)

theorem copyNow_wf {c : Copy} : Memory.wf (copyNow s c).1 = true := update_wf hs

theorem queuePush_wf {c : Copy} {cells : Nat} : Memory.wf (queuePush s c cells) = true := modFrame_wf (dieInsert_wf (copyNow_wf hs))

theorem spillPush_wf {x : Frame} {c : Copy} : Memory.wf (spillPush s x c) = true := chargeSegs_wf (setQueue_wf (copyNow_wf hs))

theorem enqueueCopy_wf {x : Frame} {c : Copy} : Memory.wf (enqueueCopy s x c) = true := by
  unfold enqueueCopy
  refine ite_wf ?_ ?_
  · exact refuseCopy_wf (bump_wf hs)
  · refine ite_wf ?_ ?_
    · exact refuseCopy_wf (bump_wf hs)
    · refine ite_wf ?_ ?_
      · exact refuseCopy_wf (bump_wf hs)
      · refine ite_wf ?_ ?_
        · split
          · exact refuseCopy_wf (bump_wf (update_wf hs))
          · exact spillPush_wf (unoffer_wf (update_wf hs))
        · exact ite_wf (queuePush_wf (unoffer_wf hs)) (refuseCopy_wf (bump_wf hs))

theorem execEnqueue_wf {frame : Nat} {port : Fin 140} : NextWf (execEnqueue frame port s) := by
  unfold execEnqueue
  split
  · split
    · exact next_of_wf (ite_wf (enqueueCopy_wf hs) hs)
    · exact next_of_wf hs
  · exact next_of_wf hs

theorem modSpilled_wf {q : Nat} {p : Copy → Bool} {g : Copy → Copy} : Memory.wf (modSpilled s q p g) = true := setQueue_wf hs

theorem spillCells_wf {x : Frame} {c : Copy} : Memory.wf (spillCells s x c) = true :=
  foldl_wf hs fun _ _ h => update_wf (setUnit_wf _ _ _ (setUnit_wf _ _ _ h))

theorem spillPosts_wf {c : Copy} {req : Nat} {write : Bool} : Memory.wf (spillPosts s c req write) = true :=
  memPostIn_wf (foldl_wf hs fun _ _ h => memPost_wf h)

theorem execSpillWrite_wf {queue : Nat} : NextWf (execSpillWrite queue s) := by
  unfold execSpillWrite
  split
  · split
    · exact next_of_wf (settle_wf (cellFail_wf hs))
    · exact next_of_wf (settle_wf (modSpilled_wf (spillPosts_wf (by split; exacts [spillCells_wf hs, hs]))))
  · exact next_of_wf hs

theorem refillCells_wf {k : Nat} {cs : List Nat} : Memory.wf (refillCells s k cs).1 = true := by
  induction k generalizing s cs with
  | zero => exact hs
  | succ k ih =>
    unfold refillCells
    split
    · exact ih (wf_of_fst_eq ‹_› (poolAlloc_wf hs))
    · exact foldl_wf (wf_of_fst_eq ‹_› (poolAlloc_wf hs)) fun _ _ h => poolFree_wf h

theorem execSpillRefill_wf {queue : Nat} : NextWf (execSpillRefill queue s) := by
  unfold execSpillRefill
  extract_lets
  split
  · exact next_of_wf hs
  · split
    · exact next_of_wf hs
    · refine ite_next (next_of_wf hs) (ite_next ?_ ?_)
      · exact next_of_wf
          (settle_wf (dropPending_wf (notSent_wf (swcEvent_wf (dropCount_wf (bumpField_wf (unchargeSegs_wf (setQueue_wf
            (spillPosts_wf (free_wf hs))))))))))
      · extract_lets take
        have ht : Memory.wf take.1 = true := ite_wf_fst (refillCells_wf hs) (mk_wf_fst hs)
        obtain ⟨t, _ | cs⟩ := take
        · exact next_of_wf ht
        · exact next_of_wf (dieInsert_wf (unchargeSegs_wf (setQueue_wf (spillPosts_wf
            (ite_wf ht (pfcCheck_wf (chargeIn_wf (relink_wf (setFrame_wf ht)))))))))

theorem allocCycle_wf : Memory.wf (allocCycle s) = true := ite_wf hs (update_wf hs)

theorem execBufferAllocate_wf {requester : Fin 32} {pool : Fin 16} : NextWf (execBufferAllocate requester pool s) := by
  unfold execBufferAllocate
  split
  · exact next_of_wf hs
  · exact
      have h := update_wf (poolAlloc_wf (update_wf (allocCycle_wf hs)))
      ite_next (next_of_wf hs) (next_of_wf (by split; exacts [relink_wf (modFrame_wf h), h]))

theorem execBufferFree_wf {requester : Fin 32} {handle : BitVec 24} {owner : Fin 8} : NextWf (execBufferFree requester handle owner s) :=
  have h := poolFree_wf hs
  ite_next
    (next_of_wf hs)
    (ite_next
       (next_of_wf h)
       (ite_next
          (next_of_wf (unchargeIn_wf h))
          (by split; exacts [next_of_wf (pfcCheck_wf (unchargeIn_wf (setFrame_wf h))), next_of_wf h])))

theorem bufCtrlWrite_wf {v : W32} : Memory.wf (bufCtrlWrite s v) = true :=
  ite_wf
    (sealedWrite_wf hs)
    (ite_wf (ite_wf (setReg_wf _ _ _ (ite_wf hs (layTags_wf hs))) (badWrite_wf hs)) (ite_wf (badWrite_wf hs) (setReg_wf _ _ _ hs)))

theorem execBufEnable_wf {value : W32} : NextWf (execBufEnable value s) := onBar_wf hs (bufCtrlWrite_wf hs)

theorem execMcastGroupWrite_wf {ring : Fin 1024} {slot : Nat} : NextWf (execMcastGroupWrite ring slot s) :=
  onCmd_wf hs fun _ => ite_wf (finish_wf (foldl_wf hs fun _ _ h => update_wf h)) (badField_wf hs)

theorem execMcastGroupRead_wf {ring : Fin 1024} {slot : Nat} : NextWf (execMcastGroupRead ring slot s) :=
  onCmd_wf hs fun _ => finish_wf (output_wf hs)

theorem execRewriteTemplateWrite_wf {ring : Fin 1024} {slot : Nat} : NextWf (execRewriteTemplateWrite ring slot s) :=
  onCmd_wf hs fun _ => finish_wf (forAll_wf hs fun _ _ h => update_wf h)

theorem flushQueue_wf {q no : Nat} : Memory.wf (flushQueue s q no).1 = true :=
  foldl_wf (cutQueue_wf hs) fun _ _ h => notSent_wf (cutVoqs_wf h)

theorem execPortFlush_wf {ring : Fin 1024} {slot : Nat} : NextWf (execPortFlush ring slot s) :=
  onCmd_wf
    hs
    fun _ => finish_wf (foldl_wf (foldl_wf_fst (mk_wf_fst hs) fun _ _ h1 => mk_wf_fst (flushQueue_wf h1)) fun _ _ h2 => settle_wf h2)

theorem execBlockRelease_wf {ring : Fin 1024} {slot : Nat} : NextWf (execBlockRelease ring slot s) :=
  onCmd_wf hs fun _ => finish_wf (update_wf (blockUnquarantine_wf hs))

theorem tailIn_wf {f : Nat} : Memory.wf (tailIn s f) = true := by
  unfold tailIn
  split
  · exact hs
  · exact pfcCheck_wf
      (unchargeIn_wf
         (relink_wf
            (setFrame_wf
               (update_wf
                  (foldl_wf (foldl_wf hs fun _ _ h1 => foldl_wf h1 fun _ _ h2 => unchargeEg_wf h2) fun _ _ h3 => unchargeEg_wf h3)))))

theorem tailError_wf {f k : Nat} : Memory.wf (tailError s f k) = true :=
  have h1 := tailMark_wf hs
  have h2 := ite_wf (bump_wf h1) h1
  ite_wf h2 (frameDrop_wf h2)

/-! Machine/Tcam -/

theorem tcmTileFail_wf {p b kind : Nat} {ids : List Nat} : Memory.wf (tcmTileFail s p b kind ids) = true := intRaise_wf (raiseOn_wf hs)

theorem tcamSearch_wf {p n : Nat} {key : BitVec 640} : Memory.wf (tcamSearch s p n key).1 = true := by
  unfold tcamSearch
  extract_lets w s1
  have h1 : Memory.wf s1 = true := update_wf hs
  cases w with
  | none => exact h1
  | some w => exact
      have h2 := ite_wf (bump_wf h1) h1
      ite_wf_fst (tcmTileFail_wf (bumpField_wf (setTcm_wf h2))) h2

theorem tcamCount_wf {p k bytes : Nat} : Memory.wf (tcamCount s p k bytes) = true := setTcm_wf (counterPost_wf hs)

theorem tcamApply_wf {p port len : Nat} {f : List Byte} {o : Parsed} {r : Outcome'} :
    Memory.wf (tcamApply s p port len f o r).1 = true := by
  unfold tcamApply
  refine ite_wf_fst ?_ ?_
  · exact hs
  · extract_lets
    split
    · exact ite_wf_fst
        (bump_wf (wf_of_fst_eq ‹_› (tcamSearch_wf hs)))
        (have h := ite_wf (tcamCount_wf (wf_of_fst_eq ‹_› (tcamSearch_wf hs))) (wf_of_fst_eq ‹_› (tcamSearch_wf hs))
         ite_wf_fst (wordOutcome_wf h) (mk_wf_fst h))
    · exact wf_of_fst_eq ‹_› (tcamSearch_wf hs)

theorem tcmPut_wf {p b k : Nat} {e : TcmEnt} : Memory.wf (tcmPut s p b k e) = true := setTcm_wf hs

theorem tcmCopy_wf {p b k j : Nat} {e : TcmEnt} : Memory.wf (tcmCopy s p b k j e) = true := setTcm_wf (tcmPut_wf hs)

theorem tcmRun_wf {p ring slot : Nat} {es : List (Nat × BitVec 1536)} {fails : List (Nat × Nat)} :
    Memory.wf (tcmRun s p ring slot es fails) = true := by
  induction es generalizing s fails with
  | nil => exact setTcm_wf hs
  | cons e es ih =>
    unfold tcmRun
    extract_lets t id
    split
    · refine ite_wf (ih hs) ?_
      split
      · exact ih hs
      · exact ih (tcmPut_wf hs)
      · exact setTcm_wf hs
    · split
      · exact ih (setTcm_wf hs)
      · exact ih hs
    · split
      · exact ih (setTcm_wf hs)
      · exact ih hs

theorem tcmLand_wf {ring slot p : Nat} : Memory.wf (tcmLand s ring slot p) = true := ite_wf (cmdLand_wf (setTcm_wf hs)) hs

theorem tcmFinish_wf {ring slot : Nat} : Memory.wf (tcmFinish s ring slot) = true := by
  unfold tcmFinish
  split
  · exact hs
  · exact ite_wf (finish_wf hs) hs

theorem execTcamWrite_wf {ring : Fin 1024} {slot : Nat} : NextWf (execTcamWrite ring slot s) :=
  onCmd_wf
    hs
    fun _ =>
      ite_wf
        (badField_wf (unlockCmd_wf hs))
        (have h1 := forAll_wf hs fun _ _ h2 => tcmLand_wf (tcmRun_wf h2)
         tcmFinish_wf (ite_wf (modCmd_wf h1) h1))

theorem execTcamCopyStep_wf {pipe : Fin 8} : NextWf (execTcamCopyStep pipe s) := by
  unfold execTcamCopyStep
  extract_lets
  split
  · exact next_of_wf hs
  · split
    · exact
        have h1 := setTcm_wf hs
        next_of_wf (by split; exacts [tcmCopy_wf h1, setTcm_wf h1])
    · exact
        have h2 := tcmPut_wf (setTcm_wf hs)
        next_of_wf (by split; exacts [tcmFinish_wf (tcmLand_wf (tcmRun_wf h2)), h2])

theorem execTcamScrub_wf {pipe : Fin 8} {bank : Fin 16} {unit : Struck (Fin 4096)} : NextWf (execTcamScrub pipe bank unit s) :=
  have h := strike_wf hs
  ite_next (next_of_wf h) (by split; exacts [next_of_wf h, next_of_wf (tcmTileFail_wf (bumpField_wf (setTcm_wf h)))])

theorem execTcamRead_wf {ring : Fin 1024} {slot : Nat} : NextWf (execTcamRead ring slot s) :=
  onCmd_wf hs fun _ => ite_wf (finish_wf (unlockCmd_wf (output_wf hs))) hs

theorem execTcamCounterRead_wf {ring : Fin 1024} {slot : Nat} : NextWf (execTcamCounterRead ring slot s) :=
  onCmd_wf
    hs
    fun _ =>
      ite_wf
        (badField_wf (unlockCmd_wf hs))
        (ite_wf
           (have h1 := output_wf (foldl_wf hs fun _ _ h2 => counterPost_wf h2)
            finish_wf (unlockCmd_wf (ite_wf (setTcm_wf h1) h1))) hs)

theorem bankCfgWrite_wf {p : Nat} {v : W32} : Memory.wf (bankCfgWrite s p v) = true :=
  ite_wf (sealedWrite_wf hs) (ite_wf (badWrite_wf hs) (setReg_wf _ _ _ hs))

theorem execTcmBankCfgWrite_wf {pipe : Fin 8} {value : W32} : NextWf (execTcmBankCfgWrite pipe value s) :=
  onBar_wf hs (bankCfgWrite_wf hs)

/-! Machine/Packet -/

theorem modPkt_wf {c arr : Nat} {f : Pkt → Pkt} : Memory.wf (s.modPkt c arr f) = true := setCluster_wf hs

theorem pktPark_wf {c arr : Nat} : Memory.wf (pktPark s c arr) = true := by
  unfold pktPark
  split
  · exact ite_wf (bump_wf (modPkt_wf hs)) hs
  · exact hs

theorem pktRest_wf {c arr : Nat} : Memory.wf (pktRest s c arr) = true := by
  unfold pktRest
  split
  · exact hs
  · exact ite_wf (modPkt_wf hs) (ite_wf (modPkt_wf hs) (pktPark_wf hs))

theorem pktEnd_wf {c arr : Nat} {v : Verdict} : Memory.wf (pktEnd s c arr v) = true := pktRest_wf (modPkt_wf hs)

theorem pktFail_wf {c arr op cause status : Nat} : Memory.wf (pktFail s c arr op cause status) = true := by
  unfold pktFail
  split
  · exact hs
  · refine ite_wf ?_ ?_
    · exact pktRest_wf hs
    · extract_lets
      exact
        have h := bump_wf (setCluster_wf hs)
        by split; exacts [pktEnd_wf h, pktEnd_wf h, pktEnd_wf h, modPkt_wf h]

theorem pktResultEnd_wf {c arr : Nat} {v : Verdict} : Memory.wf (pktResultEnd s c arr v) = true := ite_wf (pktRest_wf hs) (pktEnd_wf hs)

theorem flowPush_wf {sl : Nat} {o : FlowOp} : Memory.wf (flowPush s sl o) = true := ite_wf (setSlice_wf hs) hs

theorem countPair_wf {k bytes : Nat} : Memory.wf (countPair s k bytes) = true := update_wf (counterPost_wf hs)

theorem stagedIssue_wf {c : Nat} {p : Pkt} {i : Nat} : Memory.wf (stagedIssue s c p i) = true := by
  unfold stagedIssue
  extract_lets
  split
  · exact ite_wf (flowPush_wf hs) hs
  · exact countPair_wf hs
  · exact ite_wf (flowPush_wf hs) hs

theorem commitPkt_wf {c arr : Nat} : Memory.wf (commitPkt s c arr) = true := by
  unfold commitPkt
  split
  · exact hs
  · exact ite_wf
      hs
      (foldl_wf
         (foldl_wf
            (foldl_wf (foldl_wf (modPkt_wf hs) fun _ _ h1 => flowPush_wf h1) fun _ _ h2 => countPair_wf h2)
            fun _ _ h3 => stagedIssue_wf h3)
         fun _ _ h4 => tcamCount_wf h4)

theorem pktSettle_wf {c arr : Nat} : Memory.wf (pktSettle s c arr) = true := by
  unfold pktSettle
  split
  · exact hs
  · exact ite_wf (pktRest_wf hs) (ite_wf (pktEnd_wf (ite_wf (commitPkt_wf hs) hs)) hs)

theorem opSet_wf {c arr op code : Nat} {words : List W32} {fwd : Bool} : Memory.wf (opSet s c arr op code words fwd) = true :=
  modPkt_wf hs

theorem opComplete_wf {c arr op code : Nat} {words : List W32} {fwd : Bool} : Memory.wf (opComplete s c arr op code words fwd) = true :=
  pktPark_wf (pktSettle_wf (opSet_wf hs))

theorem opFail_wf {c arr op cause code : Nat} : Memory.wf (opFail s c arr op cause code) = true := pktFail_wf (opSet_wf hs)

/-! Machine/Rewrite -/

theorem ptpTransit_wf {n : Nat} {x : Frame} {stamp : Nat} {f : List Byte} : Memory.wf (ptpTransit s n x stamp f).1 = true := by
  unfold ptpTransit
  split
  · extract_lets
    exact ite_wf_fst (ite_wf_fst (bumpField_wf hs) hs) hs
  · exact hs

theorem ptpOneStep_wf {x : Frame} {t : DevTime} {f : List Byte} : Memory.wf (ptpOneStep s x t f).1 = true := by
  unfold ptpOneStep
  refine ite_wf_fst ?_ ?_
  · split
    · exact ite_wf_fst hs (bumpField_wf hs)
    · exact bumpField_wf hs
  · exact hs

/-! Machine/Traffic -/

theorem shaperCharge_wf {level id len : Nat} : Memory.wf (shaperCharge s level id len) = true := ite_wf hs (setNodeDyn_wf hs)

theorem restDeficit_wf {p : Nat × Nat} : Memory.wf (restDeficit s p) = true := ite_wf hs (setNodeDyn_wf hs)

theorem queueShift_wf {q : Nat} : Memory.wf (queueShift s q) = true := setQueue_wf hs

theorem selectCopy_wf {n : Nat} {ok : Copy → Bool} : Memory.wf (selectCopy s n ok).1 = true := by
  unfold selectCopy
  extract_lets
  split
  · exact foldl_wf
      (foldl_wf (queueShift_wf (foldl_wf hs fun _ _ h1 => setNodeDyn_wf h1)) fun _ _ h2 => shaperCharge_wf h2)
      fun _ _ h3 => restDeficit_wf h3
  · exact hs

theorem copyDrop_wf {c : Copy} : Memory.wf (copyDrop s c) = true := settle_wf (dropCount_wf (unchargeEg_wf (notSent_wf (cutVoqs_wf hs))))

theorem dropOversize_wf {n : Nat} : Memory.wf (dropOversize s n) = true :=
  foldl_wf hs fun _ _ h1 => foldl_wf h1 fun _ _ h2 => by split; exacts [ite_wf (copyDrop_wf (bump_wf (queueShift_wf h2))) h2, h2]

theorem recirculate_wf {n : Nat} {x : Frame} {bytes : List Byte} : Memory.wf (recirculate s n x bytes) = true :=
  ite_wf (frameNew_wf hs) (bump_wf hs)

theorem wireFinish_wf {n : Nat} : Memory.wf (wireFinish s n) = true := by
  unfold wireFinish
  split
  · exact hs
  · extract_lets
    exact
      have h1 := unchargeEg_wf (update_wf hs)
      by split; exacts [pfcBoundary_wf h1,
        settle_wf
          (pfcBoundary_wf
             (ite_wf
                (have h2 := emit_wf h1
                 ite_wf (txtsClose_wf h2) h2) (recirculate_wf h1)))]

theorem wireStart_wf {n : Nat} {c : Copy} : Memory.wf (wireStart s n c) = true := by
  unfold wireStart
  split
  · exact hs
  · refine ite_wf (settle_wf (cellFail_wf (copyDrop_wf hs))) ?_
    split
    · exact copyDrop_wf (bump_wf hs)
    · extract_lets st front a b w r0 r1 s0 s1
      have ha : Memory.wf a.1 = true := ite_wf_fst (ptpTransit_wf hs) (mk_wf_fst hs)
      have hb : Memory.wf b.1 = true := ite_wf_fst (ptpOneStep_wf ha) ha
      have h0 : Memory.wf s0 = true := update_wf hb
      have h1 : Memory.wf s1 = true := by unfold s1; split; exacts [txtsPush_wf h0, h0]
      split
      · exact settle_wf (cellFail_wf h1)
      · exact h1

theorem execTransmitStart_wf {port : Fin 140} : NextWf (execTransmitStart port s) := by
  unfold execTransmitStart
  refine ite_next ?_ ?_
  · exact next_of_wf hs
  · refine ite_next ?_ ?_
    · exact next_of_wf hs
    · exact
        have h1 := by split; exacts [wireFinish_wf (reach_wf hs), hs]
        ite_next
          (have h2 := selectCopy_wf (dropOversize_wf (gatesRefresh_wf h1))
           next_of_wf (by split; exacts [wireStart_wf h2, h2])) (next_of_wf h1)

theorem nodeApply_wf {e : BitVec 256} : Memory.wf (nodeApply s e).1 = true := ite_wf_fst hs (setNodeDyn_wf (update_wf hs))

theorem execTmNodeWrite_wf {ring : Fin 1024} {slot : Nat} : NextWf (execTmNodeWrite ring slot s) :=
  onCmd_wf hs fun _ => ite_wf (finish_wf (foldl_wf_fst (mk_wf_fst hs) fun _ _ h => mk_wf_fst (nodeApply_wf h))) (badField_wf hs)

theorem execTmNodeRead_wf {ring : Fin 1024} {slot : Nat} : NextWf (execTmNodeRead ring slot s) :=
  onCmd_wf hs fun _ => ite_wf (badField_wf hs) (finish_wf (output_wf hs))

theorem execPolicerProfileWrite_wf {ring : Fin 1024} {slot : Nat} : NextWf (execPolicerProfileWrite ring slot s) :=
  onCmd_wf hs fun _ => ite_wf (badField_wf hs) (ite_wf (finish_wf (forAll_wf hs fun _ _ h => setSlice_wf h)) (badField_wf hs))

theorem sampleQueue_wf {q : Nat} : Memory.wf (sampleQueue s q) = true := setQueue_wf (raiseOn_wf hs)

theorem passBegin_wf : Memory.wf (passBegin s) = true :=
  have h1 := free_wf hs
  have h2 := update_wf (by split; exacts [reach_wf h1, h1])
  ite_wf (intRaise_wf (bump_wf h2)) h2

theorem execQueueSamplePass_wf : NextWf (execQueueSamplePass s) :=
  ite_next (next_of_wf (foldl_wf (passBegin_wf hs) fun _ _ h => sampleQueue_wf h)) (next_of_wf hs)

theorem sampleCtrlWrite_wf {v : W32} : Memory.wf (sampleCtrlWrite s v) = true :=
  ite_wf
    (badWrite_wf hs)
    (have h := setReg_wf _ _ _ hs
     ite_wf h (update_wf h))

/-! Machine/Deliver -/

theorem deliver_wf {f : Nat} {act : State → State} (hact : ∀ t, Memory.wf t = true → Memory.wf (act t) = true) :
    Memory.wf (deliver s f act) = true := by
  unfold deliver
  split
  · exact hs
  · exact ite_wf (frameDrop_wf hs) (settle_wf (modFrame_wf (hact _ hs)))

theorem puntFrame_wf {f : Nat} {m : PuntMeta} : Memory.wf (puntFrame s f m) = true := sendCopy_wf hs

theorem sendFate_wf {f p : Nat} {fate : Fate} {cls rewrite reason : Nat} {srcs : List Nat} :
    Memory.wf (sendFate s f p fate cls rewrite reason srcs) = true := by
  unfold sendFate
  split
  · exact sendCopy_wf hs
  · exact sendGroup_wf hs
  · exact puntFrame_wf hs
  · exact bump_wf hs
  · exact hs
  · exact hs

theorem stateless_wf {f : Nat} {o : Parsed} : Memory.wf (stateless s f o) = true := by
  unfold stateless
  split
  · exact hs
  · exact
      have h := sendFate_wf (tcamApply_wf (resolveStateless_wf (ite_wf (learnFrame_wf hs) hs)))
      ite_wf (puntFrame_wf h) h

theorem tailWork_wf {f : Nat} {gone : Bool} : Memory.wf (tailWork s f gone) = true := by
  unfold tailWork
  split
  · exact hs
  · exact
      have h := ite_wf (bump_wf hs) hs
      ite_wf h (by split; exacts [tailError_wf h, ite_wf (tailError_wf (modFrame_wf h)) (by split; exacts [groupSend_wf h, h])])

theorem tailWords_wf {f : Nat} : Memory.wf (tailWords s f) = true := by
  unfold tailWords
  split
  · exact ite_wf (setCluster_wf hs) hs
  · exact hs

theorem execFrameTail_wf {frame : Nat} : NextWf (execFrameTail frame s) := by
  unfold execFrameTail
  split
  · exact next_of_wf hs
  · refine ite_next ?_ ?_
    · exact next_of_wf hs
    · exact
        have h := tailWords_wf (tailIn_wf hs)
        next_of_wf (settle_wf (tailWork_wf (by split; exacts [finish_wf h, h])))

/-! Machine/Audit -/

theorem hmkEvent_wf {typ seq detail : Nat} : Memory.wf (hmkEvent s typ seq detail) = true := intRaise_wf (raiseOn_wf hs)

theorem auditPut_wf {u : Unit128} : Memory.wf (auditPut s u) = true :=
  have h := update_wf hs
  ite_wf (hmkEvent_wf (update_wf h)) h

theorem auditAdd_wf {a : AuditRec} : Memory.wf (auditAdd s a) = true := ite_wf (auditPut_wf hs) (update_wf hs)

theorem auditBoot_wf {subject : List Byte} : Memory.wf (auditBoot s subject) = true :=
  foldl_wf (update_wf (auditPut_wf hs)) fun _ _ h => auditPut_wf h

theorem auditCmd_wf {ring : Nat} {c : CmdEnt} {kind status : Nat} {subject : List Byte} :
    Memory.wf (auditCmd s ring c kind status subject) = true :=
  auditAdd_wf hs

theorem auditFinish_wf {ring slot : Nat} {c : CmdEnt} {status : Nat} {subject : List Byte} {detail result : Nat} :
    Memory.wf (auditFinish s ring slot c status subject detail result) = true :=
  finish_wf (auditCmd_wf hs)

theorem deniedAdd_wf {ring : Nat} {c : CmdEnt} : Memory.wf (deniedAdd s ring c) = true := update_wf hs

theorem sessionRec_wf {a : AuditRec} {what duration : Nat} : Memory.wf (sessionRec s a what duration) = true := auditAdd_wf hs

theorem sessionDrop_wf {ring : Nat} : Memory.wf (sessionDrop s ring) = true := update_wf hs

theorem sessionLapse_wf {ring : Nat} : Memory.wf (sessionLapse s ring) = true := by
  unfold sessionLapse
  split
  · exact ite_wf (sessionRec_wf (sessionDrop_wf hs)) hs
  · exact hs

theorem sessionClose_wf {ring : Nat} : Memory.wf (sessionClose s ring) = true := sessionDrop_wf (sessionLapse_wf hs)

theorem floorBurn_wf {k v : Nat} : Memory.wf (floorBurn s k v) = true :=
  ite_wf
    hs
    (have h := auditAdd_wf (update_wf hs)
     ite_wf (hmkEvent_wf h) h)

/-! Machine/FlowStore -/

theorem modSlice_wf {i : Nat} {f : Slice → Slice} : Memory.wf (s.modSlice i f) = true := setSlice_wf hs

theorem charge_wf {i n : Nat} : Memory.wf (charge s i n) = true := ite_wf hs (bump64_wf hs)

theorem flwEvent_wf {i typ : Nat} {fs : List (Nat × Nat × Nat)} : Memory.wf (flwEvent s i typ fs) = true := intRaise_wf (raiseOn_wf hs)

theorem tileFailEvent_wf {i obj detail : Nat} : Memory.wf (tileFailEvent s i obj detail) = true := flwEvent_wf hs

theorem listPair_wf {i p : Nat} : Memory.wf (listPair s i p) = true := ite_wf (setSlice_wf hs) (ite_wf (setSlice_wf hs) (setSlice_wf hs))

theorem postUnit_wf {i u : Nat} {write : Bool} : Memory.wf (postUnit s i u write) = true := memPost_wf hs

theorem hbmWrite_wf {i idx : Nat} {r : Unit128} : Memory.wf (hbmWrite s i idx r) = true := setUnit_wf _ _ _ (postUnit_wf hs)

theorem writeRec_wf {i idx : Nat} {r : Unit128} : Memory.wf (writeRec s i idx r) = true := by
  unfold writeRec
  extract_lets
  split
  · exact setSlice_wf hs
  · exact setSlice_wf hs
  · exact hbmWrite_wf hs

theorem setPair_wf {i p : Nat} {ws : List (Option Way)} : Memory.wf (setPair s i p ws) = true := setUnit_wf _ _ _ (postUnit_wf hs)

theorem writePair_wf {i p : Nat} {ws : List (Option Way)} : Memory.wf (writePair s i p ws) = true := setPair_wf (setSlice_wf hs)

theorem fixPair_wf {i p : Nat} : Memory.wf (fixPair s i p) = true :=
  ite_wf hs (listPair_wf (forAll_wf (writePair_wf hs) fun _ _ h => tileFailEvent_wf (bumpField_wf h)))

theorem tagAdd_wf {i p : Nat} {w : Way} : SomeWf (tagAdd s i p w) := by
  unfold tagAdd
  extract_lets
  split
  · exact some_someWf (writePair_wf (fixPair_wf hs))
  · exact ite_someWf (some_someWf (peak_wf (setSlice_wf (fixPair_wf hs)))) none_someWf

theorem tagClear_wf {i p idx : Nat} {isAlias : Bool} : Memory.wf (tagClear s i p idx isAlias) = true :=
  have h := fixPair_wf hs
  ite_wf (writePair_wf h) (modSlice_wf h)

theorem hwCheck_wf {i : Nat} : Memory.wf (hwCheck s i) = true := ite_wf (flwEvent_wf (setSlice_wf hs)) (ite_wf (setSlice_wf hs) hs)

theorem recFail_wf {i idx : Nat} {place : Place} {via : Via} : Memory.wf (recFail s i idx place via) = true :=
  have h1 := charge_wf (hbmWrite_wf (modSlice_wf hs))
  have h2 := by split; exacts [modSlice_wf h1, writePair_wf h1, h1]
  have h3 := ite_wf (hwCheck_wf (modSlice_wf h2)) h2
  ite_wf (tileFailEvent_wf (bumpField_wf h3)) (tileFailEvent_wf (bumpField_wf h3))

theorem eccFail_wf {i p : Nat} : Memory.wf (eccFail s i p) = true := listPair_wf (tileFailEvent_wf (bumpField_wf hs))

theorem eccSearch_wf {i set p : Nat} : Memory.wf (eccSearch s i set p) = true := forAll_wf (setSlice_wf hs) fun _ _ h => eccFail_wf h

theorem eccMark_wf {i : Nat} {tags stash : List Nat} : Memory.wf (eccMark s i tags stash) = true := modSlice_wf hs

theorem emitRecord_wf {r : Rec} {reason : Nat} : Memory.wf (emitRecord s r reason) = true := by
  unfold emitRecord
  refine ite_wf ?_ ?_
  · exact hs
  · extract_lets
    exact
      have h := memPostIn_wf hs
      by split; exacts [update_wf h, ite_wf (update_wf h) (update_wf h)]

theorem freeMove_wf {i : Nat} {push : Bool} : Memory.wf (freeMove s i push) = true := ite_wf (memPostIn_wf hs) hs

theorem delRecord_wf {i idx : Nat} {r : Rec} {cause : Nat} : Memory.wf (delRecord s i idx r cause) = true :=
  have h1 := foldl_wf hs fun _ _ h2 => tagClear_wf h2
  have h3 := freeMove_wf (modSlice_wf (charge_wf (by split; exacts [modSlice_wf (postUnit_wf h1), writeRec_wf h1])))
  hwCheck_wf (emitRecord_wf (ite_wf (flwEvent_wf h3) h3))

theorem delOrphan_wf {i idx : Nat} {r : Rec} : Memory.wf (delOrphan s i idx r) = true := modSlice_wf (delRecord_wf hs)

theorem readListed_wf {i : Nat} {ks : List (Bool × Key)} : Memory.wf (readListed s i ks) = true :=
  foldl_wf hs fun _ _ h => charge_wf (fixPair_wf (postUnit_wf h))

theorem tagAgain_wf {i idx : Nat} {k : Bool × Key} : SomeWf (tagAgain s i idx k) := map_someWf (tagAdd_wf hs) fun _ h => charge_wf h

theorem tagsAgainVisit_wf {i idx : Nat} {ks : List (Bool × Key)} : Memory.wf (tagsAgainVisit s i idx ks) = true :=
  foldl_wf hs fun _ _ h => by split; exacts [tagAgain_wf h _ ‹_›, modSlice_wf (bump_wf h)]

theorem tagsAgainEvict_wf {i idx : Nat} {ks : List (Bool × Key)} : SomeWf (tagsAgainEvict s i idx ks) :=
  foldl_someWf (some_someWf hs) fun _ _ h => bind_someWf h fun _ h => tagAgain_wf h

theorem evict_wf {i idx : Nat} {free : Bool} : Memory.wf (evict s i idx free) = true := by
  unfold evict
  split
  · exact hs
  · extract_lets r out ks s1
    have hout : ∀ t, Memory.wf t = true → Memory.wf (out t) = true := fun t ht =>
      have h1 := modSlice_wf ht
      have h2 := ite_wf (postUnit_wf h1) h1
      ite_wf (charge_wf h2) h2
    refine ite_wf (ite_wf (hout _ hs) ?_) (hout _ hs)
    have h1 : Memory.wf s1 = true := readListed_wf hs
    split
    · exact hout _ (modSlice_wf (tagsAgainEvict_wf h1 _ ‹_›))
    · exact delOrphan_wf h1

theorem setRoom_wf {i set need : Nat} {free : Bool} : SomeWf (setRoom s i set need free) := by
  unfold setRoom
  refine ite_someWf (some_someWf hs) ?_
  cases lruOf s i set with
  | none => exact none_someWf
  | some idx => exact some_someWf (evict_wf hs)

theorem hotRoom_wf {i n : Nat} {sets : List Nat} {free : Bool} {t : State} (ht : hotRoom s i sets free = some (t, n)) :
    Memory.wf t = true := by
  unfold hotRoom at ht
  extract_lets wb go at ht
  have hgo : ∀ e, go = some e → Memory.wf e.1 = true := by
    refine sets.foldlRecOn (motive := fun o : Option (State × Bool) => ∀ e, o = some e → Memory.wf e.1 = true) _
      (fun _ h => by cases h; exact hs) ?_
    intro o ho set _ e he
    obtain ⟨d, hd, he⟩ := Option.bind_eq_some_iff.mp he
    obtain ⟨t, ht, rfl⟩ := Option.map_eq_some_iff.mp he
    exact setRoom_wf (ho d hd) t ht
  obtain ⟨e, he, ht⟩ := Option.bind_eq_some_iff.mp ht
  have h := hgo e he
  split at ht
  · cases ht; exact h
  · extract_lets c at ht
    split at ht
    · cases ht
    · obtain ⟨m, -, hm⟩ := Option.map_eq_some_iff.mp ht
      cases hm
      exact evict_wf (setSlice_wf h)

theorem fillHot_wf {i idx : Nat} {r : Unit128} {modified setup : Bool} : Memory.wf (fillHot s i idx r modified setup) = true := by
  unfold fillHot
  extract_lets
  split
  · exact modSlice_wf (hotRoom_wf hs ‹_›)
  · exact ite_wf (charge_wf (hbmWrite_wf (modSlice_wf hs))) hs

theorem lineRef_wf {i idx : Nat} : Memory.wf (lineRef s i idx) = true := modSlice_wf hs

theorem touch_wf {i idx : Nat} : Memory.wf (touch s i idx) = true := modSlice_wf hs

/-! Machine/HostIf -/

theorem hifEvent_wf {typ : Nat} {fs : List (Nat × Nat × Nat)} : Memory.wf (hifEvent s typ fs) = true := intRaise_wf (raiseOn_wf hs)

theorem stageFree_wf {bufs : List Nat} : Memory.wf (stageFree s bufs) = true :=
  foldl_wf hs fun _ _ h => poolFree_wf (ite_wf (unchargeIn_wf h) h)

theorem stageTake_wf {pool fuel n : Nat} {bufs : List Nat} :
    Memory.wf (stageTake pool fuel s bufs n).1 = true := by
  induction fuel generalizing s bufs n with
  | zero => exact hs
  | succ fuel ih =>
    unfold stageTake
    refine ite_wf_fst hs (ite_wf_fst hs ?_)
    split
    · exact ih (chargeIn_wf (wf_of_fst_eq ‹_› (poolAlloc_wf hs)))
    · exact wf_of_fst_eq ‹_› (poolAlloc_wf hs)

theorem ringError_wf {r cause : Nat} : Memory.wf (ringError s r cause) = true := ite_wf hs (hifEvent_wf (setRing_wf hs))

theorem ringEnable_wf {r : Nat} : Memory.wf (ringEnable s r) = true := ite_wf (setRing_wf hs) (badWrite_wf hs)

theorem execRingEnable_wf {ring : Fin 1024} : NextWf (execRingEnable ring s) := onBar_wf hs (ringEnable_wf hs)

theorem ringDisable_wf {r : Nat} : Memory.wf (ringDisable s r) = true :=
  have h := sessionClose_wf hs
  ite_wf h (setRing_wf (stageFree_wf h))

theorem execRingDisable_wf {ring : Fin 1024} : NextWf (execRingDisable ring s) := onBar_wf hs (ringDisable_wf hs)

theorem execRingIdle_wf {ring : Fin 1024} : NextWf (execRingIdle ring s) := next_of_wf (ite_wf (setRing_wf hs) hs)

theorem doorbell_wf {fn page : Nat} {v : W32} : Memory.wf (doorbell s fn page v) = true := by
  unfold doorbell
  split
  · exact hs
  · exact ite_wf
      (bump_wf hs)
      (have h := ite_wf (setRing_wf hs) hs
       ite_wf (vectorTry_wf (setVector_wf h)) h)

theorem execDoorbellUpdate_wf {fn : Fin 65} {page : Fin 1024} {value : W32} : NextWf (execDoorbellUpdate fn page value s) :=
  onBar2_wf hs (doorbell_wf hs)

theorem execDoorbellArm_wf {fn : Fin 65} {page : Fin 1024} {value : W32} : NextWf (execDoorbellArm fn page value s) :=
  onBar2_wf hs (doorbell_wf hs)

theorem serveNote_wf {r : Nat} : Memory.wf (serveNote s r) = true := update_wf hs

theorem execDescriptorFetch_wf {ring : Fin 1024} : NextWf (execDescriptorFetch ring s) :=
  have h := ite_wf (serveNote_wf hs) hs
  ite_next
    (next_of_wf hs)
    (ite_next
       (next_of_wf (ringError_wf h))
       (ite_next (next_of_wf (setRing_wf h)) (ite_next (next_of_wf (ringError_wf h)) (next_of_wf (setRing_wf h)))))

theorem execFetchError_wf {ring : Fin 1024} {cause : Fin 4} : NextWf (execFetchError ring cause s) :=
  next_of_wf (ite_wf (ringError_wf hs) hs)

theorem execCommandStage_wf {ring : Fin 1024} {slot : Nat} {dmaFail : Bool} : NextWf (execCommandStage ring slot dmaFail s) := by
  unfold execCommandStage
  extract_lets
  split
  · exact next_of_wf hs
  · exact ite_next
      (next_of_wf hs)
      (ite_next
         (next_of_wf (modCmd_wf hs))
         (ite_next
            (next_of_wf hs)
            (ite_next
               (next_of_wf (ringError_wf hs))
               (have h := stageTake_wf hs
                ite_next (next_of_wf (modCmd_wf (chainLinks_wf h))) (next_of_wf (bump_wf (modCmd_wf h)))))))

theorem refuseAccept_wf {r : Nat} {c : CmdEnt} {st detail : Nat} : Memory.wf (refuseAccept s r c st detail) = true :=
  have h := finish_wf hs
  ite_wf (deniedAdd_wf h) (ite_wf (intRaise_wf (bump_wf h)) (ite_wf (auditCmd_wf h) h))

theorem execCommandAccept_wf {ring : Fin 1024} : NextWf (execCommandAccept ring s) := by
  unfold execCommandAccept
  extract_lets
  split
  · exact next_of_wf hs
  · refine ite_next ?_ ?_
    · exact next_of_wf hs
    · split
      · exact next_of_wf (refuseAccept_wf hs)
      · refine ite_next ?_ ?_
        · exact next_of_wf hs
        · refine ite_next ?_ ?_
          · exact next_of_wf (refuseAccept_wf hs)
          · split
            · exact next_of_wf (refuseAccept_wf (cellEvent_wf (cellCount_wf hs)))
            · exact next_of_wf (modCmd_wf (update_wf hs))

theorem completeCmd_wf {r slot : Nat} : Memory.wf (completeCmd s r slot) = true := by
  unfold completeCmd
  split
  · exact hs
  · exact ite_wf
      hs
      (have h1 := stageFree_wf (setRing_wf hs)
       ite_wf
         h1
         (have h2 := bump64_wf (hostWrite_wf _ _ _ (hostWrite_wf _ _ _ h1))
          ite_wf (vectorCount_wf h2) h2))

theorem execCompletionWrite_wf {ring : Fin 1024} {slot : Nat} : NextWf (execCompletionWrite ring slot s) := next_of_wf (completeCmd_wf hs)

theorem puntFill_wf {r : Nat} {info : List (Nat × Nat × Nat)} {ps : List Posted}
    {bs : List Byte} {first : Bool} : Memory.wf (puntFill r info ps s bs first).1 = true := by
  induction ps generalizing s bs first with
  | nil => exact hs
  | cons p ps ih =>
    have h := fun a b => hostWrite_wf _ a b (hostWrite_wf s p.addr (bs.take p.len) hs)
    exact ite_wf_fst (h _ _) (ih (h _ _))

theorem puntDone_wf {c : Copy} : Memory.wf (puntDone s c) = true := settle_wf (unchargeEg_wf hs)

theorem puntCopy_wf {c : Copy} : Memory.wf (puntCopy s c) = true := by
  unfold puntCopy
  split
  · exact hs
  · split
    · exact settle_wf (cellFail_wf (copyDrop_wf hs))
    · split
      · exact copyDrop_wf (bump_wf hs)
      · exact
          have h := puntDone_wf (setRing_wf (puntFill_wf (update_wf hs)))
          ite_wf (vectorCount_wf h) h

theorem execPuntWrite_wf {queue : Fin 32} : NextWf (execPuntWrite queue s) := by
  unfold execPuntWrite
  extract_lets
  split
  · exact next_of_wf (ite_wf (puntCopy_wf (selectCopy_wf hs)) hs)
  · exact next_of_wf hs

theorem execInject_wf {ring : Fin 1024} {slot : Nat} : NextWf (execInject ring slot s) :=
  onCmd_wf hs fun _ => ite_wf (finish_wf hs) (ite_wf (finish_wf (bump_wf hs)) (ite_wf (finish_wf hs) (frameNew_wf (modCmd_wf hs))))

theorem exportWrite_wf {n : Nat} {m : ExpMsg} : Memory.wf (exportWrite s n m) = true := by
  unfold exportWrite
  extract_lets
  split
  · exact ite_wf
      (have h := setRing_wf (hostWrite_wf _ _ _ (hostWrite_wf _ _ _ (memPostIn_wf hs)))
       ite_wf (vectorCount_wf h) h) (bump_wf hs)
  · exact bump_wf hs

theorem execExportMessageClose_wf {profile : Fin 4096} : NextWf (execExportMessageClose profile s) := by
  unfold execExportMessageClose
  extract_lets
  split
  · exact next_of_wf (exportWrite_wf (update_wf hs))
  · split
    · exact next_of_wf (exportWrite_wf (update_wf (reach_wf hs)))
    · exact next_of_wf hs

theorem execVectorTimeout_wf {vector : Fin 64} : NextWf (execVectorTimeout vector s) := by
  unfold execVectorTimeout
  split
  · exact next_of_wf (vectorTry_wf (reach_wf hs))
  · exact next_of_wf hs

theorem regsKeep_wf {p : Nat → Bool} : Memory.wf { s with regs := fkeep s.regs p } = true := by
  obtain ⟨hr, hl, hh, hb⟩ := (Memory.wf_iff s).mp hs
  exact (Memory.wf_iff _).mpr ⟨canon_fkeep p hr, hl, hh, hb⟩

theorem msixClear_wf {fn : Nat} : Memory.wf (msixClear s fn) = true :=
  have h := update_wf hs
  ite_wf (regsKeep_wf h) h

theorem functionReset_wf {fn : Nat} : Memory.wf (functionReset s fn) = true := msixClear_wf (forAll_wf hs fun _ _ h => ringDisable_wf h)

theorem execFunctionLevelReset_wf {fn : Fin 65} : NextWf (execFunctionLevelReset fn s) := next_of_wf (functionReset_wf hs)

theorem ringMute_wf {r : Nat} : Memory.wf (ringMute s r) = true := setRing_wf hs

theorem execBusMasterDisable_wf {fn : Fin 65} : NextWf (execBusMasterDisable fn s) :=
  next_of_wf (forAll_wf (ite_wf hs (update_wf hs)) fun _ _ h => ringMute_wf (ringError_wf h))

theorem execPcieHotReset_wf : NextWf (execPcieHotReset s) := next_of_wf (update_wf (forAll_wf hs fun _ _ h => functionReset_wf h))

theorem execPcieLinkTrained_wf {speed : Fin 4} {width : Fin 17} {flit : Bool} : NextWf (execPcieLinkTrained speed width flit s) :=
  ite_next (next_of_wf hs) (next_of_wf (update_wf hs))

/-! Machine/Line -/

theorem modLanes_wf {n : Nat} {f : LaneSt → LaneSt} : Memory.wf (modLanes s n f) = true := foldl_wf hs fun _ _ h => setLane_wf h

theorem lifEvent_wf {o typ : Nat} {fs : List (Nat × Nat × Nat)} : Memory.wf (lifEvent s o typ fs) = true := by
  unfold lifEvent
  split
  · exact wf_of_fst_eq ‹_› (eventWrite_wf hs)
  · exact intRaise_wf (bump_wf (wf_of_fst_eq ‹_› (eventWrite_wf hs)))

theorem linkEvent_wf {n typ cause : Nat} : Memory.wf (linkEvent s n typ cause) = true := intRaise_wf (lifEvent_wf hs)

theorem portStart_wf {n : Nat} : Memory.wf (portStart s n) = true :=
  ite_wf
    hs
    (have h1 := setPort_wf hs
     foldl_wf (ite_wf (emit_wf h1) h1) fun _ _ h2 => setLane_wf h2)

theorem rxCut_wf {n : Nat} : Memory.wf (rxCut s n) = true := by
  unfold rxCut
  split
  · exact ite_wf hs (bump_wf (modFrame_wf hs))
  · exact hs

theorem txAbandon_wf {n : Nat} : Memory.wf (txAbandon s n) = true := by
  unfold txAbandon
  split
  · exact hs
  · exact
      have h := bump_wf (setPfc_wf (cutVoqs_wf (unchargeEg_wf (update_wf hs))))
      settle_wf (ite_wf (txtsClose_wf h) h)

theorem portLeave_wf {n cause : Nat} : Memory.wf (portLeave s n cause) = true :=
  modLanes_wf (linkEvent_wf (txAbandon_wf (rxCut_wf (bump_wf (setPort_wf hs)))))

theorem leaveUp_wf {n cause : Nat} : Memory.wf (leaveUp s n cause) = true := ite_wf (portLeave_wf hs) hs

theorem portOff_wf {n : Nat} : Memory.wf (portOff s n) = true := setPort_wf (modLanes_wf hs)

theorem portAlign_wf {n : Nat} : Memory.wf (portAlign s n) = true := modLanes_wf (setPort_wf hs)

theorem attemptFails_wf {n : Nat} : Memory.wf (attemptFails s n) = true := bump_wf (setPort_wf hs)

theorem execAnComplete_wf {partner : Partner} : NextWf (execAnComplete partner s) :=
  ite_next
    (next_of_wf hs)
    (have h := modLanes_wf hs
     next_of_wf (ite_wf (attemptFails_wf h) (ite_wf (setPort_wf h) (portAlign_wf h))))

theorem execAnFail_wf {port : Fin 128} : NextWf (execAnFail port s) := next_of_wf (ite_wf (attemptFails_wf hs) hs)

theorem execAnBackoffExpire_wf {port : Fin 128} : NextWf (execAnBackoffExpire port s) :=
  ite_next (next_of_wf hs) (next_of_wf (portStart_wf (setPort_wf (reach_wf hs))))

theorem execTrainingComplete_wf {port : Fin 128} : NextWf (execTrainingComplete port s) :=
  ite_next (next_of_wf hs) (next_of_wf (portAlign_wf (modLanes_wf hs)))

theorem execPortAligned_wf {port : Fin 128} : NextWf (execPortAligned port s) :=
  ite_next (next_of_wf hs) (next_of_wf (modLanes_wf (setPort_wf hs)))

theorem execLinkUp_wf {port : Fin 128} : NextWf (execLinkUp port s) :=
  ite_next (next_of_wf hs) (next_of_wf (linkEvent_wf (setPort_wf (reach_wf hs))))

theorem linkLost_wf {n cause : Nat} : Memory.wf (linkLost s n cause) = true := portStart_wf (leaveUp_wf hs)

theorem execLinkDown_wf {lane : Fin 128} {cause : LaneLoss} : NextWf (execLinkDown lane cause s) := by
  unfold execLinkDown
  split
  · exact next_of_wf hs
  · exact ite_next
      (next_of_wf hs)
      (have h1 := setLane_wf hs
       have h2 := ite_wf h1 (bump_wf h1)
       next_of_wf (ite_wf (linkLost_wf h2) h2))

theorem localFaultSet_wf {n : Nat} {on : Bool} : Memory.wf (localFaultSet s n on) = true :=
  have h := setPort_wf hs
  ite_wf h (emit_wf h)

theorem faultBack_wf {n cause : Nat} : Memory.wf (faultBack s n cause) = true := ite_wf (portAlign_wf (leaveUp_wf hs)) hs

theorem execLinkFault_wf {port : Fin 128} {fault : FaultKind} : NextWf (execLinkFault port fault s) := by
  unfold execLinkFault
  refine ite_next ?_ ?_
  · exact next_of_wf hs
  · split
    · exact next_of_wf (faultBack_wf (localFaultSet_wf hs))
    · exact next_of_wf (faultBack_wf (setPort_wf hs))
    · exact next_of_wf (localFaultSet_wf hs)
    · exact next_of_wf (setPort_wf hs)

theorem laneUnlock_wf {l : Nat} : Memory.wf (laneUnlock s l) = true := ite_wf (bump_wf (setLane_wf hs)) hs

theorem execRefclkLoss_wf {octet : Fin 16} : NextWf (execRefclkLoss octet s) :=
  ite_next
    (next_of_wf hs)
    (next_of_wf (foldl_wf (foldl_wf (update_wf hs) fun _ _ h1 => laneUnlock_wf h1) fun _ _ h2 => ite_wf h2 (linkLost_wf h2)))

theorem execRefclkReturn_wf {octet : Fin 16} : NextWf (execRefclkReturn octet s) := next_of_wf (update_wf hs)

theorem portRemove_wf {n : Nat} : Memory.wf (portRemove s n) = true :=
  have h := setGates_wf (portOff_wf (leaveUp_wf hs))
  modLanes_wf (setPort_wf (by split; exacts [finish_wf (free_wf h), h]))

theorem portCreate_wf {n : Nat} : Memory.wf (portCreate s n) = true := portStart_wf (setReg_wf _ _ _ (setReg_wf _ _ _ hs))

theorem execPortModeWrite_wf {ring : Fin 1024} {slot : Nat} : NextWf (execPortModeWrite ring slot s) :=
  onCmd_wf
    hs
    fun _ =>
      ite_wf
        (badField_wf hs)
        (ite_wf
           (badField_wf hs)
           (ite_wf
              (finish_wf hs)
              (finish_wf (foldl_wf (update_wf (foldl_wf hs fun _ _ h1 => portRemove_wf h1)) fun _ _ h2 => portCreate_wf h2))))

theorem execPortAdmin_wf {ring : Fin 1024} {slot : Nat} : NextWf (execPortAdmin ring slot s) :=
  onCmd_wf
    hs
    fun _ =>
      ite_wf
        (badField_wf hs)
        (ite_wf (finish_wf (ite_wf (portStart_wf (setPort_wf hs)) hs)) (finish_wf (setPort_wf (portOff_wf (leaveUp_wf hs)))))

theorem macControl_wf {n : Nat} {f : List Byte} : Memory.wf (macControl s n f) = true := by
  unfold macControl
  split
  · exact pfcTake_wf hs
  · exact bump_wf hs
  · exact bump_wf hs

theorem frameIn_wf {n : Nat} {bytes : List Byte} {err : Option Nat} : Memory.wf (frameIn s n bytes err) = true :=
  ite_wf (bump_wf hs) (frameNew_wf hs)

theorem tally_wf {a k : Nat} : Memory.wf (s.tally a k) = true := ite_wf hs (bumpBy_wf hs)

theorem fecCount_wf {n : Nat} {line : LineErr} : Memory.wf (fecCount s n line) = true :=
  ite_wf (foldl_wf (tally_wf (tally_wf hs)) fun _ _ h => tally_wf h) hs

theorem frameBroken_wf {n : Nat} {bytes : List Byte} {line : LineErr} {hit : Bool} : Memory.wf (frameBroken s n bytes line hit) = true :=
  have h := tally_wf (bump_wf hs)
  ite_wf h (frameIn_wf h)

theorem execFrameReceive_wf {port : Fin 128} {bytes : List Byte} {line : LineErr} : NextWf (execFrameReceive port bytes line s) :=
  ite_next
    (next_of_wf hs)
    (have h := fecCount_wf hs
     ite_next
       (next_of_wf h)
       (ite_next
          (next_of_wf (bump_wf h))
          (ite_next
             (next_of_wf (bump_wf h))
             (ite_next
                (next_of_wf (frameBroken_wf h))
                (ite_next
                   (next_of_wf (bump_wf h))
                   (ite_next
                      (next_of_wf (macControl_wf h))
                      (ite_next
                         (next_of_wf (frameIn_wf h))
                         (ite_next (next_of_wf (frameIn_wf h)) (next_of_wf (frameIn_wf (bump_wf h)))))))))))

theorem execLoupeDwell_wf {lane : Fin 128} {eye : Fin 3} {corner : Fin 4} {count : Nat} :
    NextWf (execLoupeDwell lane eye corner count s) :=
  have h1 := setLane_wf (reach_wf hs)
  ite_next
    (next_of_wf hs)
    (ite_next
       (have h2 := setLane_wf h1
        ite_next (next_of_wf h2) (next_of_wf (intRaise_wf (lifEvent_wf h2)))) (ite_next (next_of_wf (setLane_wf h1)) (next_of_wf h1)))

theorem execRxDelayPublish_wf {lane : Fin 128} {marks : List Marker} : NextWf (execRxDelayPublish lane marks s) := by
  unfold execRxDelayPublish
  extract_lets
  split
  · exact next_of_wf hs
  · exact
      have h1 := reach_wf hs
      ite_next
        (next_of_wf hs)
        (ite_next
           (next_of_wf (setLane_wf h1))
           (have h2 := setLane_wf h1
            next_of_wf (ite_wf (bump_wf h2) h2)))

theorem execLaneEyeRead_wf {ring : Fin 1024} {slot : Nat} {map : List W16} : NextWf (execLaneEyeRead ring slot map s) := by
  unfold execLaneEyeRead
  split
  · exact next_of_wf hs
  · exact ite_next
      (next_of_wf hs)
      (ite_next
         (ite_next (next_of_wf hs) (ite_next (next_of_wf (finish_wf hs)) (next_of_wf (setLane_wf (modCmd_wf hs)))))
         (ite_next (next_of_wf (finish_wf (output_wf (setLane_wf (reach_wf hs))))) (next_of_wf hs)))

/-! Machine/FlowSetup -/

theorem takeIndex_wf {i : Nat} : Memory.wf (takeIndex s i) = true := by
  unfold takeIndex
  split
  · exact freeMove_wf (modSlice_wf hs)
  · exact modSlice_wf hs

theorem natTry_wf {i : Nat} {okey : Nat → Key} {addr first size start block left t : Nat} :
    Memory.wf (natTry s i okey addr first size start block left t).1 = true := by
  induction left generalizing s t with
  | zero => exact hs
  | succ left ih =>
    exact
      have h1 := fixPair_wf (postUnit_wf hs)
      have h2 := ite_wf h1 (bump_wf (charge_wf h1))
      ite_wf_fst (ih h2) h2

theorem natChoose_wf {i : Nat} {r : Rec} : Memory.wf (natChoose s i r).1 = true := ite_wf_fst hs (natTry_wf hs)

theorem natFail_wf {i pool block detail : Nat} : Memory.wf (natFail s i pool block detail) = true :=
  have h := bump_wf hs
  ite_wf h (flwEvent_wf (modSlice_wf h))

theorem natBind_wf {i : Nat} {r : Rec} : Memory.wf (natBind s i r).1 = true := by
  unfold natBind
  refine ite_wf_fst ?_ ?_
  · exact hs
  · refine ite_wf_fst ?_ ?_
    · exact natFail_wf hs
    · split
      · exact natFail_wf (wf_of_fst_eq ‹_› (natChoose_wf hs))
      · exact wf_of_fst_eq ‹_› (natChoose_wf hs)

theorem enterTags_wf {i idx : Nat} {r : Rec} : SomeWf (enterTags s i idx r) :=
  foldl_someWf (some_someWf hs) fun _ _ h => bind_someWf h fun _ h => tagAdd_wf h

theorem buildRecord_wf {i : Nat} {r0 : Rec} {rule : Nat} {event : Bool} : Memory.wf (buildRecord s i r0 rule event).1 = true := by
  unfold buildRecord
  split
  · exact hs
  · extract_lets
    split
    · exact wf_of_fst_eq ‹_› (natBind_wf hs)
    · rename_i s1 _ _ hbind
      have h1 : Memory.wf s1 = true := wf_of_fst_eq hbind (natBind_wf hs)
      extract_lets
      split
      · exact h1
      · exact
          have h2 := charge_wf (bump64_wf (modSlice_wf (enterTags_wf (fillHot_wf (takeIndex_wf h1)) _ ‹_›)))
          hwCheck_wf (ite_wf (flwEvent_wf h2) h2)

theorem refuseCount_wf {i reason : Nat} : Memory.wf (refuseCount s i reason) = true :=
  have h := bump_wf hs
  ite_wf (bump_wf h) h

/-! Machine/FlowHost -/

theorem candTry_wf {i : Nat} {k : Key} {via : Bool → Via} {cost : Nat} {post : Bool} {cs : List (Nat × Bool)} :
    Memory.wf (candTry s i k via cost post cs).1 = true := by
  induction cs generalizing s with
  | nil => exact hs
  | cons c cs ih =>
    exact
      have h := ite_wf (postUnit_wf hs) hs
      ite_wf_fst (ih (recFail_wf h)) (ite_wf_fst h (ih h))

theorem hotSearch_wf {i : Nat} {k : Key} : Memory.wf (hotSearch s i k).1 = true := candTry_wf (eccSearch_wf hs)

theorem findKey_wf {i : Nat} {k : Key} : Memory.wf (findKey s i k).1 = true := by
  unfold findKey
  extract_lets
  split
  · exact wf_of_fst_eq ‹_› (hotSearch_wf hs)
  · split
    · exact wf_of_fst_eq ‹_› (hotSearch_wf hs)
    · split
      · exact wf_of_fst_eq ‹_› (candTry_wf (wf_of_fst_eq ‹_› (hotSearch_wf hs)))
      · exact candTry_wf (fixPair_wf (postUnit_wf (wf_of_fst_eq ‹_› (candTry_wf (wf_of_fst_eq ‹_› (hotSearch_wf hs))))))

theorem byHandle_wf {i handle : Nat} : Memory.wf (byHandle s i handle).1 = true :=
  ite_wf_fst
    hs
    (have h := ite_wf (postUnit_wf hs) hs
     ite_wf_fst (recFail_wf h) (ite_wf_fst h h))

theorem hostFill_wf {i : Nat} {f : RecFound} {byKey : Bool} : Memory.wf (hostFill s i f byKey) = true := by
  unfold hostFill
  split
  · exact fillHot_wf hs
  · exact ite_wf (touch_wf hs) (lineRef_wf hs)
  · exact hs

theorem atLookup_wf {i ring slot : Nat} {o : FlowOp} {c : CmdEnt} : Memory.wf (atLookup s i ring slot o c) = true := by
  unfold atLookup
  split
  · exact finish_wf (output_wf (hostFill_wf (charge_wf (wf_of_fst_eq ‹_› (findKey_wf hs)))))
  · exact finish_wf (charge_wf (wf_of_fst_eq ‹_› (findKey_wf hs)))

theorem atRead_wf {i ring slot : Nat} {c : CmdEnt} : Memory.wf (atRead s i ring slot c) = true := by
  unfold atRead
  split
  · exact finish_wf (output_wf (hostFill_wf (charge_wf (wf_of_fst_eq ‹_› (byHandle_wf hs)))))
  · exact finish_wf (charge_wf (wf_of_fst_eq ‹_› (byHandle_wf hs)))

theorem atInstall_wf {i ring slot : Nat} {o : FlowOp} {c : CmdEnt} : Memory.wf (atInstall s i ring slot o c) = true := by
  unfold atInstall
  extract_lets
  split
  · exact
      have h := charge_wf (wf_of_fst_eq ‹_› (findKey_wf hs))
      finish_wf (ite_wf (touch_wf h) h)
  · split
    · exact finish_wf (wf_of_fst_eq ‹_› (buildRecord_wf (wf_of_fst_eq ‹_› (findKey_wf hs))))
    · exact finish_wf (charge_wf (refuseCount_wf (wf_of_fst_eq ‹_› (buildRecord_wf (wf_of_fst_eq ‹_› (findKey_wf hs))))))

theorem atModify_wf {i ring slot : Nat} {o : FlowOp} {c : CmdEnt} : Memory.wf (atModify s i ring slot o c) = true := by
  unfold atModify
  split
  · exact
      have h := charge_wf (wf_of_fst_eq ‹_› (byHandle_wf hs))
      finish_wf (ite_wf (fillHot_wf h) (lineRef_wf (writeRec_wf h)))
  · exact finish_wf (charge_wf (wf_of_fst_eq ‹_› (byHandle_wf hs)))

theorem atDelete_wf {i ring slot : Nat} {o : FlowOp} {c : CmdEnt} : Memory.wf (atDelete s i ring slot o c) = true := by
  unfold atDelete
  refine ite_wf ?_ ?_
  · split
    · exact finish_wf (delRecord_wf (charge_wf (wf_of_fst_eq ‹_› (findKey_wf hs))))
    · exact finish_wf (charge_wf (wf_of_fst_eq ‹_› (findKey_wf hs)))
  · split
    · exact finish_wf (delRecord_wf (charge_wf (wf_of_fst_eq ‹_› (byHandle_wf hs))))
    · exact finish_wf (charge_wf (wf_of_fst_eq ‹_› (byHandle_wf hs)))

theorem atSlice_wf {i ring slot : Nat} {o : FlowOp} : Memory.wf (atSlice s i ring slot o) = true := by
  unfold atSlice
  split
  · exact hs
  · split
    · exact atLookup_wf hs
    · exact atRead_wf hs
    · exact atInstall_wf hs
    · exact atModify_wf hs
    · exact atDelete_wf hs

theorem notServed_wf {i ring slot op : Nat} : Memory.wf (notServed s i ring slot op) = true :=
  ite_wf (finish_wf (refuseCount_wf hs)) (finish_wf hs)

/-! Machine/FlowPath -/

theorem giveRecord_wf {c arr op : Nat} {r : Rec} {handle : Nat} {new reply excess : Bool} :
    Memory.wf (giveRecord s c arr op r handle new reply excess) = true :=
  have h := modPkt_wf hs
  ite_wf (pktResultEnd_wf (opSet_wf h)) (opComplete_wf h)

theorem giveMiss_wf {c arr op : Nat} : Memory.wf (giveMiss s c arr op) = true := opComplete_wf hs

theorem giveOutcome_wf {c arr op code outcome reason : Nat} : Memory.wf (giveOutcome s c arr op code outcome reason) = true := by
  unfold giveOutcome
  extract_lets
  exact
    have h := opSet_wf hs
    by split; exacts [pktResultEnd_wf h, pktResultEnd_wf h, pktResultEnd_wf h]

theorem givePending_wf {c arr op : Nat} : Memory.wf (givePending s c arr op) = true := pktPark_wf (modPkt_wf hs)

theorem serve_wf {i : Nat} {o : FlowOp} {f : RecFound} {new : Bool} {tick : Nat} {store : State → Rec → State}
    (hstore : ∀ t x, Memory.wf t = true → Memory.wf (store t x) = true) :
    Memory.wf (serve s i o f new tick store) = true := by
  unfold serve
  split
  · exact giveRecord_wf (hstore _ _ hs)
  · exact hs

theorem modFlight_wf {i id : Nat} {g : Flight → Flight} : Memory.wf (modFlight s i id g) = true := modSlice_wf hs

theorem openFlight_wf {i : Nat} {o : FlowOp} {ph : FlightPhase} : Memory.wf (openFlight s i o ph) = true := peak_wf (setSlice_wf hs)

theorem countCold_wf {i : Nat} : Memory.wf (countCold s i) = true := bump64_wf hs

theorem countRehit_wf {i : Nat} {o : FlowOp} : Memory.wf (countRehit s i o) = true := ite_wf (bump_wf hs) hs

theorem runLookup_wf {i : Nat} {o : FlowOp} {k : Key} : Memory.wf (runLookup s i o k) = true := by
  unfold runLookup
  split
  · split
    · exact serve_wf
        (ite_wf (countCold_wf (wf_of_fst_eq ‹_› (hotSearch_wf hs))) (bump64_wf (wf_of_fst_eq ‹_› (hotSearch_wf hs))))
        fun _ _ h1 => touch_wf (writeRec_wf h1)
    · split
      · exact serve_wf (countCold_wf (wf_of_fst_eq ‹_› (hotSearch_wf hs))) fun _ _ h2 => fillHot_wf h2
      · exact givePending_wf (memFlight_wf (openFlight_wf (wf_of_fst_eq ‹_› (hotSearch_wf hs))))
  · exact hs

theorem runUpdate_wf {i : Nat} {o : FlowOp} : Memory.wf (runUpdate s i o) = true := by
  unfold runUpdate
  split
  · split
    · exact bump_wf (wf_of_fst_eq ‹_› (byHandle_wf hs))
    · exact wf_of_fst_eq ‹_› (byHandle_wf hs)
  · split
    · exact
        have h := writeRec_wf (wf_of_fst_eq ‹_› (byHandle_wf hs))
        ite_wf (flwEvent_wf h) h
    · exact writeRec_wf (wf_of_fst_eq ‹_› (byHandle_wf hs))
    · exact emitRecord_wf (wf_of_fst_eq ‹_› (byHandle_wf hs))
    · exact wf_of_fst_eq ‹_› (byHandle_wf hs)

theorem interim_wf {i : Nat} {r : Rec} : Memory.wf (interim s i r) = true := ite_wf (emitRecord_wf hs) hs

theorem sweepRecord_wf {i idx now : Nat} : Memory.wf (sweepRecord s i idx now) = true :=
  ite_wf
    (recFail_wf hs)
    (ite_wf
       hs
       (have h1 := readListed_wf hs
        ite_wf
          (delOrphan_wf h1)
          (have h2 := tagsAgainVisit_wf h1
           ite_wf (modSlice_wf (bump_wf (delRecord_wf h2))) (interim_wf h2))))

theorem passDone_wf {i took : Nat} : Memory.wf (passDone s i took) = true := modSlice_wf hs

theorem visitEnd_wf {i : Nat} {o : FlowOp} : Memory.wf (visitEnd s i o) = true := by
  unfold visitEnd
  split
  · exact passDone_wf hs
  · exact hs

theorem visitRead_wf {i : Nat} {f : Flight} : Memory.wf (visitRead s i f) = true := ite_wf hs (sweepRecord_wf hs)

theorem runSweep_wf {i : Nat} {o : FlowOp} : Memory.wf (runSweep s i o) = true :=
  ite_wf (postUnit_wf (openFlight_wf (charge_wf hs))) (visitEnd_wf (sweepRecord_wf hs))

theorem runOp_wf {i : Nat} {o : FlowOp} : Memory.wf (runOp s i o) = true := by
  unfold runOp
  split
  · split
    · exact runLookup_wf hs
    · exact hs
  · exact ite_wf (atSlice_wf hs) (notServed_wf hs)
  · exact runSweep_wf hs
  · exact runUpdate_wf hs

theorem ownReads_wf {i : Nat} {f : Flight} {o : FlowOp} : Memory.wf (ownReads s i f o).1 = true := by
  unfold ownReads
  split
  · refine ite_wf_fst ?_ ?_
    · exact hs
    · split
      · exact ite_wf_fst hs (charge_wf (wf_of_fst_eq ‹_› (findKey_wf hs)))
      · exact hs
  · exact hs

theorem admitOp_wf {i : Nat} {o0 : FlowOp} : Memory.wf (admitOp s i o0) = true := by
  unfold admitOp
  extract_lets
  split
  · extract_lets
    exact
      have h := modFlight_wf (ownReads_wf hs)
      by split; exacts [givePending_wf h, h]
  · exact runOp_wf hs

theorem orderPoint_wf {i : Nat} {o : FlowOp} : Memory.wf (orderPoint s i o) = true := admitOp_wf (modSlice_wf hs)

theorem dropFlight_wf {i id : Nat} : Memory.wf (dropFlight s i id) = true := modSlice_wf hs

theorem closeFlight_wf {i : Nat} {f : Flight} : Memory.wf (closeFlight s i f) = true :=
  foldl_wf (dropFlight_wf hs) fun _ _ h => admitOp_wf h

theorem closeOutcome_wf {i : Nat} {f : Flight} {code outcome reason : Nat} :
    Memory.wf (closeOutcome s i f code outcome reason) = true := by
  unfold closeOutcome
  extract_lets one rehit
  have hone : ∀ t o, Memory.wf t = true → Memory.wf (one t o) = true := fun t o ht => by
    unfold one
    split
    · exact ite_wf (giveOutcome_wf (countCold_wf ht)) (giveMiss_wf (countCold_wf ht))
    · exact admitOp_wf ht
  exact foldl_wf (hone _ _ (charge_wf (dropFlight_wf hs))) fun _ _ h => hone _ _ (ite_wf (countRehit_wf h) h)

theorem closeRefused_wf {i : Nat} {f : Flight} {reason : Nat} {t : Tmpl} : Memory.wf (closeRefused s i f reason t) = true :=
  closeOutcome_wf (refuseCount_wf hs)

theorem walkFaulted_wf {i n : Nat} : Memory.wf (walkFaulted s i n) = true := modSlice_wf hs

theorem missBranch_wf {i : Nat} {f : Flight} : Memory.wf (missBranch s i f) = true := by
  unfold missBranch
  split
  · exact
      have h := countRehit_wf hs
      ite_wf
        (closeFlight_wf (giveMiss_wf (charge_wf (countCold_wf h))))
        (ite_wf
           (closeRefused_wf h)
           (by split; exacts [closeRefused_wf (walkFaulted_wf h),
              ite_wf (closeRefused_wf h) (ite_wf (closeRefused_wf h) (modFlight_wf h))]))
  · exact dropFlight_wf hs

theorem readCands_wf {i : Nat} {f : Flight} {stash : Bool} {cs : List (Nat × Bool)} : Memory.wf (readCands s i f stash cs) = true :=
  memFlight_wf (modFlight_wf hs)

theorem recStep_wf {i : Nat} {f : Flight} {stash : Bool} {cs : List (Nat × Bool)} : Memory.wf (recStep s i f stash cs) = true := by
  unfold recStep
  extract_lets
  split
  · exact hs
  · split
    · split
      · exact modFlight_wf (dropFlight_wf (charge_wf (wf_of_fst_eq ‹_› (candTry_wf hs))))
      · exact closeFlight_wf
          (serve_wf
             (countCold_wf (charge_wf (wf_of_fst_eq ‹_› (candTry_wf hs))))
             fun _ _ h => ite_wf (touch_wf (writeRec_wf h)) (fillHot_wf h))
    · exact ite_wf
        (readCands_wf (wf_of_fst_eq ‹_› (candTry_wf hs)))
        (ite_wf (memFlight_wf (modFlight_wf (wf_of_fst_eq ‹_› (candTry_wf hs)))) (missBranch_wf (wf_of_fst_eq ‹_› (candTry_wf hs))))

theorem notReady_wf {i : Nat} {o : FlowOp} : Memory.wf (notReady s i o) = true := by
  unfold notReady
  split
  · exact
      have h := countCold_wf hs
      ite_wf (giveOutcome_wf (refuseCount_wf h)) (giveMiss_wf h)
  · exact bump_wf hs
  · exact hs

theorem execSliceLookup_wf {slice : Fin 16} {source : SliceRead} : NextWf (execSliceLookup slice source s) := by
  unfold execSliceLookup
  extract_lets
  exact
    have h1 := eccMark_wf (strike_wf hs)
    by split; exacts [next_of_wf h1,
      (have h2 := setSlice_wf h1
       ite_next (next_of_wf (notReady_wf h2)) (ite_next (next_of_wf h1) (next_of_wf (orderPoint_wf h2))))]

theorem execUpdate_wf {slice : Fin 16} {source : Fin 8} : NextWf (execUpdate slice source s) := by
  unfold execUpdate
  extract_lets
  split
  · exact next_of_wf hs
  · exact
      have h := setSlice_wf hs
      next_of_wf (ite_wf (orderPoint_wf h) (notReady_wf h))

theorem pairReadDone_wf {i : Nat} {f : Flight} : Memory.wf (pairReadDone s i f) = true :=
  ite_wf
    (have h := fixPair_wf hs
     ite_wf (missBranch_wf h) (readCands_wf h)) hs

theorem recReadDone_wf {i : Nat} {f : Flight} : Memory.wf (recReadDone s i f) = true := by
  unfold recReadDone
  split
  · exact recStep_wf hs
  · exact visitEnd_wf (closeFlight_wf (visitRead_wf hs))
  · exact hs

theorem execTagPairReadDone_wf {slice : Fin 16} {entry : Nat} : NextWf (execTagPairReadDone slice entry s) := by
  unfold execTagPairReadDone
  split
  · exact next_of_wf (pairReadDone_wf hs)
  · exact next_of_wf hs

theorem execRecordReadDone_wf {slice : Fin 16} {entry : Nat} : NextWf (execRecordReadDone slice entry s) := by
  unfold execRecordReadDone
  split
  · exact next_of_wf (recReadDone_wf hs)
  · exact next_of_wf hs

theorem execSetupQueueEnter_wf {slice : Fin 16} {entry : Nat} : NextWf (execSetupQueueEnter slice entry s) := by
  unfold execSetupQueueEnter
  extract_lets
  split
  · split
    · exact ite_next
        (next_of_wf hs)
        (ite_next
           (next_of_wf (peak_wf (modSlice_wf (modFlight_wf hs))))
           (have h := ite_wf hs (bump_wf hs)
            ite_next (next_of_wf (modFlight_wf h)) (next_of_wf (closeOutcome_wf h))))
    · exact next_of_wf hs
  · exact next_of_wf hs

theorem execSetupDone_wf {slice : Fin 16} : NextWf (execSetupDone slice s) := by
  unfold execSetupDone
  extract_lets
  split
  · exact next_of_wf hs
  · split
    · exact next_of_wf (modSlice_wf hs)
    · split
      · extract_lets
        split
        · exact next_of_wf (closeRefused_wf (wf_of_fst_eq ‹_› (buildRecord_wf hs)))
        · exact next_of_wf (closeFlight_wf (serve_wf (wf_of_fst_eq ‹_› (buildRecord_wf hs)) fun _ _ h => writeRec_wf h))
      · exact next_of_wf (dropFlight_wf hs)

theorem execWriteBackDone_wf {slice : Fin 16} {index : Nat} : NextWf (execWriteBackDone slice index s) := by
  unfold execWriteBackDone
  extract_lets
  split
  · exact next_of_wf (setUnit_wf _ _ _ (modSlice_wf hs))
  · exact next_of_wf hs

theorem execSweepVisit_wf {slice : Fin 16} : NextWf (execSweepVisit slice s) :=
  ite_next (next_of_wf (modSlice_wf (orderPoint_wf (reach_wf hs)))) (next_of_wf hs)

/-! Machine/Array -/

theorem templateDone_wf {ring slot : Nat} : Memory.wf (templateDone s ring slot) = true := ite_wf hs (finish_wf hs)

theorem execGraphTemplateWrite_wf {ring : Fin 1024} {slot : Nat} : NextWf (execGraphTemplateWrite ring slot s) :=
  onCmd_wf
    hs
    fun _ =>
      ite_wf
        (badField_wf hs)
        (ite_wf (badField_wf hs) (ite_wf hs (templateDone_wf (modCmd_wf (forAll_wf hs fun _ _ h => setCluster_wf h)))))

theorem execGraphTemplateRead_wf {ring : Fin 1024} {slot : Nat} : NextWf (execGraphTemplateRead ring slot s) :=
  onCmd_wf hs fun _ => by split; exacts [badField_wf hs, finish_wf (output_wf hs)]

theorem placeTake_wf {c f e : Nat} {x : Frame} {o : Parsed} {g : BitVec 2048} : Memory.wf (placeTake s c f e x o g) = true :=
  peak_wf (setCluster_wf hs)

theorem execEngineQueueAccept_wf {frame : Nat} : NextWf (execEngineQueueAccept frame s) := by
  unfold execEngineQueueAccept
  split
  · exact next_of_wf hs
  · refine ite_next ?_ ?_
    · exact next_of_wf hs
    · refine ite_next ?_ ?_
      · exact next_of_wf (frameDrop_wf (bump_wf hs))
      · refine ite_next ?_ ?_
        · exact next_of_wf (frameDrop_wf (bump_wf hs))
        · refine ite_next ?_ ?_
          · exact next_of_wf (bump_wf hs)
          · split
            · exact next_of_wf (bump_wf hs)
            · exact next_of_wf (placeTake_wf (setPipe_wf hs))

theorem takeCtx_wf {c arr e : Nat} : Memory.wf (takeCtx s c arr e) = true := modPkt_wf (free_wf hs)

theorem ctxServed_wf {c : Nat} {p : Pkt} : Memory.wf (ctxServed s c p) = true := setCluster_wf hs

theorem pktBegin_wf {c arr : Nat} {x : Frame} : Memory.wf (pktBegin s c arr x) = true := pktSettle_wf (peak_wf (bump64_wf (modPkt_wf hs)))

theorem execPacketStart_wf {cluster : Fin 8} {pkt : Nat} : NextWf (execPacketStart cluster pkt s) := by
  unfold execPacketStart
  extract_lets
  split
  · exact next_of_wf hs
  · refine ite_next ?_ ?_
    · exact next_of_wf hs
    · refine ite_next ?_ ?_
      · exact next_of_wf (peak_wf (modPkt_wf (takeCtx_wf hs)))
      · split
        · exact next_of_wf (pktBegin_wf (takeCtx_wf (setCluster_wf hs)))
        · exact next_of_wf hs

theorem execPacketResume_wf {cluster : Fin 8} {pkt : Nat} : NextWf (execPacketResume cluster pkt s) := by
  unfold execPacketResume
  split
  · exact ite_next (next_of_wf (modPkt_wf hs)) (next_of_wf hs)
  · exact next_of_wf hs

theorem opPhase_wf {c arr op : Nat} {ph : OpPhase} : Memory.wf (opPhase s c arr op ph) = true := modPkt_wf hs

theorem opStall_wf {c arr op : Nat} : Memory.wf (opStall s c arr op) = true := pktPark_wf (opPhase_wf hs)

theorem issueFlow_wf {c : Nat} {p : Pkt} {op : Nat} {e : BitVec 96} : Memory.wf (issueFlow s c p op e) = true := by
  unfold issueFlow
  split
  · exact opFail_wf hs
  · exact ite_wf (opFail_wf hs) (ite_wf (opStall_wf hs) (flowPush_wf (opPhase_wf hs)))

theorem issueTable_wf {c : Nat} {p : Pkt} {op : Nat} {e : BitVec 96} : Memory.wf (issueTable s c p op e) = true :=
  ite_wf (opFail_wf hs) (ite_wf (opStall_wf hs) (modPkt_wf hs))

theorem cipPush_wf {c : Nat} {r : CipReq} : Memory.wf (cipPush s c r) = true := update_wf hs

theorem issueCipher_wf {c : Nat} {p : Pkt} {op : Nat} {e : BitVec 96} : Memory.wf (issueCipher s c p op e) = true :=
  ite_wf
    hs
    (ite_wf
       (opFail_wf (bump_wf hs))
       (ite_wf (opFail_wf hs) (ite_wf (opStall_wf hs) (pktPark_wf (peak_wf (cipPush_wf (opPhase_wf hs)))))))

theorem issueRewrite_wf {c : Nat} {p : Pkt} {op : Nat} {e : BitVec 96} : Memory.wf (issueRewrite s c p op e) = true :=
  opComplete_wf (by split; exacts [modPkt_wf hs, hs])

theorem execOpIssue_wf {cluster : Fin 8} {pkt : Nat} {op : Fin 16} : NextWf (execOpIssue cluster pkt op s) := by
  unfold execOpIssue
  extract_lets
  split
  · exact next_of_wf hs
  · refine ite_next ?_ ?_
    · exact next_of_wf hs
    · split
      · exact next_of_wf (ite_wf (issueFlow_wf hs) (issueTable_wf hs))
      · exact next_of_wf (issueCipher_wf hs)
      · exact next_of_wf (issueRewrite_wf hs)
      · exact next_of_wf (modPkt_wf hs)

theorem exactResult_wf {c : Nat} {p : Pkt} {key : Nat} : Memory.wf (exactResult s c p key).1 = true := by
  unfold exactResult
  split
  · exact applyWord_wf (wf_of_fst_eq ‹_› (exactSearch_wf hs))
  · exact wf_of_fst_eq ‹_› (exactSearch_wf hs)
  · exact wf_of_fst_eq ‹_› (exactSearch_wf hs)

theorem lpmResult_wf {c : Nat} {p : Pkt} {prof : Nat} : Memory.wf (lpmResult s c p prof).1 = true := by
  unfold lpmResult
  extract_lets slot
  cases slot with
  | none => exact hs
  | some h =>
    refine ite_wf_fst hs ?_
    extract_lets
    split
    · split
      · exact applyWord_wf (wf_of_fst_eq ‹_› (nexthopSearch_wf (wf_of_fst_eq ‹_› (lpmSearch_wf hs))))
      · exact wf_of_fst_eq ‹_› (nexthopSearch_wf (wf_of_fst_eq ‹_› (lpmSearch_wf hs)))
    · exact wf_of_fst_eq ‹_› (lpmSearch_wf hs)
    · exact wf_of_fst_eq ‹_› (lpmSearch_wf hs)

theorem tcamResult_wf {c : Nat} {p : Pkt} {prof key : Nat} : Memory.wf (tcamResult s c p prof key).1 = true := by
  unfold tcamResult
  split
  · exact ite_wf_fst
      (have h := applyWord_wf (wf_of_fst_eq ‹_› (tcamSearch_wf hs))
       ite_wf_fst h h) (wf_of_fst_eq ‹_› (tcamSearch_wf hs))
  · exact wf_of_fst_eq ‹_› (tcamSearch_wf hs)
  · exact wf_of_fst_eq ‹_› (tcamSearch_wf hs)

theorem giveTable_wf {c arr op : Nat} {ws : List W32} {fwd : Bool} {pair : Option Nat} :
    Memory.wf (giveTable s c arr op ws fwd pair) = true :=
  opComplete_wf (by split; exacts [modPkt_wf hs, hs])

theorem execTableLookupResult_wf {cluster : Fin 8} {pkt : Nat} {op : Struck (Fin 16)} :
    NextWf (execTableLookupResult cluster pkt op s) := by
  unfold execTableLookupResult
  extract_lets
  exact
    have h := strike_wf hs
    by split; exacts [next_of_wf h,
      ite_next
        (next_of_wf h)
        (by split; exacts [next_of_wf (giveTable_wf (exactResult_wf h)),
           next_of_wf (giveTable_wf (lpmResult_wf h)),
           next_of_wf (giveTable_wf (tcamResult_wf h)),
           next_of_wf h])]

theorem orphansEnd_wf {c : Nat} {p : Pkt} : Memory.wf (orphansEnd s c p) = true := modPkt_wf hs

theorem orphansFail_wf {c : Nat} {p : Pkt} : Memory.wf (orphansFail s c p) = true := foldl_wf hs fun _ _ h => opFail_wf (free_wf h)

theorem execPacketAbort_wf {cluster : Fin 8} {pkt : Nat} : NextWf (execPacketAbort cluster pkt s) := by
  unfold execPacketAbort
  extract_lets
  split
  · exact next_of_wf hs
  · exact ite_next
      (next_of_wf hs)
      (have h1 := modPkt_wf hs
       ite_next
         (next_of_wf (pktSettle_wf (orphansFail_wf (bump_wf h1))))
         (ite_next
            (next_of_wf (pktRest_wf (orphansEnd_wf h1)))
            (have h2 := bump_wf (modPkt_wf (free_wf (orphansEnd_wf h1)))
             next_of_wf (ite_wf (pktEnd_wf h2) (pktFail_wf h2)))))

theorem execClaspLock_wf {pipe : Fin 8} {table : Fin 3} {ring : Fin 1024} {slot : Nat} :
    NextWf (execClaspLock pipe table ring slot s) := by
  unfold execClaspLock
  extract_lets
  split
  · exact next_of_wf hs
  · exact ite_next (next_of_wf (abortWhere_wf (setLock_wf hs))) (next_of_wf hs)

theorem forwardPkt_wf {c : Nat} {p : Pkt} : Memory.wf (forwardPkt s c p) = true := by
  unfold forwardPkt
  extract_lets
  split
  · exact ite_wf (bump_wf hs) (sendCopy_wf hs)
  · exact sendFate_wf hs
  · exact bump_wf hs

theorem switchDone_wf {ring slot region version : Nat} {hash : List Byte} :
    Memory.wf (switchDone s ring slot region version hash) = true := by
  unfold switchDone
  refine ite_wf ?_ ?_
  · exact hs
  · split
    · exact auditFinish_wf hs
    · exact hs

theorem placeFree_wf {c arr : Nat} : Memory.wf (placeFree s c arr) = true := by
  unfold placeFree
  extract_lets x rs gone sw swOver s1 s2
  have h2 : Memory.wf s2 = true := foldl_wf (setCluster_wf hs) fun _ _ h => templateDone_wf h
  cases swOver with
  | some => exact switchDone_wf h2
  | none => exact h2

theorem asArrived_wf {f : Nat} {act : State → State} (hact : ∀ t, Memory.wf t = true → Memory.wf (act t) = true) :
    Memory.wf (asArrived s f act) = true := by
  unfold asArrived
  split
  · exact hs
  · split
    · exact hact _ hs
    · exact
        have h := frameFit_wf hs
        ite_wf (hact _ h) (frameDrop_wf h)

theorem frameNote_wf {p : Pkt} : Memory.wf (frameNote s p) = true := by
  unfold frameNote
  split
  · exact setFrame_wf hs
  · exact hs

theorem leaveWith_wf {c : Nat} {p : Pkt} {act : State → State} (hact : ∀ t, Memory.wf t = true → Memory.wf (act t) = true) :
    Memory.wf (leaveWith s c p act) = true :=
  deliver_wf (frameNote_wf (bump64_wf hs)) fun _ h => hact _ h

theorem leave_wf {c : Nat} {p : Pkt} {x : Verdict} : Memory.wf (leave s c p x) = true := by
  unfold leave
  split
  · exact frameDrop_wf (bump_wf hs)
  · exact leaveWith_wf hs fun _ h1 => forwardPkt_wf h1
  · exact leaveWith_wf hs fun _ h2 => asArrived_wf h2 fun _ h3 => stateless_wf h3
  · exact leaveWith_wf hs fun _ h4 => asArrived_wf h4 fun _ h5 => puntFrame_wf h5

theorem execPacketRelease_wf {cluster : Fin 8} {pkt : Nat} : NextWf (execPacketRelease cluster pkt s) := by
  unfold execPacketRelease
  extract_lets
  split
  · exact next_of_wf hs
  · split
    · exact ite_next (next_of_wf (leave_wf (placeFree_wf hs))) (next_of_wf hs)
    · exact next_of_wf hs

/-! Machine/Keel -/

theorem hltEvent_wf {typ cause : Nat} {hottest : Int} : Memory.wf (hltEvent s typ cause hottest) = true := raiseOn_wf hs

theorem keelScrub_wf : Memory.wf (keelScrub s) = true := foldl_wf hs fun _ _ h => intRaise_wf (bump_wf (update_wf h))

theorem keelEnd_wf {f : Nat} : Memory.wf (keelEnd s f) = true := settle_wf (modFrame_wf hs)

theorem keelDrop_wf {f : Nat} : Memory.wf (keelDrop s f) = true := keelEnd_wf (bump_wf hs)

theorem keelSend_wf {f : Nat} {e : BitVec 256} : Memory.wf (keelSend s f e) = true :=
  ite_wf
    (keelDrop_wf hs)
    (deliver_wf
       hs
       fun _ h1 =>
         have h2 := sendCopy_wf h1
         ite_wf (puntFrame_wf h2) h2)

theorem keelMiss_wf {f port : Nat} : Memory.wf (keelMiss s f port) = true :=
  have h1 := ite_wf_snd (mk_wf_snd hs) (ite_wf_snd (mk_wf_snd hs) (mk_wf_snd (free_wf hs)))
  ite_wf (deliver_wf h1 fun _ h2 => puntFrame_wf h2) (keelEnd_wf h1)

theorem keelLookup_wf {f : Nat} {x : Frame} {o : Parsed} : Memory.wf (keelLookup s f x o) = true := by
  unfold keelLookup
  extract_lets
  exact
    have h1 := keelScrub_wf hs
    by split; exacts [keelMiss_wf (bump_wf h1),
      (have h2 := bump_wf h1
       ite_wf (keelDrop_wf h2) (ite_wf (ite_wf (keelDrop_wf h2) (cipPush_wf h2)) (keelSend_wf h2)))]

theorem sendDirect_wf {f q : Nat} : Memory.wf (sendDirect s f q) = true := deliver_wf hs fun _ h => sendCopy_wf h

theorem pathStateless_wf {f : Nat} {x : Frame} {o : Parsed} : Memory.wf (pathStateless s f x o) = true :=
  ite_wf (keelLookup_wf hs) (deliver_wf hs fun _ h => stateless_wf h)

theorem classAct_wf {f : Nat} {x : Frame} {o : Parsed} : Memory.wf (classAct s f x o) = true := by
  unfold classAct
  extract_lets
  split
  · exact frameDrop_wf hs
  · exact pathStateless_wf hs
  · exact deliver_wf hs fun _ h => puntFrame_wf h
  · exact pathStateless_wf (puntFrame_wf hs)

theorem execParseDecision_wf {frame : Struck Nat} : NextWf (execParseDecision frame s) := by
  unfold execParseDecision
  extract_lets
  exact
    have h1 := strike_wf hs
    by split; exacts [next_of_wf h1,
      ite_next
        (next_of_wf h1)
        (by extract_lets; split; exacts [next_of_wf (sendDirect_wf (modFrame_wf h1)),
           (have h2 := countParsed_wf (setFrame_wf h1)
            next_of_wf (ite_wf (classAct_wf h2) (ite_wf h2 (pathStateless_wf h2))))])]

/-! Machine/Cipher -/

theorem cipEvent_wf {typ slot gen cause counter : Nat} : Memory.wf (cipEvent s typ slot gen cause counter) = true :=
  intRaise_wf (raiseOn_wf hs)

theorem cipTouch_wf {k : Nat} : Memory.wf (cipTouch s k) = true := ite_wf hs (update_wf hs)

theorem cipMend_wf {k : Nat} : Memory.wf (cipMend s k) = true := ite_wf (bumpField_wf (update_wf hs)) hs

theorem slotStore_wf {k : Nat} : Memory.wf (slotStore s k) = true := ite_wf hs (memPost_wf (update_wf (setUnit_wf _ _ _ hs)))

theorem slotWrite_wf {k : Nat} : Memory.wf (slotWrite s k) = true := slotStore_wf (setKeySlot_wf hs)

theorem cipForget_wf {k : Nat} : Memory.wf (cipForget s k) = true := update_wf hs

theorem cipZero_wf {k : Nat} : Memory.wf (cipZero s k) = true := update_wf (slotWrite_wf (setKeySlot_wf (cipForget_wf hs)))

theorem cipDiscard_wf {r : CipReq} : Memory.wf (cipDiscard s r) = true := ite_wf hs (opComplete_wf hs)

theorem cipFail_wf {r : CipReq} {k : Nat} : Memory.wf (cipFail s r k) = true :=
  have h := bump_wf hs
  ite_wf (ite_wf (keelDrop_wf h) h) (ite_wf (opFail_wf h) (cipDiscard_wf h))

theorem reqDrop_wf {r : CipReq} : Memory.wf (reqDrop s r) = true := update_wf hs

theorem eraseClose_wf {k : Nat} : Memory.wf (eraseClose s k) = true :=
  foldl_wf (update_wf hs) fun _ _ h => by split; exacts [auditFinish_wf h, h]

theorem slotFailed_wf {k cause : Nat} : Memory.wf (slotFailed s k cause) = true :=
  have h1 := cipEvent_wf hs
  foldl_wf (eraseClose_wf (cipZero_wf (ite_wf (bumpField_wf h1) h1))) fun _ _ h2 => cipFail_wf (reqDrop_wf h2)

theorem cipEvict_wf {k : Nat} : Memory.wf (cipEvict s k) = true :=
  ite_wf (slotFailed_wf hs) (update_wf (ite_wf (slotWrite_wf (cipMend_wf hs)) hs))

theorem cipCache_wf {k : Nat} : Memory.wf (cipCache s k) = true :=
  update_wf
    (ite_wf
       hs
       (have h := free_wf hs
        by extract_lets; split; exacts [cipEvict_wf h, h]))

theorem slotReach_wf {k : Nat} {q : Int} : Memory.wf (slotReach s k q) = true :=
  have h := ite_wf (cipEvent_wf hs) hs
  ite_wf (cipEvent_wf (setKeySlot_wf h)) h

theorem cipTake_wf {core : Nat} {r : CipReq} {f : Nat} {fr : Frame} {k : Nat} {q : Int} : Memory.wf (cipTake s core r f fr k q) = true :=
  have h := update_wf hs
  ite_wf (slotReach_wf (cipTouch_wf (setKeySlot_wf h))) (setKeySlot_wf h)

theorem cipFetch_wf {k : Nat} : Memory.wf (cipFetch s k) = true := ite_wf hs (bump_wf (memPost_wf (update_wf hs)))

theorem reqSpoiled_wf {r : CipReq} {f cell : Nat} : Memory.wf (reqSpoiled s r f cell) = true :=
  have h := reqDrop_wf (cellFail_wf hs)
  ite_wf (keelDrop_wf h) (by split; exacts [ite_wf (cipDiscard_wf h) h, h])

theorem reqServe_wf {core : Nat} {r : CipReq} : Memory.wf (reqServe s core r) = true := by
  unfold reqServe
  split
  · exact cipDiscard_wf (reqDrop_wf hs)
  · split
    · exact reqSpoiled_wf hs
    · extract_lets
      exact
        have h1 := bump64_wf (reqDrop_wf (foldl_wf hs fun _ _ h2 => cipMend_wf h2))
        by split; exacts [cipFetch_wf hs, slotFailed_wf hs, cipFail_wf h1, cipTake_wf h1]

theorem execCipherAccept_wf {core : Fin 32} {upsets : List Upset} : NextWf (execCipherAccept core upsets s) :=
  have h := update_wf (strike_wf hs)
  next_of_wf (by split; exacts [reqServe_wf h, h])

theorem execKeyFetchDone_wf {key : BitVec 22} : NextWf (execKeyFetchDone key s) :=
  next_of_wf (ite_wf hs (by split; exacts [slotFailed_wf hs, cipCache_wf hs]))

theorem jobWindow_wf {j : CipJob} {verified : Bool} : Memory.wf (jobWindow s j verified) = true :=
  ite_wf hs (ite_wf (slotReach_wf (cipTouch_wf (setKeySlot_wf hs))) (setKeySlot_wf hs))

theorem cellsFit_wf {f : Nat} {x : Frame} {y : Xf} : Memory.wf (cellsFit s f x y).1 = true := frameFit_wf hs

theorem jobGive_wf {j : CipJob} {f : Nat} : Memory.wf (jobGive s j f) = true := ite_wf (keelSend_wf hs) (pktPark_wf (opComplete_wf hs))

theorem execCipherComplete_wf {core : Fin 32} : NextWf (execCipherComplete core s) := by
  unfold execCipherComplete
  split
  · exact next_of_wf hs
  · exact
      have h1 := jobWindow_wf (update_wf hs)
      next_of_wf
        (by split; exacts [(have h2 := cellsFit_wf h1
            ite_wf (jobGive_wf h2) (cipFail_wf h2)), cipDiscard_wf h1, cipFail_wf h1])

theorem eraseStart_wf {k : Nat} : Memory.wf (eraseStart s k) = true :=
  foldl_wf
    (forAll_wf (update_wf (setKeySlot_wf hs)) fun _ _ h1 => abortWhere_wf h1)
    fun _ _ h2 =>
      have h3 := reqDrop_wf h2
      by extract_lets; split; exacts [ite_wf (cipFail_wf h3) (ite_wf (cipDiscard_wf h3) h3), cipFail_wf h3]

theorem eraseEnd_wf {k : Nat} : Memory.wf (eraseEnd s k) = true := eraseClose_wf (cipZero_wf hs)

theorem execKeyEraseComplete_wf {key : BitVec 22} : NextWf (execKeyEraseComplete key s) := next_of_wf (ite_wf (eraseEnd_wf hs) hs)

theorem keyEnd_wf {ring slot : Nat} {c : CmdEnt} {st k gen result : Nat} : Memory.wf (keyEnd s ring slot c st k gen result) = true :=
  ite_wf (finish_wf (deniedAdd_wf hs)) (auditFinish_wf hs)

theorem execKeyErase_wf {ring : Fin 1024} {slot : Nat} : NextWf (execKeyErase ring slot s) :=
  onCmd_wf hs fun _ => ite_wf (keyEnd_wf hs) (update_wf (eraseStart_wf (modCmd_wf hs)))

theorem onSlot_wf {k : Nat} {f : State → State} (hf : ∀ t, Memory.wf t = true → Memory.wf (f t) = true) :
    Memory.wf (onSlot s k f) = true :=
  ite_wf (cipFetch_wf hs) (hf _ (ite_wf (slotFailed_wf hs) (cipMend_wf hs)))

theorem execKeyStateRead_wf {ring : Fin 1024} {slot : Nat} : NextWf (execKeyStateRead ring slot s) :=
  onCmd_wf
    hs
    fun _ =>
      ite_wf
        (finish_wf (deniedAdd_wf hs))
        (ite_wf (finish_wf hs) (onSlot_wf hs fun _ h => ite_wf (finish_wf h) (finish_wf (output_wf h))))

theorem cipPin_wf {k : Nat} {on : Bool} : Memory.wf (cipPin s k on) = true := update_wf hs

theorem execKeyPin_wf {ring : Fin 1024} {slot : Nat} : NextWf (execKeyPin ring slot s) :=
  onCmd_wf
    hs
    fun _ => ite_wf (keyEnd_wf hs) (onSlot_wf hs fun _ h => ite_wf (keyEnd_wf h) (ite_wf (keyEnd_wf h) (keyEnd_wf (cipPin_wf h))))

theorem slotTake_wf : Memory.wf (slotTake s).1 = true := by
  unfold slotTake
  split
  · exact update_wf hs
  · exact update_wf hs

theorem keyInstall_wf {ring slot : Nat} {c : CmdEnt} {b : BitVec 1024} {m : List Byte} :
    Memory.wf (keyInstall s ring slot c b m) = true :=
  have h := cipTouch_wf (setKeySlot_wf (free_wf (ite_wf_fst (slotTake_wf hs) (mk_wf_fst hs))))
  keyEnd_wf (ite_wf (cipPin_wf h) h)

theorem execKeyWrite_wf {ring : Fin 1024} {slot : Nat} : NextWf (execKeyWrite ring slot s) :=
  onCmd_wf hs fun _ => ite_wf (keyEnd_wf hs) (onSlot_wf hs fun _ h => by split; exacts [keyInstall_wf h, keyEnd_wf h])

theorem execLocketReady_wf : NextWf (execLocketReady s) := next_of_wf (ite_wf hs (update_wf hs))

theorem cipZeroBut_wf {keep : Nat → Bool} : Memory.wf (cipZeroBut s keep) = true :=
  foldl_wf (foldl_wf (update_wf hs) fun _ _ h1 => slotStore_wf h1) fun _ _ h2 => eraseClose_wf h2

theorem cipSoloEnter_wf : Memory.wf (cipSoloEnter s) = true := foldl_wf (update_wf hs) fun _ _ h => keelDrop_wf h

theorem cipSoloExit_wf : Memory.wf (cipSoloExit s) = true := foldl_wf (update_wf (cipZeroBut_wf hs)) fun _ _ h => slotWrite_wf h

/-! Machine/FlowCmds -/

theorem toSlice_wf {ring slot i : Nat} {c : CmdEnt} {key : Option Key} : Memory.wf (toSlice s ring slot i c key) = true :=
  ite_wf (notServed_wf hs) (ite_wf (orderPoint_wf (modCmd_wf hs)) (ite_wf hs (orderPoint_wf hs)))

theorem byKeyCmd_wf {ring slot : Nat} {c : CmdEnt} {k : Key} {pool : Bool} : Memory.wf (byKeyCmd s ring slot c k pool) = true := by
  unfold byKeyCmd
  refine ite_wf ?_ ?_
  · exact badField_wf hs
  · split
    · exact toSlice_wf hs
    · exact finish_wf hs

theorem byHandleCmd_wf {ring slot : Nat} {c : CmdEnt} : Memory.wf (byHandleCmd s ring slot c) = true := toSlice_wf hs

theorem execFlowLookup_wf {ring : Fin 1024} {slot : Nat} : NextWf (execFlowLookup ring slot s) := onCmd_wf hs fun _ => byKeyCmd_wf hs

theorem execFlowRead_wf {ring : Fin 1024} {slot : Nat} : NextWf (execFlowRead ring slot s) := onCmd_wf hs fun _ => byHandleCmd_wf hs

theorem execFlowInstall_wf {ring : Fin 1024} {slot : Nat} : NextWf (execFlowInstall ring slot s) :=
  onCmd_wf hs fun _ => ite_wf (badField_wf hs) (ite_wf (badField_wf hs) (byKeyCmd_wf hs))

theorem execFlowModify_wf {ring : Fin 1024} {slot : Nat} : NextWf (execFlowModify ring slot s) :=
  onCmd_wf hs fun _ => ite_wf (badField_wf hs) (ite_wf (badField_wf hs) (byHandleCmd_wf hs))

theorem execFlowDelete_wf {ring : Fin 1024} {slot : Nat} : NextWf (execFlowDelete ring slot s) :=
  onCmd_wf hs fun _ => ite_wf (byKeyCmd_wf hs) (byHandleCmd_wf hs)

theorem execFlowTemplateWrite_wf {ring : Fin 1024} {slot : Nat} : NextWf (execFlowTemplateWrite ring slot s) :=
  onCmd_wf hs fun _ => ite_wf (badField_wf hs) (finish_wf (forAll_wf hs fun _ _ h => modSlice_wf h))

theorem execExportProfileWrite_wf {ring : Fin 1024} {slot : Nat} : NextWf (execExportProfileWrite ring slot s) :=
  onCmd_wf hs fun _ => ite_wf (badField_wf hs) (ite_wf (badField_wf hs) (finish_wf (update_wf hs)))

theorem flgLoad_wf {i : Nat} {bank : Bool} {ns : List W64} : Memory.wf (flgLoad s i bank ns) = true := modSlice_wf hs

theorem execFiligreeLoad_wf {ring : Fin 1024} {slot : Nat} : NextWf (execFiligreeLoad ring slot s) :=
  onCmd_wf hs fun _ => ite_wf (badField_wf hs) (ite_wf (badField_wf hs) (finish_wf (forAll_wf hs fun _ _ h => flgLoad_wf h)))

theorem execFiligreeSwitch_wf {ring : Fin 1024} {slot : Nat} : NextWf (execFiligreeSwitch ring slot s) :=
  onCmd_wf hs fun _ => ite_wf (badField_wf hs) (ite_wf (badField_wf hs) (finish_wf (forAll_wf hs fun _ _ h => modSlice_wf h)))

theorem flgModeWrite_wf {value : W32} : Memory.wf (flgModeWrite s value) = true :=
  ite_wf
    (sealedWrite_wf hs)
    (have h := setReg_wf _ _ _ hs
     ite_wf h (update_wf h))

theorem execFiligreeModeWrite_wf {value : W32} : NextWf (execFiligreeModeWrite value s) := onBar_wf hs (flgModeWrite_wf hs)

theorem natCfgWrite_wf {n : Nat} {value : W32} : Memory.wf (natCfgWrite s n value) = true :=
  ite_wf (sealedWrite_wf hs) (ite_wf (badWrite_wf hs) (setReg_wf _ _ _ hs))

theorem execNatPoolValid_wf {pool : Fin 16} {value : W32} : NextWf (execNatPoolValid pool value s) := onBar_wf hs (natCfgWrite_wf hs)

theorem ageCtrlWrite_wf {value : W32} : Memory.wf (ageCtrlWrite s value) = true :=
  ite_wf
    (badWrite_wf hs)
    (have h := setReg_wf _ _ _ hs
     ite_wf (update_wf h) h)

theorem execSweepEnable_wf {value : W32} : NextWf (execSweepEnable value s) := onBar_wf hs (ageCtrlWrite_wf hs)

theorem flightsDrop_wf {i : Nat} : Memory.wf (flightsDrop s i) = true :=
  foldl_wf (setSlice_wf hs) fun _ _ h => by split; exacts [notServed_wf h, h]

theorem sliceStart_wf {i : Nat} : Memory.wf (sliceStart s i) = true := modSlice_wf (flightsDrop_wf hs)

theorem flwCtrlWrite_wf {value : W32} : Memory.wf (flwCtrlWrite s value) = true :=
  ite_wf
    (sealedWrite_wf hs)
    (ite_wf
       (ite_wf hs (badWrite_wf hs))
       (ite_wf
          hs
          (have h1 := setReg_wf _ _ _ (update_wf hs)
           ite_wf (forAll_wf h1 fun _ _ h2 => sliceStart_wf h2) h1)))

theorem execFlwEnable_wf {value : W32} : NextWf (execFlwEnable value s) := onBar_wf hs (flwCtrlWrite_wf hs)

theorem execFlwInitStart_wf : NextWf (execFlwInitStart s) :=
  ite_next (next_of_wf (forAll_wf hs fun _ _ h => sliceStart_wf h)) (next_of_wf hs)

theorem hbmKeep_wf {t : State} {p : Nat → Bool} (ht : Memory.wf t = true) : Memory.wf { t with hbm := fkeep s.hbm p } = true := by
  obtain ⟨hr, hl, hh, -⟩ := (Memory.wf_iff t).mp ht
  exact (Memory.wf_iff _).mpr ⟨hr, hl, hh, canon_fkeep p (Memory.wf_hbm hs)⟩

theorem execSliceReady_wf {slice : Fin 16} : NextWf (execSliceReady slice s) :=
  ite_next (next_of_wf (modSlice_wf (hbmKeep_wf hs (foldl_wf (modSlice_wf hs) fun _ _ h => notReady_wf h)))) (next_of_wf hs)

/-! Machine/Solitaire -/

theorem pktFlush_wf {c arr : Nat} : Memory.wf (pktFlush s c arr) = true := by
  unfold pktFlush
  split
  · exact hs
  · exact ite_wf (modPkt_wf hs) (leave_wf (placeFree_wf hs))

theorem windowFlush_wf {c : Nat} : Memory.wf (windowFlush s c) = true := foldl_wf hs fun _ _ h => pktFlush_wf h

theorem spillLost_wf : Memory.wf (spillLost s) = true :=
  foldl_wf
    (swcEvent_wf
       (bumpBy_wf
          (foldl_wf (foldl_wf (foldl_wf hs fun _ _ h1 => notSent_wf h1) fun _ _ h2 => cutQueue_wf h2) fun _ _ h3 => dieInsert_wf h3)))
    fun _ _ h4 => settle_wf h4

theorem soloRecord_wf {exit cause : Nat} : Memory.wf (soloRecord s exit cause) = true := auditAdd_wf hs

theorem causeOn_wf {cause : Nat} : Memory.wf (causeOn s cause) = true := update_wf hs

theorem soloStop_wf : Memory.wf (soloStop s) = true :=
  cipSoloEnter_wf (spillLost_wf (forAll_wf (forAll_wf hs fun _ _ h1 => windowFlush_wf h1) fun _ _ h2 => flightsDrop_wf h2))

theorem soloCause_wf {cause : Nat} : Memory.wf (soloCause s cause) = true := update_wf hs

theorem soloEnter_wf {cause : Nat} : Memory.wf (soloEnter s cause) = true :=
  have h := causeOn_wf hs
  ite_wf (soloCause_wf h) (intRaise_wf (hltEvent_wf (soloRecord_wf (bump_wf (soloStop_wf (update_wf h))))))

theorem memEvent_wf {h typ k : Nat} {fs : List (Nat × Nat × Nat)} : Memory.wf (memEvent s h typ k fs) = true :=
  intRaise_wf (raiseOn_wf hs)

theorem readFails_wf {addr : Nat} : Memory.wf (readFails s addr) = true :=
  ite_wf (update_wf hs) (ite_wf (update_wf hs) (setUnit_wf _ _ _ hs))

theorem txnFailed_wf {h : Nat} {t : MemTxn} : Memory.wf (txnFailed s h t) = true := by
  unfold txnFailed
  refine ite_wf ?_ ?_
  · exact hs
  · exact
      have h := readFails_wf hs
      ite_wf (by extract_lets; split; exacts [ite_wf (pairReadDone_wf h) (recReadDone_wf h), h]) (ite_wf (slotFailed_wf h) h)

theorem stackLost_wf {h cause : Nat} : Memory.wf (stackLost s h cause) = true :=
  ite_wf hs (soloEnter_wf (memEvent_wf (foldl_wf (setStack_wf hs) fun _ _ h => txnFailed_wf h)))

/-! Machine/Spares -/

theorem setSpare_wf {g : Nat} {x : SpareSt} : Memory.wf (s.setSpare g x) = true := update_wf hs

theorem spareEvent_wf {typ g m passes : Nat} : Memory.wf (spareEvent s typ g m passes) = true := by
  unfold spareEvent
  split
  · exact wf_of_fst_eq ‹_› (eventWrite_wf hs)
  · exact update_wf (wf_of_fst_eq ‹_› (eventWrite_wf hs))

theorem sparePass_wf {g : Nat} : Memory.wf (sparePass s g) = true := spareEvent_wf (setSpare_wf hs)

theorem spareReach_wf {g cycles : Nat} : Memory.wf (spareReach s g cycles) = true := reach_wf hs

theorem execSpareMacroStart_wf {group : Fin 224} : NextWf (execSpareMacroStart group s) :=
  ite_next (next_of_wf (setSpare_wf (reach_wf hs))) (next_of_wf hs)

theorem execSpareSwap_wf {group : Fin 224} : NextWf (execSpareSwap group s) := next_of_wf (ite_wf (setSpare_wf (spareReach_wf hs)) hs)

theorem execSpareMarchDone_wf {group : Fin 224} {ok : Bool} : NextWf (execSpareMarchDone group ok s) :=
  ite_next
    (next_of_wf hs)
    (have h := spareReach_wf hs
     ite_next (next_of_wf (setSpare_wf h)) (next_of_wf (sparePass_wf (intRaise_wf (spareEvent_wf (update_wf (setSpare_wf h)))))))

theorem execSpareSwapBack_wf {group : Fin 224} : NextWf (execSpareSwapBack group s) :=
  ite_next
    (next_of_wf hs)
    (have h := setSpare_wf (spareReach_wf hs)
     next_of_wf (ite_wf (sparePass_wf h) h))

theorem spareAbandon_wf {d : Nat} : Memory.wf (spareAbandon s d) = true := forAll_wf hs fun _ _ h => ite_wf (setSpare_wf h) h

theorem spareCtrlWrite_wf {value : W32} : Memory.wf (spareCtrlWrite s value) = true :=
  ite_wf (sealedWrite_wf hs) (ite_wf (badWrite_wf hs) (setReg_wf _ _ _ hs))

theorem execSpareEnableWrite_wf {value : W32} : NextWf (execSpareEnableWrite value s) := onBar_wf hs (spareCtrlWrite_wf hs)

/-! Machine/Micro -/

theorem mcsFetch_wf {c : Nat} {m : Bool} {a : Nat} : Memory.wf (mcsFetch s c m a).1 = true := by
  unfold mcsFetch
  extract_lets
  split
  · exact hs
  · split
    · exact hs
    · exact bumpField_wf hs
    · exact bumpField_wf (setCluster_wf hs)

theorem modRoutine_wf {c arr op : Nat} {f : Routine → Routine} : Memory.wf (modRoutine s c arr op f) = true := modPkt_wf hs

theorem dropRoutine_wf {c arr op : Nat} : Memory.wf (dropRoutine s c arr op) = true := modPkt_wf hs

theorem sampleEvent_wf {c : Nat} {p : Pkt} {op addr : Nat} {ended : Bool} : Memory.wf (sampleEvent s c p op addr ended) = true := by
  unfold sampleEvent
  extract_lets
  split
  · exact wf_of_fst_eq ‹_› (eventWrite_wf (update_wf hs))
  · exact intRaise_wf (bump_wf (wf_of_fst_eq ‹_› (eventWrite_wf (update_wf hs))))

theorem sampleCount_wf {c kind : Nat} {p : Pkt} {op addr : Nat} : Memory.wf (sampleCount s c kind p op addr) = true :=
  ite_wf hs (ite_wf (setCluster_wf hs) (ite_wf (sampleEvent_wf (setCluster_wf hs)) (setCluster_wf (free_wf hs))))

theorem sampleWord_wf {c : Nat} {p : Pkt} {op addr : Nat} {ends : Bool} : Memory.wf (sampleWord s c p op addr ends) = true :=
  foldl_wf (setCluster_wf hs) fun _ _ h => sampleEvent_wf h

theorem sampleStop_wf {c arr op : Nat} : Memory.wf (sampleStop s c arr op) = true := setCluster_wf hs

theorem mcsFault_wf {c : Nat} {p : Pkt} {op addr cause : Nat} : Memory.wf (mcsFault s c p op addr cause) = true :=
  have h := dropRoutine_wf (sampleStop_wf (sampleCount_wf (intRaise_wf (update_wf (bump_wf (setCluster_wf hs))))))
  ite_wf
    (pktEnd_wf h)
    (ite_wf (opComplete_wf (ite_wf (bump_wf h) h)) (ite_wf (opComplete_wf h) (pktFail_wf (bump_wf (modPkt_wf (opSet_wf h))))))

theorem mcsEnd_wf {c : Nat} {p : Pkt} {op imm : Nat} : Memory.wf (mcsEnd s c p op imm) = true := by
  unfold mcsEnd
  extract_lets
  exact
    have h1 := dropRoutine_wf hs
    have h2 := ite_wf h1 (opSet_wf h1)
    by split; exacts [ite_wf (pktEnd_wf h2) (opComplete_wf h2), pktEnd_wf h2, pktEnd_wf h2, pktEnd_wf h2]

theorem mwFetch_wf {c : Nat} {p : Pkt} {r : Routine} : Memory.wf (mwFetch s c p r).1 = true := by
  unfold mwFetch
  refine ite_wf_fst ?_ ?_
  · exact hs
  · split
    · exact wf_of_fst_eq ‹_› (mcsFetch_wf hs)
    · exact wf_of_fst_eq ‹_› (mcsFetch_wf hs)

theorem mwStep_wf {c : Nat} {p : Pkt} {r0 : Routine} {w : Word128} {r : Routine} : Memory.wf (mwStep s c p r0 w r) = true :=
  modRoutine_wf hs

theorem mwIssue_wf {c : Nat} {p : Pkt} {r : Routine} {w : Word128} : NextWf (mwIssue s c p r w) := by
  unfold mwIssue
  split
  · exact next_of_wf (mcsFault_wf hs)
  · extract_lets e s0 s1
    have h1 : Memory.wf s1 = true := sampleWord_wf (sampleCount_wf (ite_wf (sampleCount_wf hs) hs))
    cases e with
    | fault => exact next_of_wf (mcsFault_wf hs)
    | vendor => exact refused_next
    | go => exact next_of_wf (mwStep_wf h1)
    | pkt => exact next_of_wf (mwStep_wf (modPkt_wf h1))
    | commit => exact next_of_wf (commitPkt_wf (modPkt_wf (mwStep_wf h1)))
    | _ => exact next_of_wf (mcsEnd_wf h1)

theorem waitLen_wf {c : Nat} {p : Pkt} {w : Word128} : Memory.wf (waitLen s c p w).1 = true := ite_wf_fst (modPkt_wf hs) hs

theorem execMicrowordIssue_wf {cluster : Fin 8} {pkt : Nat} {op : Struck (Fin 17)} : NextWf (execMicrowordIssue cluster pkt op s) := by
  unfold execMicrowordIssue
  extract_lets
  exact
    have h1 := strike_wf hs
    by split; exacts [next_of_wf h1,
      (by split; exacts [next_of_wf h1,
         ite_next
           (next_of_wf h1)
           (by split; exacts [next_of_wf (mcsFault_wf (wf_of_fst_eq ‹_› (mwFetch_wf (ctxServed_wf h1)))),
              ite_next
                (mwIssue_wf (waitLen_wf (wf_of_fst_eq ‹_› (mwFetch_wf (ctxServed_wf h1)))))
                (have h2 := sampleCount_wf (wf_of_fst_eq ‹_› (mwFetch_wf (ctxServed_wf h1)))
                 ite_next (next_of_wf (pktPark_wf (modRoutine_wf h2))) (next_of_wf h2))])])]

theorem pageWrite_wf {c phys : Nat} {b : List Byte} : Memory.wf (pageWrite s c phys b) = true := update_wf (setCluster_wf hs)

theorem pagesLoad_wf {c : Nat} {rs : List PageRec} {free : List Nat} {m : FMap Nat} :
    Memory.wf (pagesLoad s c rs free m).1 = true := by
  induction rs generalizing s free m with
  | nil => exact hs
  | cons r rs ih =>
    unfold pagesLoad
    refine ite_wf_fst (ih hs) ?_
    split
    · exact ih (pageWrite_wf hs)
    · exact hs

theorem patchStage_wf {c : Nat} {b : List Byte} : Memory.wf (patchStage s c b) = true := setCluster_wf (pagesLoad_wf hs)

theorem execMcsPatchLoad_wf {ring : Fin 1024} {slot : Nat} : NextWf (execMcsPatchLoad ring slot s) :=
  onCmd_wf
    hs
    fun _ =>
      ite_wf
        (finish_wf (deniedAdd_wf hs))
        (ite_wf (auditFinish_wf hs) (auditFinish_wf (forAll_wf (floorBurn_wf hs) fun _ _ h => patchStage_wf h)))

theorem patchDrop_wf {c : Nat} : Memory.wf (patchDrop s c) = true := setCluster_wf hs

theorem patchSwitch_wf {c ring slot : Nat} : Memory.wf (patchSwitch s c ring slot) = true := setCluster_wf hs

theorem execMcsPatchSwitch_wf {ring : Fin 1024} {slot : Nat} : NextWf (execMcsPatchSwitch ring slot s) :=
  onCmd_wf
    hs
    fun _ =>
      ite_wf
        (auditFinish_wf hs)
        (ite_wf
           (auditFinish_wf hs)
           (ite_wf
              (auditFinish_wf (forAll_wf hs fun _ _ h1 => patchDrop_wf h1))
              (switchDone_wf (modCmd_wf (forAll_wf hs fun _ _ h2 => patchSwitch_wf h2)))))

/-! Machine/Trust -/

theorem rngDraw_wf {n : Nat} : Memory.wf (rngDraw s n).1 = true := update_wf hs

theorem execRngHealthFail_wf : NextWf (execRngHealthFail s) := next_of_wf (intRaise_wf (update_wf hs))

theorem execRngHealthPass_wf : NextWf (execRngHealthPass s) := ite_next (next_of_wf (update_wf hs)) (next_of_wf hs)

theorem execBootRomDone_wf {pass : Bool} : NextWf (execBootRomDone pass s) :=
  ite_next (next_of_wf hs) (ite_next (next_of_wf (update_wf (rngDraw_wf hs))) (next_of_wf (update_wf (free_wf hs))))

theorem vendorLoad_wf {c version : Nat} {rs : List PageRec} : Memory.wf (vendorLoad s c version rs) = true :=
  setCluster_wf (pagesLoad_wf (setCluster_wf hs))

theorem execBootImageLoad_wf {ring : Fin 1024} {slot : Nat} : NextWf (execBootImageLoad ring slot s) :=
  onCmd_wf
    hs
    fun _ =>
      ite_wf
        (finish_wf hs)
        (ite_wf
           (finish_wf (update_wf hs))
           (finish_wf (auditBoot_wf (update_wf (rngDraw_wf (forAll_wf (floorBurn_wf hs) fun _ _ h => vendorLoad_wf h))))))

theorem execIdentCertRead_wf {ring : Fin 1024} {slot : Nat} : NextWf (execIdentCertRead ring slot s) :=
  onCmd_wf hs fun _ => finish_wf (output_wf hs)

theorem outputSigned_wf {c : CmdEnt} {b : List Byte} : Memory.wf (outputSigned s c b) = true := output_wf (update_wf hs)

theorem execAttest_wf {ring : Fin 1024} {slot : Nat} : NextWf (execAttest ring slot s) :=
  onCmd_wf hs fun _ => finish_wf (outputSigned_wf hs)

theorem execRoleChallenge_wf {ring : Fin 1024} {slot : Nat} : NextWf (execRoleChallenge ring slot s) :=
  onCmd_wf hs fun _ => ite_wf (finish_wf hs) (finish_wf (output_wf (update_wf (rngDraw_wf hs))))

theorem nonceSpent_wf {ring : Nat} : Memory.wf (nonceSpent s ring) = true := update_wf hs

theorem execRoleAuth_wf {ring : Fin 1024} {slot : Nat} : NextWf (execRoleAuth ring slot s) :=
  onCmd_wf
    hs
    fun _ =>
      have h1 := sessionLapse_wf hs
      have h2 := ite_wf h1 (nonceSpent_wf h1)
      finish_wf (sessionRec_wf (ite_wf (update_wf h2) h2))

theorem execRoleClose_wf {ring : Fin 1024} {slot : Nat} : NextWf (execRoleClose ring slot s) :=
  onCmd_wf hs fun _ => finish_wf (sessionRec_wf (sessionClose_wf hs))

theorem execSessionExpire_wf {ring : Fin 1024} : NextWf (execSessionExpire ring s) := by
  unfold execSessionExpire
  split
  · exact next_of_wf hs
  · exact next_of_wf (ite_wf hs (sessionLapse_wf (ite_wf (advance_wf hs) hs)))

theorem locketWipe_wf : Memory.wf (locketWipe s) = true := update_wf (cipZeroBut_wf hs)

theorem eraseAll_wf : Memory.wf (eraseAll s) = true :=
  foldl_wf
    hs
    fun _ _ h1 =>
      have h2 := eraseStart_wf h1
      ite_wf (eraseEnd_wf h2) h2

theorem lcChange_wf {new : Nat} : Memory.wf (lcChange s new) = true :=
  have h1 := hmkEvent_wf (auditAdd_wf (update_wf (foldl_wf hs fun _ _ h2 => sessionLapse_wf h2)))
  ite_wf (eraseAll_wf h1) (ite_wf (locketWipe_wf h1) h1)

theorem burn_wf {g : Fuses → Fuses} : Memory.wf (s.burn g) = true := update_wf hs

theorem actTransition_wf {role : Nat} {b : List Byte} : Memory.wf (actTransition s role b).1 = true := by
  unfold actTransition
  extract_lets
  split
  · exact hs
  · exact ite_wf_fst hs (lcChange_wf hs)

theorem actInstaller_wf {role : Nat} {b : List Byte} : Memory.wf (actInstaller s role b).1 = true := by
  unfold actInstaller
  refine ite_wf_fst ?_ ?_
  · exact hs
  · split
    · exact hs
    · exact burn_wf hs

theorem actOperator_wf {role : Nat} {b : List Byte} : Memory.wf (actOperator s role b).1 = true :=
  ite_wf_fst hs (ite_wf_fst hs (burn_wf hs))

theorem actCodeKey_wf {role : Nat} {b : List Byte} : Memory.wf (actCodeKey s role b).1 = true := by
  unfold actCodeKey
  refine ite_wf_fst ?_ ?_
  · exact hs
  · split
    · exact hs
    · exact burn_wf hs

theorem actRevoke_wf {role : Nat} {b : List Byte} : Memory.wf (actRevoke s role b).1 = true := ite_wf_fst hs (ite_wf_fst hs (burn_wf hs))

theorem actKik_wf {role : Nat} {c : CmdEnt} {b : List Byte} : Memory.wf (actKik s role c b).1 = true :=
  ite_wf_fst hs (ite_wf_fst hs (ite_wf_fst hs (ite_wf_fst hs (outputSigned_wf (rngDraw_wf hs)))))

theorem actDebug_wf {role : Nat} : Memory.wf (actDebug s role).1 = true := ite_wf_fst (update_wf (locketWipe_wf hs)) hs

theorem ticketAct_wf {c : CmdEnt} {b : List Byte} : Memory.wf (ticketAct s c b).1 = true := by
  unfold ticketAct
  extract_lets
  split
  · exact actTransition_wf hs
  · exact ite_wf_fst (update_wf hs) hs
  · exact actInstaller_wf hs
  · exact actOperator_wf hs
  · exact actCodeKey_wf hs
  · exact actRevoke_wf hs
  · exact actKik_wf hs
  · exact actDebug_wf hs

theorem execTicketExec_wf {ring : Fin 1024} {slot : Nat} : NextWf (execTicketExec ring slot s) :=
  onCmd_wf
    hs
    fun _ =>
      ite_wf
        (ite_wf (finish_wf (deniedAdd_wf hs)) (finish_wf (auditAdd_wf hs)))
        (ite_wf
           (ite_wf (finish_wf (deniedAdd_wf hs)) (finish_wf (auditAdd_wf hs)))
           (ite_wf
              (ite_wf (finish_wf (deniedAdd_wf (nonceSpent_wf hs))) (finish_wf (auditAdd_wf (nonceSpent_wf hs))))
              (have h := ticketAct_wf (nonceSpent_wf hs)
               ite_wf (finish_wf (deniedAdd_wf h)) (finish_wf (auditAdd_wf h)))))

theorem execCodeKeyLoad_wf {ring : Fin 1024} {slot : Nat} : NextWf (execCodeKeyLoad ring slot s) :=
  onCmd_wf hs fun _ => ite_wf (badField_wf hs) (ite_wf (finish_wf (update_wf hs)) (finish_wf hs))

theorem execAuditRead_wf {ring : Fin 1024} {slot : Nat} : NextWf (execAuditRead ring slot s) :=
  onCmd_wf
    hs
    fun _ =>
      ite_wf
        (finish_wf hs)
        (ite_wf (finish_wf hs) (ite_wf (finish_wf hs) (finish_wf (output_wf (foldl_wf hs fun _ _ h => memPost_wf h)))))

theorem execAuditRelease_wf {ring : Fin 1024} {slot : Nat} : NextWf (execAuditRelease ring slot s) :=
  onCmd_wf
    hs
    fun _ =>
      ite_wf
        (finish_wf (auditCmd_wf hs))
        (have h := update_wf hs
         finish_wf (auditCmd_wf (ite_wf (update_wf h) h)))

theorem execAuditSeal_wf {ring : Fin 1024} {slot : Nat} : NextWf (execAuditSeal ring slot s) :=
  onCmd_wf hs fun _ => finish_wf (outputSigned_wf hs)

theorem execAuditRecordWrite_wf : NextWf (execAuditRecordWrite s) := by
  unfold execAuditRecordWrite
  split
  · exact ite_next (next_of_wf (setUnit_wf _ _ _ (memPost_wf (update_wf hs)))) (next_of_wf hs)
  · exact next_of_wf hs

theorem execDeniedRecord_wf {ring : Fin 1024} : NextWf (execDeniedRecord ring s) := by
  unfold execDeniedRecord
  split
  · exact next_of_wf hs
  · exact next_of_wf (auditAdd_wf (update_wf (reach_wf hs)))

theorem reverifyFail_wf {c p : Nat} : Memory.wf (reverifyFail s c p) = true := soloEnter_wf (update_wf (hmkEvent_wf (auditAdd_wf hs)))

theorem reverifyOwn_wf : Memory.wf (reverifyOwn s) = true := ite_wf hs (reverifyFail_wf (free_wf hs))

theorem execReverifyPass_wf : NextWf (execReverifyPass s) :=
  ite_next
    (next_of_wf hs)
    (have h1 := reverifyOwn_wf (foldl_wf (update_wf (reach_wf hs)) fun _ _ h2 => reverifyFail_wf h2)
     next_of_wf (ite_wf h1 (update_wf h1)))

/-! Machine/Health -/

theorem clusterStop_wf {c : Nat} : Memory.wf (clusterStop s c) = true :=
  foldl_wf hs fun _ _ h => by split; exacts [leave_wf (placeFree_wf h), h]

theorem pipeStop_wf {p : Nat} : Memory.wf (pipeStop s p) = true := foldl_wf (setTcm_wf hs) fun _ _ h => tcmFinish_wf (tcmLand_wf h)

theorem domStop_wf {d : Nat} : Memory.wf (domStop s d) = true :=
  have h := spareAbandon_wf hs
  ite_wf (pipeStop_wf h) (ite_wf (clusterStop_wf h) (ite_wf (modSlice_wf h) h))

theorem cacheLose_wf : Memory.wf (cacheLose s) = true := update_wf (foldl_wf hs fun _ _ h => cipEvict_wf h)

theorem domLose_wf {d : Nat} : Memory.wf (domLose s d) = true :=
  ite_wf
    (update_wf (setTcm_wf (setFwd_wf (setPipe_wf hs))))
    (ite_wf (setCluster_wf hs) (ite_wf (setSlice_wf hs) (ite_wf (cacheLose_wf hs) hs)))

theorem domLine_wf {d : Nat} : Memory.wf (domLine s d) = true := forAll_wf hs fun _ _ h => portStart_wf h

theorem domArrive_wf {d : Nat} {p : Pwr} : Memory.wf (domArrive s d p) = true :=
  have h := update_wf (ite_wf (domLose_wf hs) hs)
  ite_wf (domLine_wf h) (ite_wf (retrainFresh_wf h) h)

theorem domStart_wf {t : Pwr} {ring slot d : Nat} : Memory.wf (domStart s t ring slot d) = true :=
  have h := update_wf hs
  ite_wf (domStop_wf (update_wf h)) h

theorem powerEnd_wf {ring slot status detail : Nat} : Memory.wf (powerEnd s ring slot status detail) = true := intRaise_wf (finish_wf hs)

theorem execPowerTransitionDone_wf {domain : Fin 64} : NextWf (execPowerTransitionDone domain s) := by
  unfold execPowerTransitionDone
  split
  · exact next_of_wf hs
  · exact ite_next
      (next_of_wf hs)
      (have h := domArrive_wf hs
       next_of_wf (ite_wf h (powerEnd_wf h)))

theorem shutDown_wf : Memory.wf (shutDown s) = true :=
  have ⟨hr, _, hh, _⟩ := (Memory.wf_iff s).mp hs
  (Memory.wf_iff _).mpr ⟨hr, canon_nil _, hh, canon_nil _⟩

theorem sparesAbandon_wf : Memory.wf (sparesAbandon s) = true := forAll_wf hs fun _ _ h => spareAbandon_wf h

theorem execPowerSet_wf {ring : Fin 1024} {slot : Nat} : NextWf (execPowerSet ring slot s) :=
  onCmd_wf
    hs
    fun _ =>
      ite_wf
        (ite_wf
           (intRaise_wf (badField_wf hs))
           (have h1 := sparesAbandon_wf hs
            ite_wf (shutDown_wf (intRaise_wf (completeCmd_wf (finish_wf h1)))) h1))
        (ite_wf
           (intRaise_wf (badField_wf hs))
           (ite_wf hs (ite_wf (powerEnd_wf hs) (ite_wf (powerEnd_wf hs) (forAll_wf (modCmd_wf hs) fun _ _ h2 => domStart_wf h2)))))

theorem stackHot_wf {h : Nat} : Memory.wf (stackHot s h) = true :=
  have h1 := setStack_wf hs
  have h2 := ite_wf (forAll_wf h1 fun _ _ h3 => retrainStart_wf h3) h1
  ite_wf (intRaise_wf h2) h2

theorem thermWarn_wf {die : Int} : Memory.wf (thermWarn s die) = true :=
  have h1 := update_wf hs
  have h2 := ite_wf (intRaise_wf h1) h1
  ite_wf (hltEvent_wf h2) h2

theorem thermTrip_wf {die : Int} : Memory.wf (thermTrip s die) = true :=
  have h1 := update_wf hs
  ite_wf
    (have h2 := intRaise_wf (update_wf h1)
     ite_wf h2 (soloEnter_wf h2)) (ite_wf (update_wf h1) h1)

theorem thermCrit_wf {die : Int} : Memory.wf (thermCrit s die) = true :=
  ite_wf
    (have h := update_wf hs
     ite_wf h (intRaise_wf h)) hs

theorem execTempSample_wf {dieC hbmC : List Int} : NextWf (execTempSample dieC hbmC s) :=
  ite_next
    (next_of_wf hs)
    (have h1 := update_wf (reach_wf hs)
     ite_next
       (next_of_wf h1)
       (next_of_wf (thermCrit_wf (thermTrip_wf (thermWarn_wf (ite_wf h1 (forAll_wf h1 fun _ _ h2 => stackHot_wf h2)))))))

theorem execHealthRecordRead_wf {ring : Fin 1024} {slot : Nat} : NextWf (execHealthRecordRead ring slot s) :=
  onCmd_wf hs fun _ => finish_wf (output_wf hs)

theorem blockQuarantine_wf {b : Nat} : Memory.wf (blockQuarantine s b) = true := swcEvent_wf (update_wf hs)

theorem groupRetire_wf {g m : Nat} : Memory.wf (groupRetire s g m) = true := by
  unfold groupRetire
  split
  · exact ite_wf hs (update_wf hs)
  · exact setSpare_wf (update_wf hs)

theorem groupLoad_wf {g v : Nat} : Memory.wf (groupLoad s g v) = true := ite_wf hs (ite_wf (update_wf hs) (groupRetire_wf hs))

theorem execHealthRecordLoad_wf {ring : Fin 1024} {slot : Nat} : NextWf (execHealthRecordLoad ring slot s) :=
  onCmd_wf
    hs
    fun _ =>
      ite_wf
        (finish_wf hs)
        (ite_wf
           (badField_wf hs)
           (ite_wf
              (finish_wf hs)
              (finish_wf (update_wf (forAll_wf (forAll_wf hs fun _ _ h1 => groupLoad_wf h1) fun _ _ h2 => blockQuarantine_wf h2)))))

theorem endCmd_wf {ring slot : Nat} {c : CmdEnt} {st detail result : Nat} : Memory.wf (endCmd s ring slot c st detail result) = true :=
  ite_wf (auditFinish_wf hs) (finish_wf hs)

theorem bistLeave_wf {d : Nat} : Memory.wf (bistLeave s d) = true :=
  have h1 := ite_wf (update_wf hs) hs
  have h2 := ite_wf h1 (domLose_wf h1)
  have h3 := ite_wf (update_wf h2) h2
  ite_wf (update_wf h3) h3

theorem bistMacro_wf {g m : Nat} : Memory.wf (bistMacro s g m) = true :=
  ite_wf hs (ite_wf (update_wf hs) (intRaise_wf (spareEvent_wf (groupRetire_wf hs))))

theorem execBistRun_wf {ring : Fin 1024} {slot : Nat} {domainFails : BitVec 64} {macroFails : List (Nat × Nat)} :
    NextWf (execBistRun ring slot domainFails macroFails s) :=
  onCmd_wf
    hs
    fun _ =>
      ite_wf
        (endCmd_wf hs)
        (endCmd_wf (output_wf (forAll_wf (foldl_wf hs fun _ _ h1 => bistMacro_wf h1) fun _ _ h2 => bistLeave_wf h2)))

theorem execSolitaireEnter_wf {cause : Fin 4} {ring : Fin 1024} {slot : Nat} : NextWf (execSolitaireEnter cause ring slot s) :=
  ite_next (onCmd_wf hs fun _ => finish_wf (update_wf (soloEnter_wf hs))) (next_of_wf (ite_wf (soloEnter_wf hs) hs))

theorem soloExit_wf {ring slot : Nat} {c : CmdEnt} : Memory.wf (soloExit s ring slot c) = true :=
  have h1 := update_wf hs
  intRaise_wf (hltEvent_wf (endCmd_wf (soloRecord_wf (cipSoloExit_wf (ite_wf (forAll_wf h1 fun _ _ h2 => sliceStart_wf h2) h1)))))

theorem execSolitaireExit_wf {ring : Fin 1024} {slot : Nat} : NextWf (execSolitaireExit ring slot s) := by
  unfold execSolitaireExit
  split
  · exact ite_next
      (next_of_wf (ite_wf (soloExit_wf hs) (endCmd_wf hs)))
      (onCmd_wf hs fun _ => ite_wf (endCmd_wf hs) (ite_wf (endCmd_wf hs) (update_wf (modCmd_wf hs))))
  · exact next_of_wf hs

theorem keelPut_wf {i : Nat} {e : BitVec 256} : Memory.wf (keelPut s i e) = true := update_wf hs

theorem execKeelWrite_wf {ring : Fin 1024} {slot : Nat} : NextWf (execKeelWrite ring slot s) :=
  onCmd_wf
    hs
    fun _ =>
      ite_wf
        (endCmd_wf hs)
        (endCmd_wf (foldl_wf_fst (mk_wf_fst hs) fun _ _ h => ite_wf_fst (mk_wf_fst h) (mk_wf_fst (keelPut_wf h))))

theorem execKeelRead_wf {ring : Fin 1024} {slot : Nat} : NextWf (execKeelRead ring slot s) :=
  onCmd_wf hs fun _ => finish_wf (output_wf hs)

/-! Machine/Memory -/

theorem cfgSettle_wf {h c : Nat} : Memory.wf (cfgSettle s h c) = true := ite_wf (setStack_wf (free_wf hs)) hs

theorem reqCfgWrite_wf {h r : Nat} {v : W32} : Memory.wf (reqCfgWrite s h r v) = true :=
  ite_wf (badWrite_wf hs) (setReg_wf _ _ _ (setStack_wf hs))

theorem execMemReqCfgWrite_wf {stack : Fin 4} {requester : Fin 32} {value : W64} : NextWf (execMemReqCfgWrite stack requester value s) :=
  onBar_wf hs (ite_wf (reqCfgWrite_wf hs) (badWrite_wf hs))

theorem execMemSlotTableWrite_wf {ring : Fin 1024} {slot : Nat} : NextWf (execMemSlotTableWrite ring slot s) :=
  onCmd_wf hs fun _ => ite_wf (badField_wf hs) (ite_wf (badField_wf hs) (ite_wf hs (forAll_wf (modCmd_wf hs) fun _ _ h => setStack_wf h)))

theorem execSlotTableSwitch_wf {stack : Fin 4} : NextWf (execSlotTableSwitch stack s) := by
  unfold execSlotTableSwitch
  extract_lets
  split
  · exact next_of_wf hs
  · exact
      have h := setStack_wf (reach_wf hs)
      next_of_wf (ite_wf h (finish_wf h))

theorem decide'_wf {h c : Nat} {train : Bool} : Memory.wf (decide' s h c train) = true := by
  unfold decide'
  refine ite_wf ?_ ?_
  · split
    · exact cfgSettle_wf (setChan_wf (peak_wf (ite_wf (bump_wf hs) hs)))
    · exact hs
  · split
    · exact cfgSettle_wf (setChan_wf (peak_wf hs))
    · exact hs

theorem admitOne_wf {h c r : Nat} : Memory.wf (admitOne s h c r) = true := by
  unfold admitOne
  extract_lets
  split
  · exact setChan_wf hs
  · exact setChan_wf hs

theorem slotRun_wf {h c : Nat} {train : Bool} {fuel used : Nat} : Memory.wf (slotRun s h c train fuel used) = true := by
  induction fuel generalizing s used with
  | zero => exact hs
  | succ fuel ih =>
    unfold slotRun
    extract_lets s1 x
    have h1 : Memory.wf s1 = true := ite_wf (decide'_wf hs) hs
    split
    · exact h1
    · exact h1
    · exact ite_wf (ih (setChan_wf h1)) (ite_wf (setChan_wf h1) (ite_wf h1 (ih (admitOne_wf h1))))

theorem neighbourNow_wf {h c b : Nat} : Memory.wf (neighbourNow s h c b) = true := by
  unfold neighbourNow
  extract_lets
  split
  · exact hs
  · exact bump_wf (setChan_wf hs)

theorem refreshNow_wf {h c b : Nat} : Memory.wf (refreshNow s h c b) = true := setChan_wf (neighbourNow_wf hs)

theorem activate_wf {h c row b : Nat} : Memory.wf (activate s h c row b) = true :=
  have h := setChan_wf (free_wf hs)
  ite_wf (bump_wf h) h

theorem issueOne_wf {h c : Nat} : Memory.wf (issueOne s h c) = true := by
  unfold issueOne
  extract_lets
  split
  · exact hs
  · exact
      have h1 := setChan_wf hs
      foldl_wf
        (ite_wf h1 (foldl_wf h1 fun _ _ h2 => activate_wf h2))
        fun _ _ h3 => ite_wf h3 (ite_wf (refreshNow_wf h3) (neighbourNow_wf h3))

theorem issueRun_wf {h c fuel used : Nat} : Memory.wf (issueRun s h c fuel used) = true := by
  induction fuel generalizing s used with
  | zero => exact hs
  | succ fuel ih =>
    unfold issueRun
    split
    · exact hs
    · exact ite_wf hs (ih (issueOne_wf hs))

theorem execArbiterSlot_wf {stack : Fin 4} {channel : Fin 32} : NextWf (execArbiterSlot stack channel s) :=
  ite_next
    (next_of_wf hs)
    (have h := setChan_wf (reach_wf hs)
     next_of_wf (issueRun_wf (slotRun_wf (ite_wf (bump_wf h) h))))

theorem execBurstLimitExpire_wf {stack : Fin 4} {channel : Fin 32} : NextWf (execBurstLimitExpire stack channel s) :=
  next_of_wf (ite_wf (setChan_wf hs) hs)

theorem execRefreshDue_wf {stack : Fin 4} {channel : Fin 32} {bank : Nat} : NextWf (execRefreshDue stack channel bank s) :=
  ite_next
    (next_of_wf hs)
    (ite_next
       (next_of_wf (setChan_wf hs))
       (ite_next
          (have h1 := peak_wf (setChan_wf hs)
           have h2 := ite_wf h1 (neighbourNow_wf h1)
           next_of_wf (ite_wf (refreshNow_wf (bump_wf h2)) h2)) (next_of_wf (refreshNow_wf hs))))

theorem execRankPowerDown_wf {stack : Fin 4} {channel : Fin 32} {sid : Fin 2} : NextWf (execRankPowerDown stack channel sid s) :=
  next_of_wf (ite_wf (setChan_wf (reach_wf hs)) hs)

theorem execRetrainDue_wf {stack : Fin 4} {channel : Fin 32} : NextWf (execRetrainDue stack channel s) :=
  next_of_wf (ite_wf (retrainStart_wf (reach_wf hs)) hs)

theorem execRetrainStep_wf {stack : Fin 4} {channel : Fin 32} {found : Option W32} : NextWf (execRetrainStep stack channel found s) := by
  unfold execRetrainStep
  extract_lets
  split
  · exact ite_next (next_of_wf (foldl_wf (setChan_wf hs) fun _ _ h => refreshNow_wf h)) (next_of_wf hs)
  · exact next_of_wf hs

theorem execRetrainDone_wf {stack : Fin 4} {channel : Fin 32} : NextWf (execRetrainDone stack channel s) :=
  ite_next
    (next_of_wf hs)
    (ite_next
       (have h := intRaise_wf (bump_wf (setChan_wf hs))
        next_of_wf (ite_wf (stackLost_wf h) h)) (next_of_wf (setChan_wf hs)))

theorem errorCount_wf {h : Nat} : Memory.wf (errorCount s h) = true :=
  have h := setStack_wf hs
  ite_wf (stackLost_wf h) h

theorem execMemUncorrectable_wf {stack : Fin 4} {error : MemError} : NextWf (execMemUncorrectable stack error s) := by
  unfold execMemUncorrectable
  extract_lets
  split
  · exact fault_next
  · exact ite_next
      (next_of_wf hs)
      (ite_next (next_of_wf (errorCount_wf hs)) (next_of_wf (errorCount_wf (memEvent_wf (bump_wf (readFails_wf hs))))))

theorem execStackCatastrophicTemp_wf {stack : Fin 4} : NextWf (execStackCatastrophicTemp stack s) :=
  next_of_wf (ite_wf hs (stackLost_wf hs))

theorem execHbmTrained_wf {stack : Fin 4} : NextWf (execHbmTrained stack s) := next_of_wf (ite_wf hs (setStack_wf hs))

/-! Machine/Perf -/

theorem perfSelWrite_wf {i : Nat} {v : W32} : Memory.wf (perfSelWrite s i v) = true :=
  ite_wf
    (badWrite_wf hs)
    (have h := setReg_wf _ _ _ hs
     ite_wf (update_wf h) (update_wf h))

theorem execPerfSelWrite_wf {counter : Fin 512} {value : W32} : NextWf (execPerfSelWrite counter value s) :=
  onBar_wf hs (perfSelWrite_wf hs)

theorem execPerfOverflow_wf {counter : Fin 512} : NextWf (execPerfOverflow counter s) := by
  unfold execPerfOverflow
  split
  · exact ite_next (next_of_wf hs) (next_of_wf (hifEvent_wf (update_wf hs)))
  · exact next_of_wf hs

theorem snapWrite_wf {n : Nat} : Memory.wf (snapWrite s n) = true := update_wf (hostWrite_wf _ _ _ (hostWrite_wf _ _ _ hs))

theorem execPerfSnapshot_wf : NextWf (execPerfSnapshot s) :=
  ite_next
    (next_of_wf hs)
    (have h := update_wf (free_wf (reach_wf hs))
     next_of_wf (ite_wf h (snapWrite_wf h)))

theorem perfTick_wf : Memory.wf (perfTick s) = true := update_wf hs

/-! Machine/Clock -/

theorem wiresEnd_wf : Memory.wf (wiresEnd s) = true := foldl_wf hs fun _ _ h => ite_wf (wireFinish_wf h) h

theorem clockTick_wf : Memory.wf (clockTick s) = true := perfTick_wf (wiresEnd_wf (update_wf (advance_wf hs)))

/-! Machine/Package -/

theorem deviceReset_wf {cause : Nat} : Memory.wf (deviceReset s cause) = true :=
  have ⟨_, _, hh, _⟩ := (Memory.wf_iff s).mp hs
  (Memory.wf_iff _).mpr ⟨canon_nil _, canon_nil _, hh, canon_nil _⟩

theorem resetEnd_wf : Memory.wf (resetEnd s) = true := update_wf hs

theorem glbReset_wf {v : W32} : Memory.wf (glbReset s v) = true := ite_wf (ite_wf hs (resetEnd_wf (deviceReset_wf hs))) (badWrite_wf hs)

theorem execGlbReset_wf {value : W32} : NextWf (execGlbReset value s) := onBar_wf hs (glbReset_wf hs)

theorem setupSeal_wf {v : W32} : Memory.wf (setupSeal s v) = true := ite_wf (update_wf hs) (badWrite_wf hs)

theorem execSetupSeal_wf {value : W32} : NextWf (execSetupSeal value s) := onBar_wf hs (setupSeal_wf hs)

theorem execPwrGoodAssert_wf {input : Fin 5} : NextWf (execPwrGoodAssert input s) := next_of_wf (update_wf hs)

theorem execPwrGoodDrop_wf {input : Fin 5} : NextWf (execPwrGoodDrop input s) :=
  ite_next (next_of_wf hs) (next_of_wf (deviceReset_wf (update_wf hs)))

theorem execPerstNAssert_wf : NextWf (execPerstNAssert s) :=
  ite_next
    (next_of_wf hs)
    (have h := update_wf hs
     next_of_wf (ite_wf h (deviceReset_wf h)))

theorem smbSample_wf : Memory.wf (smbSample s) = true := ite_wf (update_wf hs) hs

theorem execPerstNRelease_wf : NextWf (execPerstNRelease s) :=
  ite_next
    (next_of_wf hs)
    (have h := update_wf hs
     next_of_wf (ite_wf (resetEnd_wf (smbSample_wf h)) h))

theorem execRailSample_wf {millivolts : List Nat} : NextWf (execRailSample millivolts s) := next_of_wf (update_wf (reach_wf hs))

theorem execSmbusBlockRead_wf {xfer : SmbusXfer} : NextWf (execSmbusBlockRead xfer s) := by
  unfold execSmbusBlockRead
  refine ite_next ?_ ?_
  · exact next_of_wf hs
  · split
    · exact next_of_wf (emit_wf hs)
    · exact next_of_wf (emit_wf hs)

theorem execAlertResponse_wf : NextWf (execAlertResponse s) := ite_next (next_of_wf (emit_wf (free_wf hs))) (next_of_wf hs)

theorem execJtagInstruction_wf {instr : JtagInstr} : NextWf (execJtagInstruction instr s) := next_of_wf (emit_wf hs)

/-! Machine/Registers -/

theorem storeIf_wf {a : Nat} {bad : Bool} {v : W32} : Memory.wf (storeIf s a bad v) = true := ite_wf (badWrite_wf hs) (setReg_wf _ _ _ hs)

theorem intClear_wf {g : Nat} {v : W32} : Memory.wf (intClear s g v) = true :=
  have h := setReg_wf _ _ _ hs
  ite_wf (intMsg_wf h) h

theorem msixUnmask_wf {fn e : Nat} : Memory.wf (msixUnmask s fn e) = true := ite_wf (emit_wf (update_wf hs)) hs

theorem msixWrite_wf {k : Nat} {v : W32} : Memory.wf (msixWrite s k v) = true := msixUnmask_wf (setReg_wf _ _ _ hs)

theorem vfMsixWrite_wf {fn off : Nat} {v : W32} : Memory.wf (vfMsixWrite s fn off v) = true := msixUnmask_wf (update_wf hs)

theorem hashCtrlWrite_wf {v : W32} : Memory.wf (hashCtrlWrite s v) = true := storeIf_wf hs

theorem hashKeyWrite_wf {k : Nat} {v : W32} : Memory.wf (hashKeyWrite s k v) = true := ite_wf (badWrite_wf hs) (update_wf hs)

theorem nodeWrite_wf {p i : Nat} {v : W32} : Memory.wf (nodeWrite s p i v) = true := storeIf_wf hs

theorem transWrite_wf {p i : Nat} {v : W32} : Memory.wf (transWrite s p i v) = true := setReg_wf _ _ _ hs

theorem pathWrite_wf {p i : Nat} {v : W32} : Memory.wf (pathWrite s p i v) = true := storeIf_wf hs

theorem exactProfileWrite_wf {p i : Nat} {v : W32} : Memory.wf (exactProfileWrite s p i v) = true := storeIf_wf hs

theorem tcmProfileWrite_wf {p i : Nat} {v : W32} : Memory.wf (tcmProfileWrite s p i v) = true := storeIf_wf hs

theorem spillThreshWrite_wf {v : W32} : Memory.wf (spillThreshWrite s v) = true := storeIf_wf hs

theorem poolCfgWrite_wf {n : Nat} {v : W32} : Memory.wf (poolCfgWrite s n v) = true := storeIf_wf hs

theorem pfcThreshWrite_wf {n : Nat} {v : W32} : Memory.wf (pfcThreshWrite s n v) = true := storeIf_wf hs

theorem gateStatusWrite_wf {n : Nat} {v : W32} : Memory.wf (gateStatusWrite s n v) = true := setGates_wf hs

theorem refusedWrite_wf {v : W32} : Memory.wf (refusedWrite s v) = true := update_wf hs

theorem servoCfgWrite_wf {v : W32} : Memory.wf (servoCfgWrite s v) = true := storeIf_wf hs

theorem ppsCtrlWrite_wf {v : W32} : Memory.wf (ppsCtrlWrite s v) = true := ite_wf (badWrite_wf hs) (ppsAim_wf (setReg_wf _ _ _ hs))

theorem ppsOffsetWrite_wf {v : W32} : Memory.wf (ppsOffsetWrite s v) = true := ite_wf (badWrite_wf hs) (ppsAim_wf (setReg_wf _ _ _ hs))

theorem txtsStatusWrite_wf {n : Nat} {v : W32} : Memory.wf (txtsStatusWrite s n v) = true := ite_wf (update_wf hs) hs

theorem perfCtrlWrite_wf {v : W32} : Memory.wf (perfCtrlWrite s v) = true :=
  ite_wf
    (badWrite_wf hs)
    (have h := setReg_wf _ _ _ hs
     ite_wf (update_wf h) h)

theorem ringCtrlWrite_wf {r : Nat} {v : W32} : Memory.wf (ringCtrlWrite s r v) = true := ite_wf (ringEnable_wf hs) (ringDisable_wf hs)

theorem intRouteWrite_wf {g : Nat} {v : W32} : Memory.wf (intRouteWrite s g v) = true := storeIf_wf hs

theorem resetCauseWrite_wf {v : W32} : Memory.wf (resetCauseWrite s v) = true := update_wf hs

theorem writersA_wf : ∀ w ∈ writersA, ∀ p i v, Memory.wf (w.2 s p i v) = true := by
  simp only [writersA, List.forall_mem_cons]
  exact ⟨fun _ _ _ => flwCtrlWrite_wf hs, fun _ _ _ => hashCtrlWrite_wf hs, fun _ _ _ => hashKeyWrite_wf hs,
    fun _ _ _ => hashKeyWrite_wf hs, fun _ _ _ => hashKeyWrite_wf hs, fun _ _ _ => hashKeyWrite_wf hs,
    fun _ _ _ => flgModeWrite_wf hs, fun _ _ _ => ageCtrlWrite_wf hs, fun _ _ _ => natCfgWrite_wf hs, fun _ _ _ => nodeWrite_wf hs,
    fun _ _ _ => transWrite_wf hs, fun _ _ _ => pathWrite_wf hs, fun _ _ _ => exactProfileWrite_wf hs,
    fun _ _ _ => bankCfgWrite_wf hs, fun _ _ _ => tcmProfileWrite_wf hs, fun _ _ _ => bufCtrlWrite_wf hs,
    fun _ _ _ => spillThreshWrite_wf hs, fun _ _ _ => poolCfgWrite_wf hs, fun _ _ _ => pfcThreshWrite_wf hs,
    fun _ _ _ => stormClear_wf hs, fun _ _ _ => sampleCtrlWrite_wf hs, fun _ _ _ => gateStatusWrite_wf hs, nofun⟩

theorem writersB_wf : ∀ w ∈ writersB, ∀ p i v, Memory.wf (w.2 s p i v) = true := by
  simp only [writersB, List.forall_mem_cons]
  exact ⟨fun _ _ _ => reqCfgWrite_wf hs, fun _ _ _ => clkCtrlWrite_wf hs, fun _ _ _ => refusedWrite_wf hs,
    fun _ _ _ => servoCfgWrite_wf hs, fun _ _ _ => ppsCtrlWrite_wf hs, fun _ _ _ => ppsOffsetWrite_wf hs,
    fun _ _ _ => txtsStatusWrite_wf hs, fun _ _ _ => perfCtrlWrite_wf hs, fun _ _ _ => perfSelWrite_wf hs,
    fun _ _ _ => ringCtrlWrite_wf hs, fun _ _ _ => msixWrite_wf hs, fun _ _ _ => spareCtrlWrite_wf hs,
    fun _ _ _ => intClear_wf hs, fun _ _ _ => intStore_wf hs, fun _ _ _ => intRouteWrite_wf hs,
    fun _ _ _ => resetCauseWrite_wf hs, fun _ _ _ => glbReset_wf hs, fun _ _ _ => setupSeal_wf hs, nofun⟩

theorem regWrite_wf {a : Nat} {v : W32} : Memory.wf (regWrite s a v) = true := by
  unfold regWrite
  split
  · exact badWrite_wf hs
  · refine ite_wf (sealedWrite_wf hs) (ite_wf (badWrite_wf hs) (ite_wf hs ?_))
    split
    · rename_i w hw
      rcases List.mem_append.mp (List.mem_of_find?_eq_some hw) with h | h
      · exact writersA_wf hs w h _ _ _
      · exact writersB_wf hs w h _ _ _
    · exact storeIf_wf hs

theorem latchPut_wf {m : FMap W32} (hm : FMap.canon m (fun _ => 0) = true) : Memory.wf { s with latch := m } = true := by
  obtain ⟨hr, -, hh, hb⟩ := (Memory.wf_iff s).mp hs
  exact (Memory.wf_iff _).mpr ⟨hr, hm, hh, hb⟩

theorem regRead_wf {a : Nat} : Memory.wf (regRead s a).2 = true := by
  unfold regRead
  split
  · exact hs
  · refine ite_wf_snd hs ?_
    extract_lets ws s1
    have h1 : Memory.wf s1 = true :=
      latchPut_wf hs (ws.foldlRecOn (motive := fun m => FMap.canon m (fun _ => 0) = true) _ (Memory.wf_latch hs)
        fun _ hm _ _ => canon_fput_const _ _ hm)
    exact ite_wf (setReg_wf _ _ _ h1) h1

theorem bar2Write_wf {fn a : Nat} {v : W32} : Memory.wf (bar2Write s fn a v) = true :=
  ite_wf (ite_wf (vfMsixWrite_wf hs) hs) (ite_wf (doorbell_wf hs) hs)

theorem wordWrite_wf {sp : Space} {a : Nat} {v : W32} : Memory.wf (wordWrite s sp a v) = true := by
  unfold wordWrite
  split
  · exact ite_wf hs (regWrite_wf hs)
  · exact bar2Write_wf hs

theorem wordRead_wf {sp : Space} {a : Nat} : Memory.wf (wordRead s sp a).2 = true := by
  unfold wordRead
  split
  · exact ite_wf_snd (free_wf hs) (regRead_wf hs)
  · exact hs

theorem barWrite_wf {sp : Space} {a size : Nat} {v : W64} : Memory.wf (barWrite s sp a size v) = true :=
  ite_wf
    (emit_wf hs)
    (have h := wordWrite_wf hs
     ite_wf h (wordWrite_wf h))

theorem barRead_wf {sp : Space} {a size : Nat} : Memory.wf (barRead s sp a size) = true :=
  ite_wf
    hs
    (ite_wf
       (emit_wf hs)
       (have h := wordRead_wf hs
        ite_wf (update_wf h) (update_wf (wordRead_wf h))))

theorem execRegisterWrite_wf {space : Space} {addr size : Nat} {value : W64} : NextWf (execRegisterWrite space addr size value s) :=
  onBar2_wf hs (barWrite_wf hs)

theorem execLatchedRead_wf {space : Space} {addr size : Nat} : NextWf (execLatchedRead space addr size s) := next_of_wf (barRead_wf hs)

theorem execRcRead_wf {addr size : Nat} : NextWf (execRcRead addr size s) := next_of_wf (barRead_wf hs)

theorem execIntStatusClear_wf {group : Fin 16} {value : W32} : NextWf (execIntStatusClear group value s) := onBar_wf hs (intClear_wf hs)

/-! Dispatch -/

/-- A command keeps the canonical form of the memories. -/
theorem exec_next : ∀ i, NextWf (exec i s)
  | .flowLookup .. => execFlowLookup_wf hs
  | .flowRead .. => execFlowRead_wf hs
  | .flowInstall .. => execFlowInstall_wf hs
  | .flowModify .. => execFlowModify_wf hs
  | .flowDelete .. => execFlowDelete_wf hs
  | .flowTemplateWrite .. => execFlowTemplateWrite_wf hs
  | .filigreeLoad .. => execFiligreeLoad_wf hs
  | .filigreeSwitch .. => execFiligreeSwitch_wf hs
  | .exportProfileWrite .. => execExportProfileWrite_wf hs
  | .indirectionWrite .. => execIndirectionWrite_wf hs
  | .indirectionRead .. => execIndirectionRead_wf hs
  | .tableWrite .. => execTableWrite_wf hs
  | .tableRead .. => execTableRead_wf hs
  | .tcamWrite .. => execTcamWrite_wf hs
  | .tcamRead .. => execTcamRead_wf hs
  | .tcamCounterRead .. => execTcamCounterRead_wf hs
  | .graphTemplateWrite .. => execGraphTemplateWrite_wf hs
  | .graphTemplateRead .. => execGraphTemplateRead_wf hs
  | .mcsPatchLoad .. => execMcsPatchLoad_wf hs
  | .mcsPatchSwitch .. => execMcsPatchSwitch_wf hs
  | .mcastGroupWrite .. => execMcastGroupWrite_wf hs
  | .mcastGroupRead .. => execMcastGroupRead_wf hs
  | .rewriteTemplateWrite .. => execRewriteTemplateWrite_wf hs
  | .portFlush .. => execPortFlush_wf hs
  | .blockRelease .. => execBlockRelease_wf hs
  | .tmNodeWrite .. => execTmNodeWrite_wf hs
  | .tmNodeRead .. => execTmNodeRead_wf hs
  | .policerProfileWrite .. => execPolicerProfileWrite_wf hs
  | .gateListWrite .. => execGateListWrite_wf hs
  | .gateListArm .. => execGateListArm_wf hs
  | .gateListRead .. => execGateListRead_wf hs
  | .keyWrite .. => execKeyWrite_wf hs
  | .keyErase .. => execKeyErase_wf hs
  | .keyEraseComplete .. => execKeyEraseComplete_wf hs
  | .keyStateRead .. => execKeyStateRead_wf hs
  | .keyPin .. => execKeyPin_wf hs
  | .memSlotTableWrite .. => execMemSlotTableWrite_wf hs
  | .portModeWrite .. => execPortModeWrite_wf hs
  | .portAdmin .. => execPortAdmin_wf hs
  | .laneEyeRead .. => execLaneEyeRead_wf hs
  | .timeOffset .. => execTimeOffset_wf hs
  | .timeStep .. => execTimeStep_wf hs
  | .timeFreq .. => execTimeFreq_wf hs
  | .bootImageLoad .. => execBootImageLoad_wf hs
  | .identCertRead .. => execIdentCertRead_wf hs
  | .attest .. => execAttest_wf hs
  | .roleChallenge .. => execRoleChallenge_wf hs
  | .roleAuth .. => execRoleAuth_wf hs
  | .roleClose .. => execRoleClose_wf hs
  | .ticketExec .. => execTicketExec_wf hs
  | .codeKeyLoad .. => execCodeKeyLoad_wf hs
  | .auditRead .. => execAuditRead_wf hs
  | .auditRelease .. => execAuditRelease_wf hs
  | .auditSeal .. => execAuditSeal_wf hs
  | .inject .. => execInject_wf hs
  | .powerSet .. => execPowerSet_wf hs
  | .powerTransitionDone .. => execPowerTransitionDone_wf hs
  | .solitaireEnter .. => execSolitaireEnter_wf hs
  | .solitaireExit .. => execSolitaireExit_wf hs
  | .keelWrite .. => execKeelWrite_wf hs
  | .keelRead .. => execKeelRead_wf hs
  | .healthRecordRead .. => execHealthRecordRead_wf hs
  | .healthRecordLoad .. => execHealthRecordLoad_wf hs
  | .bistRun .. => execBistRun_wf hs
  | .registerWrite .. => execRegisterWrite_wf hs
  | .latchedRead .. => execLatchedRead_wf hs
  | .rcRead .. => execRcRead_wf hs
  | .setupSeal .. => execSetupSeal_wf hs
  | .glbReset .. => execGlbReset_wf hs
  | .flwEnable .. => execFlwEnable_wf hs
  | .flwInitStart => execFlwInitStart_wf hs
  | .sliceReady .. => execSliceReady_wf hs
  | .filigreeModeWrite .. => execFiligreeModeWrite_wf hs
  | .natPoolValid .. => execNatPoolValid_wf hs
  | .sweepEnable .. => execSweepEnable_wf hs
  | .bufEnable .. => execBufEnable_wf hs
  | .tcmBankCfgWrite .. => execTcmBankCfgWrite_wf hs
  | .memReqCfgWrite .. => execMemReqCfgWrite_wf hs
  | .clkSrcWrite .. => execClkSrcWrite_wf hs
  | .pllRelock => execPllRelock_wf hs
  | .spareEnableWrite .. => execSpareEnableWrite_wf hs
  | .perfSelWrite .. => execPerfSelWrite_wf hs
  | .stormClear .. => execStormClear_wf hs
  | .intStatusClear .. => execIntStatusClear_wf hs
  | .ringEnable .. => execRingEnable_wf hs
  | .ringDisable .. => execRingDisable_wf hs
  | .ringIdle .. => execRingIdle_wf hs
  | .doorbellUpdate .. => execDoorbellUpdate_wf hs
  | .doorbellArm .. => execDoorbellArm_wf hs
  | .descriptorFetch .. => execDescriptorFetch_wf hs
  | .fetchError .. => execFetchError_wf hs
  | .commandAccept .. => execCommandAccept_wf hs
  | .commandStage .. => execCommandStage_wf hs
  | .completionWrite .. => execCompletionWrite_wf hs
  | .puntWrite .. => execPuntWrite_wf hs
  | .exportMessageClose .. => execExportMessageClose_wf hs
  | .vectorTimeout .. => execVectorTimeout_wf hs
  | .perfSnapshot => execPerfSnapshot_wf hs
  | .perfOverflow .. => execPerfOverflow_wf hs
  | .functionLevelReset .. => execFunctionLevelReset_wf hs
  | .busMasterDisable .. => execBusMasterDisable_wf hs
  | .pcieHotReset => execPcieHotReset_wf hs
  | .pwrGoodAssert .. => execPwrGoodAssert_wf hs
  | .pwrGoodDrop .. => execPwrGoodDrop_wf hs
  | .perstNAssert => execPerstNAssert_wf hs
  | .perstNRelease => execPerstNRelease_wf hs
  | .bootRomDone .. => execBootRomDone_wf hs
  | .hbmTrained .. => execHbmTrained_wf hs
  | .locketReady => execLocketReady_wf hs
  | .rngHealthFail => execRngHealthFail_wf hs
  | .frameReceive .. => execFrameReceive_wf hs
  | .pfcXoffRepeat .. => execPfcXoffRepeat_wf hs
  | .pfcReceive .. => execPfcReceive_wf hs
  | .pfcPauseExpire .. => execPfcPauseExpire_wf hs
  | .pfcStorm .. => execPfcStorm_wf hs
  | .parseDecision .. => execParseDecision_wf hs
  | .learnHoldoffExpire .. => execLearnHoldoffExpire_wf hs
  | .frameTail .. => execFrameTail_wf hs
  | .engineQueueAccept .. => execEngineQueueAccept_wf hs
  | .packetStart .. => execPacketStart_wf hs
  | .opIssue .. => execOpIssue_wf hs
  | .sliceLookup .. => execSliceLookup_wf hs
  | .tagPairReadDone .. => execTagPairReadDone_wf hs
  | .recordReadDone .. => execRecordReadDone_wf hs
  | .setupQueueEnter .. => execSetupQueueEnter_wf hs
  | .setupDone .. => execSetupDone_wf hs
  | .writeBackDone .. => execWriteBackDone_wf hs
  | .sweepVisit .. => execSweepVisit_wf hs
  | .microwordIssue .. => execMicrowordIssue_wf hs
  | .update .. => execUpdate_wf hs
  | .packetAbort .. => execPacketAbort_wf hs
  | .packetResume .. => execPacketResume_wf hs
  | .tableLookupResult .. => execTableLookupResult_wf hs
  | .claspLock .. => execClaspLock_wf hs
  | .tcamCopyStep .. => execTcamCopyStep_wf hs
  | .tcamScrub .. => execTcamScrub_wf hs
  | .cipherAccept .. => execCipherAccept_wf hs
  | .keyFetchDone .. => execKeyFetchDone_wf hs
  | .cipherComplete .. => execCipherComplete_wf hs
  | .packetRelease .. => execPacketRelease_wf hs
  | .bufferAllocate .. => execBufferAllocate_wf hs
  | .bufferFree .. => execBufferFree_wf hs
  | .crossbarMatch => execCrossbarMatch_wf hs
  | .enqueue .. => execEnqueue_wf hs
  | .spillWrite .. => execSpillWrite_wf hs
  | .spillRefill .. => execSpillRefill_wf hs
  | .transmitStart .. => execTransmitStart_wf hs
  | .gateEntryChange .. => execGateEntryChange_wf hs
  | .gateListChange .. => execGateListChange_wf hs
  | .queueSamplePass => execQueueSamplePass_wf hs
  | .txtsEventWrite .. => execTxtsEventWrite_wf hs
  | .anComplete .. => execAnComplete_wf hs
  | .anFail .. => execAnFail_wf hs
  | .anBackoffExpire .. => execAnBackoffExpire_wf hs
  | .trainingComplete .. => execTrainingComplete_wf hs
  | .portAligned .. => execPortAligned_wf hs
  | .linkUp .. => execLinkUp_wf hs
  | .linkDown .. => execLinkDown_wf hs
  | .linkFault .. => execLinkFault_wf hs
  | .refclkLoss .. => execRefclkLoss_wf hs
  | .loupeDwell .. => execLoupeDwell_wf hs
  | .rxDelayPublish .. => execRxDelayPublish_wf hs
  | .arbiterSlot .. => execArbiterSlot_wf hs
  | .burstLimitExpire .. => execBurstLimitExpire_wf hs
  | .slotTableSwitch .. => execSlotTableSwitch_wf hs
  | .refreshDue .. => execRefreshDue_wf hs
  | .rankPowerDown .. => execRankPowerDown_wf hs
  | .memUncorrectable .. => execMemUncorrectable_wf hs
  | .retrainDue .. => execRetrainDue_wf hs
  | .retrainStep .. => execRetrainStep_wf hs
  | .retrainDone .. => execRetrainDone_wf hs
  | .spareMacroStart .. => execSpareMacroStart_wf hs
  | .spareSwap .. => execSpareSwap_wf hs
  | .spareMarchDone .. => execSpareMarchDone_wf hs
  | .spareSwapBack .. => execSpareSwapBack_wf hs
  | .tempSample .. => execTempSample_wf hs
  | .reverifyPass => execReverifyPass_wf hs
  | .sessionExpire .. => execSessionExpire_wf hs
  | .auditRecordWrite => execAuditRecordWrite_wf hs
  | .ppsOutEdge => execPpsOutEdge_wf hs
  | .ppsInEdge => execPpsInEdge_wf hs
  | .clkRefLost .. => execClkRefLost_wf hs
  | .railSample .. => execRailSample_wf hs
  | .smbusBlockRead .. => execSmbusBlockRead_wf hs
  | .jtagInstruction .. => execJtagInstruction_wf hs
  | .stackCatastrophicTemp .. => execStackCatastrophicTemp_wf hs
  | .refclkReturn .. => execRefclkReturn_wf hs
  | .rngHealthPass => execRngHealthPass_wf hs
  | .pcieLinkTrained .. => execPcieLinkTrained_wf hs
  | .clk10mInReturn => execClk10mInReturn_wf hs
  | .deniedRecord .. => execDeniedRecord_wf hs
  | .alertResponse => execAlertResponse_wf hs

end

end Sys2Proof.Machine

open Sys2Proof.Machine

/-- Settles O5: a step is the front command or a clock tick, and each keeps the canonical form (`exec_next`, `clockTick_wf`). -/
theorem stepKeepsMemoryCanonical : Obligations.StepKeepsMemoryCanonical := by
  intro s t hs ht
  unfold step at ht
  split at ht
  · cases ht
    exact clockTick_wf hs
  · exact exec_next (update_wf hs) _ t ht

end

/-! ## Accesses of BAR0, its registers and the interrupt groups: O4, O6 to O11 and O30 -/

section

namespace Sys2Proof.Machine

open Sys2Proof

/-! ### One bit of a word (R4) -/

/-- Setting bit `i` of a word sets that bit and keeps every other one. -/
theorem putBit_true_getLsbD {n : Nat} (w : BitVec n) (i j : Nat) :
    (putBit w i true).getLsbD j = (decide (j < n) && (decide (j = i) || w.getLsbD j)) := by
  have hone : BitVec.ofNat n (1 <<< i) = BitVec.twoPow n i :=
    BitVec.eq_of_toNat_eq (by simp [Nat.one_shiftLeft, BitVec.toNat_twoPow, ← Nat.pow_mod])
  have hput : putBit w i true = (w &&& ~~~BitVec.twoPow n i) ||| BitVec.twoPow n i := by
    simp [putBit, put, ← hone]
  rw [hput]
  rw [BitVec.getLsbD_or, BitVec.getLsbD_and, BitVec.getLsbD_not, BitVec.getLsbD_twoPow]
  by_cases hi : i = j
  · simp [hi]
  · have hkeep : w.getLsbD j = true → j < n := BitVec.lt_of_getLsbD
    cases hw : w.getLsbD j <;> simp_all [Ne.symm hi]

/-! ### Registers, counters and interrupt groups -/

/-- A stored register reads as stored wherever the memories stand in their canonical form. -/
theorem setReg_reg_of_wf {s : State} (hs : Memory.wf s = true) (a : Nat) (v : W32) : (s.setReg a v).reg a = v :=
  setReg_reg_same s a v (sorted_of_canon (Memory.wf_regs hs))

theorem reg_congr {s t : State} (h : s.regs = t.regs) (a : Nat) : s.reg a = t.reg a := by
  simp only [State.reg, h]

/-- A counter that counts an event goes up by one, and stands at all ones (R11). -/
theorem bump_reg_toNat {s : State} (hs : Memory.wf s = true) (a : Nat) :
    ((s.bump a).reg a).toNat = min (2 ^ 32 - 1) ((s.reg a).toNat + 1) := by
  rw [reg_congr (bump_regs s a), setReg_reg_of_wf hs, BitVec.toNat_ofNat, satAdd]
  omega

theorem intMsg_regs (s : State) (g : Nat) : (intMsg s g).regs = s.regs := msixSend_regs s 0 _

/-- A group's status or mask is stored, with the group's message where the OR of its unmasked bits rises (R520). -/
theorem intStore_eq (s : State) (g a : Nat) (v : W32) :
    intStore s g a v = if intLive s g = 0 ∧ intLive (s.setReg a v) g ≠ 0 then intMsg (s.setReg a v) g else s.setReg a v := by
  simp [intStore]

theorem intRaise_reg_other (s : State) (g i : Nat) {b : Nat} (h : b ≠ Reg.HLT_INT_STATUS g) : (intRaise s g i).reg b = s.reg b :=
  (reg_congr (intStore_regs s g _ _) b).trans (setReg_reg_other s _ h)

/-- A write of a group's status clears the written ones, and sends the message again where an unmasked bit stays set (R520). -/
theorem intClear_eq (s : State) (g : Nat) (v : W32) :
    intClear s g v =
      if intLive (s.setReg (Reg.HLT_INT_STATUS g) (s.reg (Reg.HLT_INT_STATUS g) &&& ~~~(v &&& 0xFFFF))) g = 0
      then s.setReg (Reg.HLT_INT_STATUS g) (s.reg (Reg.HLT_INT_STATUS g) &&& ~~~(v &&& 0xFFFF))
      else intMsg (s.setReg (Reg.HLT_INT_STATUS g) (s.reg (Reg.HLT_INT_STATUS g) &&& ~~~(v &&& 0xFFFF))) g := by
  simp only [intClear, bne_iff_ne, ite_not]

/-- A discarded write counts in GLB_BAD_WRITE_COUNT (R10). -/
theorem badWrite_reg_count {s : State} (hs : Memory.wf s = true) :
    ((badWrite s).reg Reg.GLB_BAD_WRITE_COUNT).toNat = min (2 ^ 32 - 1) ((s.reg Reg.GLB_BAD_WRITE_COUNT).toNat + 1) := by
  rw [badWrite, intRaise_reg_other _ _ _ (by decide), bump_reg_toNat hs]

theorem badWrite_reg_other (s : State) {b : Nat} (hcount : b ≠ Reg.GLB_BAD_WRITE_COUNT) (hstatus : b ≠ Reg.HLT_INT_STATUS 0) :
    (badWrite s).reg b = s.reg b := by
  rw [badWrite, intRaise_reg_other _ _ _ hstatus, bump_reg_other s hcount]

/-! ### The size and the alignment of an access (R6) -/

/-- Every row of the map has its base at a 4-byte-aligned offset. -/
theorem regMap_base_aligned : ∀ row ∈ regMap, row.base % 4 = 0 := by decide +kernel

theorem accessOk_iff {sp : Space} {a size : Nat} (h : a + size ≤ sp.bytes) :
    accessOk sp a size = true ↔ (size = 4 ∧ a % 4 = 0) ∨ (size = 8 ∧ a % 8 = 0) := by
  simp only [accessOk, Bool.and_eq_true, Bool.or_eq_true, beq_iff_eq, decide_eq_true_eq, h, and_true]
  constructor
  · rintro ⟨rfl | rfl, ha⟩
    · exact .inl ⟨rfl, ha⟩
    · exact .inr ⟨rfl, ha⟩
  · rintro (⟨rfl, ha⟩ | ⟨rfl, ha⟩)
    · exact ⟨.inl rfl, ha⟩
    · exact ⟨.inr rfl, ha⟩

theorem barWrite_refused {sp : Space} {a size : Nat} (s : State) (v : W64) (h : accessOk sp a size = false) :
    barWrite s sp a size v = s.emit .unsupported := by
  simp [barWrite, h]

theorem barWrite_4 {sp : Space} {a : Nat} (s : State) (v : W64) (h : accessOk sp a 4 = true) :
    barWrite s sp a 4 v = wordWrite s sp a (v.setWidth 32) := by
  simp [barWrite, h, BitVec.ofNat_toNat]

/-- A 64-bit write acts as two, the lower offset first. -/
theorem barWrite_8 {sp : Space} {a : Nat} (s : State) (v : W64) (h : accessOk sp a 8 = true) :
    barWrite s sp a 8 v = wordWrite (wordWrite s sp a (v.setWidth 32)) sp (a + 4) ((v >>> 32).setWidth 32) := by
  simp [barWrite, h, ← BitVec.toNat_ushiftRight, BitVec.ofNat_toNat]

theorem barRead_refused {sp : Space} {a size : Nat} {s : State} (hup : barUp s = true) (h : accessOk sp a size = false) :
    barRead s sp a size = s.emit .unsupported := by
  simp [barRead, hup, h]

theorem barRead_4 {sp : Space} {a : Nat} {s : State} (hup : barUp s = true) (h : accessOk sp a 4 = true) :
    barRead s sp a 4 = { (wordRead s sp a).2 with busRead := (wordRead s sp a).1.setWidth 64 } := by
  simp [barRead, hup, h, BitVec.ofNat_toNat]

/-- A 64-bit read acts as two, the lower offset first. -/
theorem barRead_8 {sp : Space} {a : Nat} {s : State} (hup : barUp s = true) (h : accessOk sp a 8 = true) :
    barRead s sp a 8 = { (wordRead (wordRead s sp a).2 sp (a + 4)).2 with
      busRead := BitVec.ofNat 64 ((wordRead s sp a).1.toNat + 2 ^ 32 * (wordRead (wordRead s sp a).2 sp (a + 4)).1.toNat) } := by
  simp [barRead, hup, h]

/-- A 32-bit write of a register of BAR0 by REGISTER_WRITE outside END. -/
theorem exec_registerWrite_bar0 {s : State} {a : Nat} (v : W64) (hup : barUp s = true) (hend : s.hmk.fuses.lcs ≠ 4)
    (halign : a % 4 = 0) (hin : a + 4 ≤ 0x4000000) :
    exec (.registerWrite .bar0 a 4 v) s = .next (regWrite s a (v.setWidth 32)) := by
  have hok : accessOk .bar0 a 4 = true := (accessOk_iff hin).mpr (.inl ⟨rfl, halign⟩)
  calc exec (.registerWrite .bar0 a 4 v) s
      = .next (barWrite s .bar0 a 4 v) := onBar2_up hup _
    _ = .next (regWrite s a (v.setWidth 32)) := by rw [barWrite_4 s v hok]; simp [wordWrite, hend]

/-- A 32-bit read of a register of BAR0 outside END. -/
theorem barRead_bar0 {s : State} {a : Nat} (hup : barUp s = true) (hend : s.hmk.fuses.lcs ≠ 4)
    (halign : a % 4 = 0) (hin : a + 4 ≤ 0x4000000) :
    barRead s .bar0 a 4 = { (regRead s a).2 with busRead := (regRead s a).1.setWidth 64 } := by
  have hok : accessOk .bar0 a 4 = true := (accessOk_iff hin).mpr (.inl ⟨rfl, halign⟩)
  have hword : wordRead s .bar0 a = regRead s a := by simp [wordRead, hend]
  rw [barRead_4 hup hok, hword]

/-- BAR0 takes accesses: the device does, and it is not in END. -/
theorem barOpen_iff {s : State} : barOpen s = true ↔ barUp s = true ∧ s.hmk.fuses.lcs ≠ 4 := by
  simp [barOpen]

/-! ### What a write of a register does, by its row (R8-R11, R13) -/

section
variable {s : State} {a : Nat} {row : RegRow} (v : W32)

theorem regWrite_unmapped (h : regRowAt a = none) : regWrite s a v = badWrite s := by
  simp [regWrite, h]

theorem regWrite_sealed (h : regRowAt a = some row) (hacc : row.acc = .rws) (hseal : s.pkg.sealed = true) :
    regWrite s a v = sealedWrite s := by
  simp [regWrite, h, hacc, hseal]

theorem regWrite_readOnly (h : regRowAt a = some row) (hacc : row.acc = .ro ∨ row.acc = .rc) (hdead : portRegDead s a = false) :
    regWrite s a v = s := by
  rcases hacc with hacc | hacc <;> simp [regWrite, h, hacc, hdead]

/-- A register without a writer of its own stores a legal value with its reserved bits 0. -/
theorem regWrite_store (h : regRowAt a = some row) (hacc : row.acc = .rw ∨ (row.acc = .rws ∧ s.pkg.sealed = false))
    (hdead : portRegDead s a = false) (hplain : (writersA ++ writersB).find? (fun e => e.1 == row.base) = none) :
    regWrite s a v = if row.legal (v &&& BitVec.ofNat 32 row.mask) then s.setReg a (v &&& BitVec.ofNat 32 row.mask) else badWrite s := by
  have hstore : regWrite s a v = storeIf s a (!row.legal (v &&& BitVec.ofNat 32 row.mask)) (v &&& BitVec.ofNat 32 row.mask) := by
    rcases hacc with hacc | ⟨hacc, hseal⟩
    · simp [regWrite, h, hacc, hdead, hplain]
    · simp [regWrite, h, hacc, hseal, hdead, hplain]
  rw [hstore, storeIf]
  cases row.legal (v &&& BitVec.ofNat 32 row.mask) <;> rfl

end

/-! ### What a read of a register does (R7, R10, R11) -/

theorem regRead_unmapped (s : State) {a : Nat} (h : regRowAt a = none) : regRead s a = (0, s) := by
  simp [regRead, h]

/-- The read of an RC register that latches nothing answers its view and starts it again. -/
theorem regRead_rc {s : State} {a : Nat} {row : RegRow} (h : regRowAt a = some row) (hacc : row.acc = .rc)
    (hdead : portRegDead s a = false) (hhigh : latchedHigh a = false) (hcount : latchCount a = 0) :
    regRead s a = (regView s a, s.setReg a (afterRead s row a)) := by
  simp [regRead, h, hacc, hdead, hhigh, hcount]

theorem afterRead_eq_zero (s : State) {row : RegRow} (a : Nat) (h : depths.find? (fun e => e.1 == row.base) = none) :
    afterRead s row a = 0 := by
  simp [afterRead, h]

/-- HIF_PERF_VALUE names 1,024 words: the offset past the last of them maps no register, so it latches nothing (R467). -/
theorem latchCount_perfValue_1024 : latchCount (Reg.HIF_PERF_VALUE 1024) = 0 := by decide

end Sys2Proof.Machine

open Sys2Proof Sys2Proof.Machine

/-- Settles O4: the tables of the reset state are empty. -/
theorem resetMemoryCanonical : Obligations.ResetMemoryCanonical := reset_wf

/-- Settles O6: the register file is a table, read after one write (`setReg_reg_of_wf`, `setReg_reg_other`). -/
theorem registerReadAfterWrite : Obligations.RegisterReadAfterWrite :=
  fun s a v hs => ⟨setReg_reg_of_wf hs a v, fun _ hb => setReg_reg_other s v hb, rfl⟩

/-- Settles O7: an access is one of the three forms that `barWrite` and `barRead` tell apart. -/
theorem accessSizes : Obligations.AccessSizes := by
  refine ⟨regMap_base_aligned, fun s a size v hup hin => ?_⟩
  have hbytes : a + size ≤ Space.bar0.bytes := by simpa [inBar] using (Bool.and_eq_true_iff.mp hin).2
  have hok := accessOk_iff hbytes
  have hwrite : exec (.registerWrite .bar0 a size v) s = .next (barWrite s .bar0 a size v) := onBar2_up hup _
  have hlatched : exec (.latchedRead .bar0 a size) s = .next (barRead s .bar0 a size) := rfl
  have hrc : exec (.rcRead a size) s = .next (barRead s .bar0 a size) := rfl
  rw [hwrite, hlatched, hrc]
  refine ⟨fun hform => ?_, ?_, ?_⟩
  · have hbad : accessOk .bar0 a size = false := by simpa using mt hok.mp hform
    rw [barWrite_refused s v hbad, barRead_refused hup hbad]
    exact ⟨rfl, rfl, rfl⟩
  · rintro rfl ha
    have hgood := hok.mpr (.inl ⟨rfl, ha⟩)
    rw [barWrite_4 s v hgood, barRead_4 hup hgood]
    exact ⟨rfl, rfl, rfl⟩
  · rintro rfl ha
    have hgood := hok.mpr (.inr ⟨rfl, ha⟩)
    rw [barWrite_8 s v hgood, barRead_8 hup hgood]
    exact ⟨rfl, rfl, rfl⟩

/-- Settles O8: one lemma for each branch of `regWrite`. -/
theorem registerWriteRules : Obligations.RegisterWriteRules := by
  refine ⟨fun s space addr size value => ⟨_, rfl⟩, fun s a v hup hend halign hin => ?_⟩
  rw [exec_registerWrite_bar0 v hup hend halign hin]
  refine ⟨fun h => ?_, fun row h => ⟨fun hacc hseal => ?_, fun hacc hdead => ?_, fun hacc hdead hplain => ?_⟩⟩
  · rw [regWrite_unmapped _ h]
  · rw [regWrite_sealed _ h hacc hseal]
  · rw [regWrite_readOnly _ h hacc hdead]
  · rw [regWrite_store _ h hacc hdead hplain]

/-- Settles O9: the unmapped branches of `regRead` and `regWrite`, and what `badWrite` leaves in the register file. -/
theorem unmappedOffsets : Obligations.UnmappedOffsets := by
  intro s a v hopen halign hin h
  obtain ⟨hup, hend⟩ := barOpen_iff.mp hopen
  have hread : barRead s .bar0 a 4 = { s with busRead := 0 } := by
    rw [barRead_bar0 hup hend halign hin, regRead_unmapped s h]; rfl
  have hwrite : exec (.registerWrite .bar0 a 4 v) s = .next (badWrite s) := by
    rw [exec_registerWrite_bar0 v hup hend halign hin, regWrite_unmapped _ h]
  exact ⟨congrArg Host.Outcome.next hread, congrArg Host.Outcome.next hread, _, hwrite, rfl,
    fun hs => ⟨badWrite_reg_count hs, fun _ => badWrite_reg_other s⟩⟩

/-- Settles O10: the branch of `regRead` for an RC register that latches nothing. -/
theorem readClears : Obligations.ReadClears := by
  refine ⟨fun s addr size => ⟨_, rfl⟩, fun s a row hup hend halign hin h hacc hdead hhigh hcount => ⟨?_, afterRead_eq_zero s a⟩⟩
  have hread : barRead s .bar0 a 4 = { s.setReg a (afterRead s row a) with busRead := (regView s a).setWidth 64 } := by
    rw [barRead_bar0 hup hend halign hin, regRead_rc h hacc hdead hhigh hcount]
  exact congrArg Host.Outcome.next hread

/-- Refutes O11: of the 1,024 even words that it names, only the first 512 are mapped (R467: 512 counters of two words each). Word
2 · 512 lies past the last, maps no register and latches nothing. -/
theorem not_timeReadLatches : ¬ Obligations.TimeReadLatches := by
  rintro ⟨-, ⟨-, -, -, hperf⟩, -⟩
  exact absurd (hperf 512 (by decide)) (by rw [latchCount_perfValue_1024]; decide)

/-- Settles O30: a raise is `intStore` of the status with one bit set, a clear is `intClear`. -/
theorem interruptClear : Obligations.InterruptClear := by
  refine ⟨fun s group value => ⟨_, rfl⟩, fun s g i hi hs => ?_, fun s g v hopen => ?_⟩
  · have hreg := setReg_reg_of_wf hs (Reg.HLT_INT_STATUS g) (putBit (s.reg (Reg.HLT_INT_STATUS g)) i true)
    refine ⟨intStore_eq s g _ _, ?_, fun j hj => ?_, fun b hb => setReg_reg_other s _ hb, intMsg_regs _ g⟩
    · rw [hreg, putBit_true_getLsbD]
      simp
      omega
    · rw [hreg, putBit_true_getLsbD]
      simpa [hj] using fun h => BitVec.lt_of_getLsbD h
  · exact (onBar_open hopen _).trans (congrArg Host.Outcome.next (intClear_eq s g v))

end

/-! ## The registers that act on the flow engine, and its start: O34 -/

section

namespace Sys2Proof.Machine

open Sys2Proof

/-! ### Writes of the flow engine's registers -/

/-- A write of FLW_FILIGREE_CTRL that keeps DUAL stores it. -/
theorem flgModeWrite_keep {s : State} {v : W32} (hseal : s.pkg.sealed = false) (h : bit v 0 = flgDual s) :
    flgModeWrite s v = s.setReg Reg.FLW_FILIGREE_CTRL (put 0 0 0 (fld v 0 0)) := by
  simp [flgModeWrite, hseal, h]

/-- A write of FLW_FILIGREE_CTRL that changes DUAL empties both banks of every slice as well (R89). -/
theorem flgModeWrite_change {s : State} {v : W32} (hseal : s.pkg.sealed = false) (h : bit v 0 ≠ flgDual s) :
    flgModeWrite s v =
      let u := s.setReg Reg.FLW_FILIGREE_CTRL (put 0 0 0 (fld v 0 0))
      { u with flw := { u.flw with slices := u.flw.slices.map fun (e : Nat × Slice) => (e.1, { e.2 with
          nodes := [], count0 := 0, count1 := 0, bank := false }) } } := by
  simp [flgModeWrite, hseal, h]

/-- A write of FLW_NAT_CFG keeps its mapped bits, and may not set VALID for a pool that R111 forbids. -/
theorem natCfgWrite_eq (s : State) (n : Nat) (v : W32) :
    natCfgWrite s n v = if s.pkg.sealed then sealedWrite s
      else if bit v 0 && !poolFits s n (v &&& 0xFFFF003F#32) then badWrite s
      else s.setReg (Reg.FLW_NAT_CFG n) (v &&& 0xFFFF003F#32) := by
  have hvalid : bit (v &&& 0xFFFF003F#32) 0 = bit v 0 := by simp [bit]
  simp only [natCfgWrite, hvalid]

/-- A write of FLW_AGE_CTRL with an INTERVAL in range is not discarded (R96, R99). -/
theorem ageCtrlWrite_of_interval {s : State} {v : W32} (h : 8 ≤ fld (v &&& 0x1FFFFF#32) 20 1) :
    ageCtrlWrite s v =
      let w := v &&& 0x1FFFFF#32
      let u := s.setReg Reg.FLW_AGE_CTRL w
      if bit w 0 && !bit (s.reg Reg.FLW_AGE_CTRL) 0 then { u with flw := { u.flw with
        slices := u.flw.slices.map fun (e : Nat × Slice) => (e.1, { e.2 with
          sweepFrom := s.ns, passStart := if e.2.sweepNext = 0 then s.ns else e.2.passStart }) } } else u :=
  if_neg (Nat.not_lt.mpr h)

/-- Before the first ENABLE the key in force is the fixed one, or the one drawn at the reset (R41). -/
theorem flowKey_of_off {s : State} (h : bit (s.reg Reg.FLW_CTRL) 0 = false) :
    flowKey s = if bit (s.reg Reg.FLW_HASH_CTRL) 0 then s.flw.fixedKey else s.flw.hashKey := by
  simp [flowKey, h]

/-- The first ENABLE fixes the hash key in force, and starts the slices where every stack is trained (R41, R57). -/
theorem flwCtrlWrite_enable {s : State} {v : W32} (hseal : s.pkg.sealed = false) (hoff : bit (s.reg Reg.FLW_CTRL) 0 = false)
    (hv : bit v 0 = true) :
    flwCtrlWrite s v =
      let u := { s with flw := { s.flw with hashKey := flowKey s } }.setReg Reg.FLW_CTRL 1
      if allTrained s then forAll u (List.range 16) sliceStart else u := by
  simp [flwCtrlWrite, hseal, hoff, hv]

/-! ### The start of a slice -/

/-- A command that its slice does not serve leaves the flow engine's state beside the registers alone. -/
theorem notServed_flw (s : State) (i ring slot op : Nat) : (notServed s i ring slot op).flw = s.flw := by
  unfold notServed refuseCount
  split
  · split <;> rfl
  · rfl

/-- An update that keeps the flow engine's state keeps it over a list. -/
theorem foldl_flw {α : Type} {f : State → α → State} (hf : ∀ u x, (f u x).flw = u.flw) (xs : List α) (s : State) :
    (xs.foldl f s).flw = s.flw :=
  List.foldlRecOn (motive := fun u => u.flw = s.flw) xs f rfl fun u hu x _ => (hf u x).trans hu

/-- Dropping a slice's in-flight entries empties its queues, and touches no other slice. -/
theorem flightsDrop_flw (s : State) (i : Nat) :
    (flightsDrop s i).flw = (s.setSlice i { s.slice i with flights := [], setupQ := [], orderQ := [] }).flw := by
  refine foldl_flw (fun u o => ?_) _ _
  split
  · exact notServed_flw u i _ _ _
  · rfl

theorem slice_congr {s t : State} (h : s.flw = t.flw) (i : Nat) : s.slice i = t.slice i := by
  simp only [State.slice, h]

theorem flightsDrop_slice_other (s : State) {i j : Nat} (h : j ≠ i) : (flightsDrop s i).slice j = s.slice j :=
  (slice_congr (flightsDrop_flw s i) j).trans (setSlice_slice_other s _ h)

/-- Without in-flight entries no command is dropped. -/
theorem flightsDrop_of_no_flights {s : State} {i : Nat} (h : (s.slice i).flights = []) :
    flightsDrop s i = s.setSlice i { s.slice i with flights := [], setupQ := [], orderQ := [] } := by
  simp [flightsDrop, h]

/-- A slice as it stands after its start: `q` waits before its order point, and what stands is taken from `x` (R57, R58). -/
def startedSlice (q : List FlowOp) (x : Slice) : Slice :=
  { starting := true, orderQ := q, flightNo := x.flightNo, nodes := x.nodes, bank := x.bank, count0 := x.count0,
    count1 := x.count1, walkFault := x.walkFault, faultNode := x.faultNode, passNo := x.passNo, swept := x.passNo,
    lastPassS := x.lastPassS, orphans := x.orphans, templates := x.templates, profiles := x.profiles }

theorem sliceStart_eq (s : State) (i : Nat) :
    sliceStart s i = (flightsDrop s i).setSlice i (startedSlice (s.slice i).orderQ ((flightsDrop s i).slice i)) := rfl

/-- A slice that starts is no slice at its reset value, as its start is under way. -/
theorem startedSlice_ne_default (q : List FlowOp) (x : Slice) : startedSlice q x ≠ {} :=
  fun h => absurd (congrArg Slice.starting h) (by simp [startedSlice])

theorem sliceStart_slice_same (s : State) (i : Nat) :
    (sliceStart s i).slice i = startedSlice (s.slice i).orderQ ((flightsDrop s i).slice i) := by
  rw [sliceStart_eq, setSlice_slice_ne _ _ (startedSlice_ne_default _ _)]

theorem sliceStart_slice_other (s : State) {i j : Nat} (h : j ≠ i) : (sliceStart s i).slice j = s.slice j := by
  rw [sliceStart_eq, setSlice_slice_other _ _ h, flightsDrop_slice_other s h]

/-- The slices start once every stack is trained after ENABLE, where none has started (R543). -/
theorem execFlwInitStart_start {s : State} (hon : bit (s.reg Reg.FLW_CTRL) 0 = true) (htrained : allTrained s = true)
    (hnone : ∀ i, i < 16 → (s.slice i).starting = false ∧ (s.slice i).ready = false) :
    execFlwInitStart s = .next (forAll s (List.range 16) sliceStart) := by
  have hall : ((List.range 16).all fun i => !(s.slice i).starting && !(s.slice i).ready) = true := by
    simpa [List.all_eq_true] using hnone
  simp only [execFlwInitStart, hon, htrained, hall, Bool.and_self, if_true]

/-- The start's outcome is a next state, whether a slice starts or not. -/
theorem execFlwInitStart_next (s : State) : ∃ t, execFlwInitStart s = .next t := by
  unfold execFlwInitStart
  split <;> exact ⟨_, rfl⟩

theorem execSliceReady_next (s : State) (i : Fin 16) : ∃ t, execSliceReady i s = .next t := by
  unfold execSliceReady
  dsimp only
  split <;> exact ⟨_, rfl⟩

end Sys2Proof.Machine

open Sys2Proof Sys2Proof.Machine

/-- Settles O34: each register's write by its own lemma, and the start by what it leaves in each slice. -/
theorem flowRegisters : Obligations.FlowRegisters := by
  refine ⟨fun s v => ⟨⟨_, rfl⟩, ⟨_, rfl⟩, ⟨_, rfl⟩⟩, execFlwInitStart_next, execSliceReady_next, fun s k v => ⟨_, rfl⟩,
    fun s v hopen hseal => ⟨fun h => ?mode, fun h => ?modeChange⟩, fun s k v hopen => ?pool,
    fun s v hopen h => ?age, fun s v hopen hseal hoff hv => ?enable, fun s => execFlwInitStart_start,
    fun s i hstart hon => ?ready, fun s i => ⟨sliceStart_slice_same s i, fun _ => sliceStart_slice_other s,
      flightsDrop_of_no_flights⟩⟩
  case mode => exact (onBar_open hopen _).trans (congrArg Host.Outcome.next (flgModeWrite_keep hseal h))
  case modeChange => exact (onBar_open hopen _).trans (congrArg Host.Outcome.next (flgModeWrite_change hseal h))
  case pool => exact (onBar_open hopen _).trans (congrArg Host.Outcome.next (natCfgWrite_eq s k v))
  case age => exact (onBar_open hopen _).trans (congrArg Host.Outcome.next (ageCtrlWrite_of_interval h))
  case enable =>
    refine (onBar_open hopen _).trans (congrArg Host.Outcome.next ?_)
    rw [flwCtrlWrite_enable hseal hoff hv, flowKey_of_off hoff]
  case ready => exact if_pos (Bool.and_eq_true_iff.mpr ⟨hstart, hon⟩)

end

/-! ## A slice's order point, and the record commands by handle: O32 -/

section

namespace Sys2Proof.Machine

open Sys2Proof

/-! ### The order point of a slice (R66) -/

/-- A slice that has given a place away is no slice at its reset value, and keeps everything but the number of the next place. -/
theorem placed_slice_same (s : State) (i : Nat) :
    (placed s i).slice i = { s.slice i with flightNo := (s.slice i).flightNo + 1 } :=
  setSlice_slice_ne _ _ fun h => Nat.succ_ne_zero _ (congrArg Slice.flightNo h)

/-- Giving a place away does not change whether the slice serves. -/
theorem sliceUp_placed (s : State) (i : Nat) : sliceUp (placed s i) i = sliceUp s i := by
  simp only [sliceUp, placed_slice_same]
  rfl

/-- An operation is admitted in its place and with the tick of now (R66). -/
theorem orderPoint_eq (s : State) (i : Nat) (o : FlowOp) :
    orderPoint s i o = admitOp (placed s i) i { o with no := (s.slice i).flightNo, tick := s.tick } := rfl

/-- An operation as the order point takes it: it notes whether a record of its key has expired before it in this pass (R109). -/
def noted (s : State) (i : Nat) (o : FlowOp) : FlowOp := { o with rehit := o.rehit || expiredBefore s i o }

/-- An operation that attaches to no in-flight entry runs. -/
theorem admitOp_of_no_flight {s : State} {i : Nat} {o : FlowOp} (h : flightFor s i o = none) :
    admitOp s i o = runOp s i (noted s i o) := by
  have hn : flightFor s i { o with rehit := o.rehit || expiredBefore s i o } = none := h
  simp only [admitOp, hn, noted]

/-- A host command runs at its slice where that serves (R92). -/
theorem runOp_host {s : State} {i r n : Nat} {o : FlowOp} (hact : o.act = .host r n) (hup : sliceUp s i = true) :
    runOp s i o = atSlice s i r n o := by
  simp only [runOp, hact, hup, if_true]

/-! ### Record commands at their slice (R90, R92) -/

/-- A record command that its slice serves, with no in-flight entry in its way, runs there in its place. -/
theorem toSlice_served {s : State} {r n i : Nat} {c : CmdEnt} {key : Option Key} (h : ServedAt s i (hostOp s i r n c key)) :
    toSlice s r n i c key = atSlice (placed s i) i r n (noted (placed s i) i (hostOp s i r n c key)) := by
  obtain ⟨hup, hfree, hplaced, hroom⟩ := h
  have hnone : flightFor s i { src := 8, act := .host r n, key := key, handle := fcHandle c.desc } = none := hfree
  calc toSlice s r n i c key
      = orderPoint s i { src := 8, act := .host r n, key := key, handle := fcHandle c.desc } := by
        simp [toSlice, hup, hnone, flightMax, Nat.not_le.mpr hroom]
    _ = admitOp (placed s i) i (hostOp s i r n c key) := orderPoint_eq _ _ _
    _ = runOp (placed s i) i (noted (placed s i) i (hostOp s i r n c key)) := admitOp_of_no_flight hplaced
    _ = _ := runOp_host rfl ((sliceUp_placed s i).trans hup)

/-- A record command at a slice that does not serve ends at once. -/
theorem toSlice_of_not_up {s : State} {i : Nat} (h : sliceUp s i = false) (r n : Nat) (c : CmdEnt) (key : Option Key) :
    toSlice s r n i c key = notServed s i r n (descOp c.desc) := by
  simp [toSlice, h]

/-- What is not an install ends NOT_FOUND at a slice that does not serve. -/
theorem notServed_of_ne_install {op : Nat} (h : op ≠ 0x22) (s : State) (i r n : Nat) :
    notServed s i r n op = s.finish r n St.notFound := if_neg h

section AtSlice

variable {s u : State} {i r n : Nat} {o : FlowOp} {c : CmdEnt} {f : RecFound}

theorem atSlice_read (hc : s.cmd? r n = some c) (hop : descOp c.desc = 0x21) : atSlice s i r n o = atRead s i r n c := by
  simp only [atSlice, hc, hop]

theorem atSlice_modify (hc : s.cmd? r n = some c) (hop : descOp c.desc = 0x23) : atSlice s i r n o = atModify s i r n o c := by
  simp only [atSlice, hc, hop]

theorem atSlice_delete (hc : s.cmd? r n = some c) (hop : descOp c.desc = 0x24) : atSlice s i r n o = atDelete s i r n o c := by
  simp only [atSlice, hc, hop]

theorem atRead_found (h : byHandle s i (fcHandle c.desc) = (u, some f)) :
    atRead s i r n c = ((hostFill (charge u i f.cost) i f false).output c (bytesOf f.record)).finish r n St.ok := by
  simp only [atRead, h]

theorem atRead_stale (h : byHandle s i (fcHandle c.desc) = (u, none)) :
    atRead s i r n c = (charge u i (staleCost s i (fcHandle c.desc))).finish r n St.staleHandle := by
  simp only [atRead, h]

theorem atModify_found (h : byHandle s i (fcHandle c.desc) = (u, some f)) :
    atModify s i r n o c =
      let m := modifyRec f.record (bufRec c) (fcMask c.desc) o.tick
      (if f.place = .hbm then fillHot (charge u i f.cost) i f.idx m true false
        else lineRef (writeRec (charge u i f.cost) i f.idx m) i f.idx).finish r n St.ok := by
  simp only [atModify, h, beq_iff_eq]

theorem atModify_stale (h : byHandle s i (fcHandle c.desc) = (u, none)) :
    atModify s i r n o c = (charge u i (staleCost s i (fcHandle c.desc))).finish r n St.staleHandle := by
  simp only [atModify, h]

theorem atDelete_found (hkey : fcByKey c.desc = false) (h : byHandle s i (fcHandle c.desc) = (u, some f)) :
    atDelete s i r n o c = (delRecord (charge u i 2) i f.idx f.record 2).finish r n St.ok := by
  simp [atDelete, hkey, h]

theorem atDelete_stale (hkey : fcByKey c.desc = false) (h : byHandle s i (fcHandle c.desc) = (u, none)) :
    atDelete s i r n o c = (charge u i 2).finish r n St.staleHandle := by
  simp [atDelete, hkey, h]

end AtSlice

/-! ### Record commands as their ring hands them over -/

/-- A command's event has a next state, whatever stands in its ring. -/
theorem onCmd_next (s : State) (r n op : Nat) (f : CmdEnt → State) : ∃ t, onCmd s r n op f = .next t := by
  rcases onCmd_cases s r n op f with ⟨_, _, _, _, h⟩ | ⟨_, _, h⟩ | h <;> exact ⟨_, h⟩

theorem descOp_of_handed {s : State} {r n op : Nat} {c : CmdEnt} (h : Handed s r n op c) : descOp c.desc = op := by
  obtain ⟨-, -, hop, -, -⟩ := h
  exact hop

section Handed

variable {s : State} {r : Fin 1024} {n : Nat} {c : CmdEnt}

theorem execFlowRead_handed (h : Handed s r n 0x21 c) : execFlowRead r n s = .next (byHandleCmd s r n c) := onCmd_of_handed h _

theorem execFlowModify_handed (h : Handed s r n 0x23 c) (hmask : fcMask c.desc ≠ 0) (hrec : zeroFields (bufRec c) recReserved = true) :
    execFlowModify r n s = .next (byHandleCmd s r n c) :=
  (onCmd_of_handed h _).trans (by simp only [hmask, hrec, if_false, Bool.not_true, Bool.false_eq_true])

/-- A MODIFY_MASK of 0 selects nothing (R93). -/
theorem execFlowModify_no_mask (h : Handed s r n 0x23 c) (hmask : fcMask c.desc = 0) :
    execFlowModify r n s = .next (s.badField r n 28) :=
  (onCmd_of_handed h _).trans (by simp only [hmask, if_true])

theorem execFlowDelete_handed (h : Handed s r n 0x24 c) (hkey : fcByKey c.desc = false) :
    execFlowDelete r n s = .next (byHandleCmd s r n c) :=
  (onCmd_of_handed h _).trans (by simp only [hkey, Bool.false_eq_true, if_false])

/-- A command by handle ends NOT_FOUND where the slice that its handle names does not serve. -/
theorem byHandleCmd_of_not_up {op : Nat} (h : Handed s r n op c) (hop : op ≠ 0x22) (hup : sliceUp s (handleSlice (fcHandle c.desc)) = false) :
    byHandleCmd s r n c = s.finish r n St.notFound :=
  (toSlice_of_not_up hup _ _ _ _).trans (notServed_of_ne_install (descOp_of_handed h ▸ hop) _ _ _ _)

end Handed

end Sys2Proof.Machine

open Sys2Proof Sys2Proof.Machine

/-- Settles O32: a command by handle runs at its slice in its place (`toSlice_served`), by one lemma for each command and for each answer of
the search by handle. -/
theorem recordCommandsByHandle : Obligations.RecordCommandsByHandle := by
  refine ⟨fun s r n => ⟨onCmd_next _ _ _ _ _, onCmd_next _ _ _ _ _⟩, fun s r n c hc => ?_⟩
  refine ⟨fun hserved => ⟨fun h => ?read, fun h hmask hrec => ?modify, fun h hkey => ?delete⟩, execFlowModify_no_mask, fun h hup => ?readOff,
    fun h hmask hrec hup => ?modifyOff, fun h hkey hup => ?deleteOff⟩
  case read =>
    have hrun := (execFlowRead_handed h).trans (congrArg _ ((toSlice_served hserved).trans (atSlice_read hc (descOp_of_handed h))))
    exact ⟨fun f hf => hrun.trans (congrArg _ (atRead_found (Prod.ext rfl hf))),
      fun hf => hrun.trans (congrArg _ (atRead_stale (Prod.ext rfl hf)))⟩
  case modify =>
    have hrun := (execFlowModify_handed h hmask hrec).trans
      (congrArg _ ((toSlice_served hserved).trans (atSlice_modify hc (descOp_of_handed h))))
    exact ⟨fun f hf => hrun.trans (congrArg _ (atModify_found (Prod.ext rfl hf))),
      fun hf => hrun.trans (congrArg _ (atModify_stale (Prod.ext rfl hf)))⟩
  case delete =>
    have hrun := (execFlowDelete_handed h hkey).trans
      (congrArg _ ((toSlice_served hserved).trans (atSlice_delete hc (descOp_of_handed h))))
    exact ⟨fun f hf => hrun.trans (congrArg _ (atDelete_found hkey (Prod.ext rfl hf))),
      fun hf => hrun.trans (congrArg _ (atDelete_stale hkey (Prod.ext rfl hf)))⟩
  case readOff => exact (execFlowRead_handed h).trans (congrArg _ (byHandleCmd_of_not_up h (by decide) hup))
  case modifyOff => exact (execFlowModify_handed h hmask hrec).trans (congrArg _ (byHandleCmd_of_not_up h (by decide) hup))
  case deleteOff => exact (execFlowDelete_handed h hkey).trans (congrArg _ (byHandleCmd_of_not_up h (by decide) hup))

end

/-! ## Operations at a slice's order point: O35 -/

section

namespace Sys2Proof.Machine

open Sys2Proof

/-! ### Admission behind an in-flight entry (R66, R67) -/

section Attach

variable {s : State} {i : Nat} {o : FlowOp} {f : Flight}

/-- An operation goes behind entry `f`. -/
def attachTo (s : State) (i : Nat) (f : Flight) (o : FlowOp) : State :=
  modFlight s i f.id fun g => { g with attached := g.attached ++ [o] }

/-- The packet of an operation that attaches sees PENDING where that is a LOOKUP. -/
def seesPending (o : FlowOp) (s : State) : State :=
  match o.act with
  | .lookup c p op _ _ _ _ _ => givePending s c p op
  | _ => s

/-- An operation attaches behind the entry of its key or record, once it has made the reads of its own that it owes. -/
theorem admitOp_of_flight (h : flightFor s i o = some f) :
    admitOp s i o = let a := ownReads s i f (noted s i o); seesPending o (attachTo a.1 i f a.2) := by
  have hn : flightFor s i { o with rehit := o.rehit || expiredBefore s i o } = some f := h
  simp only [admitOp, hn]
  rfl

/-- No reads of its own makes what names no key or the entry's, or has made them. -/
theorem ownReads_none (h : o.key = none ∨ o.key = f.key ∨ o.cold = true) : ownReads s i f o = (s, o) := by
  unfold ownReads
  split
  next k hk =>
    have hpaid : (o.key == f.key || o.cold) = true := by simpa [hk] using h
    rw [if_pos hpaid]
  next => rfl

/-- An operation by another key of the entry's record reads HBM for itself, and is charged (R74). -/
theorem ownReads_charged {k : Key} {e : RecFound} (hk : o.key = some k) (hne : o.key ≠ f.key) (hcold : o.cold = false)
    (he : (findKey s i k).2 = some e) (hcost : e.cost ≠ 0) :
    ownReads s i f o = (charge (findKey s i k).1 i e.cost, { o with cold := true }) := by
  have hfind : findKey s i k = ((findKey s i k).1, some e) := Prod.ext rfl he
  have howes : ¬ (o.key == f.key || o.cold) = true := by simp [hne, hcold]
  unfold ownReads
  split
  next k' hk' =>
    obtain rfl : k' = k := Option.some.inj (hk'.symm.trans hk)
    rw [if_neg howes, hfind]
    exact if_neg hcost
  next hnone => simp [hk] at hnone

end Attach

/-! ### What an operation that attaches to no entry does -/

section RunOp

variable {s u : State} {i : Nat} {o : FlowOp}

/-- A LOOKUP that hits the hot cache counts a hit, and the record serves it (R70). -/
theorem runOp_hot_hit {key : Key} {f : RecFound} (hact : o.act.isLookup = true) (hkey : o.key = some key) (hcold : o.cold = false)
    (h : (hotSearch s i key).2 = some f) :
    runOp s i o = serve ((hotSearch s i key).1.bump64 (Reg.FLW_HIT_COUNT_LO i) 1) i o f false o.tick
      fun u r => touch (writeRec u i f.idx r) i f.idx := by
  have hsearch : hotSearch s i key = ((hotSearch s i key).1, some f) := Prod.ext rfl h
  obtain ⟨src, act, _, _, _, _, _, _⟩ := o
  cases act with
  | lookup c p op setup pool low vec len =>
    obtain rfl : _ = some key := hkey
    obtain rfl : _ = false := hcold
    simp only [runOp, runLookup]
    rw [hsearch]
    rfl
  | _ => cases hact

/-- What a record gives a lookup does not depend on what the lookup noted of an expiry. -/
theorem serve_noted (t : State) (f : RecFound) (new : Bool) (tick : Nat) (store : State → Rec → State) :
    serve t i (noted s i o) f new tick store = serve t i o f new tick store := rfl

/-- A record that serves a LOOKUP is policed, stored and given with its handle (R70, R83). -/
theorem serve_lookup {c p g len : Nat} {a b low : Bool} {v : List Nat} (hact : o.act = .lookup c p g a b low v len) (f : RecFound)
    (new : Bool) (tick : Nat) (store : State → Rec → State) :
    serve s i o f new tick store =
      let e := police s i f.record len tick
      giveRecord (store s e.1) c p g e.1 (f.record.handle f.idx) new
        (!new && (if f.isAlias then f.record.key.lo != f.record.key.hi else f.record.reply low)) e.2 := by
  simp only [serve, hact]

/-- An UPDATE of a stale handle is counted, and does nothing else (R103). -/
theorem runOp_stale_update {a b c d : Bool} {e : Nat} {v : W32} {l : Nat} (hact : o.act = .update a b c d e v l)
    (h : (byHandle s i o.handle).2 = none) :
    runOp s i o = (byHandle s i o.handle).1.bump (Reg.FLW_STALE_UPDATE_COUNT i) := by
  have hsearch : byHandle s i o.handle = ((byHandle s i o.handle).1, none) := Prod.ext rfl h
  simp only [runOp, runUpdate, hact]
  rw [hsearch]

/-- Before a slice that is not READY an UPDATE finds no record. -/
theorem notReady_update {a b c d : Bool} {e : Nat} {v : W32} {l : Nat} (hact : o.act = .update a b c d e v l) :
    notReady s i o = s.bump (Reg.FLW_STALE_UPDATE_COUNT i) := by
  simp only [notReady, hact]

/-- Before a slice that is not READY a LOOKUP that asks for no setup misses (R57). -/
theorem notReady_lookup {c p g l : Nat} {b e : Bool} {v : List Nat} (hact : o.act = .lookup c p g false b e v l) :
    notReady s i o = opComplete (s.bump64 (Reg.FLW_COLD_COUNT_LO i) 1) c p g St.ok [] := by
  simp only [notReady, hact]
  rfl

end RunOp

/-! ### The events of a slice's order point -/

/-- The slice's order queue without an operation that leaves it. -/
def unqueue (s : State) (i : Nat) (o : FlowOp) : State := s.setSlice i { s.slice i with orderQ := (s.slice i).orderQ.erase o }

theorem execSliceLookup_next (i : Fin 16) (x : SliceRead) (s : State) : ∃ t, execSliceLookup i x s = .next t := by
  unfold execSliceLookup
  dsimp only
  split
  · exact ⟨_, rfl⟩
  · split_ifs <;> exact ⟨_, rfl⟩

theorem execUpdate_next (i : Fin 16) (k : Fin 8) (s : State) : ∃ t, execUpdate i k s = .next t := by
  unfold execUpdate
  dsimp only
  split <;> exact ⟨_, rfl⟩

/-- SLICE_LOOKUP takes the oldest LOOKUP of its source, unless a READY slice has every in-flight entry open (R68). -/
theorem execSliceLookup_eq {s v : State} {i : Fin 16} {x : SliceRead} {o : FlowOp}
    (hv : eccMark (strike s x.upsets) i x.tags x.stash = v) (hhead : orderHead (v.slice i) x.source FlowAct.isLookup = some o) :
    execSliceLookup i x s = if (v.slice i).ready = false then .next (notReady (unqueue v i o) i o)
      else if 8192 ≤ (v.slice i).flights.length then .next v else .next (orderPoint (unqueue v i o) i o) := by
  simp only [execSliceLookup, hv, hhead, Bool.not_eq_true']
  rfl

/-- UPDATE takes the oldest operation of its source that is no LOOKUP. -/
theorem execUpdate_eq {s : State} {i : Fin 16} {k : Fin 8} {o : FlowOp}
    (hhead : orderHead (s.slice i) k (fun a => !a.isLookup) = some o) :
    execUpdate i k s = .next (if (s.slice i).ready then orderPoint (unqueue s i o) i o else notReady (unqueue s i o) i o) := by
  simp only [execUpdate, hhead]
  rfl

end Sys2Proof.Machine

open Sys2Proof Sys2Proof.Machine

/-- Settles O35: the two events by `execSliceLookup_eq` and `execUpdate_eq`; what is admitted either attaches (`admitOp_of_flight`) or runs
(`admitOp_of_no_flight`). -/
theorem sliceOrderPoint : Obligations.SliceOrderPoint := by
  refine ⟨fun s i x => execSliceLookup_next i x s, fun s i k => execUpdate_next i k s, fun s i k o tags stash ups => ?events,
    orderPoint_eq, fun s i o f hf => ?attach, fun s i o key f hnone hact hkey hcold hhit => ?hit,
    fun s i o f new tick store c p g a b low v len hact => serve_lookup hact f new tick store,
    fun s i o hnone hstale a b c d e v l hact => ?stale, fun s i o c p g b e v l => notReady_lookup⟩
  case events =>
    refine ⟨fun hhead hready hroom => (execSliceLookup_eq rfl hhead).trans ?_, fun hhead hready hfull => (execSliceLookup_eq rfl hhead).trans ?_,
      fun hhead hready => (execSliceLookup_eq rfl hhead).trans (if_pos hready),
      fun hhead hready => (execUpdate_eq hhead).trans (congrArg _ (if_pos hready)),
      fun hhead hready => ⟨(execUpdate_eq hhead).trans (congrArg _ (if_neg (ne_true_of_eq_false hready))),
        fun a b c d e v l => notReady_update⟩⟩
    · exact (if_neg (ne_false_of_eq_true hready)).trans (if_neg (Nat.not_le.mpr hroom))
    · exact (if_neg (ne_false_of_eq_true hready)).trans (if_pos hfull)
  case attach =>
    refine ⟨fun hpaid => ?_, fun k e hk hne hcold he hcost => ?_⟩
    · rw [admitOp_of_flight hf, ownReads_none (o := noted s i o) hpaid]
      rfl
    · rw [admitOp_of_flight hf, ownReads_charged (o := noted s i o) hk hne hcold he hcost]
      rfl
  case hit =>
    exact (admitOp_of_no_flight hnone).trans
      ((runOp_hot_hit (o := noted s i o) hact hkey hcold hhit).trans (serve_noted _ _ _ _ _))
  case stale => exact (admitOp_of_no_flight hnone).trans (runOp_stale_update (o := noted s i o) hact hstale)

end

/-! ## The progress of an in-flight entry: O36 -/

section

namespace Sys2Proof.Machine

open Sys2Proof

/-! ### The events of an in-flight entry answer a next state -/

theorem execTagPairReadDone_next (i : Fin 16) (k : Nat) (s : State) : ∃ t, execTagPairReadDone i k s = .next t := by
  unfold execTagPairReadDone
  split <;> exact ⟨_, rfl⟩

theorem execRecordReadDone_next (i : Fin 16) (k : Nat) (s : State) : ∃ t, execRecordReadDone i k s = .next t := by
  unfold execRecordReadDone
  split <;> exact ⟨_, rfl⟩

theorem execSetupQueueEnter_next (i : Fin 16) (k : Nat) (s : State) : ∃ t, execSetupQueueEnter i k s = .next t := by
  unfold execSetupQueueEnter
  dsimp only
  split
  · split
    · split_ifs <;> exact ⟨_, rfl⟩
    · exact ⟨_, rfl⟩
  · exact ⟨_, rfl⟩

theorem execSetupDone_next (i : Fin 16) (s : State) : ∃ t, execSetupDone i s = .next t := by
  unfold execSetupDone
  dsimp only
  split
  · exact ⟨_, rfl⟩
  · split
    · exact ⟨_, rfl⟩
    · split
      · split <;> exact ⟨_, rfl⟩
      · exact ⟨_, rfl⟩

theorem execWriteBackDone_next (i : Fin 16) (k : Nat) (s : State) : ∃ t, execWriteBackDone i k s = .next t := by
  unfold execWriteBackDone
  dsimp only
  split <;> exact ⟨_, rfl⟩

/-! ### The reads of an entry (R52, R72, R97) -/

section Reads

variable {s : State} {f : Flight}

theorem execTagPairReadDone_of_flight {i : Fin 16} {k : Nat} (h : s.flight? i k = some f) :
    execTagPairReadDone i k s = .next (pairReadDone s i f) := by
  simp only [execTagPairReadDone, h]

theorem execRecordReadDone_of_flight {i : Fin 16} {k : Nat} (h : s.flight? i k = some f) :
    execRecordReadDone i k s = .next (recReadDone s i f) := by
  simp only [execRecordReadDone, h]

/-- An entry whose pair has been read goes on with the records whose fingerprints match, or with the miss. -/
theorem pairReadDone_eq (h : f.phase = .pairRead) (i : Nat) :
    pairReadDone s i f =
      let x := flowHash s (f.key.getD 0)
      let cs := wayCands (liveWays s i (hPair x)) (hFp x)
      if cs = [] then missBranch (fixPair s i (hPair x)) i f else readCands (fixPair s i (hPair x)) i f false cs := by
  simp only [pairReadDone, h, beq_self_eq_true, if_true, List.isEmpty_iff]

theorem recReadDone_recRead {b : Bool} {cs : List (Nat × Bool)} (h : f.phase = .recRead b cs) (i : Nat) :
    recReadDone s i f = recStep s i f b cs := by
  simp only [recReadDone, h]

/-- A visit examines its record, unless that was void at its place and has been built since (R97). -/
theorem visitRead_eq (s : State) (i : Nat) (f : Flight) :
    visitRead s i f =
      let z := f.opener.handle % 2 ^ 29
      if f.void = true ∧ recOk z (recCopy s i z).1 = true ∧ recVoid s i z = false then s else sweepRecord s i z f.opener.tick := by
  simp only [visitRead, Bool.and_eq_true, Bool.not_eq_true', and_assoc]

theorem recReadDone_idxRead (h : f.phase = .idxRead) (i : Nat) :
    recReadDone s i f = visitEnd (closeFlight (visitRead s i f) i f) i f.opener := by
  simp only [recReadDone, h]

/-- The last visit of a pass completes it. -/
theorem visitEnd_last {o : FlowOp} {t : Nat} (h : o.act = .sweep (some t)) (i : Nat) : visitEnd s i o = passDone s i t := by
  simp only [visitEnd, h]

/-- Any other visit leaves the pass as it is. -/
theorem visitEnd_other {o : FlowOp} (h : ∀ t, o.act ≠ .sweep (some t)) (i : Nat) : visitEnd s i o = s := by
  unfold visitEnd
  split
  next t ht => exact absurd ht (h t)
  next => rfl

end Reads

/-! ### The candidates of an entry (R52, R54, R67) -/

/-- An entry examines one candidate record that it has read, from its stash or from its tag pair. -/
def candRead (s : State) (i : Nat) (f : Flight) (stash : Bool) (c : Nat × Bool) : State × Option RecFound :=
  candTry s i (f.key.getD 0)
    (if stash then Via.stash (hPair (flowHash s (f.key.getD 0))) else Via.pair (hPair (flowHash s (f.key.getD 0))))
    (if stash then 1 else 2) false [c]

section Candidates

variable {s u : State} {i : Nat} {f : Flight} {stash : Bool} {c : Nat × Bool} {cs : List (Nat × Bool)}

/-- A candidate answers that an earlier entry names: the entry and what it holds go behind that one. -/
theorem recStep_attach {e : RecFound} {g : Flight} (h : candRead s i f stash c = (u, some e)) (hg : behind u i f e.idx = some g) :
    recStep s i f stash (c :: cs) =
      modFlight (dropFlight (charge u i (f.opener.owes e.cost)) i f.id) i g.id fun x =>
        { x with attached := x.attached ++ { f.opener with cold := true } :: f.attached } := by
  simp only [candRead] at h
  simp only [recStep, h, hg]

/-- A candidate answers that no earlier entry names: it serves the opener, and the entry closes. -/
theorem recStep_serve {e : RecFound} (h : candRead s i f stash c = (u, some e)) (hg : behind u i f e.idx = none) :
    recStep s i f stash (c :: cs) =
      closeFlight (serve (countCold (charge u i (f.opener.owes e.cost)) i) i f.opener e false f.tick fun v z =>
        if e.place = .hot then touch (writeRec v i e.idx z) i e.idx else fillHot v i e.idx z true false) i f := by
  simp only [candRead] at h
  simp only [recStep, h, hg, beq_iff_eq]

/-- A candidate does not answer, and others are left. -/
theorem recStep_more (h : candRead s i f stash c = (u, none)) (hcs : cs ≠ []) :
    recStep s i f stash (c :: cs) = readCands u i f stash cs := by
  have hmore : (!cs.isEmpty) = true := by simpa using hcs
  simp only [candRead] at h
  simp only [recStep, h, hmore, if_true]

/-- The last candidate of the stash does not answer: the tag pair is read. -/
theorem recStep_stash_end (h : candRead s i f true c = (u, none)) :
    recStep s i f true [c] =
      memFlight (modFlight u i f.id fun x => { x with phase := .pairRead }) i (tagUnit i (hPair (flowHash s (f.key.getD 0))))
        .pairRead := by
  simp only [candRead] at h
  simp only [recStep, h]
  rfl

/-- The last candidate of the pair does not answer: no record does. -/
theorem recStep_pair_end (h : candRead s i f false c = (u, none)) : recStep s i f false [c] = missBranch u i f := by
  simp only [candRead] at h
  simp only [recStep, h]
  rfl

end Candidates

/-! ### The setup queue and write-backs (R73, R78, R79, R83) -/

section Setup

variable {s u : State} {i : Fin 16} {k : Nat} {f : Flight} {leaf : W64} {t : BitVec 512} {met : Bool}

/-- A held entry enters a setup queue with room, where no earlier one waits for room. -/
theorem execSetupQueueEnter_room (hf : s.flight? i k = some f) (hp : f.phase = .held leaf t met)
    (hroom : (s.slice i).setupQ.length < 1024) (hfirst : heldBefore (s.slice i) f.id = false) :
    execSetupQueueEnter i k s =
      .next (((modFlight s i f.id fun g => { g with phase := .setup leaf t }).modSlice i fun x => { x with
        setupQ := x.setupQ ++ [f.id] }).peak (Reg.FLW_SETUPQ_PEAK i) ((s.slice i).setupQ.length + 1)) := by
  simp [execSetupQueueEnter, hf, hp, hroom, hfirst]

/-- A held entry that finds the setup queue full takes its template's BUSY_OUTCOME, where that is not HOLD. -/
theorem execSetupQueueEnter_busy (hf : s.flight? i k = some f) (hp : f.phase = .held leaf t met)
    (hfull : 1024 ≤ (s.slice i).setupQ.length) (ht : Tmpl.busy t ≠ 0) :
    execSetupQueueEnter i k s =
      .next (closeOutcome (if met then s else s.bump (Reg.FLW_BUSY_COUNT i)) i f St.busy (Tmpl.busy t) 0x28) := by
  simp [execSetupQueueEnter, hf, hp, Nat.not_lt.mpr hfull, ht]

/-- Under HOLD a held entry that finds the setup queue full waits. -/
theorem execSetupQueueEnter_hold (hf : s.flight? i k = some f) (hp : f.phase = .held leaf t met)
    (hfull : 1024 ≤ (s.slice i).setupQ.length) (ht : Tmpl.busy t = 0) :
    execSetupQueueEnter i k s =
      .next (modFlight (if met then s else s.bump (Reg.FLW_BUSY_COUNT i)) i f.id fun g => { g with phase := .held leaf t true }) := by
  simp [execSetupQueueEnter, hf, hp, Nat.not_lt.mpr hfull, ht]

/-- The record that an entry's setup builds: its template's, of its key and its opener's direction (R83). -/
def setupRecord (f : Flight) (leaf : W64) (t : BitVec 512) (low : Bool) : Rec :=
  tmplRecord t (leafTmpl leaf) (f.key.getD 0) (!low) (leafParam leaf)

variable {c p g l : Nat} {a b low : Bool} {v : List Nat}

/-- The entry that comes first in the setup queue closes with the refusal of its record. -/
theorem execSetupDone_refused (hhead : setupHead (s.slice i) = some k) (hf : s.flight? i k = some f) (hp : f.phase = .setup leaf t)
    (hact : f.opener.act = .lookup c p g a b low v l) {why : Nat}
    (hbuild : buildRecord s i (setupRecord f leaf t low) (leafRule leaf) (Tmpl.event t) = (u, .refused why)) :
    execSetupDone i s = .next (closeRefused u i f why t) := by
  rw [setupRecord] at hbuild
  simp only [execSetupDone, hhead, hf, hp, hact, hbuild]

/-- The record of the entry that comes first in the setup queue is built: its packet is served as the first hit, and the entry closes. -/
theorem execSetupDone_built (hhead : setupHead (s.slice i) = some k) (hf : s.flight? i k = some f) (hp : f.phase = .setup leaf t)
    (hact : f.opener.act = .lookup c p g a b low v l) {h : Nat}
    (hbuild : buildRecord s i (setupRecord f leaf t low) (leafRule leaf) (Tmpl.event t) = (u, .handle h)) :
    execSetupDone i s =
      let x := recCopy u i (h % 2 ^ 29)
      .next (closeFlight (serve u i f.opener ⟨h % 2 ^ 29, false, x.1, x.2, 0⟩ true s.tick
        fun w z => writeRec w i (h % 2 ^ 29) z) i f) := by
  rw [setupRecord] at hbuild
  simp only [execSetupDone, hhead, hf, hp, hact, hbuild]

/-- A pending write-back reaches HBM and leaves the write-back buffer. -/
theorem execWriteBackDone_pending {z : Unit128} (h : (s.slice i).pending? k = some z) :
    execWriteBackDone i k s =
      .next ((s.modSlice i fun x => { x with wbuf := x.wbuf.filter fun e => e.1 != k }).setUnit k z) := by
  simp only [execWriteBackDone, h]

end Setup

end Sys2Proof.Machine

open Sys2Proof Sys2Proof.Machine

/-- Settles O36: each event of an entry by its phase, and the step of an entry that reads records by what its candidate answers. -/
theorem flightProgress : Obligations.FlightProgress := by
  refine ⟨fun s i k => ⟨execTagPairReadDone_next i k s, execRecordReadDone_next i k s, execSetupQueueEnter_next i k s,
      execWriteBackDone_next i k s⟩, fun s i => execSetupDone_next i s,
    fun s i k f hf => ⟨fun hp => ?pair, fun b cs hp => ?record, fun hp => ?visit, fun leaf t met hp => ?held⟩,
    fun s i f b d ds => ⟨fun e he => ?answers, fun he => ?answersNot⟩, fun s i k f leaf t hhead hf hp c p g a b low v l hact => ?setup,
    fun s i k z => execWriteBackDone_pending⟩
  case pair =>
    have hrun := (execTagPairReadDone_of_flight hf).trans (congrArg _ (pairReadDone_eq hp i))
    exact ⟨fun hnone => hrun.trans (congrArg _ (if_pos hnone)), fun hsome => hrun.trans (congrArg _ (if_neg hsome))⟩
  case record => exact (execRecordReadDone_of_flight hf).trans (congrArg _ (recReadDone_recRead hp i))
  case visit =>
    have hrun := (execRecordReadDone_of_flight hf).trans (congrArg _ (recReadDone_idxRead hp i))
    rw [visitRead_eq] at hrun
    exact ⟨fun t ht => hrun.trans (congrArg _ (visitEnd_last ht i)), fun hother => hrun.trans (congrArg _ (visitEnd_other hother i))⟩
  case held =>
    exact ⟨execSetupQueueEnter_room hf hp, execSetupQueueEnter_busy hf hp, execSetupQueueEnter_hold hf hp⟩
  case answers =>
    have hread : candRead s i f b d = ((candRead s i f b d).1, some e) := Prod.ext rfl he
    exact ⟨fun g hg => recStep_attach hread hg, fun hg => recStep_serve hread hg⟩
  case answersNot =>
    have hread : candRead s i f b d = ((candRead s i f b d).1, none) := Prod.ext rfl he
    refine ⟨fun hds => recStep_more hread hds, fun hds hb => ?_, fun hds hb => ?_⟩ <;> subst hds hb
    · exact recStep_stash_end hread
    · exact recStep_pair_end hread
  case setup =>
    exact ⟨fun why hwhy => execSetupDone_refused hhead hf hp hact (Prod.ext rfl hwhy),
      fun h hh => execSetupDone_built hhead hf hp hact (Prod.ext rfl hh)⟩

end

/-! ## The record commands by key: O31 -/

section

namespace Sys2Proof.Machine

open Sys2Proof

/-! ### A record command by key reaches its slice (R40, R92) -/

section ByKey

variable {s : State} {r n i : Nat} {c : CmdEnt} {k : Key} {pool : Bool}

/-- A key in canonical form leads its command to its home slice, where it runs in its place (R66, R92). -/
theorem byKeyCmd_served (hkey : keyBad k = false) (hhome : hostHome s k pool = some i)
    (h : ServedAt s i (hostOp s i r n c (some k))) :
    byKeyCmd s r n c k pool = atSlice (placed s i) i r n (noted (placed s i) i (hostOp s i r n c (some k))) := by
  simp only [byKeyCmd, hkey, hhome, Bool.false_eq_true, if_false]
  exact toSlice_served h

/-- A key that is not in canonical form refuses its command (R92). -/
theorem byKeyCmd_bad (hkey : keyBad k = true) : byKeyCmd s r n c k pool = s.badField r n := if_pos hkey

end ByKey

/-! ### What the commands by key do there (R74, R90, R92, R105) -/

/-- An operation that has not read HBM before owes the whole charge of its reads (R67, R74). -/
theorem owes_of_not_cold {o : FlowOp} (h : o.cold = false) (n : Nat) : o.owes n = n := by
  simp [FlowOp.owes, h]

section AtSlice

variable {s u v : State} {i r n : Nat} {o : FlowOp} {c : CmdEnt} {f : RecFound}

theorem atSlice_lookup (hc : s.cmd? r n = some c) (hop : descOp c.desc = 0x20) : atSlice s i r n o = atLookup s i r n o c := by
  simp only [atSlice, hc, hop]

theorem atSlice_install (hc : s.cmd? r n = some c) (hop : descOp c.desc = 0x22) : atSlice s i r n o = atInstall s i r n o c := by
  simp only [atSlice, hc, hop]

theorem atLookup_found (hcold : o.cold = false) (h : findKey s i (bufKey c) = (u, some f)) :
    atLookup s i r n o c =
      ((hostFill (charge u i f.cost) i f true).output c (bytesOf f.record)).finish r n St.ok 0 (f.record.handle f.idx) := by
  simp only [atLookup, h, owes_of_not_cold hcold]

theorem atLookup_missed (hcold : o.cold = false) (h : findKey s i (bufKey c) = (u, none)) :
    atLookup s i r n o c = (charge u i 1).finish r n St.notFound := by
  simp only [atLookup, h, owes_of_not_cold hcold]

theorem atDelete_key_found (hkey : fcByKey c.desc = true) (hcold : o.cold = false) (h : findKey s i (bufKey c) = (u, some f)) :
    atDelete s i r n o c = (delRecord (charge u i 2) i f.idx f.record 2).finish r n St.ok := by
  simp only [atDelete, hkey, h, owes_of_not_cold hcold, if_true]

theorem atDelete_key_missed (hkey : fcByKey c.desc = true) (hcold : o.cold = false) (h : findKey s i (bufKey c) = (u, none)) :
    atDelete s i r n o c = (charge u i 2).finish r n St.notFound := by
  simp only [atDelete, hkey, h, owes_of_not_cold hcold, if_true]

/-- An install of a key that a record answers to touches that record where it is hot (R53), and installs nothing. -/
theorem atInstall_found (hcold : o.cold = false) (h : findKey s i (installRec (bufRec c)).key = (u, some f)) :
    atInstall s i r n o c =
      (if f.place = .hot then touch (charge u i f.cost) i f.idx else charge u i f.cost).finish r n St.exists_ 0
        (f.record.handle f.idx) := by
  simp only [atInstall, h, owes_of_not_cold hcold, beq_iff_eq]

/-- The record that an install's image gives is built, and its handle returned (R92). -/
theorem atInstall_built {handle : Nat} (h : findKey s i (installRec (bufRec c)).key = (u, none))
    (hbuild : buildRecord u i (installRec (bufRec c)) 0 (u.tmpl i (installRec (bufRec c)).tmpl).event = (v, .handle handle)) :
    atInstall s i r n o c = v.finish r n St.ok 0 handle := by
  simp only [atInstall, h, hbuild]

/-- An install whose record is refused counts the refusal, and is charged as a lookup that misses (R74, R80). -/
theorem atInstall_refused {why : Nat} (h : findKey s i (installRec (bufRec c)).key = (u, none))
    (hbuild : buildRecord u i (installRec (bufRec c)) 0 (u.tmpl i (installRec (bufRec c)).tmpl).event = (v, .refused why)) :
    atInstall s i r n o c = (charge (refuseCount v i why) i 1).finish r n St.refused why := by
  simp only [atInstall, h, hbuild]

end AtSlice

/-! ### The commands by key as their ring hands them over -/

section Handed

variable {s : State} {r : Fin 1024} {n : Nat} {c : CmdEnt}

theorem execFlowLookup_handed (h : Handed s r n 0x20 c) :
    execFlowLookup r n s = .next (byKeyCmd s r n c (bufKey c) (fcPool c.desc)) := onCmd_of_handed h _

theorem execFlowDelete_by_key (h : Handed s r n 0x24 c) (hkey : fcByKey c.desc = true) :
    execFlowDelete r n s = .next (byKeyCmd s r n c (bufKey c) (fcPool c.desc)) :=
  (onCmd_of_handed h _).trans (by simp only [hkey, if_true])

theorem execFlowInstall_handed (h : Handed s r n 0x22 c) (hpool : fcPool c.desc = false)
    (hrec : zeroFields (bufRec c) recReserved = true) :
    execFlowInstall r n s = .next (byKeyCmd s r n c (bufRec c).key false) :=
  (onCmd_of_handed h _).trans (by simp only [hpool, hrec, Bool.not_true, Bool.false_eq_true, if_false])

end Handed

end Sys2Proof.Machine

open Sys2Proof Sys2Proof.Machine

/-- Settles O31: a command by key runs at its home slice in its place (`byKeyCmd_served`), by one lemma for each command and for each answer
of the search by key. -/
theorem recordCommandsByKey : Obligations.RecordCommandsByKey := by
  refine ⟨fun s r n => ⟨onCmd_next _ _ _ _ _, onCmd_next _ _ _ _ _, onCmd_next _ _ _ _ _⟩, fun s r n c hc =>
    ⟨fun i h hgood hhome hserved => ?lookup, fun i h hkey hgood hhome hserved => ?delete, fun h hpool hrec hgood hserved => ?install,
      fun h hbad => ?bad⟩⟩
  case lookup =>
    have hrun := (execFlowLookup_handed h).trans
      (congrArg _ ((byKeyCmd_served hgood hhome hserved).trans (atSlice_lookup hc (descOp_of_handed h))))
    exact ⟨fun f hf => hrun.trans (congrArg _ (atLookup_found rfl (Prod.snd_eq_iff.mp hf))),
      fun hf => hrun.trans (congrArg _ (atLookup_missed rfl (Prod.snd_eq_iff.mp hf)))⟩
  case delete =>
    have hrun := (execFlowDelete_by_key h hkey).trans
      (congrArg _ ((byKeyCmd_served hgood hhome hserved).trans (atSlice_delete hc (descOp_of_handed h))))
    exact ⟨fun f hf => hrun.trans (congrArg _ (atDelete_key_found hkey rfl (Prod.snd_eq_iff.mp hf))),
      fun hf => hrun.trans (congrArg _ (atDelete_key_missed hkey rfl (Prod.snd_eq_iff.mp hf)))⟩
  case install =>
    have hrun := (execFlowInstall_handed h hpool hrec).trans
      (congrArg _ ((byKeyCmd_served hgood rfl hserved).trans (atSlice_install hc (descOp_of_handed h))))
    exact ⟨fun f hf => hrun.trans (congrArg _ (atInstall_found rfl (Prod.snd_eq_iff.mp hf))),
      fun hf handle hh => hrun.trans (congrArg _ (atInstall_built (Prod.snd_eq_iff.mp hf) (Prod.snd_eq_iff.mp hh))),
      fun hf why hwhy => hrun.trans (congrArg _ (atInstall_refused (Prod.snd_eq_iff.mp hf) (Prod.snd_eq_iff.mp hwhy)))⟩
  case bad => exact (execFlowLookup_handed h).trans (congrArg _ (byKeyCmd_bad hbad))

end

/-! ## FLOW_TEMPLATE_WRITE, EXPORT_PROFILE_WRITE and the Filigree images: O33 -/

section

namespace Sys2Proof.Machine

open Sys2Proof

/-! ### Filigree images (R89) -/

section Filigree

variable {s : State} {d : Desc}

/-- No bank is active for a load where the mode is SINGLE, or where each named slice uses its other bank. -/
theorem flgActive_eq_false (h : flgDual s = true → ∀ i ∈ maskList 16 (fcSlices d), (s.slice i).bank ≠ fcBank d) :
    flgActive s d = false := by
  rw [flgActive, Bool.and_eq_false_imp]
  exact fun hdual => List.any_eq_false.mpr fun i hi => mt beq_iff_eq.mp (h hdual i hi)

theorem flgActive_eq_true (hdual : flgDual s = true) (h : ∃ i ∈ maskList 16 (fcSlices d), (s.slice i).bank = fcBank d) :
    flgActive s d = true := by
  obtain ⟨i, hi, hbank⟩ := h
  exact Bool.and_eq_true_iff.mpr ⟨hdual, List.any_eq_true.mpr ⟨i, hi, beq_iff_eq.mpr hbank⟩⟩

/-- The size of a bank in bytes, by the mode. -/
theorem flgBytes_eq (s : State) : flgBytes s = if flgDual s then 524288 else 1048576 := rfl

/-- BUF_LEN of a FILIGREE_LOAD must be a multiple of 8 that the bank holds; its byte is 24. -/
theorem filigreeLoad_length_range (h : fld d 223 192 % 8 ≠ 0 ∨ flgBytes s < fld d 223 192) : (true, 24) ∈ cmdRanges s 0x26 d := by
  have hbroken : (fld d 223 192 % 8 != 0 || flgBytes s < fld d 223 192) = true := by simpa using h
  simp [cmdRanges, hbroken]

/-- The first node of a bank. -/
theorem bank_base (bank : Bool) : 2 ^ 17 * bank.toNat = if bank then 131072 else 0 := by
  cases bank <;> rfl

end Filigree

/-! ### The commands as their ring hands them over -/

section Handed

variable {s : State} {r : Fin 1024} {n : Nat} {c : CmdEnt}

/-- A setup template reaches every slice (R84, R85). -/
theorem execFlowTemplateWrite_handed (h : Handed s r n 0x25 c)
    (hres : zeroFields (ofBytes 512 c.buf : BitVec 512) tmplReserved = true) :
    execFlowTemplateWrite r n s = .next ((forAll s (List.range 16) fun u i => u.modSlice i fun x =>
      { x with templates := fput x.templates 0 (fcTmpl c.desc) (ofBytes 512 c.buf) }).finish r n St.ok) :=
  (onCmd_of_handed h _).trans (by simp only [hres, Bool.not_true, Bool.false_eq_true, if_false])

/-- A profile other than 0, with Template IDs of 256 or above, is stored (R123). -/
theorem execExportProfileWrite_handed (h : Handed s r n 0x28 c) (hprof : fld c.desc 75 64 ≠ 0)
    (hres : zeroFields (ofBytes 128 c.buf : BitVec 128) [(63, 58), (127, 96)] = true)
    (hfirst : 256 ≤ fld (ofBytes 128 c.buf : BitVec 128) 31 16) (hsecond : 256 ≤ fld (ofBytes 128 c.buf : BitVec 128) 47 32) :
    execExportProfileWrite r n s = .next ({ s with flw := { s.flw with
      expProf := fput s.flw.expProf 0 (fld c.desc 75 64) (ofBytes 128 c.buf) } }.finish r n St.ok) :=
  (onCmd_of_handed h _).trans (by simp [hprof, hres, Nat.not_lt.mpr hfirst, Nat.not_lt.mpr hsecond])

section Slices

variable (hslices : maskList 16 (fcSlices c.desc) ≠ [])
include hslices

/-- An image is loaded where it names no active bank; SINGLE mode has bank 0 alone (R89). -/
theorem execFiligreeLoad_handed (h : Handed s r n 0x26 c) (hactive : flgActive s c.desc = false) :
    execFiligreeLoad r n s = .next ((forAll s (maskList 16 (fcSlices c.desc)) fun v i =>
      flgLoad v i (flgDual s && fcBank c.desc) (words64 c.buf)).finish r n St.ok) :=
  (onCmd_of_handed h _).trans (by simp [hslices, hactive])

theorem execFiligreeLoad_active (h : Handed s r n 0x26 c) (hactive : flgActive s c.desc = true) :
    execFiligreeLoad r n s = .next (s.badField r n 15) :=
  (onCmd_of_handed h _).trans (by simp [hslices, hactive])

theorem execFiligreeSwitch_dual (h : Handed s r n 0x27 c) (hdual : flgDual s = true) :
    execFiligreeSwitch r n s = .next ((forAll s (maskList 16 (fcSlices c.desc)) fun u i =>
      u.modSlice i fun x => { x with bank := !x.bank }).finish r n St.ok) :=
  (onCmd_of_handed h _).trans (by simp [hslices, hdual])

theorem execFiligreeSwitch_single (h : Handed s r n 0x27 c) (hdual : flgDual s = false) :
    execFiligreeSwitch r n s = .next (s.badField r n) :=
  (onCmd_of_handed h _).trans (by simp [hslices, hdual])

end Slices

end Handed

end Sys2Proof.Machine

open Sys2Proof Sys2Proof.Machine

/-- Settles O33: by one lemma for each command and for each check that it passes or fails. -/
theorem flowImages : Obligations.FlowImages := by
  refine ⟨fun s r n => ⟨onCmd_next _ _ _ _ _, onCmd_next _ _ _ _ _, onCmd_next _ _ _ _ _, onCmd_next _ _ _ _ _⟩, fun s r n c =>
    ⟨execFlowTemplateWrite_handed, execExportProfileWrite_handed, fun h hslices => ⟨fun hother => ?load, fun hsame => ?active⟩,
      fun d h => ?length, fun i bank ns => ?image,
      fun h hslices => ⟨execFiligreeSwitch_dual hslices h, execFiligreeSwitch_single hslices h⟩⟩⟩
  case load => exact execFiligreeLoad_handed hslices h (flgActive_eq_false hother)
  case active =>
    obtain ⟨hdual, hbank⟩ := hsame
    exact execFiligreeLoad_active hslices h (flgActive_eq_true hdual hbank)
  case length => exact filigreeLoad_length_range (flgBytes_eq s ▸ h)
  case image => rw [flgLoad, State.modSlice, bank_base]

end

/-! ## The TCP tracker: O38 -/

section

namespace Sys2Proof.Machine

open Sys2Proof

section TcpTracker

variable {flags : Nat} (st other : Nat)

/-- RST ends the packet's own direction, whatever its other flags say (R103). -/
theorem tcpTrack_rst (h : flags.testBit 2 = true) : tcpTrack st other flags = (5, other) := if_pos h

/-- Without RST the own direction goes through SYN, a bare ACK and FIN in turn, and an ACK answers the other direction's FIN (R103). -/
theorem tcpTrack_no_rst (h : flags.testBit 2 = false) :
    tcpTrack st other flags =
      let a := if flags.testBit 1 = true ∧ st = 0 then 1 else st
      let b := if flags.testBit 4 = true ∧ a = 1 ∧ flags.testBit 1 = false then 2 else a
      let d := if flags.testBit 0 = true ∧ b < 3 then 3 else b
      (d, if flags.testBit 4 = true ∧ other = 3 then 4 else other) := by
  simp only [tcpTrack, h, Bool.false_eq_true, if_false, Bool.and_eq_true, decide_eq_true_eq, Bool.not_eq_true', and_assoc]

end TcpTracker

end Sys2Proof.Machine

open Sys2Proof Sys2Proof.Machine

/-- Settles O38: by RST or no RST (`tcpTrack_rst`, `tcpTrack_no_rst`). -/
theorem tcpTracker : Obligations.TcpTracker :=
  fun st other _ => ⟨tcpTrack_rst st other, tcpTrack_no_rst st other⟩

end

/-! ## Punted frames, exported messages and the vectors' time limits: O26 -/

section

namespace Sys2Proof.Machine

open Sys2Proof

/-! ### PUNT_WRITE (R290, R457, R458) -/

theorem execPuntWrite_next (q : Fin 32) (s : State) : ∃ t, execPuntWrite q s = .next t := by
  unfold execPuntWrite
  dsimp only
  split <;> exact ⟨_, rfl⟩

section Punt

variable {s : State} {c : Copy} {x : Frame}

/-- The queue whose head copy its port's scheduler has next writes that copy. -/
theorem execPuntWrite_selected {q : Fin 32} (hsel : (selectCopy s (128 + q.val / 8) (puntReady s)).2 = some c)
    (hqueue : c.queue = 1024 + q.val) :
    execPuntWrite q s = .next (puntCopy (selectCopy s (128 + q.val / 8) (puntReady s)).1 c) := by
  simp only [execPuntWrite, hsel, hqueue, if_true]

/-- A cell that fails its check drops the copy with its frame (R290). -/
theorem puntCopy_badCell {k : Nat} (hx : s.frame? c.frame = some x) (hbad : badCell s c.frame = some k) :
    puntCopy s c = settle (cellFail (copyDrop s c) c.frame k) c.frame := by
  simp only [puntCopy, hx, hbad]

/-- A copy with sound cells and bytes to write fills posted buffers of its ring, which counts an entry where it interrupts (R458, R463). -/
theorem puntCopy_written {bs : List Byte} (hx : s.frame? c.frame = some x) (hgood : badCell s c.frame = none)
    (hbytes : puntBytes s x c = .ok bs) :
    puntCopy s c =
      let r := puntRing s c.queue
      let t := puntFill r (puntMeta s x c bs.length) (s.ring r).posted { s with freeCtr := s.freeCtr + 1 } bs true
      let u := puntDone (t.1.setRing r { t.1.ring r with posted := t.2 }) c
      if bit (s.reg (Reg.HIF_RING_CFG r)) 15 then vectorCount u (ringVec s r) else u := by
  simp only [puntCopy, hx, hgood, hbytes]

end Punt

/-- A frame that the first posted buffer holds takes that one alone, with the metadata in its write-back (R458). -/
theorem puntFill_one_buffer {p : Posted} {bs : List Byte} (hfit : bs.length ≤ p.len) (s : State) (r : Nat)
    (info : List (Nat × Nat × Nat)) (ps : List Posted) :
    puntFill r info (p :: ps) s bs true = (hostWrite (hostWrite s p.addr bs) (slotAddr s r p.slot)
      (bytesOf (pack 512 ([(8, 8, 1), (9, 9, 0), (10, 10, 1), (29, 16, bs.length)] ++ info))), ps) := by
  have hpart : bs.take p.len = bs := List.take_of_length_le hfit
  have hrest : bs.drop p.len = [] := List.drop_of_length_le hfit
  simp only [puntFill, hpart, hrest, List.isEmpty_nil, Bool.not_true, Bool.toNat_true, Bool.toNat_false, if_true]

/-! ### EXPORT_MESSAGE_CLOSE (R124, R461) -/

theorem execExportMessageClose_next (n : Fin 4096) (s : State) : ∃ t, execExportMessageClose n s = .next t := by
  unfold execExportMessageClose
  dsimp only
  split
  · exact ⟨_, rfl⟩
  · split <;> exact ⟨_, rfl⟩

section Export

variable {s : State}

/-- The oldest closed message of the profile goes first. -/
theorem execExportMessageClose_closed {n : Fin 4096} {e : Nat × ExpMsg}
    (h : s.flw.expClosed.find? (fun e => e.1 == n.val) = some e) :
    execExportMessageClose n s =
      .next (exportWrite { s with flw := { s.flw with expClosed := s.flw.expClosed.erase e } } n e.2) := by
  simp only [execExportMessageClose, h]

/-- With none closed, the message in hand closes 1 ms after its first record. -/
theorem execExportMessageClose_inHand {n : Fin 4096} {m : ExpMsg}
    (hnone : s.flw.expClosed.find? (fun e => e.1 == n.val) = none) (h : ffind? s.flw.expMsgs n = some m) :
    execExportMessageClose n s =
      let u := s.reach (m.opened + 1000000)
      .next (exportWrite { u with flw := { u.flw with expMsgs := ferase u.flw.expMsgs n } } n m) := by
  simp only [execExportMessageClose, hnone, h]

/-- The ring that a profile names (R123). -/
def exportRing (s : State) (n : Nat) : Nat := fld (fget s.flw.expProf 0 n) 57 48

variable {n : Nat} {m : ExpMsg} {p : Posted} {ps : List Posted}

theorem exportWrite_no_buffer (h : (s.ring (exportRing s n)).posted = []) :
    exportWrite s n m = s.bump Reg.HIF_EXPORT_DROP_COUNT := by
  rw [exportRing] at h
  simp only [exportWrite, h]

/-- A message is discarded where its ring is no enabled EXPORT ring, or the first posted buffer is too small for it. -/
theorem exportWrite_unfit (hposted : (s.ring (exportRing s n)).posted = p :: ps)
    (h : (s.ring (exportRing s n)).enabled = false ∨ (s.ring (exportRing s n)).error = true ∨
      ringType s (exportRing s n) ≠ 3 ∨ p.len < m.size) :
    exportWrite s n m = s.bump Reg.HIF_EXPORT_DROP_COUNT := by
  rw [exportRing] at hposted h
  simp only [exportWrite, hposted]
  refine if_neg fun hfit => ?_
  simp only [Bool.and_eq_true, Bool.not_eq_true', beq_iff_eq, decide_eq_true_eq] at hfit
  obtain ⟨⟨⟨⟨henabled, herror⟩, htype⟩, hsize⟩, -⟩ := hfit
  rcases h with hoff | herr | hother | hsmall
  · exact Bool.false_ne_true (hoff.symm.trans henabled)
  · exact Bool.false_ne_true (herror.symm.trans herr)
  · exact hother htype
  · omega

/-- A message fit for its ring's first buffer is read from HBM and written there with its write-back; without IRQ_EN that is all. -/
theorem exportWrite_written (hposted : (s.ring (exportRing s n)).posted = p :: ps)
    (henabled : (s.ring (exportRing s n)).enabled = true) (herror : (s.ring (exportRing s n)).error = false)
    (htype : ringType s (exportRing s n) = 3) (hsize : m.size ≤ p.len) (hbus : busOff s (ringFn s (exportRing s n)) = false)
    (hirq : bit (s.reg (Reg.HIF_RING_CFG (exportRing s n))) 15 = false) :
    exportWrite s n m =
      let u := memPostIn s 8 0x1624000000 0x1DC000000 false ((m.size + 31) / 32)
      (hostWrite (hostWrite u p.addr (ipfixBytes u (fget s.flw.expProf 0 n) m)) (slotAddr u (exportRing s n) p.slot)
        (bytesOf (pack 512 [(8, 8, 1), (29, 16, m.size), (75, 64, n), (95, 80, m.records.length)]))).setRing (exportRing s n)
        { s.ring (exportRing s n) with posted := ps } := by
  simp only [exportRing] at *
  simp only [exportWrite, hposted, henabled, herror, htype, hsize, hbus, hirq, Bool.not_false, beq_self_eq_true, decide_true,
    Bool.and_self, if_true, Bool.false_eq_true, if_false]

end Export

/-! ### VECTOR_TIMEOUT (R463) -/

theorem execVectorTimeout_next (v : Fin 64) (s : State) : ∃ t, execVectorTimeout v s = .next t := by
  unfold execVectorTimeout
  split <;> exact ⟨_, rfl⟩

/-- Time goes on to the end of the vector's limit, which is counted from its first pending entry. -/
theorem execVectorTimeout_pending {s : State} {v : Fin 64} {t : Nat} (h : (s.vector v).since = some t) :
    execVectorTimeout v s = .next (vectorTry (s.reach (t + 1000 * s.rf (Reg.HIF_VEC_MOD v) 31 16)) v) := by
  simp only [execVectorTimeout, h]

end Sys2Proof.Machine

open Sys2Proof Sys2Proof.Machine

/-- Settles O26: each event by its cases; a message is discarded for want of a buffer (`exportWrite_no_buffer`) or as unfit for the first one
(`exportWrite_unfit`). -/
theorem puntAndExport : Obligations.PuntAndExport := by
  refine ⟨fun s q => execPuntWrite_next q s, fun s n => execExportMessageClose_next n s, fun s v => execVectorTimeout_next v s,
    fun s q c hsel hqueue => execPuntWrite_selected hsel hqueue,
    fun s c x hx => ⟨fun k => puntCopy_badCell hx, fun bs => puntCopy_written hx⟩,
    fun s r info p ps bs hfit => puntFill_one_buffer hfit s r info ps,
    fun s n e => execExportMessageClose_closed, fun s n m => execExportMessageClose_inHand,
    fun s n m => ⟨fun hdiscard => ?_, fun p ps => exportWrite_written⟩,
    fun s v t => execVectorTimeout_pending⟩
  cases hposted : (s.ring (exportRing s n)).posted with
  | nil => exact exportWrite_no_buffer hposted
  | cons p ps =>
    refine exportWrite_unfit hposted ?_
    rcases hdiscard with hnone | hoff | herr | htype | hsmall
    · exact absurd (hposted.symm.trans hnone) (List.cons_ne_nil p ps)
    · exact .inl hoff
    · exact .inr (.inl herr)
    · exact .inr (.inr (.inl htype))
    · exact .inr (.inr (.inr (hsmall p ps hposted)))

end

/-! ## The visits of the ageing sweep: O37 -/

section

namespace Sys2Proof.Machine

open Sys2Proof

/-! ### SWEEP_VISIT (R96, R97) -/

theorem execSweepVisit_next (i : Fin 16) (s : State) : ∃ t, execSweepVisit i s = .next t := by
  unfold execSweepVisit
  dsimp only
  split <;> exact ⟨_, rfl⟩

section Visit

variable {s : State} {i : Fin 16}

/-- The real time as the next visit of a slice finds it: its due time, INTERVAL cycles after the visit before (R96). -/
def atVisit (s : State) (i : Nat) : State := s.reach ((s.slice i).sweepFrom + (s.rf Reg.FLW_AGE_CTRL 20 1 * 20 + 26) / 27)

/-- The visit of a slice's next index takes its place at the order point. -/
def visitNext (s : State) (i : Nat) (took : Option Nat) : State :=
  orderPoint (atVisit s i) i { src := 9, act := .sweep took, handle := 2 ^ 25 * i + (s.slice i).sweepNext }

variable (hup : sliceUp s i = true) (hage : bit (s.reg Reg.FLW_AGE_CTRL) 0 = true)
  (hnext : (s.slice i).sweepNext < (s.slice i).wmark) (hroom : (s.slice i).flights.length < 8192)
include hup hage hnext hroom

/-- A visit before the last one of its pass: the index moves on, within the same pass. -/
theorem execSweepVisit_within (hmore : (s.slice i).sweepNext + 1 < (s.slice i).wmark) :
    execSweepVisit i s = .next ((visitNext s i none).modSlice i fun y => { y with
      sweepNext := (s.slice i).sweepNext + 1, sweepFrom := (atVisit s i).ns
      swept := (s.slice i).swept, passStart := (s.slice i).passStart }) := by
  simp [execSweepVisit, hup, hage, hnext, hroom, flightMax, Nat.not_le.mpr hmore, visitNext, atVisit]

/-- The last visit of a pass carries the pass's length in seconds, rounded up, and the next pass begins (R96). -/
theorem execSweepVisit_last (hlast : (s.slice i).wmark ≤ (s.slice i).sweepNext + 1) :
    execSweepVisit i s =
      .next ((visitNext s i (some (((atVisit s i).ns - (s.slice i).passStart + giga - 1) / giga))).modSlice i fun y => { y with
        sweepNext := 0, sweepFrom := (atVisit s i).ns, swept := (s.slice i).swept + 1, passStart := (atVisit s i).ns }) := by
  simp [execSweepVisit, hup, hage, hnext, hroom, flightMax, hlast, visitNext, atVisit]

end Visit

/-! ### What a visit does at the order point (R97) -/

section RunSweep

variable {s : State} {i : Nat} {o : FlowOp}

/-- A record without a copy in the directory is read from HBM, in an entry keyed by its index. -/
theorem runSweep_hbm (h : (recCopy s i (o.handle % 2 ^ 29)).2 = .hbm) :
    runSweep s i o = postUnit (openFlight (charge s i 1) i o .idxRead) i (o.handle % 2 ^ 29) false := by
  simp only [runSweep, h, beq_self_eq_true, if_true]

/-- A copy in the directory is examined at once. -/
theorem runSweep_copy (h : (recCopy s i (o.handle % 2 ^ 29)).2 ≠ .hbm) :
    runSweep s i o = visitEnd (sweepRecord s i (o.handle % 2 ^ 29) o.tick) i o := by
  simp only [runSweep, beq_iff_eq, h, if_false]

end RunSweep

end Sys2Proof.Machine

open Sys2Proof Sys2Proof.Machine

/-- Settles O37: a visit by its place in its pass (`execSweepVisit_within`, `execSweepVisit_last`), and what it does there by where its
record stands (`runSweep_hbm`, `runSweep_copy`). -/
theorem sweepVisits : Obligations.SweepVisits :=
  ⟨fun s i => execSweepVisit_next i s, fun _ i hup hage hnext hroom =>
    ⟨execSweepVisit_within hup hage hnext hroom, execSweepVisit_last hup hage hnext hroom, fun _ _ =>
      ⟨runSweep_hbm, fun h hother => (runSweep_copy h).trans (visitEnd_other hother i),
        fun _ h hact => (runSweep_copy h).trans (visitEnd_last hact i)⟩⟩⟩

end

/-! ## The indirection tables of spreading: O39 -/

section

namespace Sys2Proof.Machine

open Sys2Proof

section Handed

variable {s : State} {r : Fin 1024} {n : Nat} {c : CmdEnt}

/-- The image and ROT go into the table of every pipeline named (R148, R149). -/
theorem execIndirectionWrite_handed (h : Handed s r n 0x40 c) :
    execIndirectionWrite r n s = .next ((forAll s (maskList 8 (fld c.desc 71 64)) fun u p =>
      indirLoad u p (fld c.desc 75 72) (fld c.desc 80 76) c.buf).finish r n St.ok) :=
  onCmd_of_handed h _

/-- The table is read in the lowest pipeline named (R148). -/
theorem execIndirectionRead_handed {p : Nat} {rest : List Nat} (h : Handed s r n 0x41 c)
    (hlowest : maskList 8 (fld c.desc 71 64) = p :: rest) :
    execIndirectionRead r n s =
      .next ((s.output c ((List.range 512).flatMap fun i => bytesLE 2 (indirEntry s p (fld c.desc 75 72) i))).finish r n St.ok 0
        (indirRot s p (fld c.desc 75 72))) :=
  (onCmd_of_handed h _).trans (by simp only [hlowest, List.head?_cons, Option.getD_some])

end Handed

end Sys2Proof.Machine

open Sys2Proof Sys2Proof.Machine

/-- Settles O39: each command runs its meaning as its ring hands it over. -/
theorem indirectionTables : Obligations.IndirectionTables :=
  ⟨fun _ _ _ => ⟨onCmd_next _ _ _ _ _, onCmd_next _ _ _ _ _⟩, fun _ _ _ _ =>
    ⟨execIndirectionWrite_handed, fun _ _ => execIndirectionRead_handed⟩⟩

end

/-! ## From a frame to a packet: O44 -/

section

namespace Sys2Proof.Machine

open Sys2Proof

/-! ### The class action of a frame that is not NORMAL (R136) -/

section ClassAction

variable {s : State} {x : Frame} {o : Parsed} (f : Nat)

theorem classAct_drop (h : classAction s x.pipe o = 0) : classAct s f x o = frameDrop s f := by
  simp only [classAct, h]

theorem classAct_stateless (h : classAction s x.pipe o = 1) : classAct s f x o = pathStateless s f x o.outer := by
  simp only [classAct, h]

theorem classAct_punt (h : classAction s x.pipe o = 2) :
    classAct s f x o = deliver s f fun u => puntFrame u f { reason := classReason o } := by
  simp only [classAct, h]

/-- Every action above 2 punts the frame and lets it go on. -/
theorem classAct_punt_stateless (h : 3 ≤ classAction s x.pipe o) :
    classAct s f x o = pathStateless (puntFrame s f { reason := classReason o }) f x o.outer := by
  obtain ⟨k, hk⟩ := Nat.exists_eq_add_of_le' h
  simp only [classAct, hk]

end ClassAction

/-! ### PARSE_DECISION (R128, R136, R147, R460) -/

theorem execParseDecision_next (frame : Struck Nat) (s : State) : ∃ t, execParseDecision frame s = .next t := by
  unfold execParseDecision
  dsimp only
  split
  · exact ⟨_, rfl⟩
  · split
    · exact ⟨_, rfl⟩
    · split <;> exact ⟨_, rfl⟩

/-- The parser leaves a frame as it is: it has been decided, an earlier frame holds it back, or its pipeline is not ON (R21, R147). -/
def parserLeaves (s : State) (f : Nat) (x : Frame) : Bool :=
  !x.held || x.parsed.isSome || heldBehind s x.pipe f || behindPort s f x || s.domain (domPipe x.pipe) != .on

theorem parserLeaves_iff {s : State} {f : Nat} {x : Frame} : parserLeaves s f x = true ↔
    x.held = false ∨ x.parsed.isSome = true ∨ heldBehind s x.pipe f = true ∨ behindPort s f x = true ∨
      s.domain (domPipe x.pipe) ≠ .on := by
  simp only [parserLeaves, Bool.or_eq_true, Bool.not_eq_true', bne_iff_ne, or_assoc]

/-- The parser decides a frame that waits for it and that nothing holds back, in a pipeline that is ON. -/
theorem parserLeaves_eq_false {s : State} {f : Nat} {x : Frame} (hheld : x.held = true) (hparsed : x.parsed = none)
    (hpipe : heldBehind s x.pipe f = false) (hport : behindPort s f x = false) (hon : s.domain (domPipe x.pipe) = .on) :
    parserLeaves s f x = false := by
  simp [parserLeaves, hheld, hparsed, hpipe, hport, hon]

/-- What the parser finds in a frame; in Solitaire mode no path is stateful (R512). -/
def parsedOf (s : State) (x : Frame) : Parsed :=
  let o := parseFrame s x.pipe x.port x.bytes
  if s.hlt.solo then { o with stateful := false } else o

/-- A frame once the parser has decided it. -/
def parsedFrame (s : State) (x : Frame) : Frame := { x with parsed := some (parsedOf s x) }

/-- The state that has taken the parser's finding in, the frame's class counted (R136). -/
def parsedState (s : State) (f : Nat) (x : Frame) : State :=
  countParsed (s.setFrame f (parsedFrame s x)) x.pipe (parsedOf s x)

section Parse

variable {s : State} {f : Nat} {us : List Upset} {x : Frame} (hx : (strike s us).frame? f = some x)
include hx

theorem execParseDecision_left (h : parserLeaves (strike s us) f x = true) :
    execParseDecision ⟨f, us⟩ s = .next (strike s us) := by
  rw [parserLeaves] at h
  simp only [execParseDecision, hx, h, if_true]

section Decided

variable (h : parserLeaves (strike s us) f x = false)
include h

/-- A frame with DIRECT goes to its queue as NORMAL and stateless, whatever its bytes are (R460). -/
theorem execParseDecision_direct {q : Nat} (hdirect : x.direct = some q) :
    execParseDecision ⟨f, us⟩ s = .next (sendDirect ((strike s us).modFrame f fun x' => { x' with
      parsed := some { parseFrame (strike s us) x.pipe x.port x.bytes with cls := 0, sub := 0, stateful := false } }) f q) := by
  rw [parserLeaves] at h
  simp only [execParseDecision, hx, h, hdirect, Bool.false_eq_true, if_false]

/-- Any other frame is counted, and goes on by its class and its path. -/
theorem execParseDecision_decided (hdirect : x.direct = none) :
    execParseDecision ⟨f, us⟩ s = .next (
      let u := parsedState (strike s us) f x
      let o := parsedOf (strike s us) x
      if o.cls != 0 then classAct u f (parsedFrame (strike s us) x) o
      else if o.stateful then u
      else pathStateless u f (parsedFrame (strike s us) x) o) := by
  rw [parserLeaves] at h
  simp only [execParseDecision, hx, h, Bool.false_eq_true, if_false]
  split
  next q hq => exact absurd (hdirect.symm.trans hq) (Option.some_ne_none q).symm
  next => rfl

variable (hdirect : x.direct = none)
include hdirect

theorem execParseDecision_notNormal (hcls : (parsedOf (strike s us) x).cls ≠ 0) :
    execParseDecision ⟨f, us⟩ s =
      .next (classAct (parsedState (strike s us) f x) f (parsedFrame (strike s us) x) (parsedOf (strike s us) x)) :=
  (execParseDecision_decided hx h hdirect).trans (congrArg _ (if_pos (bne_iff_ne.mpr hcls)))

/-- A NORMAL frame on a stateful path waits for its engine queue (R147). -/
theorem execParseDecision_stateful (hcls : (parsedOf (strike s us) x).cls = 0) (hpath : (parsedOf (strike s us) x).stateful = true) :
    execParseDecision ⟨f, us⟩ s = .next (parsedState (strike s us) f x) :=
  (execParseDecision_decided hx h hdirect).trans (congrArg _ ((if_neg (by simp [hcls])).trans (if_pos hpath)))

theorem execParseDecision_stateless (hcls : (parsedOf (strike s us) x).cls = 0)
    (hpath : (parsedOf (strike s us) x).stateful = false) :
    execParseDecision ⟨f, us⟩ s =
      .next (pathStateless (parsedState (strike s us) f x) f (parsedFrame (strike s us) x) (parsedOf (strike s us) x)) :=
  (execParseDecision_decided hx h hdirect).trans
    (congrArg _ ((if_neg (by simp [hcls])).trans (if_neg (Bool.eq_false_iff.mp hpath))))

end Decided

end Parse

/-! ### ENGINE_QUEUE_ACCEPT (R147, R153, R164, R512) -/

theorem execEngineQueueAccept_next (f : Nat) (s : State) : ∃ t, execEngineQueueAccept f s = .next t := by
  unfold execEngineQueueAccept
  split
  · exact ⟨_, rfl⟩
  · dsimp only
    split_ifs
    case neg => split <;> exact ⟨_, rfl⟩
    all_goals exact ⟨_, rfl⟩

section Accept

variable {s : State} {f : Nat} {x : Frame} (hx : s.frame? f = some x) (hwaits : waitsForArray s f x = true)
  (holdest : heldBehind s x.pipe f = false)
include hx hwaits holdest

theorem execEngineQueueAccept_solitaire (hsolo : s.hlt.solo = true) :
    execEngineQueueAccept f s = .next (frameDrop (s.bump (Reg.PXA_HOLE_COUNT x.pipe 4)) f) := by
  simp [execEngineQueueAccept, hx, hwaits, holdest, hsolo]

variable (hsolo : s.hlt.solo = false)
include hsolo

theorem execEngineQueueAccept_badTemplate (hbad : gValid ((s.cluster x.pipe).template (x.parsed.getD {}).template) = false) :
    execEngineQueueAccept f s = .next (frameDrop (s.bump (Reg.PXA_BAD_TEMPLATE_COUNT x.pipe)) f) := by
  simp [execEngineQueueAccept, hx, hwaits, holdest, hsolo, hbad]

variable (hvalid : gValid ((s.cluster x.pipe).template (x.parsed.getD {}).template) = true)
include hvalid

theorem execEngineQueueAccept_windowFull (hfull : 4096 ≤ (s.cluster x.pipe).pkts.length) :
    execEngineQueueAccept f s = .next (s.bump (Reg.PXA_WINDOW_FULL_CYCLES x.pipe)) := by
  simp [execEngineQueueAccept, hx, hwaits, holdest, hsolo, hvalid, hfull]

variable (hroom : (s.cluster x.pipe).pkts.length < 4096)
include hroom

theorem execEngineQueueAccept_stall (hnone : chooseEngine s x.pipe (x.parsed.getD {}).hash = none) :
    execEngineQueueAccept f s = .next (s.bump (Reg.PRS_ENGINE_STALL_COUNT x.pipe)) := by
  simp [execEngineQueueAccept, hx, hwaits, holdest, hsolo, hvalid, Nat.not_le.mpr hroom, hnone]

theorem execEngineQueueAccept_placed {e k : Nat} (hengine : chooseEngine s x.pipe (x.parsed.getD {}).hash = some (e, k)) :
    execEngineQueueAccept f s = .next (placeTake (s.setPipe x.pipe { s.pipe x.pipe with nextEngine := k }) x.pipe f e x
      (x.parsed.getD {}) ((s.cluster x.pipe).template (x.parsed.getD {}).template)) := by
  simp [execEngineQueueAccept, hx, hwaits, holdest, hsolo, hvalid, Nat.not_le.mpr hroom, hengine]

end Accept

/-! ### PACKET_START (R155, R172) -/

theorem execPacketStart_next (c : Fin 8) (k : Nat) (s : State) : ∃ t, execPacketStart c k s = .next t := by
  unfold execPacketStart
  dsimp only
  split
  · exact ⟨_, rfl⟩
  · split
    · exact ⟨_, rfl⟩
    · split
      · exact ⟨_, rfl⟩
      · split <;> exact ⟨_, rfl⟩

section Start

variable {s : State} {c : Fin 8} {p : Pkt} (hnext : nextStart s c = some p)
include hnext

/-- The dispatcher serves no packet but the next one. -/
theorem execPacketStart_other {k : Nat} (hother : p.arr ≠ k) : execPacketStart c k s = .next s := by
  simp [execPacketStart, hnext, hother]

theorem execPacketStart_resume (hstage : p.stage = .resume) :
    execPacketStart c p.arr s = .next (((takeCtx s c p.arr p.engine).modPkt c p.arr fun q => { q with stage := .running }).peak
      (Reg.PXA_CTX_PEAK c) (clusterCtx (s.cluster c) + 1)) := by
  simp [execPacketStart, hnext, hstage]

theorem execPacketStart_begin {x : Frame} (hx : s.frame? p.frame = some x) (hstage : p.stage ≠ .resume) :
    execPacketStart c p.arr s = .next (pktBegin
      (takeCtx (s.setCluster c { s.cluster c with startNext := (p.engine + 1) % 32 }) c p.arr p.engine) c p.arr x) := by
  simp [execPacketStart, hnext, hstage, hx]

end Start

/-! ### FRAME_TAIL (R138, R276, R282, R460) -/

theorem execFrameTail_next (f : Nat) (s : State) : ∃ t, execFrameTail f s = .next t := by
  unfold execFrameTail
  split
  · exact ⟨_, rfl⟩
  · dsimp only
    split <;> exact ⟨_, rfl⟩

/-- A held frame of which only the tail is missing: its header window has been parsed and its cells have been allocated. -/
theorem execFrameTail_stored {s : State} {f : Nat} {x : Frame} (hx : s.frame? f = some x) (hheld : x.held = true)
    (htail : x.tail = false) (hwindow : x.bytes.length ≤ 256 ∨ x.parsed.isSome = true) (hcells : x.cells.length = needCells x) :
    execFrameTail f s = .next (settle (tailWork
      (x.inject.elim (tailWords (tailIn s f) f) fun e => (tailWords (tailIn s f) f).finish e.1 e.2 St.ok) f false) f) := by
  have hseen : (decide (256 < x.bytes.length) && x.parsed.isNone) = false := by
    rcases hwindow with hshort | hparsed
    · simp [Nat.not_lt.mpr hshort]
    · simp [Option.isNone_eq_false_iff.mpr hparsed]
  simp only [execFrameTail, hx, hheld, htail, hseen, hcells, Bool.not_true, Bool.false_and, beq_self_eq_true, Bool.or_true,
    Bool.or_self, Bool.false_eq_true, if_false]
  cases x.inject <;> rfl

end Sys2Proof.Machine

open Sys2Proof Sys2Proof.Machine

/-- Settles O44: the four events by their cases, one lemma for each; a class action acts on the state that has taken the parser's finding in
(`classAct_drop` and its siblings). -/
theorem frameToPacket : Obligations.FrameToPacket := by
  refine ⟨fun s frame => execParseDecision_next frame s, fun s f => ⟨execFrameTail_next f s, execEngineQueueAccept_next f s⟩,
    fun s c k => execPacketStart_next c k s, ?parse, fun s0 f us x hx h => execParseDecision_left hx (parserLeaves_iff.mpr h),
    ?accept, fun s c p x hnext hx => ⟨execPacketStart_resume hnext, execPacketStart_begin hnext hx⟩,
    fun s c p q hnext hother => execPacketStart_other hnext hother, ?tail⟩
  case parse =>
    intro s0 f us x s hx hheld hparsed hpipe hport hon
    have h := parserLeaves_eq_false hheld hparsed hpipe hport hon
    refine ⟨fun q => execParseDecision_direct hx h, fun hdirect hcls => ?_, execParseDecision_stateful hx h,
      execParseDecision_stateless hx h⟩
    have hact := execParseDecision_notNormal hx h hdirect hcls
    exact ⟨fun ha => hact.trans (congrArg _ (classAct_drop f ha)), fun ha => hact.trans (congrArg _ (classAct_stateless f ha)),
      fun ha => hact.trans (congrArg _ (classAct_punt f ha)), fun ha => hact.trans (congrArg _ (classAct_punt_stateless f ha))⟩
  case accept =>
    intro s f x hx hwaits holdest
    exact ⟨execEngineQueueAccept_solitaire hx hwaits holdest, execEngineQueueAccept_badTemplate hx hwaits holdest,
      execEngineQueueAccept_windowFull hx hwaits holdest, execEngineQueueAccept_stall hx hwaits holdest,
      fun e k hsolo hvalid hroom => execEngineQueueAccept_placed hx hwaits holdest hsolo hvalid hroom⟩
  case tail =>
    intro s f x hx hheld htail hwindow hcells _
    have hstored := execFrameTail_stored hx hheld htail hwindow hcells
    exact ⟨fun hinject => hstored.trans (by rw [hinject]; rfl), fun r i hinject => hstored.trans (by rw [hinject]; rfl)⟩

end

/-! ## The words of a routine: O46 -/

section

namespace Sys2Proof.Machine

open Sys2Proof

/-! ### What a word does, by its opcode (R188, R189, R191-R193, R206) -/

section Words

variable {p : Pkt} {r : Routine} {w : Word128} {a b : W32}

theorem mwExec_nop (hop : mwOp w = 0x00) : mwExec p r w a b = .go { r with pc := mwNext r.pc } := by
  simp only [mwExec, hop]

theorem mwExec_add (hop : mwOp w = 0x01) :
    mwExec p r w a b = .go ({ r with pc := mwNext r.pc }.setG (mwDst w) (a + b)) := by
  simp only [mwExec, hop, mwAlu]

theorem mwExec_sub (hop : mwOp w = 0x02) :
    mwExec p r w a b = .go ({ r with pc := mwNext r.pc }.setG (mwDst w) (a - b)) := by
  simp only [mwExec, hop, mwAlu]

/-- The architected metadata words M0 to M7 are not written (R189). -/
theorem mwExec_setMeta_low (hop : mwOp w = 0x0A) (hdst : mwDst w < 8) : mwExec p r w a b = .fault 11 := by
  simp only [mwExec, hop, hdst, if_true]

/-- A load of four bytes reads the header window only (R192). -/
theorem mwExec_load_beyond (hop : mwOp w = 0x10) (hoff : p.window.length < (a.toNat + mwImm w) % 2 ^ 32 + 4) :
    mwExec p r w a b = .fault 3 := by
  simp only [mwExec, hop, mwLoad, hoff, if_true]

theorem mwExec_branch_taken (hop : mwOp w = 0x20) (h : mwTaken (mwCond w) a b = true) :
    mwExec p r w a b = .go { r with pc := mwTarget w } := by
  simp only [mwExec, hop, h, if_true]

theorem mwExec_branch_not_taken (hop : mwOp w = 0x20) (h : mwTaken (mwCond w) a b = false) :
    mwExec p r w a b = .go { r with pc := mwNext r.pc } := by
  simp only [mwExec, hop, h, Bool.false_eq_true, if_false]

theorem mwExec_call (hop : mwOp w = 0x21) (hroom : r.stack.length < 4) :
    mwExec p r w a b = .go { r with stack := mwNext r.pc :: r.stack, pc := mwTarget w } := by
  simp only [mwExec, hop, Nat.not_le.mpr hroom, if_false]

theorem mwExec_call_full (hop : mwOp w = 0x21) (hfull : 4 ≤ r.stack.length) : mwExec p r w a b = .fault 8 := by
  simp only [mwExec, hop, hfull, if_true]

theorem mwExec_ret {t : Nat} {ts : List Nat} (hop : mwOp w = 0x22) (hstack : r.stack = t :: ts) :
    mwExec p r w a b = .go { r with stack := ts, pc := t } := by
  simp only [mwExec, hop, hstack]

theorem mwExec_ret_empty (hop : mwOp w = 0x22) (hstack : r.stack = []) : mwExec p r w a b = .fault 8 := by
  simp only [mwExec, hop, hstack]

/-- A SYS word of the vendor region has the effect that its vendor gives it. -/
theorem mwExec_sys_vendor (hop : mwOp w = 0x3F) (hregion : isCustomer r.pc = false) : mwExec p r w a b = .vendor := by
  simp only [mwExec, hop, hregion, Bool.false_eq_true, if_false]

end Words

/-! ### How a word issues (R188, R215) -/

/-- The samples that the issue of a word which ends nothing takes and writes: the use of a value just loaded, and the word (R215, R216). -/
def sampledIssue (s : State) (c : Nat) (p : Pkt) (r : Routine) (w : Word128) : State :=
  let u := if r.loaded.any (mwReads w) then sampleCount s c 2 p r.op r.pc else s
  sampleWord (sampleCount u c 0 p r.op r.pc) c p r.op r.pc false

section Issue

variable {s : State} {c : Nat} {p : Pkt} {r : Routine} {w : Word128} {a b : W32} (hoperands : mwOperands p r w = .inl (a, b))
include hoperands

theorem mwIssue_go {r' : Routine} (h : mwExec p r w a b = .go r') :
    mwIssue s c p r w = .next (mwStep (sampledIssue s c p r w) c p r w r') := by
  simp only [mwIssue, hoperands, h, sampledIssue]
  rfl

theorem mwIssue_fault {cause : Nat} (h : mwExec p r w a b = .fault cause) :
    mwIssue s c p r w = .next (mcsFault s c p r.op r.pc cause) := by
  simp only [mwIssue, hoperands, h]

theorem mwIssue_vendor (h : mwExec p r w a b = .vendor) : mwIssue s c p r w = .refused .vendorDefined := by
  simp only [mwIssue, hoperands, h]

end Issue

/-! ### MICROWORD_ISSUE (R152, R196, R206) -/

/-- No word is fetched past the routine's limit of words (R206). -/
theorem mwFetch_stepLimit {s : State} {c : Nat} {p : Pkt} {r : Routine} (h : s.rf (Reg.MCS_STEP_LIMIT c) 14 0 ≤ r.issued) :
    mwFetch s c p r = (s, .inr 9) := if_pos h

section Microword

variable {s : State} {c : Fin 8} {k : Nat} {i : Fin 17} {us : List Upset} {p : Pkt} {r : Routine}
  (hp : (strike s us).pkt? c k = some p) (hr : p.routines.find? (fun r => r.op == i.val) = some r)
include hp hr

/-- Out of its engine's turn a context issues nothing (R152). -/
theorem execMicrowordIssue_outOfTurn (hturn : (ctxTurn ((strike s us).cluster c) p.engine).map (·.arr) ≠ some k) :
    execMicrowordIssue c k ⟨i, us⟩ s = .next (strike s us) := by
  simp only [execMicrowordIssue, hp, hr, bne_iff_ne.mpr hturn, Bool.or_true, if_true]

variable (hrun : p.stage = .running) (hturn : (ctxTurn ((strike s us).cluster c) p.engine).map (·.arr) = some k)
include hrun hturn

theorem execMicrowordIssue_fetchFault {u : State} {cause : Nat}
    (hfetch : mwFetch (ctxServed (strike s us) c p) c p r = (u, .inr cause)) :
    execMicrowordIssue c k ⟨i, us⟩ s = .next (mcsFault u c p r.op r.pc cause) := by
  simp only [execMicrowordIssue, hp, hr, hrun, hturn, bne_self_eq_false, Bool.or_self, Bool.false_eq_true, if_false, hfetch]

/-- A fetched word whose wait is met issues, for a packet whose length is exact where it waited for the tail (R196). -/
theorem execMicrowordIssue_fetched {u : State} {w : Word128}
    (hfetch : mwFetch (ctxServed (strike s us) c p) c p r = (u, .inl w)) (hwait : waitMet u p w = true) :
    execMicrowordIssue c k ⟨i, us⟩ s = mwIssue (waitLen u c p w).1 c (waitLen u c p w).2 r w := by
  simp only [execMicrowordIssue, hp, hr, hrun, hturn, bne_self_eq_false, Bool.or_self, Bool.false_eq_true, if_false, hfetch,
    hwait, if_true]

end Microword

end Sys2Proof.Machine

open Sys2Proof Sys2Proof.Machine

/-- Settles O46: a word in its turn issues by what its opcode does (`mwExec_nop` and its siblings): its routine goes on, faults, or is
refused as the vendor's. -/
theorem microwords : Obligations.Microwords := by
  intro s0 c k i us p0 r s hp hr hrun
  refine ⟨execMicrowordIssue_outOfTurn hp hr,
    fun hturn hlimit => execMicrowordIssue_fetchFault hp hr hrun hturn (mwFetch_stepLimit hlimit), ?_⟩
  intro u0 w a b hturn hfetch hwait u p hoperands
  have hissue : exec (.microwordIssue c k ⟨i, us⟩) s0 = mwIssue u c p r w := execMicrowordIssue_fetched hp hr hrun hturn hfetch hwait
  have hgo : ∀ r', mwExec p r w a b = .go r' → exec (.microwordIssue c k ⟨i, us⟩) s0 =
      .next (mwStep (sampledIssue u c p r w) c p r w r') := fun _ h => hissue.trans (mwIssue_go hoperands h)
  have hfault : ∀ cause, mwExec p r w a b = .fault cause → exec (.microwordIssue c k ⟨i, us⟩) s0 =
      .next (mcsFault u c p r.op r.pc cause) := fun _ h => hissue.trans (mwIssue_fault hoperands h)
  exact ⟨fun hop => hgo _ (mwExec_nop hop), fun hop => hgo _ (mwExec_add hop), fun hop => hgo _ (mwExec_sub hop),
    fun hop htaken => hgo _ (mwExec_branch_taken hop htaken), fun hop hnot => hgo _ (mwExec_branch_not_taken hop hnot),
    fun hop hroom => hgo _ (mwExec_call hop hroom), fun hop hfull => hfault _ (mwExec_call_full hop hfull),
    fun hop hempty => hfault _ (mwExec_ret_empty hop hempty), fun _ _ hop hstack => hgo _ (mwExec_ret hop hstack),
    fun hop hdst => hfault _ (mwExec_setMeta_low hop hdst), fun hop hoff => hfault _ (mwExec_load_beyond hop hoff),
    fun hop hregion => hissue.trans (mwIssue_vendor hoperands (mwExec_sys_vendor hop hregion))⟩

end

/-! ## Graph templates and microcode patches: O43 -/

section

namespace Sys2Proof.Machine

open Sys2Proof

section Handed

variable {s : State} {r : Fin 1024} {n : Nat} {c : CmdEnt}

/-! ### GRAPH_TEMPLATE_WRITE and GRAPH_TEMPLATE_READ (R163, R164, R180) -/

theorem execGraphTemplateWrite_no_cluster (h : Handed s r n 0x50 c) (hnone : maskList 8 (fld c.desc 79 72) = []) :
    execGraphTemplateWrite r n s = .next (s.badField r n 9) :=
  (onCmd_of_handed h _).trans (by simp only [hnone, List.isEmpty_nil, if_true])

theorem execGraphTemplateRead_no_cluster (h : Handed s r n 0x51 c) (hnone : maskList 8 (fld c.desc 79 72) = []) :
    execGraphTemplateRead r n s = .next (s.badField r n 9) :=
  (onCmd_of_handed h _).trans (by simp only [hnone])

theorem execGraphTemplateRead_lowest {k : Nat} {rest : List Nat} (h : Handed s r n 0x51 c)
    (hlowest : maskList 8 (fld c.desc 79 72) = k :: rest) :
    execGraphTemplateRead r n s =
      .next ((s.output c (bytesOf ((s.cluster k).template (fld c.desc 71 64)))).finish r n St.ok) :=
  (onCmd_of_handed h _).trans (by simp only [hlowest])

/-- The image of a GRAPH_TEMPLATE_WRITE stands in a cluster; where packets have started under the old one, the write waits for them
(R164). -/
def templatePut (s : State) (k r n t : Nat) (g : BitVec 2048) : State :=
  s.setCluster k { s.cluster k with
    templates := fput (s.cluster k).templates 0 t g
    retiring := if (startedOn (s.cluster k) t).isEmpty then (s.cluster k).retiring
      else (s.cluster k).retiring ++ [⟨r, n, t, startedOn (s.cluster k) t⟩] }

section Write

variable (h : Handed s r n 0x50 c) (hsome : maskList 8 (fld c.desc 79 72) ≠ [])
include h hsome

theorem execGraphTemplateWrite_bad (hbad : templateOk (templateBits (ofBytes 2048 c.buf)) = false) :
    execGraphTemplateWrite r n s = .next (s.badField r n) :=
  (onCmd_of_handed h _).trans (by
    simp only [List.isEmpty_eq_false_iff.mpr hsome, hbad, Bool.not_false, Bool.false_eq_true, if_false, if_true])

/-- A good image goes into every cluster named, where no write of the template before it still waits (R164). -/
theorem execGraphTemplateWrite_good (hgood : templateOk (templateBits (ofBytes 2048 c.buf)) = true)
    (hfree : ∀ k ∈ maskList 8 (fld c.desc 79 72), (s.cluster k).retiring.all (·.template != fld c.desc 71 64) = true) :
    execGraphTemplateWrite r n s =
      .next (templateDone ((forAll s (maskList 8 (fld c.desc 79 72)) fun s k =>
        templatePut s k r n (fld c.desc 71 64) (templateBits (ofBytes 2048 c.buf))).modCmd r n
          fun c => { c with phase := .running }) r n) := by
  have hnone : ((maskList 8 (fld c.desc 79 72)).any fun k =>
      (s.cluster k).retiring.any (·.template == fld c.desc 71 64)) = false := by
    simpa using hfree
  refine (onCmd_of_handed h _).trans ?_
  simp only [List.isEmpty_eq_false_iff.mpr hsome, hgood, hnone, Bool.not_true, Bool.false_eq_true, if_false]
  rfl

end Write

/-! ### MCS_PATCH_LOAD (R211, R213, R214) -/

/-- With no cluster named the load is refused at the byte of its mask. -/
theorem execMcsPatchLoad_no_cluster (h : Handed s r n 0x52 c) (hnone : maskList 8 (fld c.desc 71 64) = []) :
    execMcsPatchLoad r n s =
      let b := c.buf.take (fld c.desc 223 192)
      .next (auditFinish s r n c St.badField (patchSubject (imgRegion b) (imgVersion b) ((Config.sha512 b).take 32)) 8) :=
  (onCmd_of_handed h _).trans (by simp [hnone, St.badField, St.denied, St.ok])

/-- The status of the load's checks decides: staged, DENIED, or refused with an audit record. -/
theorem execMcsPatchLoad_checked (h : Handed s r n 0x52 c) (hsome : maskList 8 (fld c.desc 71 64) ≠ []) :
    execMcsPatchLoad r n s =
      let ks := maskList 8 (fld c.desc 71 64)
      let b := c.buf.take (fld c.desc 223 192)
      let st := patchStatus s c (fld c.desc 223 192) ks b
      let sub := patchSubject (imgRegion b) (imgVersion b) ((Config.sha512 b).take 32)
      .next (
        if st = St.ok then
          auditFinish (forAll (floorBurn s (if imgRegion b then 2 else 1) (imgVersion b)) ks fun s k => patchStage s k b) r n c
            St.ok sub
        else if st = St.denied then (deniedAdd s r c).finish r n St.denied
        else auditFinish s r n c st sub (if st = St.badField then 0xFF else 0)) := by
  refine (onCmd_of_handed h _).trans ?_
  simp only [List.isEmpty_eq_false_iff.mpr hsome, Bool.false_eq_true, if_false]
  generalize patchStatus s c _ _ _ = st
  by_cases hok : st = St.ok
  · simp [hok, St.ok, St.denied]
  · by_cases hdenied : st = St.denied
    · simp [hdenied, St.ok, St.denied]
    · simp only [ne_eq, hok, hdenied, not_false_eq_true, if_true, if_false]

/-! ### MCS_PATCH_SWITCH (R212-R214) -/

theorem execMcsPatchSwitch_not_staged {k : Nat} (h : Handed s r n 0x53 c) (hk : k ∈ maskList 8 (fld c.desc 71 64))
    (hstaged : (s.cluster k).staged = false) :
    execMcsPatchSwitch r n s = .next (auditFinish s r n c St.badField [] 8) := by
  have hbad : ((maskList 8 (fld c.desc 71 64)).any fun k => !(s.cluster k).staged) = true :=
    List.any_eq_true.mpr ⟨k, hk, by simp [hstaged]⟩
  exact (onCmd_of_handed h _).trans (by simp only [hbad, Bool.or_true, if_true])

/-- Where every named cluster is ON and has a patch staged, DISCARD drops the patches and no DISCARD makes them active. -/
theorem execMcsPatchSwitch_staged {k : Nat} {rest : List Nat} (h : Handed s r n 0x53 c)
    (hlowest : maskList 8 (fld c.desc 71 64) = k :: rest)
    (hall : ∀ k ∈ maskList 8 (fld c.desc 71 64), (s.cluster k).staged = true ∧ s.domain (domCluster k) = .on) :
    execMcsPatchSwitch r n s =
      let x := s.cluster k
      let v := regionVersion x.stagedRegion x.stagedVersion
      .next (
        if bit c.desc 72 then
          auditFinish (forAll s (maskList 8 (fld c.desc 71 64)) patchDrop) r n c St.ok (patchSubject x.stagedRegion v x.stagedHash)
        else
          switchDone ((forAll s (maskList 8 (fld c.desc 71 64)) fun s k => patchSwitch s k r n).modCmd r n
            fun c => { c with phase := .running }) r n x.stagedRegion.toNat v x.stagedHash) := by
  have hstaged : ((maskList 8 (fld c.desc 71 64)).any fun k => !(s.cluster k).staged) = false := by
    simpa using fun k hk => (hall k hk).1
  have hon : ((maskList 8 (fld c.desc 71 64)).any fun k => s.domain (domCluster k) != .on) = false := by
    simpa using fun k hk => (hall k hk).2
  rw [hlowest] at hstaged hon
  refine (onCmd_of_handed h _).trans ?_
  simp only [hstaged, hon, hlowest, List.isEmpty_cons, List.head?_cons, Option.getD_some, Bool.or_self, Bool.false_eq_true, if_false]

end Handed

end Sys2Proof.Machine

open Sys2Proof Sys2Proof.Machine

/-- Settles O43: each command runs its meaning as its ring hands it over, by the branches of its checks. -/
theorem templatesAndPatches : Obligations.TemplatesAndPatches := by
  refine ⟨fun _ _ _ => ⟨onCmd_next _ _ _ _ _, onCmd_next _ _ _ _ _, onCmd_next _ _ _ _ _, onCmd_next _ _ _ _ _⟩, ?_⟩
  intro s r n c t cs g ks len b
  refine ⟨fun hnone => ⟨fun h => execGraphTemplateWrite_no_cluster h hnone, fun h => execGraphTemplateRead_no_cluster h hnone⟩,
    fun hsome hbad h => execGraphTemplateWrite_bad h hsome hbad, fun hsome hgood h hfree => execGraphTemplateWrite_good h hsome hgood hfree,
    fun k rest hlowest h => execGraphTemplateRead_lowest h hlowest, fun hsome h => execMcsPatchLoad_checked h hsome,
    fun hnone h => execMcsPatchLoad_no_cluster h hnone, fun k hk hstaged h => execMcsPatchSwitch_not_staged h hk hstaged, ?_⟩
  intro k rest hlowest hall h
  have hswitch := execMcsPatchSwitch_staged h hlowest hall
  exact ⟨fun hdiscard => hswitch.trans (congrArg _ (if_pos hdiscard)),
    fun hkeep => hswitch.trans (congrArg _ (if_neg (Bool.eq_false_iff.mp hkeep)))⟩

end

/-! ## The operations of a packet, its aborts and its release: O45 -/

section

namespace Sys2Proof.Machine

open Sys2Proof

/-! ### OP_ISSUE: a flow LOOKUP (R63-R65, R68, R177) -/

section IssueFlow

variable {s : State} {c : Nat} {p : Pkt} {e : BitVec 96} (op : Nat)

theorem issueFlow_noKey (hkey : buildKey s (fld e 33 28) p.window p.parsed = none) :
    issueFlow s c p op e = opFail s c p.arr op 0 St.noKey := by
  simp only [issueFlow, hkey]

variable {b : Built} (hkey : buildKey s (fld e 33 28) p.window p.parsed = some b)
include hkey

theorem issueFlow_off (hoff : sliceOn s b.home = false) : issueFlow s c p op e = opFail s c p.arr op 3 St.targetOff := by
  simp only [issueFlow, hkey, hoff, Bool.not_false, if_true]

variable (hon : sliceOn s b.home = true)
include hon

/-- A LOOKUP whose home slice's wait list is full waits in the dispatcher (R177). -/
theorem issueFlow_full (hfull : 8192 ≤ (s.slice b.home).flights.length) : issueFlow s c p op e = opStall s c p.arr op := by
  simp only [issueFlow, hkey, hon, flightMax, hfull, Bool.not_true, Bool.false_eq_true, if_false, if_true]

/-- Any other LOOKUP goes before its home slice's order point, with its key, its policer pool, its vector and its length. -/
theorem issueFlow_issued (hroom : (s.slice b.home).flights.length < 8192) :
    issueFlow s c p op e =
      let metas := (List.range 6).map fun j => (p.m (gMeta p.image j)).toNat
      let vec := keyVector p.window p.parsed b ((p.m 0).toNat % 256) p.template metas
      flowPush (opPhase s c p.arr op .issued) b.home
        { src := c, act := .lookup c p.arr op (bit e 34) b.pool b.srcLow vec p.len, key := some b.key } := by
  simp only [issueFlow, hkey, hon, flightMax, Nat.not_le.mpr hroom, Bool.not_true, Bool.false_eq_true, if_false]

end IssueFlow

/-! ### OP_ISSUE: a table LOOKUP (R228, R241, R253) -/

section IssueTable

variable {s : State} {c : Nat} {e : BitVec 96} (p : Pkt) (op : Nat)

theorem issueTable_off (hoff : s.domain (domPipe c) ≠ .on) : issueTable s c p op e = opFail s c p.arr op 3 St.targetOff :=
  if_pos (bne_iff_ne.mpr hoff)

variable (hon : s.domain (domPipe c) = .on)
include hon

theorem issueTable_locked (hlock : (lockOf s c (fld e 27 26 - 1)).isSome = true) : issueTable s c p op e = opStall s c p.arr op := by
  simp only [issueTable, hon, targetLock, hlock, bne_self_eq_false, Bool.false_eq_true, if_false, if_true]

/-- A table LOOKUP takes its key at the cycle it issues (R227, R248). -/
theorem issueTable_issued (hfree : lockOf s c (fld e 27 26 - 1) = none) :
    issueTable s c p op e = s.modPkt c p.arr fun q => { q with
      ops := fset q.ops op { q.op op with phase := .issued, key := tableKey s c q e } } := by
  simp only [issueTable, hon, targetLock, hfree, bne_self_eq_false, Option.isSome_none, Bool.false_eq_true, if_false]

end IssueTable

/-! ### OP_ISSUE: a CIPHER (R162, R172, R337) -/

section IssueCipher

variable {s : State} {c : Nat} {p : Pkt} {e : BitVec 96} (op : Nat)

theorem issueCipher_no_tail (htail : ((s.frame? p.frame).map (·.tail)).getD false = false) : issueCipher s c p op e = s := by
  simp only [issueCipher, htail, Bool.not_false, if_true]

variable (htail : ((s.frame? p.frame).map (·.tail)).getD false = true)
include htail

/-- A CIPHER whose LOOKUP_OP found no record with a key fails. -/
theorem issueCipher_no_key (hnone : (p.op (fld e 29 26)).found = false ∨ bit ((p.op (fld e 29 26)).word 2) 7 = false) :
    issueCipher s c p op e = opFail (s.bump (Reg.CIP_FAIL_COUNT 1)) c p.arr op 1 (St.cipher 1) := by
  have hkey : ((p.op (fld e 29 26)).found && bit ((p.op (fld e 29 26)).word 2) 7) = false := Bool.and_eq_false_iff.mpr hnone
  simp only [issueCipher, htail, hkey, Bool.not_true, Bool.not_false, Bool.false_eq_true, if_false, if_true]

variable (hfound : (p.op (fld e 29 26)).found = true) (hkey : bit ((p.op (fld e 29 26)).word 2) 7 = true)
include hfound hkey

theorem issueCipher_off (hoff : cipherOn s = false) : issueCipher s c p op e = opFail s c p.arr op 3 St.targetOff := by
  simp only [issueCipher, htail, hfound, hkey, hoff, Bool.not_true, Bool.not_false, Bool.and_self, Bool.false_eq_true, if_false,
    if_true]

variable (hon : cipherOn s = true)
include hon

theorem issueCipher_full (hfull : 512 ≤ cipDepth s c) : issueCipher s c p op e = opStall s c p.arr op := by
  simp only [issueCipher, htail, hfound, hkey, hon, hfull, Bool.not_true, Bool.and_self, Bool.false_eq_true, if_false, if_true]

/-- Any other CIPHER enters its cluster's queue, and its packet parks where it cannot go on (R156). -/
theorem issueCipher_queued (hroom : cipDepth s c < 512) :
    issueCipher s c p op e =
      let o := p.op (fld e 29 26)
      let u := cipPush (opPhase s c p.arr op .issued) c
        { cluster := c, pkt := p.arr, op := op, mode := fld e 31 30, slot := fld (o.word 8) 21 0, gen := fld (o.word 8) 31 22,
          no := s.cip.reqNo }
      pktPark (u.peak Reg.CIP_QUEUE_PEAK (cipDepth u c)) c p.arr := by
  simp only [issueCipher, htail, hfound, hkey, hon, Nat.not_le.mpr hroom, Bool.not_true, Bool.and_self, Bool.false_eq_true, if_false]

end IssueCipher

/-- A REWRITE is recorded where it has a template to record, and completes (R162, R170). -/
theorem issueRewrite_eq (s : State) (c : Nat) (p : Pkt) (op : Nat) (e : BitVec 96) :
    issueRewrite s c p op e =
      let o := p.op (fld e 38 35)
      let t := if bit e 34 then (if o.found then some (fld (o.word 10) 15 8) else none) else some (fld e 33 26)
      opComplete (t.elim s fun n => s.modPkt c p.arr fun p => { p with rewrites := p.rewrites ++ [(op, n)] }) c p.arr op St.ok [] := by
  simp only [issueRewrite]
  split
  next n ht => rw [ht]; rfl
  next ht => rw [ht]; rfl

/-! ### OP_ISSUE: the operation that issues (R165) -/

theorem execOpIssue_next (c : Fin 8) (k : Nat) (i : Fin 16) (s : State) : ∃ t, execOpIssue c k i s = .next t := by
  unfold execOpIssue
  dsimp only
  split
  · exact ⟨_, rfl⟩
  · split
    · exact ⟨_, rfl⟩
    · split <;> exact ⟨_, rfl⟩

section OpIssue

variable {s : State} {c : Fin 8} {k : Nat} {i : Fin 16} {p : Pkt} (hp : s.pkt? c k = some p)
include hp

/-- The dispatcher issues no operation but the next one. -/
theorem execOpIssue_other {q : Nat × Nat} (hnext : opNext s c = some q) (hother : q ≠ (k, i.val)) :
    execOpIssue c k i s = .next s := by
  have hne : (opNext s c != some (k, i.val)) = true := bne_iff_ne.mpr (by rw [hnext]; exact mt Option.some.inj hother)
  simp only [execOpIssue, hp, hne, if_true]

variable (hnext : opNext s c = some (k, i.val))
include hnext

theorem execOpIssue_flow (htype : opType (opEnt p.image i) = 1) (htarget : fld (opEnt p.image i) 27 26 = 0) :
    execOpIssue c k i s = .next (issueFlow s c p i (opEnt p.image i)) := by
  simp only [execOpIssue, hp, hnext, htype, htarget, bne_self_eq_false, Bool.false_eq_true, if_false, if_true]

theorem execOpIssue_table (htype : opType (opEnt p.image i) = 1) (htarget : fld (opEnt p.image i) 27 26 ≠ 0) :
    execOpIssue c k i s = .next (issueTable s c p i (opEnt p.image i)) := by
  simp only [execOpIssue, hp, hnext, htype, htarget, bne_self_eq_false, Bool.false_eq_true, if_false]

theorem execOpIssue_cipher (htype : opType (opEnt p.image i) = 3) :
    execOpIssue c k i s = .next (issueCipher s c p i (opEnt p.image i)) := by
  simp only [execOpIssue, hp, hnext, htype, bne_self_eq_false, Bool.false_eq_true, if_false]

theorem execOpIssue_rewrite (htype : opType (opEnt p.image i) = 4) :
    execOpIssue c k i s = .next (issueRewrite s c p i (opEnt p.image i)) := by
  simp only [execOpIssue, hp, hnext, htype, bne_self_eq_false, Bool.false_eq_true, if_false]

/-- A MICRO starts its routine at its entry. -/
theorem execOpIssue_micro (htype : opType (opEnt p.image i) = 7) :
    execOpIssue c k i s = .next (s.modPkt c k fun q => { q with
      ops := fset q.ops i.val { q.op i with phase := .issued }
      routines := q.routines ++ [{ op := i.val, pc := fld (opEnt p.image i) 40 26 }] }) := by
  simp only [execOpIssue, hp, hnext, htype, bne_self_eq_false, Bool.false_eq_true, if_false]

end OpIssue

/-! ### TABLE_LOOKUP_RESULT (R229, R253) -/

theorem execTableLookupResult_next (c : Fin 8) (k : Nat) (op : Struck (Fin 16)) (s : State) :
    ∃ t, execTableLookupResult c k op s = .next t := by
  unfold execTableLookupResult
  dsimp only
  split
  · exact ⟨_, rfl⟩
  · split
    · exact ⟨_, rfl⟩
    · split <;> exact ⟨_, rfl⟩

section TableResult

variable {s : State} {c : Fin 8} {k : Nat} {i : Fin 16} {us : List Upset} {p : Pkt} (hp : (strike s us).pkt? c k = some p)
  (hissued : (p.op i).phase = .issued) (htype : opType (opEnt p.image i) = 1)
include hp hissued htype

theorem execTableLookupResult_exact (htarget : fld (opEnt p.image i) 27 26 = 1) :
    execTableLookupResult c k ⟨i, us⟩ s =
      let r := exactResult (strike s us) c p (p.op i).key
      .next (giveTable r.1 c k i r.2.1 r.2.2 none) := by
  simp [execTableLookupResult, hp, hissued, opLookup, htype, htarget]

theorem execTableLookupResult_lpm (htarget : fld (opEnt p.image i) 27 26 = 2) :
    execTableLookupResult c k ⟨i, us⟩ s =
      let r := lpmResult (strike s us) c p (fld (opEnt p.image i) 33 28)
      .next (giveTable r.1 c k i r.2.1 r.2.2 none) := by
  simp [execTableLookupResult, hp, hissued, opLookup, htype, htarget]

theorem execTableLookupResult_tcam (htarget : fld (opEnt p.image i) 27 26 = 3) :
    execTableLookupResult c k ⟨i, us⟩ s =
      let r := tcamResult (strike s us) c p (fld (opEnt p.image i) 33 28) (p.op i).key
      .next (giveTable r.1 c k i r.2.1 r.2.2.1 r.2.2.2) := by
  simp [execTableLookupResult, hp, hissued, opLookup, htype, htarget]

end TableResult

/-! ### PACKET_RESUME (R156) -/

theorem execPacketResume_next (c : Fin 8) (k : Nat) (s : State) : ∃ t, execPacketResume c k s = .next t := by
  unfold execPacketResume
  split
  · split <;> exact ⟨_, rfl⟩
  · exact ⟨_, rfl⟩

/-! ### PACKET_ABORT (R203-R205) -/

theorem execPacketAbort_next (c : Fin 8) (k : Nat) (s : State) : ∃ t, execPacketAbort c k s = .next t := by
  unfold execPacketAbort
  dsimp only
  split
  · exact ⟨_, rfl⟩
  · split_ifs <;> exact ⟨_, rfl⟩

/-- The abort of a packet is taken at its engine (R203). -/
def abortTaken (s : State) (c k : Nat) : State := s.modPkt c k fun p => { p with abort := false }

/-- The state after an abort before a packet's commit and end: its routines stop, and the abort is counted (R203, R204). -/
def abortStopped (s : State) (c k : Nat) (p : Pkt) : State :=
  ((orphansEnd (abortTaken s c k) c p).free.2.modPkt c k stopRoutines).bump (Reg.MCS_ABORT_COUNT c)

/-- The open value from which the exception record of an abort takes its operation and its status (R182). -/
def abortOpen (s : State) (c k : Nat) (p : Pkt) : Nat := (orphansEnd (abortTaken s c k) c p).free.1

section Packet

variable {s : State} {c : Fin 8} {k : Nat} {p : Pkt} (hp : s.pkt? c k = some p)
include hp

theorem execPacketResume_arrived (hstage : p.stage = .parked) (hgo : canGoOn p = true) :
    execPacketResume c k s = .next (s.modPkt c k fun p => { p with stage := .resume }) := by
  simp only [execPacketResume, hp, hstage, hgo, beq_self_eq_true, Bool.and_self, if_true]

theorem execPacketResume_waits (hgo : canGoOn p = false) : execPacketResume c k s = .next s := by
  simp only [execPacketResume, hp, hgo, Bool.and_false, Bool.false_eq_true, if_false]

theorem execPacketAbort_none (habort : p.abort = false) : execPacketAbort c k s = .next s := by
  simp only [execPacketAbort, hp, habort, Bool.not_false, if_true]

variable (habort : p.abort = true)
include habort

/-- After a commit an abort is counted as late, and not applied. -/
theorem execPacketAbort_late (hcommit : p.committed = true) :
    execPacketAbort c k s =
      .next (pktSettle (orphansFail ((abortTaken s c k).bump (Reg.MCS_LATE_ABORT_COUNT c)) c p) c k) := by
  simp only [execPacketAbort, hp, habort, hcommit, Bool.not_true, Bool.false_eq_true, if_false, if_true, abortTaken]

variable (hcommit : p.committed = false)
include hcommit

theorem execPacketAbort_ended (hverdict : p.verdict.isSome = true) :
    execPacketAbort c k s = .next (pktRest (orphansEnd (abortTaken s c k) c p) c k) := by
  simp only [execPacketAbort, hp, habort, hcommit, hverdict, Bool.not_true, Bool.false_eq_true, if_false, if_true, abortTaken]

variable (hverdict : p.verdict = none)
include hverdict

theorem execPacketAbort_exception (hexc : p.exc = false) :
    execPacketAbort c k s =
      .next (pktFail (abortStopped s c k p) c k (abortOpen s c k p % 16) 2 (abortOpen s c k p / 16 % 256)) := by
  simp only [execPacketAbort, hp, habort, hcommit, hverdict, hexc, Bool.not_true, Option.isSome_none, Bool.false_eq_true, if_false,
    abortTaken, abortStopped, abortOpen]

/-- On the exception path an abort ends its packet as a hole (R205). -/
theorem execPacketAbort_hole (hexc : p.exc = true) :
    execPacketAbort c k s = .next (pktEnd (abortStopped s c k p) c k (.hole 3)) := by
  simp only [execPacketAbort, hp, habort, hcommit, hverdict, hexc, Bool.not_true, Option.isSome_none, Bool.false_eq_true, if_false,
    if_true, abortTaken, abortStopped]

end Packet

/-! ### PACKET_RELEASE (R173-R175) -/

theorem execPacketRelease_next (c : Fin 8) (k : Nat) (s : State) : ∃ t, execPacketRelease c k s = .next t := by
  unfold execPacketRelease
  dsimp only
  split
  · exact ⟨_, rfl⟩
  · split
    · split <;> exact ⟨_, rfl⟩
    · exact ⟨_, rfl⟩

/-- A done packet may leave where it is flushed or no earlier packet of its domain stands in the window (R174, R179). -/
theorem mayLeave_of_done {y : Cluster} {p : Pkt} {v : Verdict} (hstage : p.stage = .done) (hverdict : p.verdict = some v)
    (hfirst : p.flush = true ∨ ∀ q ∈ y.pkts, q.arr < p.arr → q.domain ≠ p.domain) : mayLeave y p = true := by
  simpa [mayLeave, hstage, hverdict] using hfirst

/-- An earlier packet of its domain keeps a packet that is not flushed. -/
theorem mayLeave_of_earlier {y : Cluster} {p q : Pkt} (hflush : p.flush = false) (hq : q ∈ y.pkts) (hlt : q.arr < p.arr)
    (hdomain : q.domain = p.domain) : mayLeave y p = false := by
  have hkept : (y.pkts.any fun q => q.arr < p.arr && q.domain == p.domain) = true :=
    List.any_eq_true.mpr ⟨q, hq, by simp [hlt, hdomain]⟩
  simp only [mayLeave, hflush, hkept, Bool.not_true, Bool.or_self, Bool.and_false]

section Release

variable {s : State} {c : Fin 8} {k : Nat} {p : Pkt} {v : Verdict} (hp : s.pkt? c k = some p) (hverdict : p.verdict = some v)
include hp hverdict

theorem execPacketRelease_kept (hkept : mayLeave (s.cluster c) p = false) : execPacketRelease c k s = .next s := by
  simp only [execPacketRelease, hp, hverdict, hkept, Bool.false_and, Bool.false_eq_true, if_false]

/-- A packet that may leave does so where it takes no release slot, or no earlier packet that may leave takes one (R174). -/
theorem execPacketRelease_leaves (hleave : mayLeave (s.cluster c) p = true)
    (hslot : takesSlot p = false ∨ ∀ q ∈ (s.cluster c).pkts, q.arr < k → takesSlot q = false ∨ mayLeave (s.cluster c) q = false) :
    execPacketRelease c k s = .next (leave (placeFree s c k) c p v) := by
  have hturn : (takesSlot p && (s.cluster c).pkts.any fun q => q.arr < k && takesSlot q && mayLeave (s.cluster c) q) = false := by
    rw [Bool.and_eq_false_iff]
    refine hslot.imp_right fun hfirst => List.any_eq_false.mpr fun q hq hboth => ?_
    simp only [Bool.and_eq_true, decide_eq_true_eq] at hboth
    obtain ⟨⟨hlt, htakes⟩, hmay⟩ := hboth
    rcases hfirst q hq hlt with hno | hno
    · exact Bool.false_ne_true (hno.symm.trans htakes)
    · exact Bool.false_ne_true (hno.symm.trans hmay)
  simp only [execPacketRelease, hp, hverdict, hleave, hturn, Bool.not_false, Bool.and_self, if_true]

end Release

end Sys2Proof.Machine

open Sys2Proof Sys2Proof.Machine

/-- Settles O45: the operation that issues goes by its type (`execOpIssue_flow` and its siblings) and by the state of its target; a table's
result, a resume, an abort and a release each by their cases. -/
theorem packetOperations : Obligations.PacketOperations := by
  refine ⟨fun s c k i => execOpIssue_next c k i s,
    fun s c k => ⟨execPacketAbort_next c k s, execPacketResume_next c k s, execPacketRelease_next c k s⟩,
    fun s c k op => execTableLookupResult_next c k op s, ?issue, fun s c k i p q hp hnext hother => execOpIssue_other hp hnext hother,
    ?result, ?packet, ?release⟩
  case issue =>
    intro s c k i p hp hnext e phase stall o
    refine ⟨fun htype htarget => ?flow, fun htype htarget => ?table, fun htype htail => ?noTail, fun htype htail => ?cipher,
      fun htype => (execOpIssue_rewrite hp hnext htype).trans (congrArg _ (issueRewrite_eq ..)),
      fun htype => execOpIssue_micro hp hnext htype⟩
    case flow =>
      have hissue := execOpIssue_flow hp hnext htype htarget
      refine ⟨fun hkey => hissue.trans (congrArg _ (issueFlow_noKey _ hkey)), fun b hkey => ⟨?_, ?_, ?_⟩⟩
      · exact fun hoff => hissue.trans (congrArg _ (issueFlow_off _ hkey hoff))
      · exact fun hon hfull => hissue.trans (congrArg _ (issueFlow_full _ hkey hon hfull))
      · exact fun hon hroom => hissue.trans (congrArg _ (issueFlow_issued _ hkey hon hroom))
    case table =>
      have hissue := execOpIssue_table hp hnext htype htarget
      exact ⟨fun hoff => hissue.trans (congrArg _ (issueTable_off p _ hoff)),
        fun hon hlock => hissue.trans (congrArg _ (issueTable_locked p _ hon hlock)),
        fun hon hfree => hissue.trans (congrArg _ (issueTable_issued p _ hon hfree))⟩
    case noTail => exact (execOpIssue_cipher hp hnext htype).trans (congrArg _ (issueCipher_no_tail _ htail))
    case cipher =>
      have hissue := execOpIssue_cipher hp hnext htype
      exact ⟨fun hnone => hissue.trans (congrArg _ (issueCipher_no_key _ htail hnone)),
        fun hfound hkey hoff => hissue.trans (congrArg _ (issueCipher_off _ htail hfound hkey hoff)),
        fun hfound hkey hon hfull => hissue.trans (congrArg _ (issueCipher_full _ htail hfound hkey hon hfull)),
        fun hfound hkey hon hroom => hissue.trans (congrArg _ (issueCipher_queued _ htail hfound hkey hon hroom))⟩
  case result =>
    intro s0 c k i us p s hp hissued e prof key
    exact ⟨execTableLookupResult_exact hp hissued, execTableLookupResult_lpm hp hissued, execTableLookupResult_tcam hp hissued⟩
  case packet =>
    intro s c k p hp
    exact ⟨execPacketResume_arrived hp, fun _ => execPacketResume_waits hp, execPacketAbort_none hp, fun habort =>
      ⟨execPacketAbort_late hp habort, execPacketAbort_ended hp habort, execPacketAbort_exception hp habort,
        execPacketAbort_hole hp habort⟩⟩
  case release =>
    rintro s c k p v hp rfl hverdict hstage
    refine ⟨fun hfirst hslot => execPacketRelease_leaves hp hverdict (mayLeave_of_done hstage hverdict hfirst) hslot, ?_⟩
    rintro hflush ⟨q, hq, hlt, hdomain⟩
    exact execPacketRelease_kept hp hverdict (mayLeave_of_earlier hflush hq hlt hdomain)

end

/-! ## The cipher engine: O54 -/

section

namespace Sys2Proof.Machine

open Sys2Proof

/-! ### A cycle of the scheduler (R337) -/

/-- Can a core take a request: is its half powered, and does no request occupy it (R499)? -/
def coreFree (s : State) (i : Nat) : Bool := coreOn s i && (ffind? s.cip.cores i).isNone

/-- Is a core the lowest-numbered free one? -/
def coreLowest (s : State) (i : Nat) : Bool := coreFree s i && !(List.range i).any (coreFree s)

/-- The order's turn moves on to the next cluster. -/
def turnNext (s : State) : State := { s with cip := { s.cip with turn := (s.cip.turn + 1) % 8 } }

section Scheduler

variable {s0 : State} {core : Fin 32} {us : List Upset}

/-- A cycle serves the request that the scheduler finds in the struck state, or only the turn moves. -/
theorem execCipherAccept_eq (s0 : State) (core : Fin 32) (us : List Upset) :
    execCipherAccept core us s0 = .next
      (match (reqOrder (strike s0 us)).find? (reqReady (strike s0 us) (coreLowest (strike s0 us) core.val)) with
        | some r => reqServe (turnNext (strike s0 us)) core.val r
        | none => turnNext (strike s0 us)) := rfl

theorem execCipherAccept_idle
    (hfind : (reqOrder (strike s0 us)).find? (reqReady (strike s0 us) (coreLowest (strike s0 us) core.val)) = none) :
    execCipherAccept core us s0 = .next (turnNext (strike s0 us)) := by
  rw [execCipherAccept_eq, hfind]

theorem execCipherAccept_serve {r : CipReq}
    (hfind : (reqOrder (strike s0 us)).find? (reqReady (strike s0 us) (coreLowest (strike s0 us) core.val)) = some r) :
    execCipherAccept core us s0 = .next (reqServe (turnNext (strike s0 us)) core.val r) := by
  rw [execCipherAccept_eq, hfind]

end Scheduler

/-! ### A request at the scheduler (R338, R344, R355) -/

/-- A request has left its queue and is counted, the single-bit errors of the slots that its checks read corrected (R344, R358). -/
def reqCounted (s : State) (r : CipReq) (x : Frame) : State :=
  (reqDrop ((acceptReads s r x.bytes (x.parsed.getD {})).foldl cipMend s) r).bump64 Reg.CIP_ACCEPT_COUNT_LO 1

section Serve

variable {s : State} {core f : Nat} {r : CipReq} {x : Frame} (hframe : reqFrame s r = some (f, x)) (hgood : badCell s f = none)
include hframe hgood

theorem reqServe_fetch {k : Nat} (hmeets : acceptCheck s r x.bytes (x.parsed.getD {}) = .fetch k) :
    reqServe s core r = cipFetch s k := by
  simp only [reqServe, hframe, hgood, hmeets]

theorem reqServe_broken {k : Nat} (hmeets : acceptCheck s r x.bytes (x.parsed.getD {}) = .broken k) :
    reqServe s core r = slotFailed s k 2 := by
  simp only [reqServe, hframe, hgood, hmeets]

theorem reqServe_fail {k : Nat} (hmeets : acceptCheck s r x.bytes (x.parsed.getD {}) = .fail k) :
    reqServe s core r = cipFail (reqCounted s r x) r k := by
  simp only [reqServe, hframe, hgood, hmeets, reqCounted]

theorem reqServe_go {k : Nat} {q : Int} (hmeets : acceptCheck s r x.bytes (x.parsed.getD {}) = .go k q) :
    reqServe s core r = cipTake (reqCounted s r x) core r f x k q := by
  simp only [reqServe, hframe, hgood, hmeets, reqCounted]

end Serve

/-! ### A fetch that ends (R343-R345) -/

section Fetch

variable {s : State} {k : BitVec 22}

theorem execKeyFetchDone_not_fetching (hidle : s.cip.fetching.contains k.toNat = false) : execKeyFetchDone k s = .next s := by
  simp only [execKeyFetchDone, hidle, Bool.not_false, Bool.true_or, if_true]

variable (hfetch : s.cip.fetching.contains k.toNat = true) (hserving : s.hlt.solo = false)
include hfetch hserving

theorem execKeyFetchDone_cached (hgood : fetchCause s k.toNat = none) : execKeyFetchDone k s = .next (cipCache s k.toNat) := by
  simp only [execKeyFetchDone, hfetch, hserving, hgood, Bool.not_true, Bool.or_self, Bool.false_eq_true, if_false]

theorem execKeyFetchDone_failed {cause : Nat} (hbad : fetchCause s k.toNat = some cause) :
    execKeyFetchDone k s = .next (slotFailed s k.toNat cause) := by
  simp only [execKeyFetchDone, hfetch, hserving, hbad, Bool.not_true, Bool.or_self, Bool.false_eq_true, if_false]

end Fetch

/-! ### A core's request ends (R339, R349-R352, R355) -/

section JobStatus

variable {s : State} {run : Bool × Option Xf}

theorem jobStatus_unverified (hbad : run.1 = false) : jobStatus s run = 8 := by
  simp only [jobStatus, hbad, Bool.not_false, if_true]

variable (hverified : run.1 = true)
include hverified

theorem jobStatus_no_frame (hnone : run.2 = none) : jobStatus s run = 11 := by
  simp only [jobStatus, hverified, hnone, Bool.not_true, Bool.false_eq_true, if_false]

variable {y : Xf} (hout : run.2 = some y)
include hout

theorem jobStatus_too_long (hlong : maxFrame s < y.bytes.length + 4) : jobStatus s run = 12 := by
  simp only [jobStatus, hverified, hout, hlong, Bool.not_true, Bool.false_eq_true, if_false, if_true]

theorem jobStatus_ok (hfits : y.bytes.length + 4 ≤ maxFrame s) : jobStatus s run = 0 := by
  simp only [jobStatus, hverified, hout, Nat.not_lt.mpr hfits, Bool.not_true, Bool.false_eq_true, if_false]

end JobStatus

/-- A core's request has left it, and the replay window of its slot has moved (R352). -/
def jobLeft (s : State) (core : Nat) (j : CipJob) : State :=
  jobWindow { s with cip := { s.cip with cores := ferase s.cip.cores core } } j (jobRun j).1

/-- Where a job's result goes once it has left its core: the last step of `execCipherComplete` (`execCipherComplete_job`). -/
def jobEnd (s : State) (j : CipJob) : State :=
  match jobStatus s (jobRun j), (jobRun j).2, (s.frame? j.frame).filter (fun _ => jobWanted s j) with
  | 0, some y, some x =>
    if (cellsFit s j.frame x y).2 then jobGive (cellsFit s j.frame x y).1 j j.frame else cipFail (cellsFit s j.frame x y).1 j.req 13
  | 0, _, _ => cipDiscard s j.req
  | _, _, _ => cipFail s j.req (jobStatus s (jobRun j))

section JobEnd

variable {s : State} {j : CipJob}

theorem jobEnd_failed {k : Nat} (hstatus : jobStatus s (jobRun j) = k + 1) : jobEnd s j = cipFail s j.req (k + 1) := by
  simp only [jobEnd, hstatus]

variable {y : Xf} (hok : jobStatus s (jobRun j) = 0) (hout : (jobRun j).2 = some y)
include hok hout

theorem jobEnd_given {x : Frame} (hframe : s.frame? j.frame = some x) (hwanted : jobWanted s j = true) :
    jobEnd s j = if (cellsFit s j.frame x y).2 then jobGive (cellsFit s j.frame x y).1 j j.frame
      else cipFail (cellsFit s j.frame x y).1 j.req 13 := by
  simp only [jobEnd, hok, hout, hframe, hwanted, Option.filter_some, if_true]

/-- A result whose frame is gone, or that nothing takes, is discarded. -/
theorem jobEnd_discarded (hlost : s.frame? j.frame = none ∨ jobWanted s j = false) : jobEnd s j = cipDiscard s j.req := by
  have htaker : (s.frame? j.frame).filter (fun _ => jobWanted s j) = none := by
    rw [Option.filter_eq_none_iff]
    rintro x hframe hwanted
    rcases hlost with hgone | hunwanted
    · exact Option.some_ne_none x (hframe.symm.trans hgone)
    · exact Bool.false_ne_true (hunwanted.symm.trans hwanted)
  simp only [jobEnd, hok, hout, htaker]

end JobEnd

theorem execCipherComplete_no_job {s : State} {core : Fin 32} (hnone : ffind? s.cip.cores core.val = none) :
    execCipherComplete core s = .next s := by
  simp only [execCipherComplete, hnone]

theorem execCipherComplete_job {s : State} {core : Fin 32} {j : CipJob} (hjob : ffind? s.cip.cores core.val = some j) :
    execCipherComplete core s = .next (jobEnd (jobLeft s core.val j) j) := by
  rw [execCipherComplete, hjob]
  rfl

end Sys2Proof.Machine

open Sys2Proof Sys2Proof.Machine

/-- Settles O54: a cycle of the scheduler by the request that it finds and what that meets (`reqServe_fetch` and its siblings), a fetch by
the cause with which it fails, a job's end by its status (`jobStatus_unverified` and its siblings). -/
theorem cipherEngine : Obligations.CipherEngine := by
  refine ⟨fun s core us => ⟨_, execCipherAccept_eq s core us⟩, fun _ _ => ⟨_, rfl⟩, fun s core => ?next,
    fun s0 core us => ⟨execCipherAccept_idle, ?serve⟩,
    fun s k => ⟨fun hfetch hserving => ⟨execKeyFetchDone_cached hfetch hserving, fun _ => execKeyFetchDone_failed hfetch hserving⟩,
      execKeyFetchDone_not_fetching⟩,
    fun s core => ⟨execCipherComplete_no_job, fun j hjob => ?complete⟩⟩
  case next =>
    change ∃ t, execCipherComplete core s = .next t
    cases hcore : ffind? s.cip.cores core.val with
    | none => exact ⟨s, execCipherComplete_no_job hcore⟩
    | some j => exact ⟨_, execCipherComplete_job hcore⟩
  case serve =>
    intro r f x hfind hframe hgood
    have hserve := execCipherAccept_serve (core := core) (s0 := s0) (us := us) hfind
    exact ⟨fun k hmeets => hserve.trans (congrArg _ (reqServe_fetch hframe hgood hmeets)),
      fun k hmeets => hserve.trans (congrArg _ (reqServe_broken hframe hgood hmeets)),
      fun k hmeets => hserve.trans (congrArg _ (reqServe_fail hframe hgood hmeets)),
      fun k n hmeets => hserve.trans (congrArg _ (reqServe_go hframe hgood hmeets))⟩
  case complete =>
    have hend := execCipherComplete_job hjob
    refine ⟨fun hbad => hend.trans (congrArg _ (jobEnd_failed (jobStatus_unverified hbad))),
      fun hverified hnone => hend.trans (congrArg _ (jobEnd_failed (jobStatus_no_frame hverified hnone))),
      fun y hverified hout => ⟨fun hlong => ?_, fun x hfits hframe hwanted => ?_, fun hfits hlost => ?_⟩⟩
    · exact hend.trans (congrArg _ (jobEnd_failed (jobStatus_too_long hverified hout hlong)))
    · exact hend.trans (congrArg _ (jobEnd_given (jobStatus_ok hverified hout hfits) hout hframe hwanted))
    · exact hend.trans (congrArg _ (jobEnd_discarded (jobStatus_ok hverified hout hfits) hout hlost))

end

/-! ## The commands of the forwarding tables, their locks and the learn filter: O40 -/

section

namespace Sys2Proof.Machine

open Sys2Proof

section Handed

variable {s : State} {r : Fin 1024} {n : Nat} {c : CmdEnt}

/-! ### TABLE_WRITE (R235-R240) -/

/-- A TABLE_WRITE of good entries has been applied in every named pipeline where its turn has come and no lock is in its way
(`execTableWrite_good`). -/
def tableWritten (s : State) (r n : Nat) (c : CmdEnt) : State :=
  forAll s ((maskList 8 (fld c.desc 71 64)).filter fun p => !c.landedIn p && mayWork s c r n p) fun s p =>
    let a := applyAll (fun s e => tableApply s p (tblOf c.desc) e) s (tableEntries (fld c.desc 207 192) c.buf)
    cmdLand a.1 r n p (descLock c.desc) a.2

/-- One bad entry refuses the whole command before any entry is written (R237). -/
theorem execTableWrite_bad (h : Handed s r n 0x44 c) {e : BitVec 256} (he : e ∈ tableEntries (fld c.desc 207 192) c.buf)
    (hbad : entOk (tblOf c.desc) e = false) :
    execTableWrite r n s = .next ((unlockCmd s c r n).badField r n) := by
  have hall : (tableEntries (fld c.desc 207 192) c.buf).all (entOk (tblOf c.desc)) = false :=
    List.all_eq_false.mpr ⟨e, he, Bool.eq_false_iff.mp hbad⟩
  exact (onCmd_of_handed h _).trans (by simp only [hall, Bool.not_false, if_true])

/-- Good entries are applied wherever they may be, and the command completes once they have been in every named pipeline (R237). -/
theorem execTableWrite_good (h : Handed s r n 0x44 c)
    (hgood : ∀ e ∈ tableEntries (fld c.desc 207 192) c.buf, entOk (tblOf c.desc) e = true) {d : CmdEnt}
    (hcmd : (tableWritten s r n c).cmd? r n = some d) :
    execTableWrite r n s =
      let ps := maskList 8 (fld c.desc 71 64)
      .next (if ps.all d.landedIn then (tableWritten s r n c).finish r n St.ok 0 (failResult (landedIn ps d))
        else tableWritten s r n c) := by
  refine (onCmd_of_handed h _).trans ?_
  rw [tableWritten] at hcmd ⊢
  simp only [List.all_eq_true.mpr hgood, Bool.not_true, Bool.false_eq_true, if_false, hcmd]

/-! ### TABLE_READ (R235, R239) -/

theorem execTableRead_beyond (h : Handed s r n 0x45 c) (hbeyond : cursorBad (tblOf c.desc) (fld c.desc 255 224) = true) :
    execTableRead r n s = .next ((unlockCmd s c r n).badField r n 28) :=
  (onCmd_of_handed h _).trans (by simp only [hbeyond, if_true])

/-- The EXACT entries of a pipeline, HIT cleared in the `count` of them that a read from `cursor` on returns (R239). -/
def hitsCleared (x : Fwd) (cursor count : Nat) : FMap ExactEnt :=
  let seen := ((x.exact.filter fun e => cursor ≤ e.1).take count).map (·.1)
  x.exact.map fun (e : Nat × ExactEnt) => if e.1 ∈ seen then (e.1, { e.2 with hit := false }) else e

section Within

variable (h : Handed s r n 0x45 c) (hwithin : cursorBad (tblOf c.desc) (fld c.desc 255 224) = false)
include h hwithin

/-- In its turn, with no lock in its way, the command reads the lowest pipeline named. -/
theorem execTableRead_reads {p : Nat} {rest : List Nat} (hlowest : maskList 8 (fld c.desc 71 64) = p :: rest)
    (hmay : ∀ q ∈ descPipes c.desc, mayWork s c r n q = true) :
    execTableRead r n s =
      let cursor := fld c.desc 255 224
      let count := fld c.desc 207 192
      let out := tableReadOut s p (tblOf c.desc) cursor count
      let w := s.output c (out.1.flatMap bytesOf)
      let x := w.fwdOf p
      let v := w.setFwd p { x with
        cursors := out.2.2
        exact := if tblOf c.desc = 0 ∧ bit c.desc 75 = true then hitsCleared x cursor count else x.exact }
      .next ((unlockCmd { v with freeCtr := v.freeCtr + 1 } c r n).finish r n St.ok 0 out.2.1) := by
  refine (onCmd_of_handed h _).trans ?_
  simp only [hwithin, hlowest, List.all_eq_true.mpr hmay, List.head?_cons, Option.getD_some, Bool.false_eq_true, if_false, if_true]
  by_cases hclear : tblOf c.desc = 0 ∧ bit c.desc 75 = true
  · simp [hclear, hitsCleared]
  · have hkeep : (tblOf c.desc == 0 && bit c.desc 75) = false := by simpa using hclear
    simp only [hclear, hkeep, Bool.false_eq_true, if_false]

theorem execTableRead_waits {q : Nat} (hq : q ∈ descPipes c.desc) (hmay : mayWork s c r n q = false) :
    execTableRead r n s = .next s := by
  have hall : (descPipes c.desc).all (mayWork s c r n) = false := List.all_eq_false.mpr ⟨q, hq, Bool.eq_false_iff.mp hmay⟩
  exact (onCmd_of_handed h _).trans (by simp only [hwithin, hall, Bool.false_eq_true, if_false])

end Within

end Handed

/-! ### Turns at a table (R235) -/

/-- A command is out of its turn while one accepted before it has still to have its effect on the same table. -/
theorem tableTurn_of_earlier {s : State} {c e : CmdEnt} {p : Nat} (he : e ∈ tableCmds s) (hearlier : e.no < c.no)
    (hp : p ∈ descPipes e.desc) (hdue : e.landedIn p = false) (htable : descTable e.desc = descTable c.desc) :
    tableTurn s c p = false := by
  rw [tableTurn, Bool.not_eq_false', List.any_eq_true]
  exact ⟨e, he, by simp [hearlier, hp, hdue, htable]⟩

theorem mayWork_of_not_turn {s : State} {c : CmdEnt} {p : Nat} (r n : Nat) (hturn : tableTurn s c p = false) :
    mayWork s c r n p = false := by
  simp only [mayWork, hturn, Bool.false_and]

/-! ### CLASP_LOCK (R240) -/

theorem execClaspLock_next (s : State) (p : Fin 8) (l : Fin 3) (r : Fin 1024) (n : Nat) :
    ∃ t, execClaspLock p l r n s = .next t := by
  unfold execClaspLock
  dsimp only
  split
  · exact ⟨_, rfl⟩
  · split <;> exact ⟨_, rfl⟩

section Clasp

variable {s : State} {p : Fin 8} {l : Fin 3} {r : Fin 1024} {n : Nat} {c : CmdEnt}

/-- A lock that is held stays as it is. -/
theorem execClaspLock_held {o : Nat × Nat} (hheld : lockOf s p l = some o) : execClaspLock p l r n s = .next s := by
  unfold execClaspLock
  cases s.next? r with
  | none => rfl
  | some c => simp [hheld]

/-- A checked command with CLASP takes the free lock of its table in its turn. -/
theorem execClaspLock_free (hnext : s.next? r = some c) (hslot : c.slot = n) (hclasp : bit c.desc 74 = true)
    (hnamed : (fld c.desc 71 64).testBit p = true) (hwants : claspWants s c l = true) (hdue : c.landedIn p = false)
    (hturn : tableTurn s c p = true) (hon : ((cmdDomains c.desc).all fun d => s.domain d == .on) = true)
    (hfree : lockOf s p l = none) :
    execClaspLock p l r n s = .next (abortWhere (setLock s p l (some (r.val, n))) p fun q => usesTable q l) := by
  simp only [execClaspLock, hnext, hslot, hclasp, hnamed, hwants, hdue, hturn, hon, hfree, beq_self_eq_true, Option.isNone_none,
    Bool.not_false, Bool.and_self, if_true]

end Clasp

/-! ### LEARN_HOLDOFF_EXPIRE (R231) -/

section Learn

variable {s : State} {p : Fin 8} {k : BitVec 96}

theorem execLearnHoldoffExpire_absent (hnone : ((s.fwdOf p).learn.find? fun e => e.1 == k) = none) :
    execLearnHoldoffExpire p k s = .next s := by
  simp only [execLearnHoldoffExpire, hnone]

/-- The key leaves the filter at the time its entry names. -/
theorem execLearnHoldoffExpire_held {e : BitVec 96 × Nat} (hheld : ((s.fwdOf p).learn.find? fun e => e.1 == k) = some e) :
    execLearnHoldoffExpire p k s =
      .next ((s.reach e.2).setFwd p { s.fwdOf p with learn := (s.fwdOf p).learn.filter fun e => e.1 != k }) := by
  simp only [execLearnHoldoffExpire, hheld]

theorem execLearnHoldoffExpire_next (s : State) (p : Fin 8) (k : BitVec 96) : ∃ t, execLearnHoldoffExpire p k s = .next t := by
  cases hfind : (s.fwdOf p).learn.find? fun e => e.1 == k with
  | none => exact ⟨_, execLearnHoldoffExpire_absent hfind⟩
  | some e => exact ⟨_, execLearnHoldoffExpire_held hfind⟩

end Learn

end Sys2Proof.Machine

open Sys2Proof Sys2Proof.Machine

/-- Settles O40: each command runs its meaning as its ring hands it over, by its checks and its turn; a lock and a key of the learn filter
by whether they are held. -/
theorem tableCommands : Obligations.TableCommands := by
  refine ⟨fun _ _ _ => ⟨onCmd_next _ _ _ _ _, onCmd_next _ _ _ _ _⟩, execLearnHoldoffExpire_next, execClaspLock_next, ?commands,
    fun s p l r n c hnext hslot hclasp hnamed hwants hdue hturn hon =>
      ⟨execClaspLock_free hnext hslot hclasp hnamed hwants hdue hturn hon, fun _ => execClaspLock_held⟩,
    fun s p k t => execLearnHoldoffExpire_held⟩
  case commands =>
    intro s r n c t ps es cursor go u
    refine ⟨fun e he h hbad => execTableWrite_bad h he hbad, fun d h hgood hcmd hall => ?done, fun d h hgood hcmd hsome => ?begun,
      execTableRead_beyond, fun p rest h hwithin hlowest hmay => execTableRead_reads h hwithin hlowest hmay,
      fun h hwithin ⟨q, hq, hmay⟩ => execTableRead_waits h hwithin hq hmay,
      fun p e he hearlier hp hdue htable => mayWork_of_not_turn _ _ (tableTurn_of_earlier he hearlier hp hdue htable)⟩
    case done => exact (execTableWrite_good h hgood hcmd).trans (congrArg _ (if_pos (List.all_eq_true.mpr hall)))
    case begun =>
      obtain ⟨p, hp, hdue⟩ := hsome
      exact (execTableWrite_good h hgood hcmd).trans
        (congrArg _ (if_neg fun hall => Bool.eq_false_iff.mp hdue (List.all_eq_true.mp hall p hp)))

end

/-! ## The commands of the TCAM: O41 -/

section

namespace Sys2Proof.Machine

open Sys2Proof

section Handed

variable {s : State} {r : Fin 1024} {n : Nat} {c : CmdEnt}

/-! ### TCAM_WRITE (R258, R259) -/

/-- The named pipelines in which a TCAM_WRITE has not begun and may. -/
def tcamReady (s : State) (r n : Nat) (c : CmdEnt) : List Nat :=
  (maskList 8 (fld c.desc 71 64)).filter fun p => !tcmBegun s c r n p && mayTcam s c r n p

/-- A TCAM_WRITE of good entries has gone as far as it can without copy steps in every pipeline that is ready for it
(`execTcamWrite_good`). -/
def tcamWritten (s : State) (r n : Nat) (c : CmdEnt) : State :=
  forAll s (tcamReady s r n c) fun s p =>
    tcmLand (tcmRun s p r n ((tcmEntries (fld c.desc 207 192) c.buf).zipIdx.map fun e => (e.2, e.1)) []) r n p

/-- One entry that is bad for one named pipeline refuses a command that has begun in none (R259). -/
theorem execTcamWrite_bad (h : Handed s r n 0x46 c) {p : Nat} (hp : p ∈ maskList 8 (fld c.desc 71 64)) {e : BitVec 1536}
    (he : e ∈ tcmEntries (fld c.desc 207 192) c.buf) (hnew : ∀ q ∈ maskList 8 (fld c.desc 71 64), tcmBegun s c r n q = false)
    (hbad : tcmEntOk s p e = false) :
    execTcamWrite r n s = .next ((unlockCmd s c r n).badField r n) := by
  have hbegun : (maskList 8 (fld c.desc 71 64)).any (tcmBegun s c r n) = false :=
    List.any_eq_false.mpr fun q hq => Bool.eq_false_iff.mp (hnew q hq)
  have hall : ((maskList 8 (fld c.desc 71 64)).all fun p => (tcmEntries (fld c.desc 207 192) c.buf).all (tcmEntOk s p)) = false :=
    List.all_eq_false.mpr ⟨p, hp, by simpa using ⟨e, he, hbad⟩⟩
  exact (onCmd_of_handed h _).trans (by simp only [hbegun, hall, Bool.not_false, Bool.and_self, if_true])

section Good

variable (h : Handed s r n 0x46 c)
    (hgood : ∀ p ∈ maskList 8 (fld c.desc 71 64), ∀ e ∈ tcmEntries (fld c.desc 207 192) c.buf, tcmEntOk s p e = true)
include h hgood

/-- Good entries go into every pipeline that is ready for them; the command runs once it has begun in every one named. -/
theorem execTcamWrite_good :
    execTcamWrite r n s =
      .next (tcmFinish (if (maskList 8 (fld c.desc 71 64)).all fun p => tcmBegun s c r n p || (tcamReady s r n c).contains p
        then (tcamWritten s r n c).modCmd r n fun c => { c with phase := .running } else tcamWritten s r n c) r n) := by
  have hall : ((maskList 8 (fld c.desc 71 64)).all fun p => (tcmEntries (fld c.desc 207 192) c.buf).all (tcmEntOk s p)) = true := by
    simpa only [List.all_eq_true] using hgood
  refine (onCmd_of_handed h _).trans ?_
  simp only [hall, Bool.not_true, Bool.and_false, Bool.false_eq_true, if_false]
  rfl

theorem execTcamWrite_begun
    (hall : ∀ p ∈ maskList 8 (fld c.desc 71 64), tcmBegun s c r n p = true ∨ p ∈ tcamReady s r n c) :
    execTcamWrite r n s = .next (tcmFinish ((tcamWritten s r n c).modCmd r n fun c => { c with phase := .running }) r n) := by
  rw [execTcamWrite_good h hgood, if_pos (by simpa using hall)]

theorem execTcamWrite_left {p : Nat} (hp : p ∈ maskList 8 (fld c.desc 71 64)) (hnew : tcmBegun s c r n p = false)
    (hready : p ∉ tcamReady s r n c) :
    execTcamWrite r n s = .next (tcmFinish (tcamWritten s r n c) r n) := by
  rw [execTcamWrite_good h hgood, if_neg (by simpa using ⟨p, hp, hnew, hready⟩)]

end Good

/-! ### TCAM_READ and TCAM_COUNTER_READ (R258) -/

theorem execTcamRead_reads {p : Nat} {rest : List Nat} (h : Handed s r n 0x47 c)
    (hlowest : maskList 8 (fld c.desc 71 64) = p :: rest) (hmay : ∀ q ∈ descPipes c.desc, mayTcam s c r n q = true) :
    execTcamRead r n s =
      let count := fld c.desc 207 192
      let left := (s.tcmOf p).ents.filter fun e => fld c.desc 255 224 ≤ e.1
      .next ((unlockCmd (s.output c ((left.take count).flatMap fun e => bytesOf (tcmImage (e.1 / 4096) e.2))) c r n).finish
        r n St.ok 0 (((left.drop count).head?.map (·.1)).getD 0)) := by
  refine (onCmd_of_handed h _).trans ?_
  simp only [hlowest, List.all_eq_true.mpr hmay, List.head?_cons, Option.getD_some, if_true]
  cases (List.drop _ _).head? <;> rfl

theorem execTcamCounterRead_beyond (h : Handed s r n 0x48 c) (hbeyond : 4096 < fld c.desc 255 224 + fld c.desc 207 192) :
    execTcamCounterRead r n s = .next ((unlockCmd s c r n).badField r n 28) :=
  (onCmd_of_handed h _).trans (by simp only [hbeyond, if_true])

/-- The counter pairs have been written to the command's buffer, and their accesses posted. -/
def countersRead (s : State) (p : Nat) (c : CmdEnt) : State :=
  let k := fld c.desc 255 224
  let m := fld c.desc 207 192
  ((List.range m).foldl (fun v _ => counterPost v 10 (bit c.desc 74)) s).output c ((List.range m).flatMap fun i =>
    bytesLE 8 (fget (s.tcmOf p).pkts 0 (k + i)) ++ bytesLE 8 (fget (s.tcmOf p).bytes 0 (k + i)))

/-- Under CLASP the pairs that are read start again from 0. -/
theorem execTcamCounterRead_reads {p : Nat} {rest : List Nat} (h : Handed s r n 0x48 c)
    (hwithin : fld c.desc 255 224 + fld c.desc 207 192 ≤ 4096) (hlowest : maskList 8 (fld c.desc 71 64) = p :: rest)
    (hmay : ∀ q ∈ descPipes c.desc, mayTcam s c r n q = true) :
    execTcamCounterRead r n s =
      let k := fld c.desc 255 224
      let out := fun i => decide (i < k ∨ k + fld c.desc 207 192 ≤ i)
      let w := countersRead s p c
      .next ((unlockCmd (if bit c.desc 74 then w.setTcm p { w.tcmOf p with
        pkts := fkeep (s.tcmOf p).pkts out, bytes := fkeep (s.tcmOf p).bytes out } else w) c r n).finish r n St.ok) := by
  have hout : (fun i => !(decide (fld c.desc 255 224 ≤ i) && decide (i < fld c.desc 255 224 + fld c.desc 207 192))) =
      fun i => decide (i < fld c.desc 255 224 ∨ fld c.desc 255 224 + fld c.desc 207 192 ≤ i) := by
    funext i
    simp [Bool.not_and, ← decide_not]
  refine (onCmd_of_handed h _).trans ?_
  simp only [Nat.not_lt.mpr hwithin, hlowest, List.all_eq_true.mpr hmay, List.head?_cons, Option.getD_some, if_true, if_false, hout,
    countersRead]

end Handed

/-! ### TCM_BANK_CFG_WRITE (R246) -/

/-- Is the width that a write of TCM_BANK_CFG gives to a bank refused (`bankCfgWrite_eq`)? -/
def bankWidthBad (s : State) (p : Nat) (v : W32) (b : Nat) : Bool :=
  fld v (2 * b + 1) (2 * b) == 3 ||
    (fld v (2 * b + 1) (2 * b) != s.rf (Reg.TCM_BANK_CFG p) (2 * b + 1) (2 * b) && (s.tcmOf p).ents.any fun e => e.1 / 4096 == b)

section BankCfg

variable {s : State} {p : Nat} {v : W32}

/-- A reserved width is refused, and so is another width of a bank that holds an entry. -/
theorem bankWidthBad_iff {b : Nat} : bankWidthBad s p v b = true ↔
    fld v (2 * b + 1) (2 * b) = 3 ∨
      (fld v (2 * b + 1) (2 * b) ≠ s.rf (Reg.TCM_BANK_CFG p) (2 * b + 1) (2 * b) ∧ ∃ e ∈ (s.tcmOf p).ents, e.1 / 4096 = b) := by
  simp only [bankWidthBad, Bool.or_eq_true, Bool.and_eq_true, beq_iff_eq, bne_iff_ne, List.any_eq_true]

variable (hseal : s.pkg.sealed = false)
include hseal

theorem bankCfgWrite_eq : bankCfgWrite s p v =
    if (List.range 16).any (bankWidthBad s p v) then badWrite s else s.setReg (Reg.TCM_BANK_CFG p) v := by
  simp only [bankCfgWrite, hseal, Bool.false_eq_true, if_false]
  rfl

theorem bankCfgWrite_good (hgood : ∀ b < 16, bankWidthBad s p v b = false) :
    bankCfgWrite s p v = s.setReg (Reg.TCM_BANK_CFG p) v := by
  rw [bankCfgWrite_eq hseal, if_neg (by simpa using hgood)]

theorem bankCfgWrite_bad {b : Nat} (hb : b < 16) (hbad : bankWidthBad s p v b = true) : bankCfgWrite s p v = badWrite s := by
  rw [bankCfgWrite_eq hseal, if_pos (List.any_eq_true.mpr ⟨b, List.mem_range.mpr hb, hbad⟩)]

end BankCfg

end Sys2Proof.Machine

open Sys2Proof Sys2Proof.Machine

/-- Settles O41: each command runs its meaning as its ring hands it over, by its checks and its turn; a write of TCM_BANK_CFG by whether
a bank's width is refused (`bankWidthBad_iff`). -/
theorem tcamCommands : Obligations.TcamCommands := by
  refine ⟨fun _ _ _ => ⟨onCmd_next _ _ _ _ _, onCmd_next _ _ _ _ _, onCmd_next _ _ _ _ _⟩, fun _ _ _ => ⟨_, rfl⟩,
    ?commands, ?banks⟩
  case commands =>
    intro s r n c ps es k m go u
    refine ⟨fun p hp e he h hnew hbad => execTcamWrite_bad h hp he hnew hbad, fun h hgood => ⟨execTcamWrite_begun h hgood, ?left⟩,
      fun p rest h hlowest hmay => execTcamRead_reads h hlowest hmay, execTcamCounterRead_beyond,
      fun p rest h hwithin hlowest hmay => ?reads⟩
    case left =>
      rintro ⟨p, hp, hnew, hready⟩
      exact execTcamWrite_left h hgood hp hnew hready
    case reads =>
      have hread := execTcamCounterRead_reads h hwithin hlowest hmay
      exact ⟨fun hkeep => by rw [hkeep] at hread; exact hread, fun hclear => by rw [hclear] at hread; exact hread⟩
  case banks =>
    intro s p v hopen hseal old full
    refine ⟨fun hgood => ?_, fun b hb hbad => ?_⟩
    · have hwidths : ∀ b < 16, bankWidthBad s p v b = false := fun b hb => by
        obtain ⟨hdefined, hkept⟩ := hgood b hb
        rw [Bool.eq_false_iff, ne_eq, bankWidthBad_iff]
        rintro (hreserved | ⟨hother, hfull⟩)
        · exact hdefined hreserved
        · exact hkept.elim hother fun hempty => hempty hfull
      exact (onBar_open hopen _).trans (congrArg _ (bankCfgWrite_good hseal hwidths))
    · exact (onBar_open hopen _).trans (congrArg _ (bankCfgWrite_bad hseal hb (bankWidthBad_iff.mpr hbad)))

end

/-! ## The copy steps and the scrubber of the TCAM: O42 -/

section

namespace Sys2Proof.Machine

open Sys2Proof

/-! ### TCAM_COPY_STEP (R254, R256) -/

section CopyStep

variable {s : State} {p : Fin 8} {m : TcmMove}

theorem execTcamCopyStep_next (s : State) (p : Fin 8) : ∃ t, execTcamCopyStep p s = .next t := by
  unfold execTcamCopyStep
  dsimp only
  split
  case h_1 => exact ⟨_, rfl⟩
  case h_2 => split <;> exact ⟨_, rfl⟩

variable (hmove : (s.tcmOf p).move = some m)
include hmove

/-- The first copy step left copies its source entry to its target position (R254). -/
theorem execTcamCopyStep_copies {a b : Nat} {rest : List (Nat × Nat)} {e : TcmEnt} (hsteps : m.steps = (a, b) :: rest)
    (hsource : tcmAt (s.tcmOf p) m.bank a = some e) :
    execTcamCopyStep p s =
      .next (tcmCopy (s.setTcm p { s.tcmOf p with move := some { m with steps := rest } }) p m.bank a b e) := by
  simp only [execTcamCopyStep, hmove, hsteps, hsource]

/-- With no copy step left, the new entry takes its place, and the command that brought it goes on with its other entries (R254, R256). -/
theorem execTcamCopyStep_places {j : TcmJob} {js : List TcmJob} (hsteps : m.steps = []) (hjobs : (s.tcmOf p).jobs = j :: js) :
    execTcamCopyStep p s =
      .next (tcmFinish (tcmLand (tcmRun (tcmPut (s.setTcm p { s.tcmOf p with move := none }) p m.bank m.place m.ent) p j.ring j.slot
        j.left j.fails) j.ring j.slot p) j.ring j.slot) := by
  simp only [execTcamCopyStep, hmove, hsteps, hjobs]

end CopyStep

/-! ### TCAM_SCRUB (R261, R262) -/

/-- Does the copy step in progress work on position `k` of bank `b` (R261)? -/
def copyWorksOn (t : Tcm) (b k : Nat) : Bool :=
  t.move.any fun m => m.bank == b && m.steps.head?.any fun st => st.1 == k || st.2 == k

theorem copyWorksOn_of_no_move {t : Tcm} (hmove : t.move = none) (b k : Nat) : copyWorksOn t b k = false := by
  rw [copyWorksOn, hmove, Option.any_none]

theorem copyWorksOn_of_step {t : Tcm} {m : TcmMove} {st : Nat × Nat} {rest : List (Nat × Nat)} {k : Nat} (hmove : t.move = some m)
    (hsteps : m.steps = st :: rest) (hpos : st.1 = k ∨ st.2 = k) : copyWorksOn t m.bank k = true := by
  simp only [copyWorksOn, hmove, hsteps, Option.any_some, List.head?_cons, beq_self_eq_true, Bool.true_and, Bool.or_eq_true,
    beq_iff_eq, hpos]

/-- The entry `e` at position `k` is invalidated: its units carry good parity, and the failure is counted and reported (R261, R262). -/
def scrubFail (s : State) (p b k : Nat) (e : TcmEnt) : State :=
  tcmTileFail ((s.setTcm p { s.tcmOf p with
    ents := ferase (s.tcmOf p).ents (4096 * b + k)
    badUnits := (s.tcmOf p).badUnits.filter fun x => !(x / 4096 == b && x % 4096 / bankUnits s p b == k) }).bumpField
      (Reg.TCM_TILE_FAIL_COUNT p) 15 8) p b 1 [e.id]

/-- What the scrubber does at a unit of a bank (`execTcamScrub_eq`). -/
def scrubUnit (s : State) (p b u : Nat) : State :=
  if copyWorksOn (s.tcmOf p) b (u / bankUnits s p b) || !(s.tcmOf p).badUnits.contains (4096 * b + u) then s
  else (tcmAt (s.tcmOf p) b (u / bankUnits s p b)).elim s (scrubFail s p b (u / bankUnits s p b))

section Scrub

variable {s : State} {p b u : Nat}

/-- The scrubber works on the struck state. -/
theorem execTcamScrub_eq (s0 : State) (p : Fin 8) (b : Fin 16) (u : Fin 4096) (us : List Upset) :
    execTcamScrub p b ⟨u, us⟩ s0 = .next (scrubUnit (strike s0 us) p b u) := by
  unfold execTcamScrub
  rw [scrubUnit, apply_ite Host.Outcome.next]
  refine if_congr Iff.rfl rfl ?_
  dsimp only
  split
  case h_1 hfree => rw [hfree, Option.elim_none]
  case h_2 e hfull => rw [hfull, Option.elim_some]; rfl

theorem scrubUnit_fails {e : TcmEnt} (hmove : (s.tcmOf p).move = none) (hbad : 4096 * b + u ∈ (s.tcmOf p).badUnits)
    (hfull : tcmAt (s.tcmOf p) b (u / bankUnits s p b) = some e) : scrubUnit s p b u = scrubFail s p b (u / bankUnits s p b) e := by
  have hdue : ¬ (copyWorksOn (s.tcmOf p) b (u / bankUnits s p b) || !(s.tcmOf p).badUnits.contains (4096 * b + u)) = true := by
    simp only [copyWorksOn_of_no_move hmove, List.contains_iff_mem.mpr hbad, Bool.not_true, Bool.or_false, Bool.false_eq_true,
      not_false_iff]
  rw [scrubUnit, if_neg hdue, hfull, Option.elim_some]

theorem scrubUnit_good (hgood : 4096 * b + u ∉ (s.tcmOf p).badUnits) : scrubUnit s p b u = s :=
  if_pos (by simp only [List.contains_eq_mem, hgood, decide_false, Bool.not_false, Bool.or_true])

theorem scrubUnit_skipped (hcopy : copyWorksOn (s.tcmOf p) b (u / bankUnits s p b) = true) : scrubUnit s p b u = s :=
  if_pos (by rw [hcopy, Bool.true_or])

end Scrub

end Sys2Proof.Machine

open Sys2Proof Sys2Proof.Machine

/-- Settles O42: a copy step by whether one is left (`execTcamCopyStep_copies`, `execTcamCopyStep_places`), a visit of the scrubber by
its unit's parity and the copy step in progress (`scrubUnit_fails`, `scrubUnit_good`, `scrubUnit_skipped`). -/
theorem tcamEngines : Obligations.TcamEngines := by
  refine ⟨execTcamCopyStep_next, fun s p b unit => ⟨_, execTcamScrub_eq s p b unit.it unit.upsets⟩,
    fun _ _ _ _ _ _ _ hmove hsteps hsource => execTcamCopyStep_copies hmove hsteps hsource,
    fun _ _ _ _ _ hmove hsteps hjobs => execTcamCopyStep_places hmove hsteps hjobs, ?fails, ?skips⟩
  case fails =>
    intro s0 p b u us e s k hmove hbad hfull
    exact (execTcamScrub_eq s0 p b u us).trans (congrArg _ (scrubUnit_fails hmove hbad hfull))
  case skips =>
    intro s0 p b u us s
    refine ⟨fun hgood => (execTcamScrub_eq s0 p b u us).trans (congrArg _ (scrubUnit_good hgood)), ?copying⟩
    intro m st rest hmove hbank hsteps hpos
    have hcopy := hbank ▸ copyWorksOn_of_step hmove hsteps hpos
    exact (execTcamScrub_eq s0 p b u us).trans (congrArg _ (scrubUnit_skipped hcopy))

end

/-! ## Frames that arrive and frames that the host injects: O47 -/

section

namespace Sys2Proof.Machine

open Sys2Proof

/-! ### What the RS-FEC decoder counts leaves the frame limits alone (R385) -/

theorem tally_reg_other (s : State) {a b : Nat} (k : Nat) (h : b ≠ a) : (s.tally a k).reg b = s.reg b := by
  unfold State.tally
  split
  · rfl
  · exact setReg_reg_other s _ h

theorem foldl_tally_reg_other {α : Type} {addr count : α → Nat} {b : Nat} (h : ∀ e, b ≠ addr e) (xs : List α) (s : State) :
    (xs.foldl (fun s e => s.tally (addr e) (count e)) s).reg b = s.reg b :=
  xs.foldlRecOn (motive := fun u => u.reg b = s.reg b) _ rfl fun u hu e _ => (tally_reg_other u _ (h e)).trans hu

theorem fecCount_off {s : State} {n : Nat} (h : (s.port n).fec = false) (l : LineErr) : fecCount s n l = s :=
  if_neg (Bool.eq_false_iff.mp h)

theorem fecCount_maxFrame (s : State) (n : Nat) (l : LineErr) : (fecCount s n l).reg Reg.SWC_MAX_FRAME = s.reg Reg.SWC_MAX_FRAME := by
  have huncorr : Reg.SWC_MAX_FRAME ≠ Reg.LIF_FEC_UNCORR_COUNT (octOf n) (slotOf n) := by
    simp only [Reg.SWC_MAX_FRAME, Reg.LIF_FEC_UNCORR_COUNT, slotOf]; omega
  have hcorr : Reg.SWC_MAX_FRAME ≠ Reg.LIF_FEC_CORR_COUNT (octOf n) (slotOf n) := by
    simp only [Reg.SWC_MAX_FRAME, Reg.LIF_FEC_CORR_COUNT, slotOf]; omega
  have hlane : ∀ e : Nat × Nat, Reg.SWC_MAX_FRAME ≠ Reg.LIF_LANE_SYM_ERR_COUNT (octOf e.1) (slotOf e.1) := fun e => by
    simp only [Reg.SWC_MAX_FRAME, Reg.LIF_LANE_SYM_ERR_COUNT, slotOf]; omega
  unfold fecCount
  split
  · exact (foldl_tally_reg_other hlane _ _).trans ((tally_reg_other _ _ hcorr).trans (tally_reg_other _ _ huncorr))
  · rfl

/-! ### FRAME_RECEIVE (R264, R267, R268, R276, R385, R386, R390, R391, R422) -/

/-- A frame that the line interface hands on is stored, or refused at admission and counted. -/
theorem frameIn_eq (u : State) (p : Fin 128) (bs : List Byte) (e : Option Nat) :
    frameIn u p bs e =
      if admitIngress u p then
        (frameNew u
          { port := p, pipe := p / 16, fabric := p / 8, bytes := bs, prio := framePrio u p bs, rxTime := some (rxStamp u p).1
            rxTick := (rxStamp u p).2, seenTime := u.time, tailErr := e }).1
      else u.bump (Reg.SWC_ING_DROP_COUNT p) := by
  have hfabric : ingressFabric p = p / 8 := if_pos p.isLt
  cases hadmit : admitIngress u p <;> simp [frameIn, hadmit, hfabric]

/-- Does a frame meet a codeword that its port's RS-FEC decoder could not correct? -/
def codewordHit (s : State) (n : Nat) (l : LineErr) : Bool := (s.port n).fec && l.codewords != 0

theorem codewordHit_iff {s : State} {n : Nat} {l : LineErr} :
    codewordHit s n l = true ↔ (s.port n).fec = true ∧ l.codewords ≠ 0 := by
  simp only [codewordHit, Bool.and_eq_true, bne_iff_ne]

/-- Does a frame end with a receive error? -/
def lineBad (s : State) (n : Nat) (l : LineErr) : Bool := l.rxError || l.linkLost || codewordHit s n l

theorem lineBad_eq_false_iff {s : State} {n : Nat} {l : LineErr} : lineBad s n l = false ↔
    l.rxError = false ∧ l.linkLost = false ∧ ¬ ((s.port n).fec = true ∧ l.codewords ≠ 0) := by
  rw [← codewordHit_iff, lineBad, Bool.or_eq_false_iff, Bool.or_eq_false_iff, Bool.not_eq_true, and_assoc]

/-- A frame with a receive error has been counted, as a runt too if it is one (R390). -/
def brokenCounted (s : State) (n : Nat) (b : List Byte) : State :=
  (s.bump (Reg.LIF_RX_ERR_COUNT (octOf n) (slotOf n))).tally (Reg.LIF_RUNT_COUNT (octOf n) (slotOf n)) (decide (b.length < 64)).toNat

/-- The bytes of a frame with a receive error that may be stored: a frame that the link's loss cuts has no FCS. -/
def brokenKept (b : List Byte) (l : LineErr) : List Byte := if l.linkLost then b else b.take (b.length - 4)

section Broken

variable {s : State} {n : Nat} {b : List Byte} {l : LineErr} {hit : Bool}

theorem frameBroken_discarded (hlost : l.linkLost = false) (hhit : hit = false) (hshort : (brokenKept b l).length < 256) :
    frameBroken s n b l hit = brokenCounted s n b :=
  if_pos (by subst hhit; simpa [hlost, brokenKept] using hshort)

theorem frameBroken_stored (h : l.linkLost = true ∨ hit = true ∨ 256 ≤ (brokenKept b l).length) :
    frameBroken s n b l hit =
      frameIn (brokenCounted s n b) n ((brokenKept b l).take (s.rf Reg.SWC_MAX_FRAME 13 0 - 4)) (some 1) := by
  refine if_neg fun hshort => ?_
  simp only [Bool.and_eq_true, Bool.not_eq_true', decide_eq_true_eq] at hshort
  obtain ⟨⟨hhit, hlost⟩, hlength⟩ := hshort
  rcases h with h | h | h
  · exact Bool.false_ne_true (hlost.symm.trans h)
  · exact Bool.false_ne_true (hhit.symm.trans h)
  · exact Nat.not_lt.mpr h hlength

end Broken

theorem execFrameReceive_next (p : Fin 128) (b : List Byte) (l : LineErr) (s : State) : ∃ t, execFrameReceive p b l s = .next t := by
  unfold execFrameReceive
  dsimp only
  split_ifs <;> exact ⟨_, rfl⟩

section Receive

variable {s : State} {p : Fin 128} {b : List Byte} {l : LineErr}

theorem execFrameReceive_down (hdown : portUp s p = false) : execFrameReceive p b l s = .next s := by
  simp only [execFrameReceive, hdown, Bool.not_false, if_true]

variable (hup : portUp s p = true)
include hup

/-- Codewords outside any frame bring no bytes. -/
theorem execFrameReceive_codewords (hbytes : b = []) (herror : l.rxError = false) (hlost : l.linkLost = false) :
    execFrameReceive p b l s = .next (fecCount s p l) := by
  simp only [execFrameReceive, hup, hbytes, herror, hlost, List.isEmpty_nil, Bool.not_true, Bool.not_false, Bool.and_self,
    Bool.false_eq_true, if_false, if_true]

variable (harrives : b ≠ [] ∨ l.rxError = true ∨ l.linkLost = true)
include harrives

/-- The checks of a frame that arrives, in their order. -/
theorem execFrameReceive_arrives :
    execFrameReceive p b l s =
      let v := fecCount s p l
      let mx := s.rf Reg.SWC_MAX_FRAME 13 0
      if overruns v p then .next (v.bump (Reg.LIF_OVERRUN_COUNT (octOf p) (slotOf p)))
      else if beAt b 12 2 = 0x8808 ∧ fcsOk b = false then .next (v.bump (Reg.LIF_FCS_ERR_COUNT (octOf p) (slotOf p)))
      else if lineBad s p l then .next (frameBroken v p b l (codewordHit s p l))
      else if b.length < 64 then .next (v.bump (Reg.LIF_RUNT_COUNT (octOf p) (slotOf p)))
      else if beAt b 12 2 = 0x8808 then .next (macControl v p b)
      else if mx < b.length then .next (frameIn v p (b.take (mx - 4)) (some 4))
      else if fcsOk b then .next (frameIn v p (b.take (b.length - 4)) none)
      else .next (frameIn (v.bump (Reg.LIF_FCS_ERR_COUNT (octOf p) (slotOf p))) p (b.take (b.length - 4)) (some 0)) := by
  have hframe : (b.isEmpty && !l.rxError && !l.linkLost) = false := by
    rcases harrives with hbytes | herror | hlost
    · simp [hbytes]
    · simp [herror]
    · simp [hlost]
  simp only [execFrameReceive, hup, hframe, Bool.not_true, Bool.false_eq_true, if_false, Bool.and_eq_true, beq_iff_eq,
    Bool.not_eq_true']
  rfl

theorem execFrameReceive_overrun (hover : overruns (fecCount s p l) p = true) :
    execFrameReceive p b l s = .next ((fecCount s p l).bump (Reg.LIF_OVERRUN_COUNT (octOf p) (slotOf p))) :=
  (execFrameReceive_arrives hup harrives).trans (if_pos hover)

variable (hroom : overruns (fecCount s p l) p = false)
include hroom

theorem execFrameReceive_badControl (hcontrol : beAt b 12 2 = 0x8808) (hfcs : fcsOk b = false) :
    execFrameReceive p b l s = .next ((fecCount s p l).bump (Reg.LIF_FCS_ERR_COUNT (octOf p) (slotOf p))) := by
  rw [execFrameReceive_arrives hup harrives]
  exact (if_neg (Bool.eq_false_iff.mp hroom)).trans (if_pos ⟨hcontrol, hfcs⟩)

variable (hbadControl : ¬ (beAt b 12 2 = 0x8808 ∧ fcsOk b = false))
include hbadControl

theorem execFrameReceive_broken (hbad : lineBad s p l = true) :
    execFrameReceive p b l s = .next (frameBroken (fecCount s p l) p b l (codewordHit s p l)) := by
  rw [execFrameReceive_arrives hup harrives]
  exact (if_neg (Bool.eq_false_iff.mp hroom)).trans ((if_neg hbadControl).trans (if_pos hbad))

variable (hgood : lineBad s p l = false)
include hgood

theorem execFrameReceive_clean :
    execFrameReceive p b l s =
      let v := fecCount s p l
      let mx := s.rf Reg.SWC_MAX_FRAME 13 0
      if b.length < 64 then .next (v.bump (Reg.LIF_RUNT_COUNT (octOf p) (slotOf p)))
      else if beAt b 12 2 = 0x8808 then .next (macControl v p b)
      else if mx < b.length then .next (frameIn v p (b.take (mx - 4)) (some 4))
      else if fcsOk b then .next (frameIn v p (b.take (b.length - 4)) none)
      else .next (frameIn (v.bump (Reg.LIF_FCS_ERR_COUNT (octOf p) (slotOf p))) p (b.take (b.length - 4)) (some 0)) := by
  rw [execFrameReceive_arrives hup harrives]
  exact (if_neg (Bool.eq_false_iff.mp hroom)).trans ((if_neg hbadControl).trans (if_neg (Bool.eq_false_iff.mp hgood)))

theorem execFrameReceive_runt (hshort : b.length < 64) :
    execFrameReceive p b l s = .next ((fecCount s p l).bump (Reg.LIF_RUNT_COUNT (octOf p) (slotOf p))) :=
  (execFrameReceive_clean hup harrives hroom hbadControl hgood).trans (if_pos hshort)

variable (hlong : 64 ≤ b.length)
include hlong

theorem execFrameReceive_control (hcontrol : beAt b 12 2 = 0x8808) :
    execFrameReceive p b l s = .next (macControl (fecCount s p l) p b) :=
  (execFrameReceive_clean hup harrives hroom hbadControl hgood).trans ((if_neg (Nat.not_lt.mpr hlong)).trans (if_pos hcontrol))

omit hbadControl
variable (hdata : beAt b 12 2 ≠ 0x8808)
include hdata

/-- A frame that is stored is cut at SWC_MAX_FRAME, or loses its FCS, which is checked. -/
theorem execFrameReceive_data :
    execFrameReceive p b l s =
      let v := fecCount s p l
      let mx := s.rf Reg.SWC_MAX_FRAME 13 0
      if mx < b.length then .next (frameIn v p (b.take (mx - 4)) (some 4))
      else if fcsOk b then .next (frameIn v p (b.take (b.length - 4)) none)
      else .next (frameIn (v.bump (Reg.LIF_FCS_ERR_COUNT (octOf p) (slotOf p))) p (b.take (b.length - 4)) (some 0)) :=
  (execFrameReceive_clean hup harrives hroom (fun hctl => hdata hctl.1) hgood).trans
    ((if_neg (Nat.not_lt.mpr hlong)).trans (if_neg hdata))

theorem execFrameReceive_oversize (hover : s.rf Reg.SWC_MAX_FRAME 13 0 < b.length) :
    execFrameReceive p b l s =
      .next (frameIn (fecCount s p l) p (b.take (s.rf Reg.SWC_MAX_FRAME 13 0 - 4)) (some 4)) :=
  (execFrameReceive_data hup harrives hroom hgood hlong hdata).trans (if_pos hover)

variable (hfits : b.length ≤ s.rf Reg.SWC_MAX_FRAME 13 0)
include hfits

theorem execFrameReceive_stored (hfcs : fcsOk b = true) :
    execFrameReceive p b l s = .next (frameIn (fecCount s p l) p (b.take (b.length - 4)) none) :=
  (execFrameReceive_data hup harrives hroom hgood hlong hdata).trans ((if_neg (Nat.not_lt.mpr hfits)).trans (if_pos hfcs))

theorem execFrameReceive_badFcs (hfcs : fcsOk b = false) :
    execFrameReceive p b l s =
      .next (frameIn ((fecCount s p l).bump (Reg.LIF_FCS_ERR_COUNT (octOf p) (slotOf p))) p (b.take (b.length - 4)) (some 0)) :=
  (execFrameReceive_data hup harrives hroom hgood hlong hdata).trans
    ((if_neg (Nat.not_lt.mpr hfits)).trans (if_neg (Bool.eq_false_iff.mp hfcs)))

end Receive

/-! ### INJECT (R459, R460, R504) -/

section Inject

variable {s : State} {r : Fin 1024} {n : Nat} {c : CmdEnt} (h : Handed s r n 0xC0 c)
include h

theorem execInject_off (hoff : s.domain (domPipe (fld c.desc 144 142)) ≠ .on) :
    execInject r n s = .next (s.finish r n St.busy) :=
  (onCmd_of_handed h _).trans (congrArg _ (if_pos (bne_iff_ne.mpr hoff)))

variable (hon : s.domain (domPipe (fld c.desc 144 142)) = .on)
include hon

theorem execInject_refused (hfull : admitIngress s (128 + s.rf (Reg.HIF_RING_CFG r) 23 22) = false) :
    execInject r n s = .next ((s.bump (Reg.SWC_ING_DROP_COUNT (128 + s.rf (Reg.HIF_RING_CFG r) 23 22))).finish r n St.noSpace) :=
  (onCmd_of_handed h _).trans (by simp only [hon, hfull, bne_self_eq_false, Bool.not_false, Bool.false_eq_true, if_false, if_true])

variable (hroom : admitIngress s (128 + s.rf (Reg.HIF_RING_CFG r) 23 22) = true)
include hroom

theorem execInject_dmaError (hdma : c.dmaFail = true ∨ c.mute = true) : execInject r n s = .next (s.finish r n St.dmaError) :=
  (onCmd_of_handed h _).trans (by
    simp only [hon, hroom, bne_self_eq_false, Bool.not_true, Bool.false_eq_true, if_false, Bool.or_eq_true, hdma, if_true])

theorem execInject_stored (hread : c.dmaFail = false) (hbus : c.mute = false) :
    execInject r n s =
      .next (frameNew (s.modCmd r n fun c => { c with phase := .running }) (injectFrame s c r)).1 :=
  (onCmd_of_handed h _).trans (by
    simp only [hon, hroom, hread, hbus, bne_self_eq_false, Bool.not_true, Bool.or_self, Bool.false_eq_true, if_false])

end Inject

end Sys2Proof.Machine

open Sys2Proof Sys2Proof.Machine

/-- Settles O47: a frame by the first of its checks that holds, in the order of `execFrameReceive_arrives` and, without a line error, of
`execFrameReceive_clean`; an inject by the first of its refusals. -/
theorem frameArrival : Obligations.FrameArrival := by
  refine ⟨fun s r n => onCmd_next _ _ _ _ _, fun s p b l => execFrameReceive_next p b l s, ?receive, fun s r n c h =>
    ⟨execInject_off h, execInject_refused h, execInject_dmaError h, execInject_stored h⟩⟩
  intro s p b l n mx hit clean control v w kept stored enters
  have hin : ∀ u bs e, frameIn u n bs e = enters u bs e := fun u bs e => frameIn_eq u p bs e
  refine ⟨execFrameReceive_down, fun hfec => fecCount_off hfec l, execFrameReceive_codewords, fun hup harrives =>
    ⟨execFrameReceive_overrun hup harrives, execFrameReceive_badControl hup harrives, fun hroom hctl hbad => ?broken,
      fun hroom hclean => ?clean⟩⟩
  case broken =>
    have hrun := execFrameReceive_broken hup harrives hroom hctl (Bool.of_not_eq_false (mt lineBad_eq_false_iff.mp hbad))
    refine ⟨fun hlost hnone hshort => hrun.trans (congrArg _ ?window), fun h => hrun.trans (congrArg _ ?stored)⟩
    case window => exact frameBroken_discarded hlost (Bool.eq_false_iff.mpr (mt codewordHit_iff.mp hnone)) hshort
    case stored =>
      have hmax : v.rf Reg.SWC_MAX_FRAME 13 0 = mx := congrArg (fld · 13 0) (fecCount_maxFrame s n l)
      rw [frameBroken_stored (h.imp_right (Or.imp_left codewordHit_iff.mpr)), hmax]
      exact hin w (kept.take (mx - 4)) (some 1)
  case clean =>
    have hgood := lineBad_eq_false_iff.mpr hclean
    have hstored : ∀ {u bs e}, exec (.frameReceive p b l) s = .next (frameIn u n bs e) →
        exec (.frameReceive p b l) s = .next (enters u bs e) := fun h => h.trans (congrArg _ (hin _ _ _))
    exact ⟨fun hshort hctl => execFrameReceive_runt hup harrives hroom hctl hgood hshort,
      fun hlong hcontrol hfcs => execFrameReceive_control hup harrives hroom (fun hctl => Bool.false_ne_true (hctl.2.symm.trans hfcs))
        hgood hlong hcontrol,
      fun hlong hover hdata => hstored (execFrameReceive_oversize hup harrives hroom hgood hlong hdata hover),
      fun hlong hfits hdata hfcs => hstored (execFrameReceive_stored hup harrives hroom hgood hlong hdata hfits hfcs),
      fun hlong hfits hdata hfcs => hstored (execFrameReceive_badFcs hup harrives hroom hgood hlong hdata hfits hfcs)⟩

end

/-! ## The buffer pools as the requesters and the host see them: O48 -/

section

namespace Sys2Proof.Machine

open Sys2Proof

/-! ### BUF_ENABLE (R271) -/

section BufEnable

variable {s : State} {v : W32} (hseal : s.pkg.sealed = false)
include hseal

theorem bufCtrlWrite_enable (hbit : bit v 0 = true) (hcheck : bufCheck s = true) :
    bufCtrlWrite s v = (if bufEnabled s then s else layTags s).setReg Reg.SWC_BUF_CTRL (v &&& 0xF) := by
  simp only [bufCtrlWrite, hseal, hbit, hcheck, Bool.false_eq_true, if_false, if_true]

theorem bufCtrlWrite_badSetup (hbit : bit v 0 = true) (hcheck : bufCheck s = false) : bufCtrlWrite s v = badWrite s := by
  simp only [bufCtrlWrite, hseal, hbit, hcheck, Bool.false_eq_true, if_false, if_true]

theorem bufCtrlWrite_inService (hbit : bit v 0 = false) (hon : bufEnabled s = true) : bufCtrlWrite s v = badWrite s := by
  simp only [bufCtrlWrite, hseal, hbit, hon, Bool.false_eq_true, if_false, if_true]

theorem bufCtrlWrite_notInService (hbit : bit v 0 = false) (hoff : bufEnabled s = false) :
    bufCtrlWrite s v = s.setReg Reg.SWC_BUF_CTRL (v &&& 0xF) := by
  simp only [bufCtrlWrite, hseal, hbit, hoff, Bool.false_eq_true, if_false]

end BufEnable

theorem layTags_of_no_tags {s : State} (h : s.bpm.cellTag = []) : layTags s = s := by
  simp only [layTags, h, List.filter_nil, List.map_nil, List.foldl_nil]

/-! ### What a pool answers (R299-R303) -/

section Pool

variable {s : State} {p : Nat}

/-- A pool with a free buffer gives the first one of its search order, which ends its episode. -/
theorem poolAlloc_found {c : Nat} (h : poolFind s p = some c) (req : Nat) (t : Tag) :
    poolAlloc s req p t =
      ((poolTake { s with bpm := { s.bpm with episode := s.bpm.episode.filter (· != p) } } p c t).1, some (2 ^ 20 * p + c)) := by
  simp only [poolAlloc, h]
  rfl

/-- In an episode that has been reported an empty result changes nothing. -/
theorem poolAlloc_reported (hnone : poolFind s p = none) (hfall : fallback s p = none) (hepisode : p ∈ s.bpm.episode)
    (req : Nat) (t : Tag) : poolAlloc s req p t = (s, none) := by
  simp only [poolAlloc, hnone, hfall, List.contains_iff_mem, hepisode, if_true]

end Pool

/-! ### BUFFER_ALLOCATE (R299) -/

theorem execBufferAllocate_next (r : Fin 32) (p : Fin 16) (s : State) : ∃ t, execBufferAllocate r p s = .next t := by
  unfold execBufferAllocate
  split
  · exact ⟨_, rfl⟩
  · dsimp only
    split <;> exact ⟨_, rfl⟩

/-- No request stands but that of an ingress fabric port's cell writer to pool 0 for a frame that still takes cells. -/
theorem execBufferAllocate_no_request {s : State} {r : Fin 32} {p : Fin 16}
    (h : 16 ≤ r.val ∨ p.val ≠ 0 ∨ fillingFrame s r = none) : execBufferAllocate r p s = .next s := by
  have hnone : (if r.val < 16 && p.val == 0 then fillingFrame s r else none) = none := by
    rcases h with hreq | hpool | hidle
    · exact if_neg (by simp [Nat.not_lt.mpr hreq])
    · exact if_neg (by simp [hpool])
    · rw [hidle, ite_self]
  simp only [execBufferAllocate, hnone]

/-- The manager has noted that its cycle in hand serves a requester. -/
def allocServing (s : State) (r : Nat) : State :=
  { allocCycle s with bpm := { (allocCycle s).bpm with served := r :: (allocCycle s).bpm.served } }

section Allocate

variable {s : State} {r : Fin 32} {p : Fin 16} {f : Nat} {x : Frame} (hreq : r.val < 16) (hpool : p.val = 0)
  (hfills : fillingFrame s r = some (f, x))
include hreq hpool hfills

/-- In its turn a cell writer has pool 0's answer as its grant, and its frame takes the cell. -/
theorem execBufferAllocate_request :
    execBufferAllocate r p s =
      let a := poolAlloc (allocServing s r) r 0 .swc
      let g := { a.1 with bpm := { a.1.bpm with grant := fset a.1.bpm.grant r a.2 } }
      if allocTurn (allocCycle s) ≠ some r.val then .next s
      else .next (a.2.elim g fun h => relink (g.modFrame f fun x => { x with
        cells := x.cells ++ [h], reserved := x.reserved - 1 }) f) := by
  have hsome : (if r.val < 16 && p.val == 0 then fillingFrame s r else none) = some (f, x) :=
    (if_pos (by simp [hreq, hpool])).trans hfills
  simp only [execBufferAllocate, hsome, allocServing]
  refine if_congr bne_iff_ne rfl (congrArg _ ?_)
  obtain ⟨u, _ | h⟩ := poolAlloc _ _ _ _ <;> rfl

theorem execBufferAllocate_outOfTurn (hturn : allocTurn (allocCycle s) ≠ some r.val) : execBufferAllocate r p s = .next s :=
  (execBufferAllocate_request hreq hpool hfills).trans (if_pos hturn)

variable (hturn : allocTurn (allocCycle s) = some r.val)
include hturn

theorem execBufferAllocate_granted {c : Nat} (hfree : poolFind (allocServing s r) 0 = some c) :
    execBufferAllocate r p s =
      let v := allocServing s r
      let w := (poolTake { v with bpm := { v.bpm with episode := v.bpm.episode.filter (· != 0) } } 0 c .swc).1
      let g := { w with bpm := { w.bpm with grant := fset w.bpm.grant r.val (some c) } }
      .next (relink (g.modFrame f fun x => { x with cells := x.cells ++ [c], reserved := x.reserved - 1 }) f) := by
  refine (execBufferAllocate_request hreq hpool hfills).trans ((if_neg (not_not_intro hturn)).trans ?_)
  rw [poolAlloc_found hfree, Nat.mul_zero, Nat.zero_add, Option.elim_some]

theorem execBufferAllocate_exhausted (hnone : poolFind (allocServing s r) 0 = none) (hfall : fallback (allocServing s r) 0 = none)
    (hepisode : 0 ∈ (allocServing s r).bpm.episode) :
    execBufferAllocate r p s =
      let v := allocServing s r
      .next { v with bpm := { v.bpm with grant := fset v.bpm.grant r.val none } } := by
  refine (execBufferAllocate_request hreq hpool hfills).trans ((if_neg (not_not_intro hturn)).trans ?_)
  rw [poolAlloc_reported hnone hfall hepisode, Option.elim_none]

end Allocate

/-! ### What a free gives back (R291, R302, R305, R307) -/

section BufferBack

variable {s : State} {h : Nat}

theorem poolFree_accepted {owner : Nat} (hgood : badFree s h owner = none) (req : Nat) : poolFree s req h owner = bufferBack s h := by
  simp only [poolFree, hgood]

section Sound

variable (hsound : ∀ k ∈ handleList s h, k ∉ s.swc.condemned)
include hsound

theorem no_condemned_cell : ((handleList s h).any (s.swc.condemned.contains ·)) = false := by
  simpa using hsound

theorem bufferBack_cell (hcell : h < 2 ^ 20) : bufferBack s h = cellFree s h := by
  simp only [bufferBack, no_condemned_cell hsound, Bool.false_eq_true, if_false, Nat.div_eq_of_lt hcell, if_true, Nat.mod_eq_of_lt hcell]

theorem bufferBack_buffer (hbuffer : 2 ^ 20 ≤ h) : bufferBack s h = s.setBufTag (h % 2 ^ 20) .free := by
  have hpool : ¬ h / 2 ^ 20 = 0 := by omega
  simp only [bufferBack, no_condemned_cell hsound, Bool.false_eq_true, if_false, hpool]

end Sound

/-- A buffer with a condemned cell is withheld; the first one of its block raises BLOCK_QUARANTINE. -/
theorem bufferBack_withheld (hcondemned : ∃ k ∈ handleList s h, k ∈ s.swc.condemned) (hbuffer : 2 ^ 20 ≤ h) :
    bufferBack s h =
      let u := { s with swc := { s.swc with condemned := s.swc.condemned.filter fun k => !(handleList s h).contains k } }
      if blockHeld s (h % 2 ^ 20 / 4096) then u.setBufTag (h % 2 ^ 20) .quarantine
      else swcEvent (u.setBufTag (h % 2 ^ 20) .quarantine) 0x69 [(97, 91, h % 2 ^ 20 / 4096)] := by
  have hany : ((handleList s h).any (s.swc.condemned.contains ·)) = true := by simpa using hcondemned
  have hpool : ¬ h / 2 ^ 20 = 0 := by omega
  simp only [bufferBack, hany, hpool, if_true, if_false]

end BufferBack

/-! ### BUFFER_FREE (R267, R269, R299, R305) -/

theorem execBufferFree_next (r : Fin 32) (h : BitVec 24) (o : Fin 8) (s : State) : ∃ t, execBufferFree r h o s = .next t := by
  unfold execBufferFree
  dsimp only
  split
  · exact ⟨_, rfl⟩
  · split
    · exact ⟨_, rfl⟩
    · split
      · exact ⟨_, rfl⟩
      · split <;> exact ⟨_, rfl⟩

theorem execBufferFree_notOwner (s : State) {r : Fin 32} (h : BitVec 24) {o : Fin 8} (hother : 18 < r.val ∨ (reqOwner r).code ≠ o.val) :
    execBufferFree r h o s = .next s :=
  if_pos (by simpa using hother)

section Free

variable {s : State} {r : Fin 32} {h : BitVec 24} {o : Fin 8} (hreq : r.val ≤ 18) (howner : (reqOwner r).code = o.val)
include hreq howner

theorem owner_accepted : (decide (18 < r.val) || (reqOwner r).code != o.val) = false := by
  simp [Nat.not_lt.mpr hreq, howner]

theorem execBufferFree_bad {k : Nat} (hbad : badFree s h.toNat o = some k) :
    execBufferFree r h o s = .next (poolFree s r h.toNat o) := by
  simp only [execBufferFree, owner_accepted hreq howner, hbad, Option.isSome_some, Bool.false_eq_true, if_false, if_true]

variable (hgood : badFree s h.toNat o = none)
include hgood

/-- HIF frees a staging buffer, which ends the charge of port 128. -/
theorem execBufferFree_staging (hhif : r.val = 17) :
    execBufferFree r h o s = .next (unchargeIn (bufferBack s h.toNat) 128 (poolCells s (h.toNat / 2 ^ 20))) := by
  simp only [execBufferFree, owner_accepted hreq howner, hgood, Option.isSome_none, Bool.false_eq_true, if_false, if_pos hhif,
    poolFree_accepted hgood]

variable (hother : r.val ≠ 17)
include hother

theorem execBufferFree_unheld (hnone : 2 ^ 20 ≤ h.toNat ∨ cellHolder s h.toNat = none) :
    execBufferFree r h o s = .next (bufferBack s h.toNat) := by
  have hholder : (if h.toNat < 2 ^ 20 then cellHolder s h.toNat else none) = none := by
    rcases hnone with hbuffer | hnone
    · exact if_neg (Nat.not_lt.mpr hbuffer)
    · rw [hnone, ite_self]
  simp only [execBufferFree, owner_accepted hreq howner, hgood, Option.isSome_none, Bool.false_eq_true, if_false, if_neg hother,
    poolFree_accepted hgood, hholder]

/-- The frame that holds the cell loses it and its charge. -/
theorem execBufferFree_held {f : Nat} {x : Frame} (hcell : h.toNat < 2 ^ 20) (hholder : cellHolder s h.toNat = some (f, x)) :
    execBufferFree r h o s = .next (pfcCheck (unchargeIn ((bufferBack s h.toNat).setFrame f
      { x with cells := x.cells.filter (· != h.toNat) }) x.port 1) x.port x.prio) := by
  simp only [execBufferFree, owner_accepted hreq howner, hgood, Option.isSome_none, Bool.false_eq_true, if_false, if_neg hother,
    poolFree_accepted hgood, if_pos hcell, hholder]

end Free

/-! ### BLOCK_RELEASE (R292) -/

theorem execBlockRelease_handed {s : State} {r : Fin 1024} {n : Nat} {c : CmdEnt} (h : Handed s r n 0x74 c) :
    execBlockRelease r n s =
      let u := blockUnquarantine s (fld c.desc 198 192)
      .next ({ u with swc := { u.swc with blockFail := ferase u.swc.blockFail (fld c.desc 198 192) } }.finish r n St.ok) :=
  onCmd_of_handed h _

end Sys2Proof.Machine

open Sys2Proof Sys2Proof.Machine

/-- Settles O48: BUF_ENABLE by the branches of `bufCtrlWrite`; an allocation by what pool 0 answers (`poolAlloc_found`,
`poolAlloc_reported`); an accepted free by what it gives back (`bufferBack_cell` and its siblings) and by whose cell it was. -/
theorem bufferPools : Obligations.BufferPools := by
  refine ⟨fun s r n => onCmd_next _ _ _ _ _, fun s v => ⟨_, rfl⟩, fun s r p => execBufferAllocate_next r p s,
    fun s r h o => execBufferFree_next r h o s, ?enable, fun s r p => ⟨execBufferAllocate_no_request, ?allocate⟩, ?free,
    fun s r n c => execBlockRelease_handed⟩
  case enable =>
    intro s v hopen hseal
    have hrun : ∀ {t}, bufCtrlWrite s v = t → exec (.bufEnable v) s = .next t := fun h => (onBar_open hopen _).trans (congrArg _ h)
    exact ⟨fun hbit hcheck => hrun (bufCtrlWrite_enable hseal hbit hcheck), layTags_of_no_tags,
      fun hbit hcheck => hrun (bufCtrlWrite_badSetup hseal hbit hcheck),
      fun hbit hon => hrun (bufCtrlWrite_inService hseal hbit hon),
      fun hbit hoff => hrun (bufCtrlWrite_notInService hseal hbit hoff)⟩
  case allocate =>
    intro f x hreq hpool hfills
    exact ⟨execBufferAllocate_outOfTurn hreq hpool hfills, fun c hturn => execBufferAllocate_granted hreq hpool hfills hturn,
      execBufferAllocate_exhausted hreq hpool hfills⟩
  case free =>
    intro s r h o n
    refine ⟨execBufferFree_notOwner s h, fun hreq howner => ⟨fun k => execBufferFree_bad hreq howner,
      execBufferFree_staging hreq howner, execBufferFree_unheld hreq howner,
      fun f x hgood hother => execBufferFree_held hreq howner hgood hother⟩,
      fun hsound => ⟨bufferBack_cell hsound, bufferBack_buffer hsound⟩, bufferBack_withheld⟩

end

/-! ## The crossbar, the queues of the egress ports and PORT_FLUSH: O49 -/

section

namespace Sys2Proof.Machine

open Sys2Proof

/-! ### A cell of a matched pair (R266, R273, R274, R290) -/

section Cross

variable {s : State} {i e : Nat} {x : Crossing} {rest : List Crossing} {fr : Frame}

theorem crossOn_more (hmore : x.crossed + 1 < needCells fr) :
    crossOn s i e fr x rest =
      let u := if x.crossed = 0 then { s with swc := { s.swc with offered := s.swc.offered ++ [x.copy] } } else s
      { u with swc := { u.swc with voqs := fset u.swc.voqs (16 * i + e) ({ x with crossed := x.crossed + 1 } :: rest) } } :=
  if_pos hmore

theorem crossOn_last (hlast : needCells fr ≤ x.crossed + 1) :
    crossOn s i e fr x rest =
      let u := if x.crossed = 0 then { s with swc := { s.swc with offered := s.swc.offered ++ [x.copy] } } else s
      settle { u with swc := { u.swc with
        voqs := fput u.swc.voqs [] (16 * i + e) rest, matched := ferase u.swc.matched i } } x.copy.frame :=
  if_neg (Nat.not_lt.mpr hlast)

theorem crossCell_empty (hempty : fget s.swc.voqs [] (16 * i + e) = []) :
    crossCell s i e = { s with swc := { s.swc with matched := ferase s.swc.matched i } } := by
  simp only [crossCell, hempty]

variable (hhead : fget s.swc.voqs [] (16 * i + e) = x :: rest) (hframe : s.frame? x.copy.frame = some fr)
include hhead hframe

theorem crossCell_no_cell (hnone : fr.cells[x.crossed]? = none) : crossCell s i e = s := by
  simp only [crossCell, hhead, hframe, hnone]

variable {c : Nat} (hcell : fr.cells[x.crossed]? = some c)
include hcell

theorem crossCell_good (hgood : c ∉ s.swc.badCells) : crossCell s i e = crossOn s i e fr x rest := by
  simp only [crossCell, hhead, hframe, hcell, List.contains_iff_mem, hgood, if_false]

theorem crossCell_bad (hbad : c ∈ s.swc.badCells) :
    crossCell s i e =
      let v := cellFail s x.copy.frame c
      if fget v.swc.voqs [] (16 * i + e) = x :: rest then crossOn v i e fr x rest else settle v x.copy.frame := by
  simp only [crossCell, hhead, hframe, hcell, List.contains_iff_mem, hbad, if_true, beq_iff_eq]

end Cross

/-! ### ENQUEUE (R270, R275, R283, R286, R314, R331) -/

theorem execEnqueue_next (f : Nat) (p : Fin 140) (s : State) : ∃ t, execEnqueue f p s = .next t := by
  unfold execEnqueue
  split
  · split <;> exact ⟨_, rfl⟩
  · exact ⟨_, rfl⟩

theorem execEnqueue_offered {s : State} {f : Nat} {p : Fin 140} {c : Copy} {x : Frame}
    (hoffer : s.swc.offered.find? (fun c => c.frame == f && c.port == p.val) = some c) (hframe : s.frame? f = some x)
    (htail : x.tail = true) (hfirst : behindOffer s x c = false) : execEnqueue f p s = .next (enqueueCopy s x c) := by
  simp only [execEnqueue, hoffer, hframe, htail, hfirst, Bool.true_or, Bool.not_false, Bool.and_self, if_true]

/-- A copy goes to the spilled part of its queue: a unicast copy whose queue is in spill state, or at its threshold where its port may
spill (R283). -/
def spillsCopy (s : State) (n : Nat) (c : Copy) : Bool :=
  !c.mcast && ((s.queue c.queue).spill ||
    (s.rf (Reg.SWC_SPILL_LIMIT n) 23 0 ≠ 0 && s.rf Reg.SWC_SPILL_THRESH 15 0 ≤ queueCells (s.queue c.queue)))

theorem spillsCopy_iff {s : State} {n : Nat} {c : Copy} : spillsCopy s n c = true ↔
    c.mcast = false ∧ ((s.queue c.queue).spill = true ∨
      (s.rf (Reg.SWC_SPILL_LIMIT n) 23 0 ≠ 0 ∧ s.rf Reg.SWC_SPILL_THRESH 15 0 ≤ queueCells (s.queue c.queue))) := by
  simp only [spillsCopy, Bool.and_eq_true, Bool.not_eq_true', Bool.or_eq_true, decide_eq_true_eq]

/-- The limits of its port and of its queue hold a copy of `k` cells on die (R270, R314). -/
def dieHolds (s : State) (n k : Nat) (c : Copy) : Bool :=
  let mx := fld (s.node 3 c.queue) 147 128
  s.egCells n + k ≤ s.rf (Reg.SWC_EG_LIMIT n) 19 0 &&
    (mx = 0 || (s.queue c.queue).spill || queueCells (s.queue c.queue) + k ≤ mx)

theorem dieHolds_eq_true {s : State} {n k : Nat} {c : Copy} (hport : s.egCells n + k ≤ s.rf (Reg.SWC_EG_LIMIT n) 19 0)
    (hqueue : fld (s.node 3 c.queue) 147 128 = 0 ∨ (s.queue c.queue).spill = true ∨
      queueCells (s.queue c.queue) + k ≤ fld (s.node 3 c.queue) 147 128) : dieHolds s n k c = true := by
  simpa [dieHolds, hport, or_assoc] using hqueue

theorem dieHolds_eq_false {s : State} {n k : Nat} {c : Copy} (h : s.rf (Reg.SWC_EG_LIMIT n) 19 0 < s.egCells n + k ∨
    (fld (s.node 3 c.queue) 147 128 ≠ 0 ∧ (s.queue c.queue).spill = false ∧
      fld (s.node 3 c.queue) 147 128 < queueCells (s.queue c.queue) + k)) : dieHolds s n k c = false := by
  rcases h with hport | ⟨hbound, hspill, hqueue⟩
  · simp [dieHolds, Nat.not_le.mpr hport]
  · simp [dieHolds, hbound, hspill, Nat.not_le.mpr hqueue]

section Enqueue

variable {s : State} {p : Fin 140} {c : Copy} {x : Frame} (hport : c.port = p.val)
include hport

theorem enqueueCopy_badQueue (htakes : queueTakes s c.queue p = false) :
    enqueueCopy s x c = refuseCopy (s.bump Reg.TMG_BAD_QUEUE_COUNT) c := by
  simp only [enqueueCopy, hport, htakes, Bool.not_false, if_true]

variable (htakes : queueTakes s c.queue p = true)
include htakes

/-- A recirculation port whose pipeline is not ON takes no copy. -/
theorem enqueueCopy_off (hoff : ¬ (p.val < 132 ∨ s.domain (domPipe (p.val - 132)) = .on)) :
    enqueueCopy s x c = refuseCopy (s.bump (Reg.SWC_EG_DROP_COUNT p)) c := by
  obtain ⟨hrecirc, hdomain⟩ := not_or.mp hoff
  simp [enqueueCopy, hport, htakes, Nat.not_lt.mp hrecirc, p.isLt, hdomain]

variable (hon : p.val < 132 ∨ s.domain (domPipe (p.val - 132)) = .on)
include hon

/-- At a port that takes it, the gate list's bound, the spill state of its queue and the limits decide a copy, in this order. -/
theorem enqueueCopy_on (htail : x.tail = true) :
    enqueueCopy s x c =
      let sdu := gateSdu s p (queueClass s c.queue)
      let u := { s with freeCtr := s.freeCtr + 1 }
      if sdu ≠ 0 ∧ sdu < x.bytes.length + 4 then refuseCopy (s.bump Reg.TMG_GATE_OVERSIZE_COUNT) c
      else if spillsCopy s p c then
        (spillRefuses s x p).elim (spillPush (unoffer u c) x c) fun k => refuseCopy (u.bump (Reg.SWC_SPILL_DROP_COUNT k)) c
      else if dieHolds s p (needCells x) c then queuePush (unoffer s c) c (needCells x)
      else refuseCopy (s.bump (if c.mcast then Reg.SWC_MC_DROP_COUNT p else Reg.SWC_EG_DROP_COUNT p)) c := by
  have hup : (decide (132 ≤ p.val) && decide (p.val < 140) && s.domain (domPipe (p.val - 132)) != .on) = false := by
    rcases hon with hfront | hdomain
    · simp [Nat.not_le.mpr hfront]
    · simp [hdomain]
  simp only [enqueueCopy, hport, htakes, hup, htail, Bool.not_true, Bool.false_eq_true, if_false, if_true]
  refine if_congr (by simp only [Bool.and_eq_true, decide_eq_true_eq]) rfl (if_congr Iff.rfl ?_ (if_congr Iff.rfl rfl rfl))
  cases spillRefuses s x p <;> rfl

variable (htail : x.tail = true)
include htail

theorem enqueueCopy_oversize
    (hlong : ¬ (gateSdu s p (queueClass s c.queue) = 0 ∨ x.bytes.length + 4 ≤ gateSdu s p (queueClass s c.queue))) :
    enqueueCopy s x c = refuseCopy (s.bump Reg.TMG_GATE_OVERSIZE_COUNT) c := by
  obtain ⟨hbound, hlength⟩ := not_or.mp hlong
  exact (enqueueCopy_on hport htakes hon htail).trans (if_pos ⟨hbound, Nat.not_le.mp hlength⟩)

variable (hfits : gateSdu s p (queueClass s c.queue) = 0 ∨ x.bytes.length + 4 ≤ gateSdu s p (queueClass s c.queue))
include hfits

/-- A copy within the gate list's bound. -/
theorem enqueueCopy_fits :
    enqueueCopy s x c =
      let u := { s with freeCtr := s.freeCtr + 1 }
      if spillsCopy s p c then
        (spillRefuses s x p).elim (spillPush (unoffer u c) x c) fun k => refuseCopy (u.bump (Reg.SWC_SPILL_DROP_COUNT k)) c
      else if dieHolds s p (needCells x) c then queuePush (unoffer s c) c (needCells x)
      else refuseCopy (s.bump (if c.mcast then Reg.SWC_MC_DROP_COUNT p else Reg.SWC_EG_DROP_COUNT p)) c :=
  (enqueueCopy_on hport htakes hon htail).trans (if_neg fun ⟨hbound, hlength⟩ =>
    hfits.elim hbound (Nat.not_le.mpr hlength))

theorem enqueueCopy_spillRefused (hspills : spillsCopy s p c = true) {k : Nat} (hfull : spillRefuses s x p = some k) :
    enqueueCopy s x c = refuseCopy ({ s with freeCtr := s.freeCtr + 1 }.bump (Reg.SWC_SPILL_DROP_COUNT k)) c := by
  rw [enqueueCopy_fits hport htakes hon htail hfits, if_pos hspills, hfull, Option.elim_some]

theorem enqueueCopy_spilled (hspills : spillsCopy s p c = true) (hroom : spillRefuses s x p = none) :
    enqueueCopy s x c = spillPush (unoffer { s with freeCtr := s.freeCtr + 1 } c) x c := by
  rw [enqueueCopy_fits hport htakes hon htail hfits, if_pos hspills, hroom, Option.elim_none]

theorem enqueueCopy_onDie (hspills : spillsCopy s p c = false) (hroom : dieHolds s p (needCells x) c = true) :
    enqueueCopy s x c = queuePush (unoffer s c) c (needCells x) := by
  rw [enqueueCopy_fits hport htakes hon htail hfits, if_neg (Bool.eq_false_iff.mp hspills), if_pos hroom]

theorem enqueueCopy_dieFull (hspills : spillsCopy s p c = false) (hfull : dieHolds s p (needCells x) c = false) :
    enqueueCopy s x c =
      refuseCopy (s.bump (if c.mcast then Reg.SWC_MC_DROP_COUNT p else Reg.SWC_EG_DROP_COUNT p)) c := by
  rw [enqueueCopy_fits hport htakes hon htail hfits, if_neg (Bool.eq_false_iff.mp hspills), if_neg (Bool.eq_false_iff.mp hfull)]

end Enqueue

/-! ### SPILL_WRITE and SPILL_REFILL (R266, R269, R283-R286) -/

theorem execSpillWrite_next (q : Nat) (s : State) : ∃ t, execSpillWrite q s = .next t := by
  unfold execSpillWrite
  split
  · split <;> exact ⟨_, rfl⟩
  · exact ⟨_, rfl⟩

theorem execSpillRefill_next (q : Nat) (s : State) : ∃ t, execSpillRefill q s = .next t := by
  unfold execSpillRefill
  dsimp only
  split
  · exact ⟨_, rfl⟩
  · split
    · exact ⟨_, rfl⟩
    · split
      · exact ⟨_, rfl⟩
      · split
        · exact ⟨_, rfl⟩
        · split <;> exact ⟨_, rfl⟩

section Spill

variable {s : State} {q : Nat} {c : Copy} {x : Frame}

theorem execSpillWrite_written (hcopy : (s.queue q).spilled.find? (·.cells != 0) = some c) (hgood : badCell s c.frame = none)
    (hframe : s.frame? c.frame = some x) :
    execSpillWrite q s = .next (settle (modSpilled (spillPosts (spillCells s x c) c 4 true) q (sameCopy c)
      fun k => { k with cells := 0 }) c.frame) := by
  simp only [execSpillWrite, hcopy, hgood, hframe]

theorem wantsRefill_iff {y : QueueSt} :
    wantsRefill s y = true ↔ queueCells y < s.rf Reg.SWC_SPILL_THRESH 31 16 ∨ queueHead y = none := by
  simp only [wantsRefill, Bool.or_eq_true, decide_eq_true_eq, Option.isNone_iff_eq_none]

/-- A frame of which the on-die cells still stand needs none to come back. -/
theorem execSpillRefill_kept {rest : List Copy} (holdest : (s.queue q).spilled = c :: rest) (hframe : s.frame? c.frame = some x)
    (hspill : (s.queue q).spill = true) (hwritten : c.cells = 0) (hwants : wantsRefill s (s.queue q) = true)
    (hroom : 64 + needCells x ≤ sharedFree s) (hgood : c.frame ∉ s.swc.badSpill) (hcells : x.cells ≠ []) :
    execSpillRefill q s =
      let u := spillPosts s c 5 false
      let v := unchargeSegs (u.setQueue q { u.queue q with spilled := rest, spill := !rest.isEmpty }) c.port c.segs
      .next (dieInsert v { c with cells := needCells x, segs := 0, segAt := [] }) := by
  have hdue : (!((s.queue q).spill && c.cells == 0 && wantsRefill s (s.queue q) &&
      decide (64 + needCells x ≤ sharedFree s))) = false := by
    simp only [hspill, hwritten, hwants, hroom, beq_self_eq_true, decide_true, Bool.and_self, Bool.not_true]
  simp only [execSpillRefill, holdest, hframe, hdue, Bool.false_eq_true, if_false, List.contains_iff_mem, hgood,
    List.isEmpty_eq_false_iff.mpr hcells, List.isEmpty_nil, if_true]

end Spill

/-! ### TRANSMIT_START (R319, R457) -/

theorem execTransmitStart_next (p : Fin 140) (s : State) : ∃ t, execTransmitStart p s = .next t := by
  unfold execTransmitStart
  dsimp only
  split_ifs <;> exact ⟨_, rfl⟩

theorem execTransmitStart_hostPort {p : Fin 140} (s : State) (hlow : 128 ≤ p.val) (hhigh : p.val < 132) :
    execTransmitStart p s = .next s := by
  simp only [execTransmitStart, hlow, hhigh, decide_true, Bool.and_self, if_true]

theorem hostPort_eq_false {n : Nat} (h : n < 128 ∨ 132 ≤ n) : (decide (128 ≤ n) && decide (n < 132)) = false := by
  rcases h with hfront | hrecirc
  · simp [Nat.not_le.mpr hfront]
  · simp [Nat.not_lt.mpr hrecirc]

section Transmit

variable {s : State} {p : Fin 140} (hport : p.val < 128 ∨ 132 ≤ p.val)
include hport

theorem execTransmitStart_begins {u : State} {c : Copy} (hidle : ffind? s.swc.wire p.val = none) (hup : portUp s p = true)
    (hselect : selectCopy (dropOversize (gatesRefresh s p) p) p (fun _ => true) = (u, some c)) :
    execTransmitStart p s = .next (wireStart u p c) := by
  simp only [execTransmitStart, hostPort_eq_false hport, wireReady, hidle, hup, hselect, Bool.not_true, Bool.false_eq_true,
    if_false, if_true]

theorem execTransmitStart_ends {w : OnWire} (hwire : ffind? s.swc.wire p.val = some w) (hready : wireReady s p = true)
    (hdown : portUp (wireFinish (s.reach w.endNs) p) p = false) :
    execTransmitStart p s = .next (wireFinish (s.reach w.endNs) p) := by
  simp only [execTransmitStart, hostPort_eq_false hport, hready, hwire, hdown, Bool.not_true, Bool.false_eq_true, if_false]

end Transmit

/-! ### PORT_FLUSH (R288) -/

theorem execPortFlush_handed {s : State} {r : Fin 1024} {n : Nat} {c : CmdEnt} (h : Handed s r n 0x73 c) :
    execPortFlush r n s =
      let qs := (s.swc.queues.map (·.1)).filter fun q =>
        queuePort s q == fld c.desc 79 72 && (fld c.desc 87 80).testBit (queueClass s q)
      let u := qs.foldl (fun (a : State × List Copy) q =>
        ((flushQueue a.1 q c.no).1, a.2 ++ (flushQueue a.1 q c.no).2)) (s, [])
      .next ((u.2.foldl (fun s k => settle s k.frame) u.1).finish r n St.ok 0
        (u.2.length % 2 ^ 32 + 2 ^ 32 * ((u.2.map (copyCells s)).sum % 2 ^ 32))) :=
  onCmd_of_handed h _

end Sys2Proof.Machine

open Sys2Proof Sys2Proof.Machine

/-- Settles O49: a cell of a matched pair crosses by `crossOn` where its check holds (`crossCell_good`) or its copy is on the wire
(`crossCell_bad`); an offered copy is enqueued by the guards of `enqueueCopy` in their order; the other events by their cases. -/
theorem copiesAndQueues : Obligations.CopiesAndQueues := by
  refine ⟨fun s r n => onCmd_next _ _ _ _ _, fun s => ⟨_, rfl⟩, fun s f p => execEnqueue_next f p s,
    fun s q => ⟨execSpillWrite_next q s, execSpillRefill_next q s⟩, fun s p => execTransmitStart_next p s, fun s => rfl,
    ?cross, ?enqueue, fun s q c hcopy hgood x hframe => execSpillWrite_written hcopy hgood hframe, ?refill,
    fun s p => execTransmitStart_hostPort s, fun s p u c hport => execTransmitStart_begins hport,
    fun s p w hport => execTransmitStart_ends hport,
    fun s r n c => execPortFlush_handed⟩
  case cross =>
    intro s i e
    refine ⟨crossCell_empty, fun x rest fr hhead hframe => ⟨crossCell_no_cell hhead hframe, fun c hcell hgood => ?_,
      fun c => crossCell_bad hhead hframe⟩⟩
    have hcross := crossCell_good hhead hframe hcell hgood
    exact ⟨fun hmore => hcross.trans (crossOn_more hmore), fun hlast => hcross.trans (crossOn_last hlast)⟩
  case enqueue =>
    intro s f p c x hoffer hframe htail hfirst q k mx on sdu fits spills
    have hrun : ∀ {t}, enqueueCopy s x c = t → exec (.enqueue f p) s = .next t := fun h =>
      (execEnqueue_offered hoffer hframe htail hfirst).trans (congrArg _ h)
    have hport : c.port = p.val := by
      have hsame := List.find?_some hoffer
      simp only [Bool.and_eq_true, beq_iff_eq] at hsame
      exact hsame.2
    refine ⟨fun htakes => hrun (enqueueCopy_badQueue hport htakes), fun htakes hoff => hrun (enqueueCopy_off hport htakes hoff),
      fun htakes hon hlong => hrun (enqueueCopy_oversize hport htakes hon htail hlong), fun htakes hon hfits hspills => ?spill,
      fun htakes hon hfits hdie hlimit hqueue => ?die, fun htakes hon hfits hdie hfull => ?full⟩
    case spill =>
      have hgoes := spillsCopy_iff.mpr hspills
      exact ⟨fun k hrefused => hrun (enqueueCopy_spillRefused hport htakes hon htail hfits hgoes hrefused),
        fun hroom => hrun (enqueueCopy_spilled hport htakes hon htail hfits hgoes hroom)⟩
    case die =>
      exact hrun (enqueueCopy_onDie hport htakes hon htail hfits (Bool.eq_false_iff.mpr (mt spillsCopy_iff.mp hdie))
        (dieHolds_eq_true hlimit hqueue))
    case full =>
      exact hrun (enqueueCopy_dieFull hport htakes hon htail hfits (Bool.eq_false_iff.mpr (mt spillsCopy_iff.mp hdie))
        (dieHolds_eq_false hfull))
  case refill =>
    intro s q c rest x holdest hframe hspill hwritten hwants
    exact execSpillRefill_kept holdest hframe hspill hwritten (wantsRefill_iff.mpr hwants)

end

/-! ## The tables of the switch core and the traffic manager: O50 -/

section

namespace Sys2Proof.Machine

open Sys2Proof

section Handed

variable {s : State} {r : Fin 1024} {n : Nat} {c : CmdEnt}

/-! ### Groups and rewrite templates (R280, R281, R294) -/

theorem execMcastGroupWrite_reserved (h : Handed s r n 0x70 c) {e : BitVec 256} (he : e ∈ entriesOf 256 (fld c.desc 223 208) c.buf)
    (hbad : zeroFields e [(143, 140), (255, 154)] = false) : execMcastGroupWrite r n s = .next (s.badField r n) := by
  have hall : ((entriesOf 256 (fld c.desc 223 208) c.buf).all fun e => zeroFields e [(143, 140), (255, 154)]) = false :=
    List.all_eq_false.mpr ⟨e, he, Bool.eq_false_iff.mp hbad⟩
  exact (onCmd_of_handed h _).trans (by simp only [hall, Bool.false_eq_true, if_false])

theorem execMcastGroupWrite_good (h : Handed s r n 0x70 c)
    (hgood : ∀ e ∈ entriesOf 256 (fld c.desc 223 208) c.buf, zeroFields e [(143, 140), (255, 154)] = true) :
    execMcastGroupWrite r n s =
      .next ((((entriesOf 256 (fld c.desc 223 208) c.buf).zipIdx (fld c.desc 207 192)).foldl
        (fun u e => { u with swc := { u.swc with groups := fput u.swc.groups 0 e.2 e.1 } }) s).finish r n St.ok) :=
  (onCmd_of_handed h _).trans (by simp only [List.all_eq_true.mpr hgood, if_true])

theorem execMcastGroupRead_handed (h : Handed s r n 0x71 c) :
    execMcastGroupRead r n s = .next ((s.output c ((List.range (fld c.desc 223 208)).flatMap fun i =>
      bytesOf (s.mgroup (fld c.desc 207 192 + i)))).finish r n St.ok) :=
  onCmd_of_handed h _

theorem execRewriteTemplateWrite_handed (h : Handed s r n 0x72 c) :
    execRewriteTemplateWrite r n s = .next ((forAll s (maskList 8 (fld c.desc 71 64)) fun u p =>
      { u with swc := { u.swc with
        rewrites := fput u.swc.rewrites 0 (256 * p + fld c.desc 207 192) (ofBytes 1024 c.buf) } }).finish r n St.ok) :=
  onCmd_of_handed h _

/-! ### TM_NODE_WRITE and TM_NODE_READ (R316, R317, R334) -/

/-- One bad entry refuses the whole command before any entry is applied. -/
theorem execTmNodeWrite_bad (h : Handed s r n 0x78 c) {e : BitVec 256} (he : e ∈ entriesOf 256 (fld c.desc 207 192) c.buf)
    (hbad : nodeOk s e = false) : execTmNodeWrite r n s = .next (s.badField r n) := by
  have hall : (entriesOf 256 (fld c.desc 207 192) c.buf).all (nodeOk s) = false :=
    List.all_eq_false.mpr ⟨e, he, Bool.eq_false_iff.mp hbad⟩
  exact (onCmd_of_handed h _).trans (by simp only [hall, Bool.false_eq_true, if_false])

/-- The result of a TM_NODE_WRITE of one entry is that entry's failure, which stands at index 0. -/
theorem execTmNodeWrite_single (h : Handed s r n 0x78 c) {e : BitVec 256} (he : entriesOf 256 (fld c.desc 207 192) c.buf = [e])
    (hgood : nodeOk s e = true) :
    execTmNodeWrite r n s = .next ((nodeApply s e).1.finish r n St.ok 0 (2 ^ 16 * (nodeApply s e).2)) := by
  refine (onCmd_of_handed h _).trans ?_
  have hall : [e].all (nodeOk s) = true := by simp [hgood]
  simp only [he, hall, if_true, List.zipIdx_cons, List.zipIdx_nil, List.foldl_cons, List.foldl_nil]
  by_cases hok : (nodeApply s e).2 = 0
  · simp [hok, firstFail]
  · simp [hok, firstFail]

theorem execTmNodeRead_beyond (h : Handed s r n 0x79 c)
    (hbeyond : nodeCount (fld c.desc 74 73) < fld c.desc 255 224 + fld c.desc 207 192) :
    execTmNodeRead r n s = .next (s.badField r n 28) :=
  (onCmd_of_handed h _).trans (congrArg _ (if_pos hbeyond))

theorem execTmNodeRead_within (h : Handed s r n 0x79 c)
    (hwithin : fld c.desc 255 224 + fld c.desc 207 192 ≤ nodeCount (fld c.desc 74 73)) :
    execTmNodeRead r n s = .next ((s.output c ((List.range (fld c.desc 207 192)).flatMap fun i =>
      bytesOf (nodeImage s (fld c.desc 74 73) (fld c.desc 255 224 + i)))).finish r n St.ok) :=
  (onCmd_of_handed h _).trans (congrArg _ (if_neg (Nat.not_lt.mpr hwithin)))

/-! ### POLICER_PROFILE_WRITE (R321, R323, R334) -/

/-- A range that names profile 0 or passes the last profile is refused at the byte of FIRST. -/
theorem execPolicerProfileWrite_range (h : Handed s r n 0x7A c)
    (hrange : fld c.desc 255 224 = 0 ∨ 4096 < fld c.desc 255 224 + fld c.desc 207 192) :
    execPolicerProfileWrite r n s = .next (s.badField r n 28) :=
  (onCmd_of_handed h _).trans (congrArg _ (if_pos (by simpa using hrange)))

section Range

variable (h : Handed s r n 0x7A c) (hfirst : fld c.desc 255 224 ≠ 0) (hlast : fld c.desc 255 224 + fld c.desc 207 192 ≤ 4096)
include h hfirst hlast

/-- With its range good, the reserved bits of its profiles decide the command. -/
theorem execPolicerProfileWrite_inRange :
    execPolicerProfileWrite r n s =
      let es := entriesOf 128 (fld c.desc 207 192) c.buf
      .next (if es.all fun e => fld e 127 64 == 0 then
        (forAll s (List.range 16) fun u i => u.setSlice i { u.slice i with
          profiles := (es.zipIdx (fld c.desc 255 224)).foldl (fun m (e : BitVec 128 × Nat) => fput m 0 e.2 e.1)
            (u.slice i).profiles }).finish r n St.ok
      else s.badField r n) :=
  (onCmd_of_handed h _).trans (congrArg _ (if_neg (by simp [hfirst, hlast])))

theorem execPolicerProfileWrite_reserved {e : BitVec 128} (he : e ∈ entriesOf 128 (fld c.desc 207 192) c.buf)
    (hbad : fld e 127 64 ≠ 0) : execPolicerProfileWrite r n s = .next (s.badField r n) := by
  have hall : ((entriesOf 128 (fld c.desc 207 192) c.buf).all fun e => fld e 127 64 == 0) = false :=
    List.all_eq_false.mpr ⟨e, he, by simpa using hbad⟩
  exact (execPolicerProfileWrite_inRange h hfirst hlast).trans (by simp only [hall, Bool.false_eq_true, if_false])

theorem execPolicerProfileWrite_good (hgood : ∀ e ∈ entriesOf 128 (fld c.desc 207 192) c.buf, fld e 127 64 = 0) :
    execPolicerProfileWrite r n s = .next ((forAll s (List.range 16) fun u i => u.setSlice i { u.slice i with
      profiles := ((entriesOf 128 (fld c.desc 207 192) c.buf).zipIdx (fld c.desc 255 224)).foldl
        (fun m (e : BitVec 128 × Nat) => fput m 0 e.2 e.1) (u.slice i).profiles }).finish r n St.ok) := by
  have hall : ((entriesOf 128 (fld c.desc 207 192) c.buf).all fun e => fld e 127 64 == 0) = true :=
    List.all_eq_true.mpr fun e he => beq_iff_eq.mpr (hgood e he)
  exact (execPolicerProfileWrite_inRange h hfirst hlast).trans (by simp only [hall, if_true])

end Range

end Handed

end Sys2Proof.Machine

open Sys2Proof Sys2Proof.Machine

/-- Settles O50: each command runs its meaning as its ring hands it over, by the branches of its checks; the one entry of a TM_NODE_WRITE
ends in `execTmNodeWrite_single` whether or not it failed. -/
theorem switchAndNodeTables : Obligations.SwitchAndNodeTables := by
  refine ⟨fun _ _ _ => ⟨onCmd_next _ _ _ _ _, onCmd_next _ _ _ _ _, onCmd_next _ _ _ _ _, onCmd_next _ _ _ _ _, onCmd_next _ _ _ _ _,
    onCmd_next _ _ _ _ _⟩, ?_⟩
  intro s r n c first count groups nodes from' m profs level
  refine ⟨fun e he h hbad => execMcastGroupWrite_reserved h he hbad, execMcastGroupWrite_good, execMcastGroupRead_handed,
    execRewriteTemplateWrite_handed, fun e he h hbad => execTmNodeWrite_bad h he hbad, ?single, execTmNodeRead_beyond,
    execTmNodeRead_within, execPolicerProfileWrite_range,
    fun e he h hfirst hlast hbad => execPolicerProfileWrite_reserved h hfirst hlast he hbad, execPolicerProfileWrite_good⟩
  case single =>
    intro e h he hgood
    have hrun := execTmNodeWrite_single h he hgood
    exact ⟨fun hok => hrun.trans (by rw [hok, Nat.mul_zero]), fun _ => hrun⟩

end

/-! ## The gate lists of the front ports: O51 -/

section

namespace Sys2Proof.Machine

open Sys2Proof

section Handed

variable {s : State} {r : Fin 1024} {n : Nat} {c : CmdEnt}

/-! ### GATE_LIST_WRITE and GATE_LIST_READ (R328, R334) -/

theorem execGateListWrite_bad (h : Handed s r n 0x7B c) (hbad : gateListOk (gateHeader c.buf) (gateEntries c.buf) = false) :
    execGateListWrite r n s = .next (s.badField r n) :=
  (onCmd_of_handed h _).trans (congrArg _ (if_pos (by simp only [hbad, Bool.not_false])))

/-- A good list goes the way that a list of its port, waiting to be armed, leaves it. -/
theorem execGateListWrite_good (h : Handed s r n 0x7B c) (hgood : gateListOk (gateHeader c.buf) (gateEntries c.buf) = true) :
    execGateListWrite r n s =
      let x := s.gatesOf (fld c.desc 71 64)
      .next (if x.written.isSome then s else
        (s.setGates (fld c.desc 71 64) { x with
          armed := none, written := some ⟨gateHeader c.buf, gateEntries c.buf, 0⟩, command := some (r.val, n) }).modCmd r n
            fun c => { c with phase := .running }) :=
  (onCmd_of_handed h _).trans (congrArg _ (if_neg (by simp only [hgood, Bool.not_true, Bool.false_eq_true, not_false_eq_true])))

theorem execGateListWrite_writes (h : Handed s r n 0x7B c) (hgood : gateListOk (gateHeader c.buf) (gateEntries c.buf) = true)
    (hnone : (s.gatesOf (fld c.desc 71 64)).written = none) :
    execGateListWrite r n s = .next ((s.setGates (fld c.desc 71 64) { s.gatesOf (fld c.desc 71 64) with
      armed := none, written := some ⟨gateHeader c.buf, gateEntries c.buf, 0⟩, command := some (r.val, n) }).modCmd r n
        fun c => { c with phase := .running }) :=
  (execGateListWrite_good h hgood).trans (congrArg _ (if_neg (by simp only [hnone, Option.isSome_none, Bool.false_eq_true,
    not_false_eq_true])))

theorem execGateListWrite_waits (h : Handed s r n 0x7B c) (hgood : gateListOk (gateHeader c.buf) (gateEntries c.buf) = true)
    (hsome : (s.gatesOf (fld c.desc 71 64)).written ≠ none) : execGateListWrite r n s = .next s :=
  (execGateListWrite_good h hgood).trans (congrArg _ (if_pos (Option.isSome_iff_ne_none.mpr hsome)))

theorem execGateListRead_found (h : Handed s r n 0x7C c) {g : GateList}
    (hshown : (if bit c.desc 72 then (s.gatesOf (fld c.desc 71 64)).armed else (s.gatesOf (fld c.desc 71 64)).oper) = some g) :
    execGateListRead r n s = .next ((s.output c (bytesOf g.header ++ g.entries.flatMap bytesOf)).finish r n St.ok) :=
  (onCmd_of_handed h _).trans (by simp only [hshown, gateImage])

theorem execGateListRead_notFound (h : Handed s r n 0x7C c)
    (hshown : (if bit c.desc 72 then (s.gatesOf (fld c.desc 71 64)).armed else (s.gatesOf (fld c.desc 71 64)).oper) = none) :
    execGateListRead r n s = .next (s.finish r n St.notFound) :=
  (onCmd_of_handed h _).trans (by simp only [hshown])

end Handed

/-! ### GATE_LIST_ARM and GATE_LIST_CHANGE (R329) -/

theorem execGateListArm_next (p : Fin 128) (s : State) : ∃ t, execGateListArm p s = .next t := by
  unfold execGateListArm
  dsimp only
  split <;> exact ⟨_, rfl⟩

theorem execGateListArm_written {s : State} {p : Fin 128} {g : GateList} {r i : Nat} (hwritten : (s.gatesOf p).written = some g)
    (hcommand : (s.gatesOf p).command = some (r, i)) :
    execGateListArm p s =
      .next ((gateArm (s.setGates p { s.gatesOf p with written := none, command := none }) p g).finish r i St.ok) := by
  simp only [execGateListArm, hwritten, hcommand]

/-- A base time that lies ahead is the change time itself, and is not late. -/
theorem gateArm_ahead {s : State} {n : Nat} {g : GateList} (hahead : s.tmu.time.nanos < g.base) :
    gateArm s n g = s.setGates n { s.gatesOf n with armed := some { g with change := g.base } } := by
  have hchange : gateChange g s.tmu.time.nanos = (g.base, none) := if_pos hahead
  simp only [gateArm, hchange, Option.isSome_none, Bool.or_false]

theorem execGateListChange_next (p : Fin 128) (s : State) : ∃ t, execGateListChange p s = .next t := by
  unfold execGateListChange
  split
  · dsimp only
    split <;> exact ⟨_, rfl⟩
  · exact ⟨_, rfl⟩

theorem execGateListChange_armed {s : State} {p : Fin 128} {a : GateList} (harmed : (s.gatesOf p).armed = some a)
    (hreached : a.change ≤ (s.reachDev a.change).tmu.time.nanos) :
    execGateListChange p s =
      let u := s.reachDev a.change
      .next (gatesRefresh (u.setGates p { u.gatesOf p with
        oper := some a, armed := none, operBank := !(u.gatesOf p).operBank }) p) := by
  simp only [execGateListChange, harmed, if_pos hreached]

/-! ### GATE_ENTRY_CHANGE (R330) -/

theorem gatesRefresh_oper {s : State} {n : Nat} {g : GateList} (hoper : (s.gatesOf n).oper = some g) :
    gatesRefresh s n =
      let now := gateAt g (s.gatesOf n).armed s.tmu.time.nanos
      s.setGates n { s.gatesOf n with entry := now.entry, gates := now.gates } := by
  simp only [gatesRefresh, hoper]

/-- A port that stands in its list as the time has it waits for its entry's end; any other takes its place at once. -/
theorem execGateEntryChange_oper {s : State} {p : Fin 128} {g : GateList} (hoper : (s.gatesOf p).oper = some g) :
    execGateEntryChange p s =
      let now := gateAt g (s.gatesOf p).armed s.tmu.time.nanos
      if now.entry = (s.gatesOf p).entry ∧ now.gates = (s.gatesOf p).gates
      then .next (gatesRefresh (s.reachDev now.ends.toNat) p) else .next (gatesRefresh s p) := by
  simp only [execGateEntryChange, hoper, Bool.and_eq_true, decide_eq_true_eq]

theorem execGateEntryChange_next (p : Fin 128) (s : State) : ∃ t, execGateEntryChange p s = .next t := by
  unfold execGateEntryChange
  dsimp only
  split
  · split <;> exact ⟨_, rfl⟩
  · exact ⟨_, rfl⟩

end Sys2Proof.Machine

open Sys2Proof Sys2Proof.Machine

/-- Settles O51: the commands by the branches of their checks; an armed list by `gateArm_ahead`; a port's place in its operative list
by `execGateEntryChange_oper`. -/
theorem gateLists : Obligations.GateLists := by
  refine ⟨fun _ _ _ => ⟨onCmd_next _ _ _ _ _, onCmd_next _ _ _ _ _⟩,
    fun s p => ⟨execGateListArm_next p s, execGateEntryChange_next p s, execGateListChange_next p s⟩, ?commands, ?arm,
    fun s p a => execGateListChange_armed, ?entry⟩
  case commands =>
    intro s r n c p ok shown
    exact ⟨execGateListWrite_bad, execGateListWrite_writes, execGateListWrite_waits, fun g h hshown => execGateListRead_found h hshown,
      execGateListRead_notFound⟩
  case arm =>
    intro s p g r i hwritten hcommand u
    exact ⟨execGateListArm_written hwritten hcommand, gateArm_ahead⟩
  case entry =>
    intro s p g hoper now
    have hrun := execGateEntryChange_oper hoper
    exact ⟨fun hentry hgates => hrun.trans (if_pos ⟨hentry, hgates⟩),
      fun hmoved => hrun.trans ((if_neg hmoved).trans (congrArg _ (gatesRefresh_oper hoper)))⟩

end

/-! ## Priority flow control and queue sampling: O52 -/

section

namespace Sys2Proof.Machine

open Sys2Proof

/-! ### PFC_RECEIVE and PFC_PAUSE_EXPIRE (R326) -/

section Receive

variable {s : State} {p : Fin 128} {e : BitVec 16} {ts : List W16}

theorem execPfcReceive_next (p : Fin 128) (e : BitVec 16) (ts : List W16) (s : State) : ∃ t, execPfcReceive p e ts s = .next t := by
  unfold execPfcReceive
  split <;> exact ⟨_, rfl⟩

theorem execPfcReceive_down (hdown : portUp s p = false) : execPfcReceive p e ts s = .next s :=
  if_neg (Bool.eq_false_iff.mp hdown)

theorem execPfcReceive_up (hup : portUp s p = true) :
    execPfcReceive p e ts s = .next (pfcTake s p e.toNat (ts.map (·.toNat))) :=
  if_pos hup

end Receive

section Pause

variable {s : State} {n c : Nat}

theorem pfcPause_zero :
    pfcPause s n c 0 = s.setPfc n { s.pfcOf n with ends := ferase (s.pfcOf n).ends c, since := ferase (s.pfcOf n).since c } := by
  simp only [pfcPause, if_true]

/-- A class that was not paused is paused from now on. -/
theorem pfcPause_begins {t : Nat} (htimer : t ≠ 0) (hidle : classPaused s n c = false) :
    pfcPause s n c t = s.setPfc n { s.pfcOf n with
      ends := fset (s.pfcOf n).ends c (s.ns + quantaNs s n t), since := fset (s.pfcOf n).since c s.ns } := by
  simp only [pfcPause, if_neg htimer, hidle, Bool.false_eq_true, if_false]

theorem classPaused_iff : classPaused s n c = true ↔ ∃ e, ffind? (s.pfcOf n).ends c = some e ∧ s.ns < e := by
  simp only [classPaused, Option.any_eq_true, decide_eq_true_eq]

end Pause

theorem execPfcPauseExpire_next (p : Fin 128) (c : Fin 8) (s : State) : ∃ t, execPfcPauseExpire p c s = .next t := by
  unfold execPfcPauseExpire
  dsimp only
  split <;> exact ⟨_, rfl⟩

theorem execPfcPauseExpire_paused {s : State} {p : Fin 128} {c : Fin 8} {t : Nat} (hends : ffind? (s.pfcOf p).ends c.val = some t) :
    execPfcPauseExpire p c s = .next ((s.reach t).setPfc p { s.pfcOf p with
      ends := ferase (s.pfcOf p).ends c.val, since := ferase (s.pfcOf p).since c.val }) := by
  simp only [execPfcPauseExpire, hends]

/-! ### PFC_XOFF_REPEAT (R325) -/

theorem execPfcXoffRepeat_next (p : Fin 128) (c : Fin 8) (s : State) : ∃ t, execPfcXoffRepeat p c s = .next t := by
  unfold execPfcXoffRepeat
  dsimp only
  split
  · split <;> exact ⟨_, rfl⟩
  · exact ⟨_, rfl⟩

section Xoff

variable {s : State} {p : Fin 128} {c : Fin 8} {t : Nat} (hsent : ffind? (s.pfcOf p).sentAt c.val = some t)
include hsent

theorem execPfcXoffRepeat_above (hxoff : c.val ∈ (s.pfcOf p).xoff) (habove : pfcXon s p < pfcCount s p c) :
    execPfcXoffRepeat p c s =
      let q := s.rf (Reg.TMG_PFC_TIMER p) 15 0
      let u := s.reach (t + quantaNs s p q / 2)
      .next (pfcSend (u.setPfc p { s.pfcOf p with sentAt := fset (s.pfcOf p).sentAt c.val u.ns }) p c q) := by
  simp only [execPfcXoffRepeat, hsent, List.contains_iff_mem.mpr hxoff, habove, decide_true, Bool.and_self, if_true]

theorem execPfcXoffRepeat_below (hbelow : pfcCount s p c ≤ pfcXon s p) : execPfcXoffRepeat p c s = .next s := by
  simp only [execPfcXoffRepeat, hsent, Nat.not_lt.mpr hbelow, decide_false, Bool.and_false, Bool.false_eq_true, if_false]

end Xoff

/-! ### PFC_STORM (R327) -/

theorem execPfcStorm_next (p : Fin 128) (c : Fin 8) (s : State) : ∃ t, execPfcStorm p c s = .next t := by
  unfold execPfcStorm
  dsimp only
  split
  · split <;> exact ⟨_, rfl⟩
  · exact ⟨_, rfl⟩

theorem execPfcStorm_storms {s : State} {p : Fin 128} {c : Fin 8} {d : Nat} (hsince : stormSince s p c = some d)
    (hwatch : s.rf (Reg.TMG_PFC_TIMER p) 31 16 ≠ 0) (hnew : c.val ∉ (s.pfcOf p).storm)
    (hlasts : (ffind? (s.pfcOf p).ends c.val).any (fun t => s.ns + (1000 * s.rf (Reg.TMG_PFC_TIMER p) 31 16 - d) ≤ t) = true) :
    execPfcStorm p c s =
      let u := s.advance (1000 * s.rf (Reg.TMG_PFC_TIMER p) 31 16 - d)
      let x := { u.pfcOf p with storm := c.val :: (u.pfcOf p).storm }
      let y := if u.rf (Reg.TMG_PFC_CFG p) 19 19 = 1 then { x with ends := ferase x.ends c.val, since := ferase x.since c.val } else x
      .next (intRaise (raiseOn (u.setPfc p y) (u.rf Reg.TMG_EVENT_CTRL 9 0) Reg.TMG_EVENT_DROP_COUNT 0x7F
        [(71, 64, p.val), (74, 72, c.val)]) 10 1) := by
  have hfresh : (s.pfcOf p).storm.contains c.val = false := Bool.eq_false_iff.mpr (mt List.contains_iff_mem.mp hnew)
  simp only [execPfcStorm, hsince, hwatch, hfresh, hlasts, ne_eq, not_false_eq_true, decide_true, Bool.not_false, Bool.and_self,
    if_true, beq_iff_eq]

/-! ### QUEUE_SAMPLE_PASS (R332) -/

theorem execQueueSamplePass_off {s : State} (hoff : bit (s.reg Reg.TMG_SAMPLE_CTRL) 0 = false) : execQueueSamplePass s = .next s :=
  if_neg (Bool.eq_false_iff.mp hoff)

theorem execQueueSamplePass_on {s : State} (hon : bit (s.reg Reg.TMG_SAMPLE_CTRL) 0 = true) :
    execQueueSamplePass s =
      .next ((sampleList s).foldl (fun u i => sampleQueue u (u.rf (Reg.TMG_SAMPLE_LIST i) 18 0)) (passBegin s)) :=
  if_pos hon

theorem execQueueSamplePass_next (s : State) : ∃ t, execQueueSamplePass s = .next t := by
  unfold execQueueSamplePass
  split <;> exact ⟨_, rfl⟩

/-- The first pass begins at once, a later one after the period and, where the last one overran, a free time. -/
theorem passBegin_eq (s : State) :
    passBegin s =
      let late := s.tmg.sampleRan = true ∧ s.free.1 % 2 = 1
      let u := s.tmg.sampleLast.elim s.free.2 fun t =>
        s.free.2.reach (t + 1000 * s.rf Reg.TMG_SAMPLE_CTRL 31 16 + if late then s.free.1 / 2 else 0)
      let v := { u with tmg := { u.tmg with sampleLast := some u.ns, sampleRan := !(sampleList s).isEmpty } }
      if late then intRaise (v.bump Reg.TMG_SAMPLE_OVERRUN_COUNT) 10 2 else v := by
  cases hlast : s.tmg.sampleLast with
  | none => simp only [passBegin, hlast, Option.elim_none, Bool.and_eq_true, beq_iff_eq]
  | some t => simp only [passBegin, hlast, Option.elim_some, Bool.and_eq_true, beq_iff_eq]

end Sys2Proof.Machine

open Sys2Proof Sys2Proof.Machine

/-- Settles O52: a received frame is `pfcTake`, class by class through `pfcPause_zero` and `pfcPause_begins`; the timed events by the
guards of their definitions; a sampling pass by `passBegin_eq`. -/
theorem flowControlAndSampling : Obligations.FlowControlAndSampling := by
  refine ⟨fun _ _ _ => ⟨_, rfl⟩,
    fun s p c => ⟨execPfcXoffRepeat_next p c s, execPfcPauseExpire_next p c s, execPfcStorm_next p c s⟩,
    fun s p e ts => execPfcReceive_next p e ts s, execQueueSamplePass_next,
    fun s p e ts => ⟨execPfcReceive_down, execPfcReceive_up⟩,
    fun s n c t => ⟨pfcPause_zero, classPaused_iff, pfcPause_begins⟩,
    fun s p c t => execPfcPauseExpire_paused,
    fun s p c t hsent hxoff => ⟨execPfcXoffRepeat_above hsent hxoff, execPfcXoffRepeat_below hsent⟩,
    fun s p c d => execPfcStorm_storms, fun _ _ _ => rfl,
    fun s => ⟨execQueueSamplePass_off, execQueueSamplePass_on, passBegin_eq s⟩⟩

end

/-! ## Steps and the passing of time: O1, O2 -/

section

namespace Sys2Proof.Machine

open Sys2Proof

/-! ### What the edges of CLK10M_OUT leave alone (R436) -/

/-- The timing unit is as it was, but for the last edge of CLK10M_OUT. -/
def SameBut10M (new old : Tmu) : Prop := new = { old with clk10Last := new.clk10Last }

theorem SameBut10M.trans {a b c : Tmu} (hab : SameBut10M a b) (hbc : SameBut10M b c) : SameBut10M a c := by
  unfold SameBut10M at *
  rw [hab, hbc]

theorem clk10Rise_tmu (s : State) (m k : Nat) : SameBut10M (clk10Rise s m k).tmu s.tmu := by
  unfold clk10Rise
  split <;> rfl

theorem clk10Edges_tmu (s : State) (a b k : Nat) : SameBut10M (clk10Edges s a b k).tmu s.tmu := by
  unfold clk10Edges
  split
  · exact List.foldlRecOn (motive := fun t : State => SameBut10M t.tmu s.tmu) _ _ rfl fun t ht _ _ => (clk10Rise_tmu t _ _).trans ht
  · rfl

/-! ### Time that goes on (R419, R420) -/

theorem advance_ns (s : State) (n : Nat) : (s.advance n).ns = s.ns + n := by rw [advance_eq]

theorem advance_not_counting {s : State} (h : s.tmu.counting = false) (n : Nat) : s.advance n = { s with ns := s.ns + n } := by
  simp only [State.advance, h, Bool.false_eq_true, if_false]

/-- With FREQ 0 the tick and device time go on by the real nanoseconds, and the edges of CLK10M_OUT move neither. -/
theorem advance_counting {s : State} (h : s.tmu.counting = true) (hfreq : s.tmu.freq = 0) (n : Nat) :
    SameBut10M (s.advance n).tmu { s.tmu with
      time := DevTime.ofUnits ((2 ^ 24 * s.tmu.time.units.toNat + s.tmu.rem + 2 ^ 40 * n) / 2 ^ 24 : Nat)
      rem := (2 ^ 24 * s.tmu.time.units.toNat + s.tmu.rem + 2 ^ 40 * n) % 2 ^ 24
      tick := (2 ^ 40 * s.tmu.tick + s.tmu.tickFrac + 2 ^ 40 * n) / 2 ^ 40
      tickFrac := (2 ^ 40 * s.tmu.tick + s.tmu.tickFrac + 2 ^ 40 * n) % 2 ^ 40 } := by
  have hd : ((n : Int) * (2 ^ 40 + s.tmu.freq)).toNat = 2 ^ 40 * n := by rw [hfreq]; omega
  simp only [State.advance, h, if_true, hd]
  exact clk10Edges_tmu _ _ _ _

theorem units_toNat (t : DevTime) : (t.units.toNat : Int) = t.units := by simp only [DevTime.units, Int.toNat_natCast]

theorem advance_tick {s : State} (h : s.tmu.counting = true) (hfreq : s.tmu.freq = 0) (hfrac : s.tmu.tickFrac < 2 ^ 40) (n : Nat) :
    (s.advance n).tmu.tick = s.tmu.tick + n ∧ (s.advance n).tmu.tickFrac = s.tmu.tickFrac := by
  rw [advance_counting h hfreq n]
  constructor <;> dsimp only <;> omega

theorem advance_time {s : State} (h : s.tmu.counting = true) (hfreq : s.tmu.freq = 0) (hrem : s.tmu.rem < 2 ^ 24) (n : Nat) :
    (s.advance n).tmu.time = DevTime.ofUnits (s.tmu.time.units + n * 2 ^ 16) ∧ (s.advance n).tmu.rem = s.tmu.rem := by
  rw [advance_counting h hfreq n]
  constructor
  · refine congrArg DevTime.ofUnits ?_
    rw [← units_toNat]
    omega
  · dsimp only
    omega

/-! ### Steps -/

theorem step_front {s : State} {i : Instr} {rest : List Instr} (h : s.pending = i :: rest) : step s = exec i { s with pending := rest } := by
  simp only [step, h]

theorem step_empty {s : State} (h : s.pending = []) : step s = .next (clockTick s) := by simp only [step, h]

end Sys2Proof.Machine

open Sys2Proof Sys2Proof.Machine

/-- Settles O1. -/
theorem stepRunsFront : Obligations.StepRunsFront := fun _ _ _ => step_front

/-- Settles O2: with FREQ 0 a stretch of time is a whole number of units of either fraction. -/
theorem stepOnEmptyQueue : Obligations.StepOnEmptyQueue :=
  ⟨fun _ => step_empty, fun _ => rfl, fun s => advance_ns s 20, fun _ h => by rw [advance_not_counting h],
    fun _ h hfreq hfrac => advance_tick h hfreq hfrac 20, fun _ h hfreq hrem => advance_time h hfreq hrem 20⟩

end

/-! ## Device resets and the pins of the package: O3, O12, O13, O14 -/

section

namespace Sys2Proof.Machine

open Sys2Proof

/-! ### The seal and GLB_RESET (R534, R538, R556) -/

theorem onBar_next (s t : State) : ∃ u, onBar s t = .next u := ⟨_, rfl⟩
theorem onBar2_next (s t : State) : ∃ u, onBar2 s t = .next u := ⟨_, rfl⟩

theorem execSetupSeal_open {s : State} (hopen : barOpen s = true) (v : W32) :
    execSetupSeal v s = .next (if bit v 0 = true ∧ fld v 31 16 = 0x5EA1
      then { s with pkg := { s.pkg with sealed := true } } else badWrite s) := by
  simp only [execSetupSeal, onBar_open hopen, setupSeal, Bool.and_eq_true, beq_iff_eq]

section GlbReset

variable {s : State} {v : W32} (hopen : barOpen s = true)
include hopen

theorem execGlbReset_high (hreset : bit v 0 = true) (hkey : fld v 31 16 = 0x9128) (hhigh : s.pkg.perstLow = false) :
    execGlbReset v s = .next (resetEnd (deviceReset s 2)) := by
  simp [execGlbReset, onBar_open hopen, glbReset, hreset, hkey, hhigh]

theorem execGlbReset_low (hreset : bit v 0 = true) (hkey : fld v 31 16 = 0x9128) (hlow : s.pkg.perstLow = true) :
    execGlbReset v s = .next s := by
  simp [execGlbReset, onBar_open hopen, glbReset, hreset, hkey, hlow]

theorem execGlbReset_other (hother : ¬(bit v 0 = true ∧ fld v 31 16 = 0x9128)) : execGlbReset v s = .next (badWrite s) := by
  simp only [execGlbReset, onBar_open hopen, glbReset, Bool.and_eq_true, beq_iff_eq, if_neg hother]

end GlbReset

/-! ### PWR_GOOD and PERST_N (R552, R555, R556) -/

/-- An input counts where it is asserted, and so is every input of an earlier stage. -/
theorem mem_pgSort_good {p : Pkg} {up : List Nat} {i : Nat} :
    i ∈ (pgSort p up).good ↔ i < 5 ∧ i ∈ up ∧ ∀ j, j < 5 → pgStage j < pgStage i → j ∈ up := by
  simp only [pgSort, List.mem_filter, List.mem_range, List.contains_iff_mem, List.all_eq_true, Bool.or_eq_true, decide_eq_true_eq, and_assoc]
  refine and_congr_right fun _ => and_congr_right fun _ => forall_congr' fun j => forall_congr' fun _ => ?_
  rw [← Nat.not_lt, or_iff_not_imp_left, not_not]

theorem execPwrGoodDrop_asserted {s : State} {i : Fin 5} (hup : i.val ∈ s.pkg.good ++ s.pkg.early) :
    execPwrGoodDrop i s = .next (deviceReset { s with pkg :=
      { pgSort s.pkg ((s.pkg.good ++ s.pkg.early).filter (· != i.val)) with thermtrip := s.pkg.thermtrip && i.val != 0 } } 0) := by
  have hcontains : (s.pkg.good ++ s.pkg.early).contains i.val = true := List.contains_iff_mem.mpr hup
  simp only [execPwrGoodDrop, hcontains, Bool.not_true, Bool.false_eq_true, if_false]
  rfl

theorem execPwrGoodDrop_next (i : Fin 5) (s : State) : ∃ t, execPwrGoodDrop i s = .next t := by
  unfold execPwrGoodDrop
  dsimp only
  split <;> exact ⟨_, rfl⟩

/-- An input that falls counts no longer. -/
theorem not_mem_pgSort_dropped (p : Pkg) (up : List Nat) (i : Nat) : i ∉ (pgSort p (up.filter (· != i))).good := fun h => by
  have hmem := (mem_pgSort_good.mp h).2.1
  simp at hmem

theorem execPerstNAssert_running {s : State} (hhigh : s.pkg.perstLow = false) (hrun : s.pkg.inReset = false) :
    execPerstNAssert s = .next (deviceReset { s with pkg := { s.pkg with perstLow := true } } 1) := by
  simp [execPerstNAssert, hhigh, hrun]

theorem execPerstNAssert_inReset {s : State} (hhigh : s.pkg.perstLow = false) (hreset : s.pkg.inReset = true) :
    execPerstNAssert s = .next { s with pkg := { s.pkg with perstLow := true } } := by
  simp [execPerstNAssert, hhigh, hreset]

theorem execPerstNAssert_next (s : State) : ∃ t, execPerstNAssert s = .next t := by
  unfold execPerstNAssert
  split <;> exact ⟨_, rfl⟩

theorem execPerstNRelease_next (s : State) : ∃ t, execPerstNRelease s = .next t := by
  unfold execPerstNRelease
  split <;> exact ⟨_, rfl⟩

/-- The release ends the reset where every input counts, and the end of a power-on reset samples the address. -/
theorem execPerstNRelease_low {s : State} (hlow : s.pkg.perstLow = true) :
    execPerstNRelease s =
      let ends := s.pkg.inReset && s.pkg.good.length == 5
      .next { s with pkg := { s.pkg with
        perstLow := false, inReset := s.pkg.inReset && !ends,
        smbAddr := if ends ∧ s.pkg.cause = 0 then 0x30 + Config.smbPins % 8 else s.pkg.smbAddr } } := by
  simp only [execPerstNRelease, hlow, Bool.not_true, Bool.false_eq_true, if_false, powerGood]
  by_cases hends : (s.pkg.inReset && s.pkg.good.length == 5) = true
  · by_cases hcause : s.pkg.cause = 0 <;> simp [hends, resetEnd, smbSample, hcause]
  · simp [hends]

/-! ### Rails (R549, R558) -/

/-- A list laid down at its positions, from the first on, is what those positions then hold. -/
theorem ffind?_foldl_fset_zipIdx {α : Type} (xs : List α) (k j : Nat) (m : FMap α) :
    ffind? ((xs.zipIdx k).foldl (fun m e => fset m e.2 e.1) m) j =
      if k ≤ j ∧ j < k + xs.length then xs[j - k]? else ffind? m j := by
  induction xs generalizing k m with
  | nil => rw [List.length_nil, if_neg (by omega)]; rfl
  | cons x xs ih =>
    rw [List.zipIdx_cons, List.foldl_cons, ih, List.length_cons]
    rcases Nat.lt_trichotomy j k with h | rfl | h
    · rw [if_neg (by omega), if_neg (by omega), ffind?_fset_other _ _ (by omega)]
    · rw [if_neg (by omega), if_pos (by omega), ffind?_fset_same, Nat.sub_self, List.getElem?_cons_zero]
    · obtain ⟨d, rfl⟩ : ∃ d, j = k + 1 + d := ⟨j - (k + 1), by omega⟩
      rw [show k + 1 + d - k = d + 1 by omega, List.getElem?_cons_succ, Nat.add_sub_cancel_left, ffind?_fset_other _ _ (by omega)]
      exact if_congr (by omega) rfl rfl

/-- The rails as ten readings leave them. -/
def railsRead (s : State) (mv : List Nat) : FMap Nat := (mv.take 10).zipIdx.foldl (fun (m : FMap Nat) e => fset m e.2 e.1) s.pkg.rails

theorem ffind?_railsRead {s : State} {mv : List Nat} (hten : mv.length = 10) {j : Nat} (hj : j < 10) :
    ffind? (railsRead s mv) j = mv[j]? := by
  rw [railsRead, ffind?_foldl_fset_zipIdx, List.take_of_length_le (by omega), if_pos (by omega), Nat.sub_zero]

/-- The rails whose readings lie outside their tolerances. -/
def railsOut (rs : FMap Nat) : List Nat := (railTable.zipIdx.filter fun e => (ffind? rs e.2).any (railOut e.1)).map (·.2)

theorem mem_railsOut {rs : FMap Nat} {j : Nat} (hj : j < 10) :
    j ∈ railsOut rs ↔ ∃ m, ffind? rs j = some m ∧ railOut (railTable.getD j (0, 0)) m = true := by
  have hrow : ∀ e ∈ railTable.zipIdx, e.1 = railTable.getD e.2 (0, 0) := by decide
  have hlisted : (railTable.getD j (0, 0), j) ∈ railTable.zipIdx := by
    rw [List.mem_zipIdx_iff_getElem?, List.getElem?_eq_getElem hj, List.getD_eq_getElem _ _ hj]
  simp only [railsOut, List.mem_map, List.mem_filter, Option.any_eq_true]
  constructor
  · rintro ⟨e, ⟨he, m, hm, hout⟩, rfl⟩
    exact ⟨m, hm, hrow e he ▸ hout⟩
  · rintro ⟨m, hm, hout⟩
    exact ⟨_, ⟨hlisted, m, hm, hout⟩, rfl⟩

/-- The pins set to what they are. -/
theorem pkg_put_back {s : State} {p : Pkg} (h : s.pkg = p) : { s with pkg := p } = s := by
  subst h
  rfl

theorem execRailSample_eq (mv : List Nat) (s : State) :
    execRailSample mv s =
      let u := s.reach (s.pkg.railAt + 1000000)
      .next { u with pkg := { u.pkg with rails := railsRead s mv, railAlert := railsOut (railsRead s mv), railAt := u.ns } } := by
  simp only [execRailSample, railsRead, railsOut, reach_pkg]

/-! ### SMBus and JTAG (R490, R557 to R559) -/

theorem execSmbusBlockRead_next (x : SmbusXfer) (s : State) : ∃ t, execSmbusBlockRead x s = .next t := by
  unfold execSmbusBlockRead
  split
  · exact ⟨_, rfl⟩
  · split <;> exact ⟨_, rfl⟩

section Smbus

variable {s : State} {x : SmbusXfer}

theorem execSmbusBlockRead_other (hother : x.address.toNat ≠ s.pkg.smbAddr) : execSmbusBlockRead x s = .next s := by
  simp [execSmbusBlockRead, hother]

variable (hup : smbusUp s = true) (haddr : x.address.toNat = s.pkg.smbAddr)
include hup haddr

theorem execSmbusBlockRead_read (hread : x.blockRead = true) (hwithin : x.beyond = []) :
    execSmbusBlockRead x s = .next (s.emit (match smbusData s x.code.toNat with
      | some bs => .smbus bs (smbPec (smbFrame s.pkg.smbAddr x.code bs)) | none => .smbusNack)) := by
  simp only [execSmbusBlockRead, hup, haddr, hread, hwithin, Bool.not_true, ne_eq, not_true_eq_false, decide_false, Bool.or_self,
    Bool.false_eq_true, if_false, List.isEmpty_nil, Bool.and_self, if_true]
  cases smbusData s x.code.toNat <;> rfl

theorem execSmbusBlockRead_refused (hbad : x.blockRead = false ∨ x.beyond ≠ []) :
    execSmbusBlockRead x s = .next (s.emit .smbusNack) := by
  have hno : (x.blockRead && x.beyond.isEmpty) = false := by
    rw [Bool.and_eq_false_iff, List.isEmpty_eq_false_iff]
    exact hbad
  simp only [execSmbusBlockRead, hup, haddr, hno, Bool.not_true, ne_eq, not_true_eq_false, decide_false, Bool.or_self,
    Bool.false_eq_true, if_false]

end Smbus

theorem execAlertResponse_alert {s : State} (halert : smbAlert s = true) :
    execAlertResponse s =
      let b : Byte := BitVec.ofNat 8 (2 * s.pkg.smbAddr + Config.freeNat s.freeCtr % 2)
      .next ({ s with freeCtr := s.freeCtr + 1 }.emit (.smbus [b] (smbPec [0x19, b]))) :=
  if_pos halert

theorem execAlertResponse_next (s : State) : ∃ t, execAlertResponse s = .next t := by
  unfold execAlertResponse
  split <;> exact ⟨_, rfl⟩

end Sys2Proof.Machine

open Sys2Proof Sys2Proof.Machine

/-- Settles O3: every field of the reset state is a literal; the two registers are looked up in the register map. -/
theorem resetStarts : Obligations.ResetStarts := by
  have hgain : State.reset.reg Reg.TMU_SERVO_GAIN = 0x4CCDB333#32 := by decide +kernel
  have hthresh : State.reset.reg Reg.TMU_JUMP_THRESH = 1000#32 := by decide +kernel
  exact ⟨rfl, fun _ => rfl, rfl, rfl, rfl, rfl, rfl, rfl, fun _ => rfl, fun _ => rfl, fun _ => ⟨rfl, rfl⟩, fun _ => rfl, hgain, hthresh⟩

/-- Settles O12: `glbReset` and `setupSeal` by their keys. -/
theorem sealAndGlobalReset : Obligations.SealAndGlobalReset :=
  ⟨fun _ _ => ⟨onBar_next _ _, onBar_next _ _⟩, fun _ v hopen => execSetupSeal_open hopen v,
    fun _ _ hopen hreset hkey => ⟨execGlbReset_high hopen hreset hkey, execGlbReset_low hopen hreset hkey⟩,
    fun _ _ hopen hother => execGlbReset_other hopen hother⟩

/-- Settles O13: which inputs count by `mem_pgSort_good`; each reset is `deviceReset` of the pins as they then stand. -/
theorem powerGoodAndPerst : Obligations.PowerGoodAndPerst := by
  refine ⟨fun s i => ⟨⟨_, rfl⟩, execPwrGoodDrop_next i s⟩, fun s => ⟨execPerstNAssert_next s, execPerstNRelease_next s⟩, fun _ _ => rfl,
    fun _ _ _ => mem_pgSort_good, ?drop, fun _ => execPerstNAssert_running, fun _ => execPerstNAssert_inReset,
    fun _ => execPerstNRelease_low⟩
  case drop =>
    intro s i hup
    exact ⟨_, execPwrGoodDrop_asserted hup, rfl, rfl, not_mem_pgSort_dropped s.pkg _ i, rfl, rfl, rfl, rfl, rfl, rfl⟩

/-- Settles O14: the rails by what each position of the ten readings holds; the answers of the SMBus by address and form. -/
theorem boardPins : Obligations.BoardPins := by
  refine ⟨fun mv s => ⟨_, rfl⟩, fun s x => execSmbusBlockRead_next x s, fun _ _ => ⟨_, rfl⟩, execAlertResponse_next, ?rails,
    fun s x hup => ⟨execSmbusBlockRead_other, execSmbusBlockRead_read hup, execSmbusBlockRead_refused hup⟩,
    fun _ => execAlertResponse_alert, fun _ => ⟨rfl, rfl, rfl, rfl⟩⟩
  case rails =>
    intro s mv hten
    refine ⟨_, execRailSample_eq mv s, ?frame, rfl, fun j hj => ⟨ffind?_railsRead hten hj, ?alert⟩⟩
    case frame => exact pkg_put_back (s := s.reach (s.pkg.railAt + 1000000)) (by rw [reach_pkg])
    case alert =>
      rw [mem_railsOut hj, ffind?_railsRead hten hj]

end

/-! ## What a message, an event and the end of a command leave alone -/

section

namespace Sys2Proof.Machine

open Sys2Proof

/-- The state is as it was, but for the registers, what the outside has seen, host memory and the host interface. -/
def OnlyHost (new old : State) : Prop :=
  new = { old with regs := new.regs, out := new.out, hostMem := new.hostMem, hif := new.hif }

theorem OnlyHost.refl (s : State) : OnlyHost s s := rfl

theorem OnlyHost.trans {a b c : State} (hab : OnlyHost a b) (hbc : OnlyHost b c) : OnlyHost a c := by
  unfold OnlyHost at *
  rw [hab, hbc]

theorem OnlyHost.ite {a b s : State} {p : Prop} [Decidable p] (ha : OnlyHost a s) (hb : OnlyHost b s) : OnlyHost (if p then a else b) s := by
  split <;> assumption

theorem OnlyHost.tmu_eq {new old : State} (h : OnlyHost new old) : new.tmu = old.tmu := by rw [h]

theorem setReg_onlyHost (s : State) (a : Nat) (v : W32) : OnlyHost (s.setReg a v) s := rfl
theorem setRing_onlyHost (s : State) (r : Nat) (x : Ring) : OnlyHost (s.setRing r x) s := rfl
theorem setVector_onlyHost (s : State) (v : Nat) (x : Vector) : OnlyHost (s.setVector v x) s := rfl
theorem bump_onlyHost (s : State) (a : Nat) : OnlyHost (s.bump a) s := rfl
theorem hostWrite_onlyHost (s : State) (a : Nat) (bs : List Byte) : OnlyHost (hostWrite s a bs) s := by rw [hostWrite_eq]; rfl

theorem msixSend_onlyHost (s : State) (fn e : Nat) : OnlyHost (msixSend s fn e) s := by
  rcases msixSend_cases s fn e with ⟨p, h⟩ | h <;> rw [h] <;> rfl

theorem vectorMsg_onlyHost (s : State) (v : Nat) : OnlyHost (vectorMsg s v) s := by
  obtain ⟨fn, e, h⟩ := vectorMsg_cases s v
  exact h ▸ msixSend_onlyHost s fn e

theorem vectorTry_onlyHost (s : State) (v : Nat) : OnlyHost (vectorTry s v) s := by
  rcases vectorTry_cases s v with h | h <;> rw [h]
  · exact .refl s
  · exact (vectorMsg_onlyHost _ v).trans (setVector_onlyHost s v {})

theorem vectorCount_onlyHost (s : State) (v : Nat) : OnlyHost (vectorCount s v) s :=
  (vectorTry_onlyHost _ v).trans (setVector_onlyHost s v _)

theorem intStore_onlyHost (s : State) (g a : Nat) (v : W32) : OnlyHost (intStore s g a v) s := by
  rcases intStore_cases s g a v with h | h <;> rw [h]
  · exact setReg_onlyHost s a v
  · exact (msixSend_onlyHost _ _ _).trans (setReg_onlyHost s a v)

theorem intRaise_onlyHost (s : State) (g i : Nat) : OnlyHost (intRaise s g i) s := intStore_onlyHost s g _ _

theorem eventPut_onlyHost (s : State) (r typ : Nat) (fs : List (Nat × Nat × Nat)) : OnlyHost (eventPut s r typ fs) s := by
  unfold eventPut
  dsimp only
  split
  · exact (vectorCount_onlyHost _ _).trans ((setRing_onlyHost _ _ _).trans (hostWrite_onlyHost s _ _))
  · exact (setRing_onlyHost _ _ _).trans (hostWrite_onlyHost s _ _)

theorem eventRingError_onlyHost (s : State) (r : Nat) : OnlyHost (eventRingError s r) s := by
  have herr := setRing_onlyHost s r { s.ring r with error := true, cause := 4 }
  refine (intRaise_onlyHost _ 12 0).trans (.ite ((eventPut_onlyHost _ _ _ _).trans herr) ?_)
  exact ((bump_onlyHost _ _).trans (setRing_onlyHost _ _ _)).trans herr

theorem eventStop_onlyHost (s : State) (r : Nat) : OnlyHost (eventStop s r) s :=
  .ite ((eventRingError_onlyHost _ _).trans (eventRingError_onlyHost s r)) (eventRingError_onlyHost s r)

theorem eventWrite_onlyHost (s : State) (r typ : Nat) (fs : List (Nat × Nat × Nat)) : OnlyHost (eventWrite s r typ fs).1 s := by
  unfold eventWrite
  split
  · exact eventPut_onlyHost s r typ fs
  · exact .ite (eventStop_onlyHost s r) (setRing_onlyHost s r _)

theorem raiseOn_onlyHost (s : State) (ring drop typ : Nat) (fs : List (Nat × Nat × Nat)) : OnlyHost (raiseOn s ring drop typ fs) s := by
  have hwrite := eventWrite_onlyHost s ring typ fs
  rcases raiseOn_cases s ring drop typ fs with h | h <;> rw [h]
  · exact hwrite
  · exact (bump_onlyHost _ drop).trans hwrite

end Sys2Proof.Machine

end

/-! ## Device time: O15 to O18 -/

section

namespace Sys2Proof.Machine

open Sys2Proof

/-! ### Steps (R434) -/

/-- A step sets device time and PPS_OUT's aim, and CLK10M_OUT may rise. -/
theorem setTime_tmu (s : State) (t : DevTime) :
    SameBut10M (setTime s t).tmu { s.tmu with time := t, ppsNext := ppsFirst s t } := by
  unfold setTime
  dsimp only
  split
  · exact clk10Rise_tmu _ _ _
  · rfl

theorem setTime_eq (s : State) (t : DevTime) : setTime s t = { s with tmu := (setTime s t).tmu, out := (setTime s t).out } := by
  unfold setTime
  dsimp only
  split
  · rw [clk10Rise_eq]
  · rfl

theorem setLock_tmu (s : State) (p l : Nat) (h : Option (Nat × Nat)) : (setLock s p l h).tmu = s.tmu := by
  unfold setLock
  split <;> rfl

theorem unlockCmd_tmu (s : State) (c : CmdEnt) (r n : Nat) : (unlockCmd s c r n).tmu = s.tmu := by
  unfold unlockCmd
  split
  · refine List.foldlRecOn (motive := fun t : State => t.tmu = s.tmu) _ _ rfl fun t ht p _ => ?_
    split
    · exact (setLock_tmu t p _ none).trans ht
    · exact ht
  · rfl

theorem gatesRefresh_tmu (s : State) (n : Nat) : (gatesRefresh s n).tmu = s.tmu := by
  unfold gatesRefresh
  dsimp only
  split <;> rfl

theorem gateArm_tmu (s : State) (n : Nat) (g : GateList) : (gateArm s n g).tmu = s.tmu := by
  unfold gateArm
  dsimp only
  split
  · exact ((intRaise_onlyHost _ 10 0).trans (raiseOn_onlyHost _ _ _ _ _)).tmu_eq
  · rfl

/-- The gates follow a step of device time, which they leave as it is (R330). -/
theorem gatesStep_tmu (s : State) : (gatesStep s).tmu = s.tmu := by
  refine List.foldlRecOn (motive := fun t : State => t.tmu = s.tmu) _ _ rfl fun t ht n _ => (gatesRefresh_tmu _ n).trans ?_
  split
  · split
    · exact (gateArm_tmu t n _).trans ht
    · exact ht
  · exact ht

/-- Whatever a TIME_STEP does, of the timing unit it changes device time, PPS_OUT's aim and the last edge of CLK10M_OUT at most. -/
theorem execTimeStep_tmu {s t : State} {r : Fin 1024} {n : Nat} (h : execTimeStep r n s = .next t) :
    ∃ time pps, SameBut10M t.tmu { s.tmu with time := time, ppsNext := pps } := by
  have hstep : ∀ time, SameBut10M ((gatesStep (setTime s time)).finish r n St.ok).tmu
      { s.tmu with time := time, ppsNext := ppsFirst s time } := fun time => by
    rw [finish_tmu, gatesStep_tmu]
    exact setTime_tmu s time
  rcases onCmd_cases s r n 0xA1 _ with ⟨c, _, _, _, hrun⟩ | ⟨c, _, hrun⟩ | hrun <;> cases hrun.symm.trans h
  · dsimp only
    split
    · split
      · exact ⟨_, _, rfl⟩
      · exact ⟨_, _, hstep _⟩
    · split
      · exact ⟨_, _, rfl⟩
      · exact ⟨_, _, hstep _⟩
  · exact ⟨s.tmu.time, s.tmu.ppsNext, by rw [finish_tmu, unlockCmd_tmu]; rfl⟩
  · exact ⟨_, _, rfl⟩

section Handed

variable {s : State} {r : Fin 1024} {n : Nat} {c : CmdEnt}

theorem execTimeStep_absolute (h : Handed s r n 0xA1 c) (habs : bit c.desc 64 = false) (hns : fld c.desc 271 240 < 1000000000) :
    execTimeStep r n s = .next ((gatesStep (setTime s
      { sec := fld c.desc 239 192, ns := fld c.desc 271 240, frac := fld c.desc 287 272 })).finish r n St.ok) :=
  (onCmd_of_handed h _).trans (by simp only [habs, Bool.false_eq_true, if_false, ge_iff_le, giga, Nat.not_le.mpr hns])

theorem execTimeStep_badNs (h : Handed s r n 0xA1 c) (habs : bit c.desc 64 = false) (hns : 1000000000 ≤ fld c.desc 271 240) :
    execTimeStep r n s = .next (s.badField r n 30) :=
  (onCmd_of_handed h _).trans (by simp only [habs, Bool.false_eq_true, if_false, ge_iff_le, giga, hns, if_true])

theorem execTimeStep_relative (h : Handed s r n 0xA1 c) (hrel : bit c.desc 64 = true) (hlow : 0 ≤ s.time.units + tmuValue c.desc)
    (hhigh : s.time.units + tmuValue c.desc < 2 ^ 48 * giga * 2 ^ 16) :
    execTimeStep r n s = .next ((gatesStep (setTime s (DevTime.ofUnits (s.time.units + tmuValue c.desc)))).finish r n St.ok) := by
  refine (onCmd_of_handed h _).trans ?_
  rw [if_pos hrel, if_neg]
  simp only [Bool.or_eq_true, decide_eq_true_eq]
  omega

theorem execTimeStep_beyond (h : Handed s r n 0xA1 c) (hrel : bit c.desc 64 = true)
    (hout : s.time.units + tmuValue c.desc < 0 ∨ 2 ^ 48 * giga * 2 ^ 16 ≤ s.time.units + tmuValue c.desc) :
    execTimeStep r n s = .next (s.badField r n 16) := by
  refine (onCmd_of_handed h _).trans ?_
  rw [if_pos hrel, if_pos]
  simp only [Bool.or_eq_true, decide_eq_true_eq]
  omega

/-! ### The servo (R431 to R433) -/

theorem execTimeOffset_within (h : Handed s r n 0xA0 c) (hin : (tmuValue c.desc).natAbs ≤ 2 ^ 16 * s.rf Reg.TMU_JUMP_THRESH 29 0) :
    execTimeOffset r n s =
      let q := servoStep s.tmu.integral (tmuValue c.desc) (syncLog2 s) (s.rf Reg.TMU_SERVO_GAIN 15 0) (s.rf Reg.TMU_SERVO_GAIN 31 16)
      .next ({ s with tmu := { s.tmu with integral := q.1, freq := q.2 } }.finish r n St.ok 0 (BitVec.ofInt 32 q.2).toNat) :=
  (onCmd_of_handed h _).trans (congrArg _ (if_neg (Nat.not_lt.mpr hin)))

theorem execTimeOffset_beyond (h : Handed s r n 0xA0 c) (hout : 2 ^ 16 * s.rf Reg.TMU_JUMP_THRESH 29 0 < (tmuValue c.desc).natAbs) :
    execTimeOffset r n s =
      .next ((tmuEvent { s with tmu := { s.tmu with refused := true, refusedCount := min 0xFFFF (s.tmu.refusedCount + 1) } }
        0xA1 [(127, 64, fld c.desc 191 128), (159, 128, s.rf Reg.TMU_JUMP_THRESH 29 0)]).finish r n St.refused 0
          (BitVec.ofInt 32 s.tmu.freq).toNat) :=
  (onCmd_of_handed h _).trans (congrArg _ (if_pos hout))

theorem execTimeFreq_within (h : Handed s r n 0xA2 c) (hin : (BitVec.ofNat 32 (fld c.desc 159 128)).toInt.natAbs ≤ 549755813) :
    execTimeFreq r n s =
      let f := (BitVec.ofNat 32 (fld c.desc 159 128)).toInt
      .next ({ s with tmu := { s.tmu with freq := f, integral := -f } }.finish r n St.ok) :=
  (onCmd_of_handed h _).trans (congrArg _ (if_neg (Nat.not_lt.mpr hin)))

theorem execTimeFreq_beyond (h : Handed s r n 0xA2 c) (hout : 549755813 < (BitVec.ofNat 32 (fld c.desc 159 128)).toInt.natAbs) :
    execTimeFreq r n s = .next (s.badField r n 16) :=
  (onCmd_of_handed h _).trans (congrArg _ (if_pos hout))

end Handed

/-! ### The reference (R418, R421) -/

section Reference

variable {s : State}

theorem bit_zero_and_three (v : W32) : bit (v &&& 3) 0 = bit v 0 := by
  simp [bit]

theorem execClkSrcWrite_open (hopen : barOpen s = true) (v : W32) :
    execClkSrcWrite v s = .next (if bit v 0 = bit (s.reg Reg.TMU_CLK_CTRL) 0 then s.setReg Reg.TMU_CLK_CTRL (v &&& 3)
      else { s.setReg Reg.TMU_CLK_CTRL (v &&& 3) with tmu := { s.tmu with lock := false } }) := by
  simp only [execClkSrcWrite, onBar_open hopen, clkCtrlWrite, clkSrc, bit_zero_and_three, bne_iff_ne, ne_eq, ite_not]
  rfl

theorem execPllRelock_locks (href : clkSrc s = true → s.tmu.refPresent = true) (hrun : s.pkg.inReset = false) (hon : s.domain 61 = .on) :
    execPllRelock s = .next { s with tmu := { s.tmu with lock := true, counting := true, holdover := false } } := by
  have href' : (clkSrc s && !s.tmu.refPresent) = false := by
    cases hsrc : clkSrc s
    · rfl
    · rw [href hsrc]; rfl
  simp [execPllRelock, href', hrun, hon]

theorem execPllRelock_next (s : State) : ∃ t, execPllRelock s = .next t := by
  unfold execPllRelock
  split <;> exact ⟨_, rfl⟩

theorem execClkRefLost_inUse (hsrc : clkSrc s = true) (hhold : s.tmu.holdover = false) (e : Bool) :
    execClkRefLost e s = .next (tmuEvent { s with tmu := { s.tmu with refPresent := e && s.tmu.refPresent, holdover := true } } 0xA3
      [(64, 64, 1)]) := by
  simp only [execClkRefLost, hsrc, hhold, Bool.not_false, Bool.and_self, if_true]

theorem execClkRefLost_notInUse (h : clkSrc s = false ∨ s.tmu.holdover = true) (e : Bool) :
    execClkRefLost e s = .next { s with tmu := { s.tmu with refPresent := e && s.tmu.refPresent } } := by
  have hno : (clkSrc s && !s.tmu.holdover) = false := by
    rcases h with h | h <;> simp [h]
  simp only [execClkRefLost, hno, Bool.false_eq_true, if_false]

theorem execClkRefLost_next (e : Bool) (s : State) : ∃ t, execClkRefLost e s = .next t := by
  unfold execClkRefLost
  dsimp only
  split <;> exact ⟨_, rfl⟩

end Reference

/-! ### Pulses and transmit timestamps (R428, R429, R435, R437) -/

section Pulses

variable {s : State}

theorem execPpsOutEdge_enabled (hon : bit (s.reg Reg.TMU_PPS_CTRL) 0 = true) (hcounting : s.tmu.counting = true) :
    execPpsOutEdge s =
      let e : Int := (giga * s.tmu.ppsNext : Nat) + (s.reg Reg.TMU_PPS_OFFSET).toInt
      let u := s.reachDev e.toNat
      let t := DevTime.ofUnits (2 ^ 16 * e)
      .next ({ u with tmu := { u.tmu with
        ppsNext := u.tmu.ppsNext + 1, ppsHigh := some (u.ns + 1000 * u.rf Reg.TMU_PPS_CTRL 21 2) } }.emit (.ppsOut t.sec t.ns)) := by
  simp only [execPpsOutEdge, hon, hcounting, Bool.and_self, if_true, ppsOffset]

theorem execPpsOutEdge_next (s : State) : ∃ t, execPpsOutEdge s = .next t := by
  unfold execPpsOutEdge
  dsimp only
  split <;> exact ⟨_, rfl⟩

theorem execPpsInEdge_stamps (hon : bit (s.reg Reg.TMU_PPS_CTRL) 1 = true) (hgap : ∀ t, s.tmu.ppsIn = some t → t + 500000000 ≤ s.ns) :
    execPpsInEdge s = .next (tmuEvent { s with tmu := { s.tmu with ppsIn := some s.ns } } 0xA2
      [(111, 64, s.tmu.time.sec), (143, 112, s.tmu.time.ns), (159, 144, s.tmu.time.frac)]) := by
  have hall : (s.tmu.ppsIn.all fun t => decide (t + 500000000 ≤ s.ns)) = true := by
    simpa only [Option.all_eq_true, decide_eq_true_eq] using hgap
  unfold execPpsInEdge
  rw [if_pos (Bool.and_eq_true_iff.mpr ⟨hon, hall⟩)]
  rfl

theorem execPpsInEdge_soon {t : Nat} (hlast : s.tmu.ppsIn = some t) (hsoon : s.ns < t + 500000000) : execPpsInEdge s = .next s := by
  unfold execPpsInEdge
  rw [if_neg]
  intro hall
  have hgap := Option.all_eq_true _ _ |>.mp (Bool.and_eq_true_iff.mp hall).2 t hlast
  exact absurd (of_decide_eq_true hgap) (Nat.not_le.mpr hsoon)

theorem execPpsInEdge_next (s : State) : ∃ t, execPpsInEdge s = .next t := by
  unfold execPpsInEdge
  split <;> exact ⟨_, rfl⟩

variable {p : Fin 128} {e : TxTs} {q : List TxTs} (hqueue : fget s.tmu.txts [] p.val = e :: q)
include hqueue

theorem execTxtsEventWrite_waits (hwaits : e.waits = true) : execTxtsEventWrite p s = .next s := by
  simp only [execTxtsEventWrite, hqueue, hwaits, if_true]

theorem execTxtsEventWrite_room (hstatus : e.waits = false) (hroom : eventRoom s (s.rf Reg.TMU_EVENT_CTRL 25 16) = true) :
    execTxtsEventWrite p s =
      let u := (eventWrite s (s.rf Reg.TMU_EVENT_CTRL 25 16) 0xA0
        ([(71, 64, p.val), (73, 72, e.status), (74, 74, e.kind.toNat), (95, 80, e.tsId)] ++
          [(143, 96, e.time.sec), (175, 144, e.time.ns), (191, 176, e.time.frac)])).1
      .next { u with tmu := { u.tmu with txts := fput u.tmu.txts [] p.val q } } := by
  simp only [execTxtsEventWrite, hqueue, hstatus, hroom, Bool.false_eq_true, if_false, if_true]
  rfl

theorem execTxtsEventWrite_noRoom (hstatus : e.waits = false) (hfull : eventRoom s (s.rf Reg.TMU_EVENT_CTRL 25 16) = false) :
    execTxtsEventWrite p s = .next (if eventOff s (s.rf Reg.TMU_EVENT_CTRL 25 16) then eventStop s (s.rf Reg.TMU_EVENT_CTRL 25 16) else s) := by
  simp only [execTxtsEventWrite, hqueue, hstatus, hfull, Bool.false_eq_true, if_false]

end Pulses

theorem execTxtsEventWrite_next (p : Fin 128) (s : State) : ∃ t, execTxtsEventWrite p s = .next t := by
  unfold execTxtsEventWrite
  split
  · exact ⟨_, rfl⟩
  · dsimp only
    split
    · exact ⟨_, rfl⟩
    · split <;> exact ⟨_, rfl⟩

end Sys2Proof.Machine

open Sys2Proof Sys2Proof.Machine

/-- Settles O15: each TMU command by the range of its value, and what a step sets by `setTime_tmu`. -/
theorem timeCommands : Obligations.TimeCommands := by
  refine ⟨fun _ _ _ => ⟨onCmd_next _ _ _ _ _, onCmd_next _ _ _ _ _, onCmd_next _ _ _ _ _⟩, by decide +kernel, ?step, fun s r n c =>
    ⟨fun h => ⟨execTimeOffset_within h, execTimeOffset_beyond h⟩, execTimeStep_absolute, execTimeStep_badNs,
      fun h hrel => ⟨execTimeStep_relative h hrel, execTimeStep_beyond h hrel⟩,
      fun h => ⟨execTimeFreq_within h, execTimeFreq_beyond h⟩⟩⟩
  case step =>
    intro s t
    have htmu := setTime_tmu s t
    have hrest := setTime_eq s t
    exact ⟨by rw [htmu], by rw [hrest], by rw [htmu], by rw [hrest]⟩

/-- Settles O16: of the timing unit a step moves device time, PPS_OUT's aim and the last edge of CLK10M_OUT alone. -/
theorem stepKeepsTick : Obligations.StepKeepsTick := by
  intro s t r n h
  obtain ⟨time, pps, htmu⟩ := execTimeStep_tmu h
  rw [htmu]
  exact ⟨rfl, rfl, rfl, rfl, rfl, rfl⟩

/-- Settles O17: each event by whether CLK10M_IN is the reference, and whether the PLL is in holdover. -/
theorem clockReference : Obligations.ClockReference :=
  ⟨fun _ _ => onBar_next _ _, fun s => ⟨execPllRelock_next s, ⟨_, rfl⟩⟩, fun s e => execClkRefLost_next e s,
    fun _ v hopen => execClkSrcWrite_open hopen v, fun _ => execPllRelock_locks, fun _ e hsrc hhold => execClkRefLost_inUse hsrc hhold e,
    fun _ e h => execClkRefLost_notInUse h e, fun _ => rfl⟩

/-- Settles O18: a pulse by its enable and its spacing, the oldest timestamp by its status and the room in its ring. -/
theorem pulsesAndTimestamps : Obligations.PulsesAndTimestamps :=
  ⟨fun s p => execTxtsEventWrite_next p s, fun s => ⟨execPpsOutEdge_next s, execPpsInEdge_next s⟩, fun _ => execPpsOutEdge_enabled,
    fun _ => execPpsInEdge_stamps, fun _ _ => execPpsInEdge_soon,
    fun _ _ _ _ hqueue => ⟨execTxtsEventWrite_waits hqueue, execTxtsEventWrite_room hqueue, execTxtsEventWrite_noRoom hqueue⟩⟩

end

/-! ## Entries of events, ends of commands and moderation: O19, O20, O25, O27 -/

section

namespace Sys2Proof.Machine

open Sys2Proof

theorem length_bytesOf {n : Nat} (w : BitVec n) : (bytesOf w).length = n / 8 := by simp [bytesOf, bytesLE]

/-! ### Rings in the face of messages and counters -/

theorem ring_congr {s t : State} (h : s.hif.rings = t.hif.rings) (r : Nat) : s.ring r = t.ring r := by
  simp only [State.ring, h]

theorem msixSend_rings (s : State) (fn e : Nat) : (msixSend s fn e).hif.rings = s.hif.rings := by
  rcases msixSend_cases s fn e with ⟨p, h⟩ | h
  · rw [h]
  · rw [h, emit_hif]

theorem intRaise_rings (s : State) (g i : Nat) : (intRaise s g i).hif.rings = s.hif.rings := by
  unfold intRaise
  rcases intStore_cases s g (Reg.HLT_INT_STATUS g) (putBit (s.reg (Reg.HLT_INT_STATUS g)) i true) with h | h <;> rw [h]
  · rfl
  · exact msixSend_rings _ _ _

theorem vectorCount_ring (s : State) (v q : Nat) : (vectorCount s v).ring q = s.ring q :=
  ring_congr (vectorCount_keeps s v).2.2.1 q

theorem vectorCount_hbyte (s : State) (v a : Nat) : (vectorCount s v).hbyte a = s.hbyte a := by
  simp only [State.hbyte, (vectorCount_keeps s v).2.1]

/-! ### An entry that a ring of events takes (R446, R454) -/

theorem ringEnabled_of_room {s : State} {r : Nat} (h : eventRoom s r = true) : (s.ring r).enabled = true := by
  simp only [eventRoom, Bool.and_eq_true] at h
  exact h.1.1.1.1

/-- The ring as an entry written to it leaves it. -/
def entryAfter (s : State) (r : Nat) : Ring :=
  { s.ring r with dev := ((s.ring r).dev + 1) % ringSize s r
                  phase := if ((s.ring r).dev + 1) % ringSize s r = 0 then !(s.ring r).phase else (s.ring r).phase
                  seq := ((s.ring r).seq + 1) % 2 ^ 16, gap := false }

/-- The entry as it stands in host memory. -/
def entryBytes (s : State) (r typ : Nat) (fs : List (Nat × Nat × Nat)) : List Byte :=
  bytesOf (pack 512 (fs ++ [(7, 0, typ), (8, 8, (s.ring r).phase.toNat), (9, 9, (s.ring r).gap.toNat), (31, 16, (s.ring r).seq),
    (63, 32, s.tick)]))

/-- The slot filled and the ring moved on, before the entry counts towards a vector. -/
def entryPut (s : State) (r typ : Nat) (fs : List (Nat × Nat × Nat)) : State :=
  (hostWrite s (slotAddr s r (s.ring r).dev) (entryBytes s r typ fs)).setRing r (entryAfter s r)

/-- The phase flips at the wrap. -/
theorem entryAfter_eq (s : State) (r : Nat) : entryAfter s r =
    { s.ring r with dev := ((s.ring r).dev + 1) % ringSize s r
                    phase := ((s.ring r).phase != (((s.ring r).dev + 1) % ringSize s r == 0))
                    seq := ((s.ring r).seq + 1) % 2 ^ 16, gap := false } := by
  unfold entryAfter
  by_cases h : ((s.ring r).dev + 1) % ringSize s r = 0
  · rw [if_pos h, beq_iff_eq.mpr h, Bool.bne_true]
  · rw [if_neg h, beq_false_of_ne h, Bool.bne_false]

theorem eventWrite_room {s : State} {r : Nat} (h : eventRoom s r = true) (typ : Nat) (fs : List (Nat × Nat × Nat)) :
    (eventWrite s r typ fs).2 = true ∧
      ((eventWrite s r typ fs).1 = entryPut s r typ fs ∨ (eventWrite s r typ fs).1 = vectorCount (entryPut s r typ fs) (ringVec s r)) := by
  rcases eventWrite_cases s r typ fs with ⟨_, hwritten, u, rfl, hstate⟩ | ⟨hfull, _⟩ | ⟨hoff, _⟩
  · exact ⟨hwritten, hstate⟩
  · exact absurd (h.symm.trans hfull) (by decide)
  · exact absurd ((eventRoom_on s r h).symm.trans hoff) (by decide)

section EntryPut

variable {s : State} {r : Nat} (typ : Nat) (fs : List (Nat × Nat × Nat))

theorem entryPut_ring_same (h : eventRoom s r = true) : (entryPut s r typ fs).ring r = entryAfter s r := by
  have henabled : (entryAfter s r).enabled = true := ringEnabled_of_room h
  exact setRing_ring_ne _ r fun he => absurd (henabled.symm.trans (congrArg Ring.enabled he)) (by decide)

theorem entryPut_ring_other {q : Nat} (h : q ≠ r) : (entryPut s r typ fs).ring q = s.ring q :=
  (setRing_ring_other _ _ h).trans (ring_congr (by rw [hostWrite_hif]) q)

theorem entryPut_regs : (entryPut s r typ fs).regs = s.regs := hostWrite_regs s _ _

theorem setRing_hbyte (s : State) (r : Nat) (x : Ring) (a : Nat) : (s.setRing r x).hbyte a = s.hbyte a := rfl

theorem entryPut_hbyte_slot (hs : Memory.wf s = true) {i : Nat} (h : i < 64) :
    (entryPut s r typ fs).hbyte (slotAddr s r (s.ring r).dev + i) = (entryBytes s r typ fs).getD i 0 := by
  rw [entryPut, setRing_hbyte]
  exact hostWrite_hbyte_same s _ i _ hs (by rw [entryBytes, length_bytesOf]; exact h) (by rw [entryBytes, length_bytesOf]; decide)

theorem entryPut_hbyte_other {a : Nat} (h : ∀ i, i < 64 → a % 2 ^ 64 ≠ (slotAddr s r (s.ring r).dev + i) % 2 ^ 64) :
    (entryPut s r typ fs).hbyte a = s.hbyte a := by
  rw [entryPut, setRing_hbyte]
  exact hostWrite_hbyte_other s _ a _ fun i hi => h i (by rwa [entryBytes, length_bytesOf] at hi)

end EntryPut

/-! ### A ring of events whose function's DMA is off (R453) -/

/-- The ring stands in ERROR with cause BUS_MASTER_OFF. -/
def BusStopped (s : State) (r : Nat) : Prop := (s.ring r).error = true ∧ (s.ring r).cause = 4

theorem BusStopped.congr {s t : State} {r : Nat} (h : BusStopped s r) (hring : t.ring r = s.ring r) : BusStopped t r := by
  unfold BusStopped
  rwa [hring]

theorem busStopped_setRing (s : State) {r : Nat} {x : Ring} (herror : x.error = true) (hcause : x.cause = 4) :
    BusStopped (s.setRing r x) r := by
  have hne : x ≠ {} := fun he => absurd (herror.symm.trans (congrArg Ring.error he)) (by decide)
  unfold BusStopped
  rw [setRing_ring_ne s r hne]
  exact ⟨herror, hcause⟩

/-- A ring in ERROR takes no entry. -/
theorem BusStopped.no_room {s : State} {r : Nat} (h : BusStopped s r) : eventRoom s r = false := by
  simp only [eventRoom, h.1, Bool.not_true, Bool.and_false, Bool.false_and]

theorem eventPut_ring_other {s : State} {q : Nat} (typ : Nat) (fs : List (Nat × Nat × Nat)) {r : Nat} (h : r ≠ q) :
    (eventPut s q typ fs).ring r = s.ring r := by
  have hput : ((hostWrite s (slotAddr s q (s.ring q).dev) (entryBytes s q typ fs)).setRing q (entryAfter s q)).ring r = s.ring r :=
    entryPut_ring_other typ fs h
  unfold eventPut
  dsimp only
  split
  · exact (vectorCount_ring _ _ r).trans hput
  · exact hput

theorem eventGap_busStopped {s : State} {r : Nat} (q : Nat) (h : BusStopped s r) : BusStopped (eventGap s q) r := by
  by_cases hq : r = q
  · subst hq
    exact busStopped_setRing s h.1 h.2
  · exact h.congr (setRing_ring_other s _ hq)

/-- A ring that has stopped stays so as another ring stops, or this one again. -/
theorem eventRingError_busStopped {s : State} {q r : Nat} (h : r = q ∨ BusStopped s r) : BusStopped (eventRingError s q) r := by
  have hset : BusStopped (s.setRing q { s.ring q with error := true, cause := 4 }) r := by
    by_cases hq : r = q
    · subst hq
      exact busStopped_setRing s rfl rfl
    · exact (h.resolve_left hq).congr (setRing_ring_other s _ hq)
  unfold eventRingError
  dsimp only
  refine BusStopped.congr ?_ (ring_congr (intRaise_rings _ _ _) r)
  split
  case isTrue hroom =>
    refine hset.congr (eventPut_ring_other _ _ fun he => ?_)
    rw [← he, hset.no_room] at hroom
    exact absurd hroom (by decide)
  case isFalse => exact (eventGap_busStopped _ hset).congr (ring_congr rfl r)

theorem eventStop_busStopped (s : State) (r : Nat) : BusStopped (eventStop s r) r := by
  have hfirst : BusStopped (eventRingError s r) r := eventRingError_busStopped (.inl rfl)
  unfold eventStop
  dsimp only
  split
  · exact eventRingError_busStopped (.inr hfirst)
  · exact hfirst

/-! ### The end of a command (R450 to R452) -/

theorem finish_ring_same {s : State} {r : Nat} (h : (s.ring r).cmds ≠ []) (n st d res : Nat) :
    (s.finish r n st d res).ring r = { s.ring r with cmds := (s.ring r).cmds.map fun c => if c.slot = n
      then { c with phase := .done, status := st, detail := d, result := BitVec.ofNat 64 res } else c } := by
  refine (modCmd_ring_same s r n _ h).trans ?_
  simp only [beq_iff_eq]

/-! ### The completion of a command (R450, R451, R463) -/

section Completion

variable {s : State} {r : Nat} {n : Nat} {c : CmdEnt}

/-- The completion of a command as it stands in host memory: RESULT, then the header. -/
def completionPut (s : State) (r n : Nat) (c : CmdEnt) : State :=
  hostWrite (hostWrite (s.setRing r { s.ring r with cmds := (s.ring r).cmds.filter fun d => d.slot != n }) (slotAddr s r n + 8)
    (bytesOf c.result)) (slotAddr s r n) (bytesOf (doneHeader c))

/-- The completion counted, before it counts towards a vector. -/
def completed (s : State) (r n : Nat) (c : CmdEnt) : State := (completionPut s r n c).bump64 Reg.HIF_CMD_COUNT_LO 1

theorem bump64_hbyte (s : State) (a n b : Nat) : (s.bump64 a n).hbyte b = s.hbyte b := rfl

theorem completeCmd_ended (hcmd : s.cmd? r n = some c) (hdone : c.phase = .done) (hmute : c.mute = false) (hbufs : c.bufs = []) :
    completeCmd s r n = if bit c.desc 9 then vectorCount (completed s r n c) (ringVec s r) else completed s r n c := by
  simp only [completeCmd, hcmd, hdone, hmute, hbufs, ne_eq, not_true_eq_false, if_false, Bool.false_eq_true, stageFree, List.foldl_nil]
  rfl

/-- The two writes of a completion cover 16 bytes. -/
theorem completed_hbyte_other {b : Nat} (h : ∀ i, i < 16 → b % 2 ^ 64 ≠ (slotAddr s r n + i) % 2 ^ 64) :
    (completed s r n c).hbyte b = s.hbyte b := by
  rw [completed, bump64_hbyte, completionPut, hostWrite_hbyte_other _ _ _ _ fun i hi => ?header, hostWrite_hbyte_other _ _ _ _ fun i hi => ?result]
  case header => exact h i (by rw [length_bytesOf] at hi; omega)
  case result =>
    have hhigh := h (8 + i) (by rw [length_bytesOf] at hi; omega)
    rwa [← Nat.add_assoc] at hhigh
  rfl

theorem completed_hbyte_header (hs : Memory.wf s = true) {i : Nat} (hi : i < 8) :
    (completed s r n c).hbyte (slotAddr s r n + i) = (bytesOf (doneHeader c)).getD i 0 := by
  rw [completed, bump64_hbyte, completionPut]
  exact hostWrite_hbyte_same _ _ i _ (hostWrite_wf _ _ _ (setRing_wf hs)) (by rw [length_bytesOf]; exact hi)
    (by rw [length_bytesOf]; decide)

theorem completed_hbyte_result (hs : Memory.wf s = true) {i : Nat} (hi : i < 8) :
    (completed s r n c).hbyte (slotAddr s r n + 8 + i) = (bytesOf c.result).getD i 0 := by
  rw [completed, bump64_hbyte, completionPut, hostWrite_hbyte_other _ _ _ _ fun j hj => ?header]
  case header =>
    rw [length_bytesOf] at hj
    omega
  exact hostWrite_hbyte_same _ _ i _ (setRing_wf hs) (by rw [length_bytesOf]; exact hi) (by rw [length_bytesOf]; decide)

end Completion

/-! ### Moderation (R463, R464) -/

section Moderation

variable {s : State} {v : Nat} {y : Vector}

theorem vectorTry_disarmed (h : (s.vector v).armed = false) : vectorTry s v = s := by
  simp only [vectorTry, h, Bool.false_and, Bool.false_eq_true, if_false]

theorem vectorTry_armed {t : Nat} (h : (s.vector v).armed = true) (hsince : (s.vector v).since = some t) :
    vectorTry s v = if fld (s.reg (Reg.HIF_VEC_MOD v)) 15 0 ≤ (s.vector v).count ∨ t + 1000 * fld (s.reg (Reg.HIF_VEC_MOD v)) 31 16 ≤ s.ns
      then vectorMsg (s.setVector v {}) v else s := by
  simp only [vectorTry, vectorDue, h, hsince, Bool.true_and, Bool.or_eq_true, decide_eq_true_eq]

/-- The vector as one more pending entry leaves it. -/
def countedOnce (s : State) (v : Nat) : Vector :=
  { s.vector v with count := (s.vector v).count + 1, since := some ((s.vector v).since.getD s.ns) }

theorem setVector_countedOnce (s : State) (v : Nat) : (s.setVector v (countedOnce s v)).vector v = countedOnce s v :=
  setVector_vector_ne s v fun he => Option.some_ne_none _ (congrArg Vector.since he)

theorem vectorCount_disarmed (h : (s.vector v).armed = false) : vectorCount s v = s.setVector v (countedOnce s v) :=
  vectorTry_disarmed ((congrArg Vector.armed (setVector_countedOnce s v)).trans h)

theorem vectorCount_armed (h : (s.vector v).armed = true) :
    vectorCount s v =
      if fld (s.reg (Reg.HIF_VEC_MOD v)) 15 0 ≤ (s.vector v).count + 1 ∨
          (s.vector v).since.getD s.ns + 1000 * fld (s.reg (Reg.HIF_VEC_MOD v)) 31 16 ≤ s.ns
      then vectorMsg ((s.setVector v (countedOnce s v)).setVector v {}) v else s.setVector v (countedOnce s v) := by
  have hvec := setVector_countedOnce s v
  have hcount := congrArg Vector.count hvec
  refine (vectorTry_armed ((congrArg Vector.armed hvec).trans h) (congrArg Vector.since hvec)).trans ?_
  rw [hcount]
  rfl

end Moderation

end Sys2Proof.Machine

open Sys2Proof Sys2Proof.Machine

/-- Settles O19: with room the entry is `entryPut`, which counting towards a vector leaves as it is; with the function's DMA off the
ring stops, and the report of it cannot undo that. -/
theorem eventEntry : Obligations.EventEntry := by
  intro s r typ fs x t
  refine ⟨fun hroom => ?room, fun hfull hon => ?full, fun hoff => ?off⟩
  case room =>
    obtain ⟨hwritten, hstate⟩ := eventWrite_room hroom typ fs
    have hring : ∀ q, t.ring q = (entryPut s r typ fs).ring q := fun q => by
      rcases hstate with h | h
      · exact congrArg (State.ring · q) h
      · exact (congrArg (State.ring · q) h).trans (vectorCount_ring _ _ q)
    have hbyte : ∀ a, t.hbyte a = (entryPut s r typ fs).hbyte a := fun a => by
      rcases hstate with h | h
      · exact congrArg (State.hbyte · a) h
      · exact (congrArg (State.hbyte · a) h).trans (vectorCount_hbyte _ _ a)
    have hregs : t.regs = (entryPut s r typ fs).regs := by
      rcases hstate with h | h
      · exact congrArg State.regs h
      · exact (congrArg State.regs h).trans (vectorCount_keeps _ _).1
    exact ⟨hwritten, ((hring r).trans (entryPut_ring_same typ fs hroom)).trans (entryAfter_eq s r),
      fun q hq => (hring q).trans (entryPut_ring_other typ fs hq), hregs.trans (entryPut_regs typ fs), fun hs =>
      ⟨fun i hi => (hbyte _).trans (entryPut_hbyte_slot typ fs hs hi), fun a ha => (hbyte a).trans (entryPut_hbyte_other typ fs ha)⟩⟩
  case full =>
    rcases eventWrite_cases s r typ fs with ⟨hroom, _⟩ | ⟨_, _, hnone, hstate⟩ | ⟨hoff, _⟩
    · exact absurd (hfull.symm.trans hroom) (by decide)
    · exact ⟨hnone, hstate⟩
    · exact absurd (hon.symm.trans hoff) (by decide)
  case off =>
    rcases eventWrite_cases s r typ fs with ⟨hroom, _⟩ | ⟨_, hon, _⟩ | ⟨_, hstop⟩
    · exact absurd (hoff.symm.trans (eventRoom_on s r hroom)) (by decide)
    · exact absurd (hoff.symm.trans hon) (by decide)
    · have hstopped := eventStop_busStopped s r
      have hstate : t = eventStop s r := congrArg Prod.fst hstop
      rw [← hstate] at hstopped
      exact ⟨congrArg Prod.snd hstop, hstopped⟩

/-- Settles O20: the end of a command rewrites its ring's list of commands, and the rings are all that changes. -/
theorem commandEnds : Obligations.CommandEnds := fun s _ n st d res h =>
  ⟨finish_ring_same h n st d res, fun _ hq => finish_ring_other s n st d res hq, rfl⟩

/-- Settles O25: the completion is two writes of 8 bytes, the header last. -/
theorem completionWrites : Obligations.CompletionWrites :=
  ⟨fun _ _ _ => ⟨_, rfl⟩, fun _ _ _ _ hcmd hdone hmute hbufs =>
    ⟨congrArg _ (completeCmd_ended hcmd hdone hmute hbufs), fun _ _ hb => completed_hbyte_other hb,
      fun hs _ hi => ⟨completed_hbyte_header hs hi, completed_hbyte_result hs hi⟩⟩⟩

/-- Settles O27: a counted vector is not the vector that an unlisted number reads as, so it reads as written. -/
theorem moderation : Obligations.Moderation := fun _ _ => ⟨vectorCount_disarmed, vectorCount_armed⟩

end

/-! ## Rings, doorbells, fetching and acceptance: O21 to O24 -/

section

namespace Sys2Proof.Machine

open Sys2Proof

/-! ### Enabling, disabling and the idle state (R446, R449) -/

section Switching

variable {s : State} {r : Fin 1024}

theorem ringMayEnable_iff {r : Nat} :
    ringMayEnable s r = true ↔ (s.ring r).enabled = false ∧ (s.ring r).idle = true ∧ fld (s.reg (Reg.HIF_RING_CFG r)) 2 0 ≤ 4 ∧
      4 ≤ fld (s.reg (Reg.HIF_RING_CFG r)) 7 3 ∧ fld (s.reg (Reg.HIF_RING_CFG r)) 7 3 ≤ 16 ∧ fld (s.reg (Reg.HIF_RING_CFG r)) 14 8 ≤ 64 ∧
      ringVecOk s r = true ∧ (2 ≤ fld (s.reg (Reg.HIF_RING_CFG r)) 2 0 → fld (s.reg (Reg.HIF_RING_CFG r)) 23 22 = 0) := by
  have hport : ∀ t h : Nat, (t ≤ 1 ∨ h = 0) ↔ (2 ≤ t → h = 0) := fun t h => by omega
  simp only [ringMayEnable, Bool.and_eq_true, Bool.or_eq_true, Bool.not_eq_true', decide_eq_true_eq, beq_iff_eq, and_assoc, hport]

theorem execRingEnable_open (hopen : barOpen s = true) :
    execRingEnable r s = .next (if ringMayEnable s r = true then s.setRing r { enabled := true, idle := false, phase := true }
      else badWrite s) :=
  onBar_open hopen _

theorem execRingDisable_enabled (hopen : barOpen s = true) (henabled : ((sessionClose s r).ring r).enabled = true) :
    execRingDisable r s =
      let u := sessionClose s r
      let x := u.ring r
      .next ((stageFree u ((x.cmds.filter fun c => c.phase == .fetched).flatMap (·.bufs))).setRing r
        { x with enabled := false, posted := [], cmds := x.cmds.map fun c => if c.phase = .fetched
            then { c with phase := .done, status := 0x05, detail := 0, result := 0, bufs := [] } else c }) := by
  refine (onBar_open hopen _).trans (congrArg _ ?_)
  unfold ringDisable
  simp only [henabled, Bool.not_true, Bool.false_eq_true, if_false, beq_iff_eq]
  rfl

theorem execRingIdle_outstanding_none (hoff : (s.ring r).enabled = false) (hnone : (s.ring r).cmds = []) :
    execRingIdle r s = .next (s.setRing r { s.ring r with idle := true }) := by
  unfold execRingIdle
  simp only [hoff, hnone, Bool.not_false, List.isEmpty_nil, Bool.and_self, if_true]

end Switching

/-! ### Doorbells (R447, R448, R464) -/

section Doorbell

/-- A set bit at or above the field leaves the field of the lowest bits as it was. -/
theorem fld_low_putBit_true {w : W32} {i hi : Nat} (h : hi < i) : fld (putBit w i true) hi 0 = fld w hi 0 := by
  have hlow : (putBit w i true).setWidth (hi + 1) = w.setWidth (hi + 1) := by
    ext j hj
    simp only [BitVec.getElem_setWidth, putBit_true_getLsbD]
    have hne : j ≠ i := by omega
    cases hw : w.getLsbD j
    · simp [hne]
    · simp [BitVec.lt_of_getLsbD hw]
  have htoNat := congrArg BitVec.toNat hlow
  simpa only [BitVec.toNat_setWidth, fld, Nat.shiftRight_zero, Nat.sub_zero] using htoNat

theorem bit_putBit_true_same (w : W32) {i : Nat} (h : i < 32) : bit (putBit w i true) i = true := by
  rw [bit, putBit_true_getLsbD]
  simp [h]

theorem bit_putBit_true_other (w : W32) {i j : Nat} (h : j ≠ i) (hj : j < 32) : bit (putBit w i true) j = bit w j := by
  rw [bit, bit, putBit_true_getLsbD]
  simp [h, hj]

variable {s : State} {fn page r : Nat} {v : W32}

/-- The vector of a ring armed, with its message where the sending condition is met. -/
def ringArm (s u : State) (r : Nat) : State :=
  vectorTry (u.setVector (ringVec s r) { u.vector (ringVec s r) with armed := true }) (ringVec s r)

/-- A doorbell acts on an enabled ring not in ERROR, with an index within it. -/
abbrev DoorbellOk (s : State) (r : Nat) (v : W32) : Prop :=
  (s.ring r).enabled = true ∧ (s.ring r).error = false ∧ fld v 15 0 < ringSize s r

theorem doorbell_none (h : pageRing s fn page = none) : doorbell s fn page v = s := by
  simp only [doorbell, h]

theorem doorbell_acts (h : pageRing s fn page = some r) (hok : DoorbellOk s r v)
    (hindex : bit v 17 = true → indexOk s r (fld v 15 0) = true) :
    doorbell s fn page v =
      let u := if bit v 17 then s.setRing r { s.ring r with host := fld v 15 0 } else s
      if bit v 16 then ringArm s u r else u := by
  obtain ⟨henabled, herror, hsize⟩ := hok
  have hgood : (bit v 17 && !indexOk s r (fld v 15 0)) = false := by
    cases hupdate : bit v 17
    · rfl
    · rw [hindex hupdate]; rfl
  simp only [doorbell, h, henabled, herror, hgood, Nat.not_le.mpr hsize, Bool.not_true, Bool.or_false, decide_false, Bool.false_eq_true,
    if_false]
  rfl

theorem doorbell_ignored (h : pageRing s fn page = some r)
    (hbad : ¬DoorbellOk s r v ∨ (bit v 17 = true ∧ indexOk s r (fld v 15 0) = false)) :
    doorbell s fn page v = s.bump Reg.HIF_DOORBELL_ERR_COUNT := by
  have hcond : (!(s.ring r).enabled || (s.ring r).error || decide (ringSize s r ≤ fld v 15 0) ||
      (bit v 17 && !indexOk s r (fld v 15 0))) = true := by
    rcases hbad with hbad | ⟨hupdate, hindex⟩
    · rw [Bool.or_eq_true]
      refine .inl (Bool.not_eq_false _ ▸ fun hno => hbad ?_)
      simp only [Bool.or_eq_false_iff, Bool.not_eq_false', decide_eq_false_iff_not, Nat.not_le] at hno
      exact ⟨hno.1.1, hno.1.2, hno.2⟩
    · rw [hupdate, hindex]; simp
  simp only [doorbell, h, hcond, if_true]

end Doorbell

section DoorbellEvents

variable {s : State} {fn : Fin 65} {page : Fin 1024} {r : Nat} {v : W32} (hup : barUp s = true)
include hup

theorem execDoorbellUpdate_none (h : pageRing s fn page = none) : execDoorbellUpdate fn page v s = .next s :=
  (onBar2_up hup _).trans (congrArg _ (doorbell_none h))

theorem execDoorbellArm_none (h : pageRing s fn page = none) : execDoorbellArm fn page v s = .next s :=
  (onBar2_up hup _).trans (congrArg _ (doorbell_none h))

theorem execDoorbellUpdate_moves (h : pageRing s fn page = some r) (hok : DoorbellOk s r v) (hindex : indexOk s r (fld v 15 0) = true) :
    execDoorbellUpdate fn page v s = .next (if bit v 16 then ringArm s (s.setRing r { s.ring r with host := fld v 15 0 }) r
      else s.setRing r { s.ring r with host := fld v 15 0 }) := by
  have hfld : fld (putBit v 17 true) 15 0 = fld v 15 0 := fld_low_putBit_true (by decide)
  refine (onBar2_up hup _).trans (congrArg _ ?_)
  rw [doorbell_acts h (by rwa [DoorbellOk, hfld]) fun _ => by rwa [hfld], bit_putBit_true_same v (by decide),
    bit_putBit_true_other v (by decide) (by decide), hfld]
  rfl

theorem execDoorbellUpdate_ignored (h : pageRing s fn page = some r) (hbad : ¬DoorbellOk s r v ∨ indexOk s r (fld v 15 0) = false) :
    execDoorbellUpdate fn page v s = .next (s.bump Reg.HIF_DOORBELL_ERR_COUNT) := by
  have hfld : fld (putBit v 17 true) 15 0 = fld v 15 0 := fld_low_putBit_true (by decide)
  refine (onBar2_up hup _).trans (congrArg _ (doorbell_ignored h ?_))
  rw [DoorbellOk, hfld]
  exact hbad.imp id fun hindex => ⟨bit_putBit_true_same v (by decide), hindex⟩

theorem execDoorbellArm_arms (h : pageRing s fn page = some r) (hok : DoorbellOk s r v) (hno : bit v 17 = false) :
    execDoorbellArm fn page v s = .next (ringArm s s r) := by
  have hfld : fld (putBit v 16 true) 15 0 = fld v 15 0 := fld_low_putBit_true (by decide)
  have hupdate : bit (putBit v 16 true) 17 = false := (bit_putBit_true_other v (by decide) (by decide)).trans hno
  refine (onBar2_up hup _).trans (congrArg _ ?_)
  rw [doorbell_acts h (by rwa [DoorbellOk, hfld]) fun hset => absurd (hupdate.symm.trans hset) (by decide), hupdate,
    bit_putBit_true_same v (by decide)]
  rfl

theorem execDoorbellArm_ignored (h : pageRing s fn page = some r) (hbad : ¬DoorbellOk s r v) :
    execDoorbellArm fn page v s = .next (s.bump Reg.HIF_DOORBELL_ERR_COUNT) := by
  have hfld : fld (putBit v 16 true) 15 0 = fld v 15 0 := fld_low_putBit_true (by decide)
  refine (onBar2_up hup _).trans (congrArg _ (doorbell_ignored h (.inl ?_)))
  rwa [DoorbellOk, hfld]

end DoorbellEvents

/-! ### Fetching (R451, R453, R458) -/

section Fetch

variable {s : State} {r : Fin 1024} (hposted : ringPosted s r = true)
include hposted

/-- The descriptor at the device's index. -/
def descNext (s : State) (r : Nat) : Desc := ofBytes 512 (hostRead s (slotAddr s r (s.ring r).dev) 64)

/-- The ring with its device index moved on. -/
def ringMoved (s : State) (r : Nat) : Ring := { s.ring r with dev := ((s.ring r).dev + 1) % ringSize s r }

/-- A COMMAND ring is served in its turn alone. -/
theorem execDescriptorFetch_command (htype : ringType s r = 0) (hturn : ringServed s = some r.val) (hon : busOff s (ringFn s r) = false) :
    execDescriptorFetch r s = .next ((serveNote s r).setRing r { ringMoved s r with
      cmds := (s.ring r).cmds ++ [{ slot := (s.ring r).dev, desc := descNext s r }] }) := by
  have hoff : busOff (serveNote s r) (ringFn (serveNote s r) r) = false := hon
  have hlow : ringType (serveNote s r) r ≤ 1 := by rw [show ringType (serveNote s r) r = 0 from htype]; decide
  simp only [execDescriptorFetch, htype, hposted, hturn, beq_self_eq_true, if_true, Bool.not_true, bne_self_eq_false, Bool.and_false,
    Bool.or_self, Bool.false_eq_true, if_false, hoff, hlow]
  rfl

theorem execDescriptorFetch_command_off (htype : ringType s r = 0) (hturn : ringServed s = some r.val)
    (hoff : busOff s (ringFn s r) = true) : execDescriptorFetch r s = .next (ringError (serveNote s r) r 4) := by
  have hoff : busOff (serveNote s r) (ringFn (serveNote s r) r) = true := hoff
  simp only [execDescriptorFetch, htype, hposted, hturn, beq_self_eq_true, if_true, Bool.not_true, bne_self_eq_false, Bool.and_false,
    Bool.or_self, Bool.false_eq_true, if_false, hoff]

omit hposted in
theorem execDescriptorFetch_not_turn (htype : ringType s r = 0) (hturn : ringServed s ≠ some r.val) : execDescriptorFetch r s = .next s := by
  have hother : (ringServed s != some r.val) = true := bne_iff_ne.mpr hturn
  simp only [execDescriptorFetch, htype, hother, beq_self_eq_true, Bool.true_and, Bool.or_true, if_true]

/-- Any other ring is served as it stands. -/
theorem execDescriptorFetch_other (htype : ringType s r ≠ 0) :
    execDescriptorFetch r s =
      if busOff s (ringFn s r) then .next (ringError s r 4)
      else if ringType s r ≤ 1 then .next (s.setRing r { ringMoved s r with
        cmds := (s.ring r).cmds ++ [{ slot := (s.ring r).dev, desc := descNext s r }] })
      else if postBad (descNext s r) then .next (ringError s r 5)
      else .next (s.setRing r { ringMoved s r with
        posted := (s.ring r).posted ++ [⟨(s.ring r).dev, fld (descNext s r) 127 64, fld (descNext s r) 142 128⟩] }) := by
  have hno : (ringType s r == 0) = false := beq_eq_false_iff_ne.mpr htype
  simp only [execDescriptorFetch, hno, hposted, Bool.not_true, Bool.false_and, Bool.or_self, Bool.false_eq_true, if_false]
  rfl

theorem execDescriptorFetch_inject (htype : ringType s r = 1) (hon : busOff s (ringFn s r) = false) :
    execDescriptorFetch r s = .next (s.setRing r { ringMoved s r with
      cmds := (s.ring r).cmds ++ [{ slot := (s.ring r).dev, desc := descNext s r }] }) := by
  rw [execDescriptorFetch_other hposted (by omega), hon, if_neg Bool.false_ne_true, if_pos (by omega)]

theorem execDescriptorFetch_posted (htype : 2 ≤ ringType s r) (hon : busOff s (ringFn s r) = false)
    (hgood : postBad (descNext s r) = false) :
    execDescriptorFetch r s = .next (s.setRing r { ringMoved s r with
      posted := (s.ring r).posted ++ [⟨(s.ring r).dev, fld (descNext s r) 127 64, fld (descNext s r) 142 128⟩] }) := by
  rw [execDescriptorFetch_other hposted (by omega), hon, if_neg Bool.false_ne_true, if_neg (by omega), hgood, if_neg Bool.false_ne_true]

theorem execDescriptorFetch_badBuffer (htype : 2 ≤ ringType s r) (hon : busOff s (ringFn s r) = false)
    (hbad : postBad (descNext s r) = true) : execDescriptorFetch r s = .next (ringError s r 5) := by
  rw [execDescriptorFetch_other hposted (by omega), hon, if_neg Bool.false_ne_true, if_neg (by omega), if_pos hbad]

theorem execDescriptorFetch_other_off (htype : ringType s r ≠ 0) (hoff : busOff s (ringFn s r) = true) :
    execDescriptorFetch r s = .next (ringError s r 4) := by
  rw [execDescriptorFetch_other hposted htype, if_pos hoff]

theorem execFetchError_posted (cause : Fin 4) : execFetchError r cause s = .next (ringError s r cause) := congrArg _ (if_pos hposted)

end Fetch

theorem execDescriptorFetch_next (r : Fin 1024) (s : State) : ∃ t, execDescriptorFetch r s = .next t := by
  unfold execDescriptorFetch
  dsimp only
  repeat' split
  all_goals exact ⟨_, rfl⟩

/-- A turn passes to another ring where the ring that has it has served 16 descriptors or has none left to serve. -/
theorem ringServed_passes {s : State} {q : Nat} (hserved : ringServed s = some q) (hother : q ≠ s.hif.serve.1) (hleft : s.hif.serve.2 < 16) :
    ¬(ringPosted s s.hif.serve.1 = true ∧ ringType s s.hif.serve.1 = 0 ∧ s.hif.serve.1 ∈ s.hif.rings.map (·.1)) := by
  rintro ⟨hposted, htype, hmem⟩
  have hkeeps : ((s.hif.rings.map (·.1)).filter fun r => ringPosted s r && ringType s r == 0).contains s.hif.serve.1 = true := by
    rw [List.contains_iff_mem, List.mem_filter]
    exact ⟨hmem, by rw [hposted, htype]; rfl⟩
  rw [ringServed, hkeeps, Bool.and_true, if_pos (decide_eq_true hleft)] at hserved
  exact hother (Option.some.inj hserved).symm

/-! ### Staging and acceptance (R269, R451, R563) -/

section Accept

variable {s : State} {r : Fin 1024} {c : CmdEnt} (hnext : nextFetched s r = some c) (henabled : (s.ring r).enabled = true)
  (herror : (s.ring r).error = false)
include hnext henabled herror

section Stage

variable (hnone : acceptRefusal s r c.desc = none) (hunstaged : c.staged = false)
include hnone hunstaged

theorem execCommandStage_inject (hinject : descOp c.desc = 0xC0) (fail : Bool) :
    execCommandStage r c.slot fail s = .next (s.modCmd r c.slot fun e => { e with staged := true, dmaFail := fail }) := by
  simp only [execCommandStage, hnext, henabled, herror, hnone, hunstaged, hinject, ne_eq, not_true_eq_false, decide_false, Bool.not_true,
    Option.isSome_none, Bool.or_self, Bool.false_eq_true, if_false, if_true]

theorem execCommandStage_reads (hop : descOp c.desc ≠ 0xC0) (hbuffer : 0 < stageLen s c.desc) (hon : busOff s (ringFn s r) = false)
    (hroom : (stageTake (s.rf Reg.HIF_STAGE_CTRL 3 0) ((stageLen s c.desc + 255) / 256) s c.bufs
      ((stageLen s c.desc + 255) / 256 - (c.bufs.map (handleCells s)).sum)).2.2 = true) (fail : Bool) :
    execCommandStage r c.slot fail s =
      let n := stageLen s c.desc
      let t := stageTake (s.rf Reg.HIF_STAGE_CTRL 3 0) ((n + 255) / 256) s c.bufs ((n + 255) / 256 - (c.bufs.map (handleCells s)).sum)
      let bs := if fail then [] else hostRead s (descBuf c.desc) n
      .next ((chainLinks t.1 (chainCells t.1 t.2.1) bs true false).modCmd r c.slot fun e => { e with
        staged := true, bufs := t.2.1, dmaFail := fail, buf := bs }) := by
  have hlen : stageLen s c.desc ≠ 0 := Nat.ne_of_gt hbuffer
  simp only [execCommandStage, hnext, henabled, herror, hnone, hunstaged, hop, hlen, hon, hroom, ne_eq, not_true_eq_false, decide_false,
    Bool.not_true, Option.isSome_none, Bool.or_self, Bool.false_eq_true, if_false, if_true]

end Stage

omit henabled herror in
theorem execCommandAccept_not_taken (htarget : targetTakes s c.desc = false) : execCommandAccept r s = .next s := by
  simp only [execCommandAccept, hnext, htarget, Bool.not_false, Bool.or_true, if_true]

variable (hserves : hifServes s (ringType s r) = true) (hfree : fenced (s.ring r) c = false) (htarget : targetTakes s c.desc = true)
include hserves hfree htarget

theorem execCommandAccept_refused {st k : Nat} (hrefused : acceptRefusal s r c.desc = some (st, k)) :
    execCommandAccept r s = .next (refuseAccept s r c st k) := by
  simp only [execCommandAccept, hnext, henabled, herror, hserves, hfree, htarget, hrefused, Bool.not_true, Bool.or_self, Bool.false_eq_true,
    if_false]

variable (hnone : acceptRefusal s r c.desc = none) (hready : stageLen s c.desc = 0 ∨ c.staged = true)
  (hread : c.dmaFail = false ∨ descOp c.desc = 0xC0)
include hnone hready hread

omit hnext henabled herror hserves hfree htarget hnone hread in
theorem staging_over : (decide (stageLen s c.desc ≠ 0) && !c.staged) = false := by
  rcases hready with h | h <;> simp [h]

omit hnext henabled herror hserves hfree htarget hnone hready in
theorem staging_read : (c.dmaFail && decide (descOp c.desc ≠ 0xC0)) = false := by
  rcases hread with h | h <;> simp [h]

theorem execCommandAccept_badCell {j : Nat} (hbad : stagedBad s c = some j) :
    execCommandAccept r s = .next (refuseAccept (cellEvent (cellCount s j) j false) r c St.dmaError 0) := by
  simp only [execCommandAccept, hnext, henabled, herror, hserves, hfree, htarget, hnone, Bool.not_true, Bool.or_self, Bool.false_eq_true,
    if_false, staging_over hready, staging_read hread, hbad]

theorem execCommandAccept_accepts (hgood : stagedBad s c = none) :
    execCommandAccept r s = .next ({ s with order := s.order + 1 }.modCmd r c.slot fun e => { e.under s r with
      phase := .accepted, no := s.order }) := by
  simp only [execCommandAccept, hnext, henabled, herror, hserves, hfree, htarget, hnone, Bool.not_true, Bool.or_self, Bool.false_eq_true,
    if_false, staging_over hready, staging_read hread, hgood]

end Accept

theorem execCommandStage_next (r : Fin 1024) (n : Nat) (fail : Bool) (s : State) : ∃ t, execCommandStage r n fail s = .next t := by
  unfold execCommandStage
  dsimp only
  split
  · exact ⟨_, rfl⟩
  repeat' split
  all_goals exact ⟨_, rfl⟩

theorem execCommandAccept_next (r : Fin 1024) (s : State) : ∃ t, execCommandAccept r s = .next t := by
  unfold execCommandAccept
  dsimp only
  split
  · exact ⟨_, rfl⟩
  repeat' split
  all_goals exact ⟨_, rfl⟩

end Sys2Proof.Machine

open Sys2Proof Sys2Proof.Machine

/-- Settles O21: enabling by `ringMayEnable_iff`, disabling and the idle state by their guards. -/
theorem ringSwitching : Obligations.RingSwitching :=
  ⟨fun _ _ => ⟨onBar_next _ _, onBar_next _ _, ⟨_, rfl⟩⟩,
    fun _ _ hopen => (execRingEnable_open hopen).trans (congrArg _ (if_congr ringMayEnable_iff rfl rfl)),
    fun _ _ => execRingDisable_enabled, fun _ _ => execRingIdle_outstanding_none⟩

/-- Settles O22: a doorbell's UPDATE and ARM bits lie above its index, so that setting one leaves the index and the other. -/
theorem doorbells : Obligations.Doorbells :=
  ⟨fun _ _ _ _ => ⟨onBar2_next _ _, onBar2_next _ _⟩, fun _ _ _ _ hup =>
    ⟨fun h => ⟨execDoorbellUpdate_none hup h, execDoorbellArm_none hup h⟩, fun _ h =>
      ⟨execDoorbellUpdate_moves hup h, execDoorbellArm_arms hup h, execDoorbellUpdate_ignored hup h, execDoorbellArm_ignored hup h⟩⟩⟩

/-- Settles O23: a COMMAND ring in its turn, any other ring by its type and what is posted. -/
theorem fetching : Obligations.Fetching :=
  ⟨fun s r => execDescriptorFetch_next r s, fun _ _ _ => ⟨_, rfl⟩, fun _ _ hposted =>
    ⟨fun hon htype hturn => execDescriptorFetch_command hposted htype hturn hon, execDescriptorFetch_not_turn,
      fun _ => ringServed_passes, fun hon htype => execDescriptorFetch_inject hposted htype hon,
      fun hon htype => execDescriptorFetch_posted hposted htype hon, fun hon htype => execDescriptorFetch_badBuffer hposted htype hon,
      fun hoff htype hturn => execDescriptorFetch_command_off hposted htype hturn hoff,
      fun hoff htype => execDescriptorFetch_other_off hposted htype hoff, execFetchError_posted hposted⟩⟩

/-- Settles O24: staging and acceptance by the checks in their order. -/
theorem acceptance : Obligations.Acceptance :=
  ⟨fun s r => execCommandAccept_next r s, fun s r n fail => execCommandStage_next r n fail s, fun _ _ _ hnext henabled herror =>
    ⟨fun fail hnone hunstaged hop hbuffer hon hroom =>
        execCommandStage_reads hnext henabled herror hnone hunstaged hop hbuffer hon hroom fail,
      fun fail hnone hunstaged hinject => execCommandStage_inject hnext henabled herror hnone hunstaged hinject fail,
      execCommandAccept_not_taken hnext,
      fun _ _ hserves hfree htarget => execCommandAccept_refused hnext henabled herror hserves hfree htarget,
      fun hserves hfree htarget hnone hready hread =>
        ⟨fun _ => execCommandAccept_badCell hnext henabled herror hserves hfree htarget hnone hready hread,
          execCommandAccept_accepts hnext henabled herror hserves hfree htarget hnone hready hread⟩⟩⟩

end

/-! ## Resets of functions and the performance counters: O28, O29 -/

section

namespace Sys2Proof.Machine

open Sys2Proof

/-! ### Function-level resets (R442, R444, R533) -/

theorem ffind?_fkeep {α : Type} (m : FMap α) (p : Nat → Bool) (k : Nat) : ffind? (fkeep m p) k = if p k then ffind? m k else none := by
  induction m with
  | nil => simp [fkeep, ffind?]
  | cons e m ih =>
    obtain ⟨j, w⟩ := e
    unfold fkeep at ih ⊢
    by_cases hj : j = k
    · subst hj
      cases hp : p j
      · simp [hp, ih]
      · simp [hp, ffind?]
    · cases hp : p j
      · simp [hp, ih, ffind?, hj]
      · simp [hp, ih, ffind?, hj]

/-- A table kept in part reads as before where it is kept, and elsewhere as an unlisted key. -/
theorem fget_fkeep {α : Type} (m : FMap α) (d : α) (p : Nat → Bool) (k : Nat) : fget (fkeep m p) d k = if p k then fget m d k else d := by
  unfold fget
  rw [ffind?_fkeep]
  split <;> rfl

theorem fkeep_none {α : Type} (m : FMap α) : fkeep m (fun _ => false) = [] := List.filter_false m

theorem functionReset_other (s : State) {f : Nat} (h : f ≠ 0) :
    functionReset s f = msixClear (((List.range 1024).filter fun r => ringFn s r == f).foldl ringDisable s) f := by
  have hrings : fnRings s f = (List.range 1024).filter fun r => ringFn s r == f :=
    List.filter_congr fun _ _ => by rw [beq_false_of_ne h, Bool.false_or]
  rw [functionReset, hrings, forAll]

theorem functionReset_pf (s : State) : functionReset s 0 = msixClear ((List.range 1024).foldl ringDisable s) 0 := by
  have hrings : fnRings s 0 = List.range 1024 := List.filter_eq_self.mpr fun _ _ => rfl
  rw [functionReset, hrings, forAll]

section MsixClear

variable (s : State)

theorem msixClear_pf_pba : (msixClear s 0).hif.pba = [] := List.filter_false _
theorem msixClear_pf_vfMsix : (msixClear s 0).hif.vfMsix = [] := fkeep_none _
theorem msixClear_pf_vectors : (msixClear s 0).hif.vectors = [] := fkeep_none _

theorem msixClear_pf_reg (a : Nat) :
    (msixClear s 0).reg a = if a < 0xD80000 ∨ 0xD80400 ≤ a then s.reg a else regDefault a := by
  have hregs : (msixClear s 0).regs = fkeep s.regs fun a => a < 0xD80000 || 0xD80400 ≤ a := rfl
  simp only [State.reg, hregs, ffind?_fkeep, Bool.or_eq_true, decide_eq_true_eq]
  split <;> rfl

variable {f : Nat} (h : f ≠ 0)
include h

theorem mem_msixClear_pba (e : Nat) : e ∈ (msixClear s f).hif.pba ↔ e ∈ s.hif.pba ∧ e / 64 ≠ f := by
  simp [msixClear, h]

theorem msixClear_vfMsixWord_same {k : Nat} (hk : k < 2048) : vfMsixWord (msixClear s f) f k = vfMsixDefault k := by
  have hkey : (2048 * (f - 1) + k) / 2048 = f - 1 := by omega
  simp [vfMsixWord, msixClear, h, ffind?_fkeep, hkey]

theorem msixClear_vfMsixWord_other {k g : Nat} (hk : k < 2048) (hg : g ≠ 0) (hother : g ≠ f) :
    vfMsixWord (msixClear s f) g k = vfMsixWord s g k := by
  have hkey : (2048 * (g - 1) + k) / 2048 ≠ f - 1 := by omega
  simp [vfMsixWord, msixClear, h, ffind?_fkeep, hkey]

theorem msixClear_vector (v : Nat) : (msixClear s f).vector v = if f ∈ vectorOwners s v then {} else s.vector v := by
  have hvectors : (msixClear s f).hif.vectors = fkeep s.hif.vectors fun v => f != 0 && !(vectorOwners s v).contains f := by
    simp [msixClear, h]
  rw [State.vector, hvectors, fget_fkeep, bne_iff_ne.mpr h, Bool.true_and]
  by_cases hmem : f ∈ vectorOwners s v
  · rw [if_pos hmem, List.contains_iff_mem.mpr hmem]; rfl
  · rw [if_neg hmem, Bool.eq_false_iff.mpr (mt List.contains_iff_mem.mp hmem)]; rfl

theorem msixClear_regs : (msixClear s f).regs = s.regs := by simp [msixClear, h]

end MsixClear

theorem msixClear_rings (s : State) (f : Nat) : (msixClear s f).hif.rings = s.hif.rings := by
  unfold msixClear
  dsimp only
  split <;> rfl

theorem execBusMasterDisable_eq (f : Fin 65) (s : State) :
    execBusMasterDisable f s =
      .next (((List.range 1024).filter fun r => ringFn s r == f.val).foldl (fun u r => ringMute (ringError u r 4) r)
        (if f.val ∈ s.hif.busOff then s else { s with hif := { s.hif with busOff := f.val :: s.hif.busOff } })) := by
  simp only [execBusMasterDisable, busOff, List.contains_iff_mem, forAll]

theorem execPcieLinkTrained_trains {s : State} (hrun : s.pkg.inReset = false) (hpower : s.hlt.shutdown = false) (speed : Fin 4)
    (width : Fin 17) (flit : Bool) :
    execPcieLinkTrained speed width flit s =
      .next { s with hif := { s.hif with speed := speed, width := width, flit := flit, linkUp := true } } := by
  simp only [execPcieLinkTrained, hrun, hpower, Bool.or_self, Bool.false_eq_true, if_false]

theorem execPcieLinkTrained_next (speed : Fin 4) (width : Fin 17) (flit : Bool) (s : State) :
    ∃ t, execPcieLinkTrained speed width flit s = .next t := by
  unfold execPcieLinkTrained
  split <;> exact ⟨_, rfl⟩

/-! ### The performance counters (R466 to R468) -/

section PerfSel

variable {s : State} {v : W32} (hopen : barOpen s = true) (i : Fin 512)
include hopen

theorem execPerfSelWrite_bad (hbad : perfSelBad v = true) : execPerfSelWrite i v s = .next (badWrite s) :=
  (onBar_open hopen _).trans (congrArg _ (if_pos hbad))

theorem execPerfSelWrite_enabled (hgood : perfSelBad v = false) (hon : bit v 31 = true) :
    execPerfSelWrite i v s =
      let u := s.setReg (Reg.HIF_PERF_SEL i) (v &&& 0x9FFFFFFF)
      let x : Perf := { addr := 4 * fld v 21 0, bitNo := fld v 26 22, mode := fld v 28 27, last := s.ns }
      .next { u with hif := { u.hif with perfVal := ferase u.hif.perfVal i
                                         perf := fset u.hif.perf i { x with prev := x.mode != 0 && flagSet s x } } } := by
  refine (onBar_open hopen _).trans (congrArg _ ?_)
  simp only [perfSelWrite, hgood, hon, Bool.false_eq_true, if_false, if_true]

theorem execPerfSelWrite_disabled (hgood : perfSelBad v = false) (hoff : bit v 31 = false) :
    execPerfSelWrite i v s =
      let u := s.setReg (Reg.HIF_PERF_SEL i) (v &&& 0x9FFFFFFF)
      .next { u with hif := { u.hif with perf := ferase u.hif.perf i, perfVal := ferase u.hif.perfVal i } } := by
  refine (onBar_open hopen _).trans (congrArg _ ?_)
  simp only [perfSelWrite, hgood, hoff, Bool.false_eq_true, if_false]

end PerfSel

theorem execPerfOverflow_wraps {s : State} {i : Fin 512} {x : Perf} (hperf : ffind? s.hif.perf i = some x) (hwraps : 0 < x.wraps) :
    execPerfOverflow i s = .next (hifEvent { s with hif := { s.hif with perf := fset s.hif.perf i { x with wraps := x.wraps - 1 } } } 0xC1
      [(72, 64, i.val)]) := by
  simp only [execPerfOverflow, hperf, Nat.ne_of_gt hwraps, if_false]

theorem execPerfOverflow_next (i : Fin 512) (s : State) : ∃ t, execPerfOverflow i s = .next t := by
  unfold execPerfOverflow
  dsimp only
  repeat' split
  all_goals exact ⟨_, rfl⟩

theorem execPerfSnapshot_next (s : State) : ∃ t, execPerfSnapshot s = .next t := by
  unfold execPerfSnapshot
  split <;> exact ⟨_, rfl⟩

/-- The snapshot that falls due, before it is written or skipped: time has reached its period, and SEQ has advanced. -/
def snapDue (s : State) : State :=
  let t := s.hif.snapNs + 1000 * s.rf Reg.HIF_PERF_CTRL 31 16
  let u := s.reach t
  { u with freeCtr := u.freeCtr + 1, hif := { u.hif with snapSeq := (s.hif.snapSeq + 1) % 2 ^ 32, snapNs := t } }

theorem execPerfSnapshot_due {s : State} (hon : bit (s.reg Reg.HIF_PERF_CTRL) 0 = true) (hbus : busOff s 0 = false) :
    execPerfSnapshot s = .next (
      if (s.hif.snapSeq ≠ 0 ∧ s.hif.snapSeq = s.hif.snapDone) ∧
        Config.freeNat (s.reach (s.hif.snapNs + 1000 * s.rf Reg.HIF_PERF_CTRL 31 16)).freeCtr % 2 = 1
      then snapDue s else snapWrite (snapDue s) ((s.hif.snapSeq + 1) % 2 ^ 32)) := by
  simp only [execPerfSnapshot, hon, hbus, Bool.not_true, Bool.or_self, Bool.false_eq_true, if_false, Bool.and_eq_true, bne_iff_ne,
    beq_iff_eq]
  rfl

/-- The counters go to the buffer whose turn it is, and then the header. -/
theorem snapWrite_eq (v : State) (n : Nat) :
    snapWrite v n =
      let a := perfAddr v + if v.hif.snapHigh then 0 else 0x2000
      let w := hostWrite (hostWrite v (a + 64) ((List.range 512).flatMap fun i => bytesLE 8 (perfValue v i))) a
        (bytesLE 4 n ++ bytesLE 4 0 ++ bytesLE 6 v.tick ++ bytesLE 2 0 ++ bytesLE 6 v.tick ++ bytesLE 42 0)
      { w with hif := { w.hif with snapDone := n, snapHigh := !v.hif.snapHigh } } := by
  have hhigh : (if (!v.hif.snapHigh) = true then 0x2000 else 0) = if v.hif.snapHigh = true then 0 else 0x2000 := by
    cases v.hif.snapHigh <;> rfl
  unfold snapWrite
  dsimp only
  rw [hhigh]
  rfl

end Sys2Proof.Machine

open Sys2Proof Sys2Proof.Machine

/-- Settles O28: what `msixClear` drops of each table, and every reset put together from it. -/
theorem functionResets : Obligations.FunctionResets := by
  refine ⟨fun _ _ => ⟨⟨_, rfl⟩, ⟨_, rfl⟩⟩, fun _ => ⟨_, rfl⟩, fun s speed width flit => execPcieLinkTrained_next speed width flit s,
    fun _ _ => rfl, fun s _ h => functionReset_other s h, functionReset_pf, ?pf, ?vf, fun s f => execBusMasterDisable_eq f s,
    fun _ => rfl, fun _ speed width flit hrun hpower => execPcieLinkTrained_trains hrun hpower speed width flit⟩
  case pf =>
    intro s u
    exact ⟨msixClear_pf_pba s, msixClear_pf_vfMsix s, msixClear_pf_vectors s, msixClear_rings s 0,
      fun a hlow hhigh => (msixClear_pf_reg s a).trans (if_neg (by omega)), fun a ha => (msixClear_pf_reg s a).trans (if_pos ha)⟩
  case vf =>
    intro s f h u
    exact ⟨mem_msixClear_pba s h, fun k hk => ⟨msixClear_vfMsixWord_same s h hk, fun g => msixClear_vfMsixWord_other s h hk⟩,
      msixClear_vector s h, msixClear_regs s h, msixClear_rings s f⟩

/-- Settles O29: a selection by its encoding; a snapshot by whether the one before it may still be under way. -/
theorem performanceCounters : Obligations.PerformanceCounters := by
  refine ⟨fun _ _ _ => onBar_next _ _, execPerfSnapshot_next, fun s i => execPerfOverflow_next i s,
    fun s i v hopen => ⟨execPerfSelWrite_bad hopen i, execPerfSelWrite_enabled hopen i, execPerfSelWrite_disabled hopen i⟩,
    fun s i x => execPerfOverflow_wraps, ?snapshot⟩
  case snapshot =>
    intro s hon hbus t u n v a w done
    have hdue := execPerfSnapshot_due hon hbus
    have hv : snapDue s = v := rfl
    have hwrite : snapWrite (snapDue s) n = done := by
      rw [hv, snapWrite_eq]
    rw [hwrite] at hdue
    refine ⟨?either, fun hnot => ?written, fun hmay => ?mayskip⟩
    case either =>
      split at hdue
      · exact .inr hdue
      · exact .inl hdue
    case written => exact hdue.trans (congrArg _ (if_neg fun h => hnot.elim h.1.1 fun hne => hne h.1.2))
    case mayskip => exact hdue.trans (congrArg _ (if_congr (and_iff_right hmay) rfl rfl))

end

/-! ## Commands on key slots: O53 -/

section

namespace Sys2Proof.Machine

open Sys2Proof

section Handed

variable {s : State} {r : Fin 1024} {n : Nat} {c : CmdEnt}

/-! ### A command that reads a slot (R344, R345) -/

theorem onSlot_absent {k : Nat} (habsent : s.cip.cached.contains k = false) (f : State → State) : onSlot s k f = cipFetch s k := by
  simp only [onSlot, habsent, Bool.not_false, if_true]

theorem onSlot_there {k : Nat} (hcached : s.cip.cached.contains k = true) (hsound : ffind? s.cip.upset k ≠ some 2) (f : State → State) :
    onSlot s k f = f (cipMend s k) := by
  simp only [onSlot, hcached, Bool.not_true, Bool.false_eq_true, if_false, beq_iff_eq, hsound]

/-! ### KEY_WRITE (R346 to R348, R354) -/

/-- The checks that need no slot at hand refuse the command, or it is an allocation that they refuse. -/
abbrev WriteRefused (s : State) (c : CmdEnt) : Prop :=
  keyWriteStatus s c (c.buf.take 128) ∈ [St.badField, St.authFail, St.denied, St.busy] ∨
    (bit c.desc 96 = true ∧ keyWriteStatus s c (c.buf.take 128) ≠ St.ok)

/-- The slot that a KEY_WRITE writes: the one named, or the next free one. -/
def writeSlot (s : State) (c : CmdEnt) : Nat := if bit c.desc 96 then slotTop s else keyOf c.desc

theorem writeRefused_iff : ([St.badField, St.authFail, St.denied, St.busy].contains (keyWriteStatus s c (c.buf.take 128)) ||
    (bit c.desc 96 && keyWriteStatus s c (c.buf.take 128) != St.ok)) = true ↔ WriteRefused s c := by
  rw [Bool.or_eq_true, Bool.and_eq_true, List.contains_iff_mem, bne_iff_ne]

theorem execKeyWrite_refused (h : Handed s r n 0x80 c) (hearly : WriteRefused s c) :
    execKeyWrite r n s = .next (keyEnd s r n c (keyWriteStatus s c (c.buf.take 128)) (keyOf c.desc) (keyGen c.desc) 0) :=
  (onCmd_of_handed h _).trans (congrArg _ (if_pos (writeRefused_iff.mpr hearly)))

section Slot

variable (h : Handed s r n 0x80 c) (hlate : ¬ WriteRefused s c)
include h hlate

theorem execKeyWrite_fetches (habsent : s.cip.cached.contains (writeSlot s c) = false) :
    execKeyWrite r n s = .next (cipFetch s (writeSlot s c)) := by
  refine (onCmd_of_handed h _).trans (congrArg _ ((if_neg (mt writeRefused_iff.mp hlate)).trans ?_))
  exact onSlot_absent habsent _

variable (hcached : s.cip.cached.contains (writeSlot s c) = true) (hsound : ffind? s.cip.upset (writeSlot s c) ≠ some 2)
include hcached hsound

theorem execKeyWrite_installs {m : List Byte} (hok : keyWriteStatus (cipMend s (writeSlot s c)) c (c.buf.take 128) = St.ok)
    (hopened : blobOpen (cipMend s (writeSlot s c)) (fld c.desc 101 98) (c.buf.take 128) = some m) :
    execKeyWrite r n s = .next (keyInstall (cipMend s (writeSlot s c)) r n c (ofBytes 1024 (c.buf.take 128)) m) := by
  refine (onCmd_of_handed h _).trans (congrArg _ ((if_neg (mt writeRefused_iff.mp hlate)).trans ((onSlot_there hcached hsound _).trans ?_)))
  rw [hopened, hok]
  rfl

theorem execKeyWrite_late (hbad : keyWriteStatus (cipMend s (writeSlot s c)) c (c.buf.take 128) ≠ St.ok) :
    execKeyWrite r n s = .next (keyEnd (cipMend s (writeSlot s c)) r n c
      (keyWriteStatus (cipMend s (writeSlot s c)) c (c.buf.take 128)) (keyOf c.desc) (keyGen c.desc) 0) := by
  refine (onCmd_of_handed h _).trans (congrArg _ ((if_neg (mt writeRefused_iff.mp hlate)).trans ((onSlot_there hcached hsound _).trans ?_)))
  split
  case h_1 hok _ => exact absurd hok hbad
  case h_2 => rfl

end Slot

/-! ### KEY_ERASE and its end (R353) -/

theorem execKeyErase_starts (h : Handed s r n 0x81 c) (hok : keyRefuse s c .keys = St.ok) :
    execKeyErase r n s =
      let u := eraseStart (s.modCmd r n fun c => { c with phase := .running }) (keyOf c.desc)
      .next { u with cip := { u.cip with erasing := u.cip.erasing ++ [(keyOf c.desc, r.val, n)] } } :=
  (onCmd_of_handed h _).trans (congrArg _ (if_neg (not_not.mpr hok)))

theorem execKeyErase_refused (h : Handed s r n 0x81 c) (hbad : keyRefuse s c .keys ≠ St.ok) :
    execKeyErase r n s = .next (keyEnd s r n c (keyRefuse s c .keys) (keyOf c.desc) (keyGen c.desc) 0) :=
  (onCmd_of_handed h _).trans (congrArg _ (if_pos hbad))

theorem eraseDrained_iff {k : Nat} : eraseDrained s k = true ↔ ∀ e ∈ s.cip.cores, e.2.slot ≠ k := by
  simp [eraseDrained]

theorem execKeyEraseComplete_drained {k : BitVec 22} (herasing : (s.keySlot k.toNat).state = .erasing)
    (hnone : ∀ e ∈ s.cip.cores, e.2.slot ≠ k.toNat) : execKeyEraseComplete k s = .next (eraseEnd s k.toNat) := by
  simp only [execKeyEraseComplete, herasing, eraseDrained_iff.mpr hnone, beq_self_eq_true, Bool.and_self, if_true]

theorem execKeyEraseComplete_held {k : BitVec 22} (hsome : ∃ e ∈ s.cip.cores, e.2.slot = k.toNat) :
    execKeyEraseComplete k s = .next s := by
  have hheld : eraseDrained s k.toNat = false := Bool.eq_false_iff.mpr fun hdrained =>
    let ⟨e, he, hslot⟩ := hsome
    eraseDrained_iff.mp hdrained e he hslot
  simp only [execKeyEraseComplete, hheld, Bool.and_false, Bool.false_eq_true, if_false]

/-! ### KEY_STATE_READ (R347, R348) -/

theorem execKeyStateRead_busy (h : Handed s r n 0x82 c) (hbusy : keyRefuse s c .plain = St.busy) :
    execKeyStateRead r n s = .next (s.finish r n St.busy) := by
  refine (onCmd_of_handed h _).trans (congrArg _ ?_)
  rw [hbusy]
  rfl

section StateRead

variable (h : Handed s r n 0x82 c) (hallowed : keyRefuse s c .plain ≠ St.denied) (hready : keyRefuse s c .plain ≠ St.busy)
include h hallowed hready

theorem execKeyStateRead_onSlot :
    execKeyStateRead r n s = .next (onSlot s (keyOf c.desc) fun t =>
      if keyRefuse t c .plain ≠ St.ok then t.finish r n (keyRefuse t c .plain)
      else (t.output c (keyState t (keyOf c.desc))).finish r n St.ok) :=
  (onCmd_of_handed h _).trans (congrArg _ ((if_neg hallowed).trans (if_neg hready)))

theorem execKeyStateRead_fetches (habsent : s.cip.cached.contains (keyOf c.desc) = false) :
    execKeyStateRead r n s = .next (cipFetch s (keyOf c.desc)) :=
  (execKeyStateRead_onSlot h hallowed hready).trans (congrArg _ (onSlot_absent habsent _))

variable (hcached : s.cip.cached.contains (keyOf c.desc) = true) (hsound : ffind? s.cip.upset (keyOf c.desc) ≠ some 2)
include hcached hsound

theorem execKeyStateRead_reads (hok : keyRefuse (cipMend s (keyOf c.desc)) c .plain = St.ok) :
    execKeyStateRead r n s =
      let t := cipMend s (keyOf c.desc)
      .next ((t.output c (keyState t (keyOf c.desc))).finish r n St.ok) :=
  (execKeyStateRead_onSlot h hallowed hready).trans (congrArg _ ((onSlot_there hcached hsound _).trans (if_neg (not_not.mpr hok))))

theorem execKeyStateRead_refused (hbad : keyRefuse (cipMend s (keyOf c.desc)) c .plain ≠ St.ok) :
    execKeyStateRead r n s =
      let t := cipMend s (keyOf c.desc)
      .next (t.finish r n (keyRefuse t c .plain)) :=
  (execKeyStateRead_onSlot h hallowed hready).trans (congrArg _ ((onSlot_there hcached hsound _).trans (if_pos hbad)))

end StateRead

/-! ### KEY_PIN (R344, R347, R348) -/

section Pin

variable (h : Handed s r n 0x83 c) (hallowed : keyRefuse s c .keys ≠ St.denied) (hready : keyRefuse s c .keys ≠ St.busy)
include h hallowed hready

theorem execKeyPin_onSlot :
    execKeyPin r n s = .next (onSlot s (keyOf c.desc) fun t =>
      if keyRefuse t c .keys ≠ St.ok then keyEnd t r n c (keyRefuse t c .keys) (keyOf c.desc) (keyGen c.desc) 0
      else if bit c.desc 97 && !t.cip.pinned.contains (keyOf c.desc) && 1024 ≤ t.cip.pinned.length
        then keyEnd t r n c St.noSpace (keyOf c.desc) (keyGen c.desc) 0
      else keyEnd (cipPin t (keyOf c.desc) (bit c.desc 97)) r n c St.ok (keyOf c.desc) (keyGen c.desc) 0) := by
  refine (onCmd_of_handed h _).trans (congrArg _ (if_neg ?_))
  simp only [Bool.or_eq_true, decide_eq_true_eq, not_or]
  exact ⟨hallowed, hready⟩

theorem execKeyPin_fetches (habsent : s.cip.cached.contains (keyOf c.desc) = false) :
    execKeyPin r n s = .next (cipFetch s (keyOf c.desc)) :=
  (execKeyPin_onSlot h hallowed hready).trans (congrArg _ (onSlot_absent habsent _))

variable (hcached : s.cip.cached.contains (keyOf c.desc) = true) (hsound : ffind? s.cip.upset (keyOf c.desc) ≠ some 2)
  (hok : keyRefuse (cipMend s (keyOf c.desc)) c .keys = St.ok)
include hcached hsound hok

theorem execKeyPin_met :
    execKeyPin r n s =
      let t := cipMend s (keyOf c.desc)
      .next (if bit c.desc 97 && !t.cip.pinned.contains (keyOf c.desc) && 1024 ≤ t.cip.pinned.length
        then keyEnd t r n c St.noSpace (keyOf c.desc) (keyGen c.desc) 0
        else keyEnd (cipPin t (keyOf c.desc) (bit c.desc 97)) r n c St.ok (keyOf c.desc) (keyGen c.desc) 0) :=
  (execKeyPin_onSlot h hallowed hready).trans (congrArg _ ((onSlot_there hcached hsound _).trans (if_neg (not_not.mpr hok))))

theorem execKeyPin_full (hon : bit c.desc 97 = true)
    (hfull : (cipMend s (keyOf c.desc)).cip.pinned.contains (keyOf c.desc) = false ∧ 1024 ≤ (cipMend s (keyOf c.desc)).cip.pinned.length) :
    execKeyPin r n s = .next (keyEnd (cipMend s (keyOf c.desc)) r n c St.noSpace (keyOf c.desc) (keyGen c.desc) 0) := by
  refine (execKeyPin_met h hallowed hready hcached hsound hok).trans (congrArg _ (if_pos ?_))
  simp only [hon, hfull.1, Bool.not_false, Bool.and_self, decide_eq_true hfull.2]

theorem execKeyPin_pins (hon : bit c.desc 97 = true) (hroom : ¬ ((cipMend s (keyOf c.desc)).cip.pinned.contains (keyOf c.desc) = false ∧
      1024 ≤ (cipMend s (keyOf c.desc)).cip.pinned.length)) :
    execKeyPin r n s = .next (keyEnd (cipPin (cipMend s (keyOf c.desc)) (keyOf c.desc) true) r n c St.ok (keyOf c.desc) (keyGen c.desc) 0) := by
  refine (execKeyPin_met h hallowed hready hcached hsound hok).trans (congrArg _ ((if_neg ?_).trans (by rw [hon])))
  simpa only [hon, Bool.true_and, Bool.and_eq_true, Bool.not_eq_true', decide_eq_true_eq] using hroom

theorem execKeyPin_unpins (hoff : bit c.desc 97 = false) :
    execKeyPin r n s = .next (keyEnd (cipPin (cipMend s (keyOf c.desc)) (keyOf c.desc) false) r n c St.ok (keyOf c.desc) (keyGen c.desc) 0) := by
  refine (execKeyPin_met h hallowed hready hcached hsound hok).trans (congrArg _ ((if_neg ?_).trans (by rw [hoff])))
  simp only [hoff, Bool.false_and, Bool.false_eq_true, not_false_eq_true]

end Pin

end Handed

/-! ### LOCKET_READY (R342) -/

theorem execLocketReady_wipes {s : State} (hidle : s.cip.ready = false) (hbooted : s.hmk.boot ≠ 0) (hsound : s.hmk.boot ≠ 3)
    (htrained : ∀ h < 4, (s.stack h).trained = true) :
    execLocketReady s = .next { s with cip := { s.cip with
      ready := true, wipes := s.cip.wipes + 1, slots := s.cip.slots.map fun e => (e.1, { e.2 with writes := e.2.writes + 1 }) } } := by
  have hall : ((List.range 4).all fun h => (s.stack h).trained) = true := by
    simpa only [List.all_eq_true, List.mem_range] using htrained
  simp only [execLocketReady, hidle, beq_false_of_ne hbooted, beq_false_of_ne hsound, hall, Bool.not_true, Bool.or_self, Bool.false_eq_true,
    if_false]

end Sys2Proof.Machine

open Sys2Proof Sys2Proof.Machine

/-- Settles O53: each command by the status that its slot answers, once the slot stands in the key cache. -/
theorem keyCommands : Obligations.KeyCommands := by
  refine ⟨fun _ _ _ => ⟨onCmd_next _ _ _ _ _, onCmd_next _ _ _ _ _, onCmd_next _ _ _ _ _, onCmd_next _ _ _ _ _⟩, fun _ _ => ⟨_, rfl⟩,
    fun _ => ⟨_, rfl⟩, fun s r n c => ?commands,
    fun _ _ herasing => ⟨execKeyEraseComplete_drained herasing, execKeyEraseComplete_held⟩, fun _ => execLocketReady_wipes⟩
  exact ⟨execKeyWrite_refused, execKeyWrite_fetches,
    fun h hlate hcached hsound => ⟨fun _ => execKeyWrite_installs h hlate hcached hsound, execKeyWrite_late h hlate hcached hsound⟩,
    execKeyErase_starts, execKeyErase_refused,
    fun h hallowed hready => ⟨execKeyStateRead_fetches h hallowed hready,
      fun hthere => execKeyStateRead_reads h hallowed hready hthere.1 hthere.2,
      fun hthere => execKeyStateRead_refused h hallowed hready hthere.1 hthere.2⟩,
    execKeyStateRead_busy,
    fun h hallowed hready => ⟨execKeyPin_fetches h hallowed hready, fun hthere hok =>
      ⟨execKeyPin_pins h hallowed hready hthere.1 hthere.2 hok, execKeyPin_full h hallowed hready hthere.1 hthere.2 hok,
        execKeyPin_unpins h hallowed hready hthere.1 hthere.2 hok⟩⟩⟩

end

/-! ## HBM and the time-slot arbiter: O55 -/

section

namespace Sys2Proof.Machine

open Sys2Proof

/-! ### MEM_SLOT_TABLE_WRITE (R369, R379) -/

/-- The owners of a slot table: every one exists, and BACKGROUND is among them. -/
def OwnersGood (es : List Nat) : Prop := (∀ o ∈ es, o < 12 ∨ (28 ≤ o ∧ o ≤ 30)) ∧ 30 ∈ es

theorem owners_bad_iff (es : List Nat) :
    (es.any (fun o => 32 ≤ o || (12 ≤ o && o ≤ 27) || o = 31) || !es.contains 30) = true ↔ ¬ OwnersGood es := by
  have hone (o : Nat) : (32 ≤ o ∨ (12 ≤ o ∧ o ≤ 27)) ∨ o = 31 ↔ ¬ (o < 12 ∨ (28 ≤ o ∧ o ≤ 30)) := by omega
  simp only [OwnersGood, Bool.or_eq_true, List.any_eq_true, Bool.and_eq_true, decide_eq_true_eq, hone, Bool.not_eq_true',
    ← Bool.not_eq_true, List.contains_iff_mem, not_and_or, not_forall, exists_prop]

section SlotTable

variable {s : State} {r : Fin 1024} {n : Nat} {c : CmdEnt} (h : Handed s r n 0x90 c)
include h

theorem execMemSlotTableWrite_no_stack (hnone : maskList 4 (fld c.desc 67 64) = []) :
    execMemSlotTableWrite r n s = .next (s.badField r n 8) :=
  (onCmd_of_handed h _).trans (congrArg _ (if_pos (List.isEmpty_iff.mpr hnone)))

variable (hsome : maskList 4 (fld c.desc 67 64) ≠ [])
include hsome

theorem execMemSlotTableWrite_bad (hbad : ¬ OwnersGood ((c.buf.take 256).map (·.toNat))) :
    execMemSlotTableWrite r n s = .next (s.badField r n) :=
  (onCmd_of_handed h _).trans (congrArg _
    ((if_neg (mt List.isEmpty_iff.mp hsome)).trans (if_pos ((owners_bad_iff _).mpr hbad))))

variable (hgood : OwnersGood ((c.buf.take 256).map (·.toNat)))
include hgood

theorem execMemSlotTableWrite_waits (hbusy : tablesBusy s (maskList 4 (fld c.desc 67 64)) = true) :
    execMemSlotTableWrite r n s = .next s :=
  (onCmd_of_handed h _).trans (congrArg _
    ((if_neg (mt List.isEmpty_iff.mp hsome)).trans ((if_neg (mt (owners_bad_iff _).mp (not_not.mpr hgood))).trans (if_pos hbusy))))

theorem execMemSlotTableWrite_writes (hfree : tablesBusy s (maskList 4 (fld c.desc 67 64)) = false) :
    execMemSlotTableWrite r n s =
      .next (forAll (s.modCmd r n fun c => { c with phase := .running }) (maskList 4 (fld c.desc 67 64)) fun u h => u.setStack h { u.stack h with
        table := ((c.buf.take 256).map (·.toNat)).zipIdx.foldl
          (fun (m : FMap Nat) e => fput m (slotReset e.2) (256 * (!(u.stack h).bank).toNat + e.2) e.1) (u.stack h).table
        command := some (r.val, n) }) :=
  (onCmd_of_handed h _).trans (congrArg _
    ((if_neg (mt List.isEmpty_iff.mp hsome)).trans ((if_neg (mt (owners_bad_iff _).mp (not_not.mpr hgood))).trans
      (if_neg (Bool.eq_false_iff.mp hfree)))))

end SlotTable

/-- A SLOT_TABLE_SWITCH has exchanged its stack's banks, and the command goes on for another stack. -/
theorem any_command_iff (v : State) (k : Nat × Nat) :
    ((List.range 4).any fun h => (v.stack h).command == some k) = true ↔ ∃ h < 4, (v.stack h).command = some k := by
  simp only [List.any_eq_true, List.mem_range, beq_iff_eq]

section Switch

variable {s : State} {h : Fin 4} {r i : Nat} (hcmd : (s.stack h).command = some (r, i))
include hcmd

theorem execSlotTableSwitch_eq :
    execSlotTableSwitch h s =
      let u := s.reach (20480 * ((s.ns + 20479) / 20480))
      let v := u.setStack h { u.stack h with bank := !(s.stack h).bank, command := none }
      .next (if ((List.range 4).any fun h => (v.stack h).command == some (r, i)) = true then v else v.finish r i St.ok) := by
  simp only [execSlotTableSwitch, hcmd]

end Switch

/-! ### MEM_REQ_CFG_WRITE (R10, R368, R382) -/

section ReqCfg

variable {s : State} {h : Fin 4} {r : Fin 32} {v : W64} (hopen : barOpen s = true)
include hopen

theorem execMemReqCfgWrite_mapped (hmapped : r.val < 12) :
    execMemReqCfgWrite h r v s = .next (reqCfgWrite s h r (BitVec.ofNat 32 v.toNat)) :=
  (onBar_open hopen _).trans (congrArg _ (if_pos hmapped))

theorem execMemReqCfgWrite_unmapped (hunmapped : 12 ≤ r.val) : execMemReqCfgWrite h r v s = .next (badWrite s) :=
  (onBar_open hopen _).trans (congrArg _ (if_neg (Nat.not_lt.mpr hunmapped)))

end ReqCfg

theorem reqCfgWrite_good {s : State} {h r : Nat} {w : W32} (hlo : 4 ≤ fld w 12 4) (hhi : fld w 12 4 ≤ 256) (htarget : fld w 31 16 ≠ 0) :
    reqCfgWrite s h r w =
      (s.setStack h { s.stack h with
        oldCfg := (List.range 32).foldl (fun m c => fset m (32 * c + r) (s.reg (Reg.MEM_REQ_CFG h r))) (s.stack h).oldCfg
        oldAt := s.ns }).setReg (Reg.MEM_REQ_CFG h r) (w &&& 0xFFFF1FF7) := by
  refine if_neg ?_
  simp [hlo, hhi, htarget]

theorem reqCfgWrite_bad {s : State} {h r : Nat} {w : W32} (hbad : fld w 12 4 < 4 ∨ 256 < fld w 12 4 ∨ fld w 31 16 = 0) :
    reqCfgWrite s h r w = badWrite s := by
  refine if_pos ?_
  simp only [Bool.or_eq_true, Bool.not_eq_true', Bool.and_eq_false_iff, decide_eq_false_iff_not, decide_eq_true_eq]
  omega

/-! ### The arbiter, refresh and power-down (R366, R367, R373 to R376) -/

section Channel

variable {s : State} {h : Fin 4} {c : Fin 32}

theorem execArbiterSlot_runs (hon : stackOn s h = true) :
    execArbiterSlot h c s =
      let t := s.reach (80 * (s.chan h c).nextSlot)
      let u := t.setChan h c { t.chan h c with nextSlot := t.ns / 80 + 1, issued := [] }
      .next (issueRun (slotRun
        (if retrainDefers u h c then u.bump (Reg.MEM_RETRAIN_DEFER_COUNT h) else u) h c
        (retrainSlot u h && !retrainDefers u h c) 200 0) h c 64 0) := by
  simp only [execArbiterSlot, hon, Bool.not_true, Bool.false_eq_true, if_false]

theorem execArbiterSlot_idle (hoff : stackOn s h = false) : execArbiterSlot h c s = .next s := by
  simp only [execArbiterSlot, hoff, Bool.not_false, if_true]

theorem execBurstLimitExpire_ends (hholds : (s.chan h c).holder ≠ none) (hused : (s.chan h c).limit ≤ (s.chan h c).held) :
    execBurstLimitExpire h c s = .next (s.setChan h c { s.chan h c with holder := none, held := 0 }) := by
  simp only [execBurstLimitExpire, Option.isSome_iff_ne_none.mpr hholds, hused, decide_true, Bool.and_self, if_true]

theorem execBurstLimitExpire_left (hleft : (s.chan h c).held < (s.chan h c).limit) : execBurstLimitExpire h c s = .next s := by
  simp only [execBurstLimitExpire, Nat.not_le.mpr hleft, decide_false, Bool.and_false, Bool.false_eq_true, if_false]

theorem execRefreshDue_nothing {b : Nat} (hno : 32 ≤ b ∨ stackLive s h = false) : execRefreshDue h c b s = .next s := by
  refine if_pos ?_
  rw [Bool.or_eq_true, decide_eq_true_eq, Bool.not_eq_true']
  exact hno

section Refresh

variable {b : Nat} (hbank : b < 32) (hlive : stackLive s h = true)
include hbank hlive

/-- A refresh that falls due on a bank of a stack that runs. -/
theorem execRefreshDue_live :
    execRefreshDue h c b s =
      let x := s.chan h c
      let k := x.bank b
      let p := if k.due = 0 then k.postponed else k.postponed + 1
      let s0 := (s.setChan h c (x.setBank b { k with due := k.due + 1, postponed := p, waits := k.waits + 1 })).peak (Reg.MEM_POSTPONE_PEAK h) p
      let s1 := if k.waits = 0 then s0 else neighbourNow s0 h c b
      if x.holder == some 11 then .next (s.setChan h c (x.setBank b { k with due := k.due + 1, stepped := true }))
      else if realTime x b then .next (if 4 ≤ p then refreshNow (s1.bump (Reg.MEM_SPLIT_COUNT h)) h c b else s1)
      else .next (refreshNow s h c b) := by
  refine if_neg ?_
  simp [hlive, hbank]

theorem execRefreshDue_in_step (hstep : (s.chan h c).holder = some 11) :
    execRefreshDue h c b s =
      .next (s.setChan h c ((s.chan h c).setBank b
        { (s.chan h c).bank b with due := ((s.chan h c).bank b).due + 1, stepped := true })) :=
  (execRefreshDue_live hbank hlive).trans (if_pos (beq_iff_eq.mpr hstep))

variable (hno : (s.chan h c).holder ≠ some 11)
include hno

theorem execRefreshDue_issues (hfree : realTime (s.chan h c) b = false) : execRefreshDue h c b s = .next (refreshNow s h c b) :=
  (execRefreshDue_live hbank hlive).trans ((if_neg (mt beq_iff_eq.mp hno)).trans (if_neg (Bool.eq_false_iff.mp hfree)))

theorem execRefreshDue_postponed (hreal : realTime (s.chan h c) b = true) :
    execRefreshDue h c b s =
      let x := s.chan h c
      let k := x.bank b
      let n := if k.due = 0 then k.postponed else k.postponed + 1
      let u := (s.setChan h c (x.setBank b { k with due := k.due + 1, postponed := n, waits := k.waits + 1 })).peak (Reg.MEM_POSTPONE_PEAK h) n
      let v := if k.waits = 0 then u else neighbourNow u h c b
      .next (if 4 ≤ n then refreshNow (v.bump (Reg.MEM_SPLIT_COUNT h)) h c b else v) :=
  (execRefreshDue_live hbank hlive).trans ((if_neg (mt beq_iff_eq.mp hno)).trans (if_pos hreal))

end Refresh

theorem execRankPowerDown_downs {d : Fin 2} (hon : bit (s.reg (Reg.MEM_PD_CTRL h)) 0 = true)
    (hqueue : ∀ t ∈ (s.chan h c).queue, ∀ b ∈ t.banks, b / 16 ≠ d.val)
    (hbanks : ∀ e ∈ (s.chan h c).banks, e.1 / 16 = d.val → e.2.due = 0) (hup : d.val ∉ (s.chan h c).down) :
    execRankPowerDown h c d s =
      let u := s.reach (fget (s.chan h c).lastUse 0 d.val + (5 * s.rf (Reg.MEM_PD_CTRL h) 19 4 + 3) / 4)
      .next (u.setChan h c { s.chan h c with down := d.val :: (s.chan h c).down }) := by
  refine congrArg _ (if_pos ?_)
  have hidle : ((s.chan h c).queue.any fun t => t.banks.any (· / 16 == d.val)) = false := by simpa using hqueue
  have hrest : ((s.chan h c).banks.any fun e => e.1 / 16 == d.val && e.2.due != 0) = false := by simpa using hbanks
  simp [hon, hidle, hrest, hup]

/-! ### Retraining (R378, R407 to R409) -/

theorem execRetrainDue_starts (hon : stackOn s h = true) (hnone : (s.chan h c).retrain = none) :
    execRetrainDue h c s =
      .next (retrainStart (s.reach ((s.chan h c).retrainAt + 1000000 * s.rf (Reg.MEM_RETRAIN_CTRL h) 7 0)) h c) := by
  simp only [execRetrainDue, hnone, hon, Option.isNone_none, Bool.and_self, if_true]

theorem retrainStart_of_on {u : State} {h c : Nat} (hnone : (u.chan h c).retrain = none) (hon : stackOn u h = true) :
    retrainStart u h c =
      u.setChan h c { u.chan h c with retrain := some 0, retrainAt := u.ns, failed := false, found := [] } := by
  simp only [retrainStart, hnone, hon, Option.isNone_none, Bool.and_self, if_true]

theorem execRetrainStep_runs {k : Nat} {found : Option W32} (hstep : (s.chan h c).retrain = some k) (hk : k < 8)
    (hholds : (s.chan h c).holder = some 11) (hgood : (s.chan h c).failed = false) :
    execRetrainStep h c found s =
      .next (((List.range 32).filter fun b => ((s.chan h c).bank b).stepped).foldl (fun u b => refreshNow u h c b)
        (s.setChan h c { s.chan h c with
          holder := none, retrain := some (if found.isSome then k + 1 else 8), failed := found.isNone
          found := (s.chan h c).found ++ found.toList })) := by
  simp only [execRetrainStep, hstep, hholds, hk, hgood, beq_self_eq_true, decide_true, Bool.not_false, Bool.and_self, if_true]

theorem execRetrainDone_good (hend : (s.chan h c).retrain = some 8) (hgood : (s.chan h c).failed = false) :
    execRetrainDone h c s =
      .next (s.setChan h c { s.chan h c with retrain := none, fails := 0, timing := (s.chan h c).found, found := [] }) := by
  simp only [execRetrainDone, hend, hgood, bne_self_eq_false, Bool.false_eq_true, if_false]

theorem execRetrainDone_failed (hend : (s.chan h c).retrain = some 8) (hfail : (s.chan h c).failed = true) :
    execRetrainDone h c s =
      let u := intRaise ((s.setChan h c
        { s.chan h c with retrain := some 0, failed := false, fails := (s.chan h c).fails + 1, found := [] }).bump
        (Reg.MEM_RETRAIN_FAIL_COUNT h)) 11 (4 * h + 2)
      .next (if 3 ≤ (s.chan h c).fails + 1 then stackLost u h 0 else u) := by
  simp only [execRetrainDone, hend, hfail, bne_self_eq_false, Bool.false_eq_true, if_false, if_true]

end Channel

/-! ### Errors, loss and training (R377, R378, R543) -/

section Errors

variable {s : State} {h : Fin 4} {e : MemError}

theorem execMemUncorrectable_no_stack (hnone : hbmMap e.addr = none) : execMemUncorrectable h e s = .fault .hbmUnpopulated := by
  simp only [execMemUncorrectable, hnone]

variable {l : HbmLoc} (hat : hbmMap e.addr = some l)
include hat

theorem execMemUncorrectable_other (hno : l.stack ≠ h.val ∨ stackOn s h = false) : execMemUncorrectable h e s = .next s := by
  simp only [execMemUncorrectable, hat]
  refine if_pos ?_
  rw [Bool.or_eq_true, decide_eq_true_eq, Bool.not_eq_true']
  exact hno

theorem execMemUncorrectable_on (hstack : l.stack = h.val) (hon : stackOn s h = true) :
    execMemUncorrectable h e s =
      .next (if e.parity then errorCount s h else
        errorCount (memEvent ((readFails s e.addr).bump (Reg.MEM_UE_COUNT h)) h 0x90 0 (memFields l e.addr (readReq s l e.addr) 0)) h) := by
  simp only [execMemUncorrectable, hat, hstack, hon, ne_eq, not_true_eq_false, decide_false, Bool.not_true, Bool.or_self,
    Bool.false_eq_true, if_false]
  split <;> rfl

end Errors

theorem stackLost_of_lost {s : State} {h k : Nat} (hlost : (s.stack h).lost = true) : stackLost s h k = s := if_pos hlost

theorem stackLost_of_there {s : State} {h k : Nat} (hthere : (s.stack h).lost = false) :
    stackLost s h k =
      let cs := (s.stack h).channels.map fun (e : Nat × Channel) => (e.1, { e.2 with waiting := [], queue := [], holder := none })
      let u := s.setStack h { s.stack h with lost := true, cause := k, channels := cs }
      let v := ((s.stack h).channels.flatMap fun (e : Nat × Channel) => e.2.queue ++ e.2.waiting).foldl (fun s t => txnFailed s h t) u
      soloEnter (memEvent v h 0x91 1 [(65, 64, h), (166, 165, k)]) 0 :=
  if_neg (Bool.eq_false_iff.mp hthere)

theorem execStackCatastrophicTemp_loses {s : State} {h : Fin 4} (hout : s.pkg.inReset = false) (hup : s.hlt.shutdown = false) :
    execStackCatastrophicTemp h s = .next (stackLost s h 1) := by
  simp only [execStackCatastrophicTemp, hout, hup, Bool.or_self, Bool.false_eq_true, if_false]

theorem execHbmTrained_trains {s : State} {h : Fin 4} (hout : s.pkg.inReset = false) (hthere : (s.stack h).lost = false)
    (hon : s.domain (domMem h) = .on) :
    execHbmTrained h s = .next (s.setStack h { s.stack h with trained := true }) := by
  simp only [execHbmTrained, hout, hthere, hon, bne_self_eq_false, Bool.or_self, Bool.false_eq_true, if_false]

/-! ### No fault and no refusal -/

theorem execSlotTableSwitch_next (h : Fin 4) (s : State) : ∃ t, execSlotTableSwitch h s = .next t := by
  unfold execSlotTableSwitch
  dsimp only
  repeat' split
  all_goals exact ⟨_, rfl⟩

theorem execArbiterSlot_next (h : Fin 4) (c : Fin 32) (s : State) : ∃ t, execArbiterSlot h c s = .next t := by
  cases hon : stackOn s h with
  | true => exact ⟨_, execArbiterSlot_runs hon⟩
  | false => exact ⟨_, execArbiterSlot_idle hon⟩

theorem execRefreshDue_next (h : Fin 4) (c : Fin 32) (b : Nat) (s : State) : ∃ t, execRefreshDue h c b s = .next t := by
  unfold execRefreshDue
  dsimp only
  repeat' split
  all_goals exact ⟨_, rfl⟩

theorem execRetrainStep_next (h : Fin 4) (c : Fin 32) (found : Option W32) (s : State) : ∃ t, execRetrainStep h c found s = .next t := by
  unfold execRetrainStep
  dsimp only
  repeat' split
  all_goals exact ⟨_, rfl⟩

theorem execRetrainDone_next (h : Fin 4) (c : Fin 32) (s : State) : ∃ t, execRetrainDone h c s = .next t := by
  unfold execRetrainDone
  dsimp only
  repeat' split
  all_goals exact ⟨_, rfl⟩

end Sys2Proof.Machine

open Sys2Proof Sys2Proof.Machine

/-- Settles O55: the slot tables, the arbiter, refresh, retraining and the errors of a stack, case by case. -/
theorem arbiterAndHbm : Obligations.ArbiterAndHbm := by
  unfold Obligations.ArbiterAndHbm
  refine ⟨fun s r n => onCmd_next s r n _ _, fun s h r v => ⟨_, rfl⟩,
    fun s h => ⟨⟨_, rfl⟩, execSlotTableSwitch_next h s, ⟨_, rfl⟩⟩,
    fun s h c => ⟨execArbiterSlot_next h c s, ⟨_, rfl⟩, ⟨_, rfl⟩, execRetrainDone_next h c s⟩,
    fun s h c b => execRefreshDue_next h c b s, fun s h c d => ⟨_, rfl⟩, fun s h c w => execRetrainStep_next h c w s,
    fun s r n c => ⟨?_, ?_, ?_, ?_⟩, fun s h r i hcmd => ⟨?_, ?_⟩, fun s h r v hopen => ⟨?_, ?_, ?_⟩,
    fun s h c => ⟨?_, ?_, ?_, ?_, ?_, ?_, ?_, ?_, ?_, ?_, ?_, ?_, ?_, ?_⟩, fun s h e => ⟨?_, ?_, ?_⟩,
    fun s h hout => ⟨?_, ?_, ?_, ?_⟩⟩
  · exact fun hnone hd => execMemSlotTableWrite_no_stack hd hnone
  · exact fun hsome hbad hd => execMemSlotTableWrite_bad hd hsome hbad
  · exact fun hsome hgood hbusy hd => execMemSlotTableWrite_waits hd hsome hgood hbusy
  · exact fun hsome hgood hfree hd => execMemSlotTableWrite_writes hd hsome hgood hfree
  · exact fun hlast => (execSlotTableSwitch_eq hcmd).trans (congrArg _ (if_neg (mt (any_command_iff _ _).mp
      fun ⟨k, hk, hwait⟩ => hlast k hk hwait)))
  · exact fun hwait => (execSlotTableSwitch_eq hcmd).trans (congrArg _ (if_pos ((any_command_iff _ _).mpr hwait)))
  · exact fun hr hlo hhi ht => (execMemReqCfgWrite_mapped hopen hr).trans (congrArg _ (reqCfgWrite_good hlo hhi ht))
  · exact fun hr hbad => (execMemReqCfgWrite_mapped hopen hr).trans (congrArg _ (reqCfgWrite_bad hbad))
  · exact fun hr => execMemReqCfgWrite_unmapped hopen hr
  · exact execArbiterSlot_runs
  · exact execArbiterSlot_idle
  · exact execBurstLimitExpire_ends
  · exact execBurstLimitExpire_left
  · exact fun b hb hlive hstep => execRefreshDue_in_step hb hlive hstep
  · exact fun b hb hlive hno hfree => execRefreshDue_issues hb hlive hno hfree
  · exact fun b hb hlive hno hreal =>
      ⟨fun hfew => (execRefreshDue_postponed hb hlive hno hreal).trans (congrArg _ (if_neg (Nat.not_le.mpr hfew))),
       fun hfourth => (execRefreshDue_postponed hb hlive hno hreal).trans (congrArg _ (if_pos hfourth))⟩
  · exact fun b hno => execRefreshDue_nothing hno
  · exact fun d hon hqueue hbanks hup => execRankPowerDown_downs hon hqueue hbanks hup
  · exact fun hon hnone => ⟨execRetrainDue_starts hon hnone, retrainStart_of_on⟩
  · exact fun k w hstep hk hholds hgood => execRetrainStep_runs hstep hk hholds hgood
  · intro k hstep hk hholds hgood
    refine (execRetrainStep_runs hstep hk hholds hgood).trans ?_
    rw [Option.toList_none, List.append_nil]
    rfl
  · exact execRetrainDone_good
  · exact execRetrainDone_failed
  · exact execMemUncorrectable_no_stack
  · exact fun l hat hno => execMemUncorrectable_other hat hno
  · exact fun l hat hstack hon =>
      ⟨fun hparity => (execMemUncorrectable_on hat hstack hon).trans (congrArg _ (if_pos hparity)),
       fun hread => (execMemUncorrectable_on hat hstack hon).trans (congrArg _ (if_neg (Bool.eq_false_iff.mp hread)))⟩
  · exact fun hup => execStackCatastrophicTemp_loses hout hup
  · exact stackLost_of_lost
  · exact stackLost_of_there
  · exact fun hthere hon => execHbmTrained_trains hout hthere hon

end

/-! ## The states of a port: O56 -/

section

namespace Sys2Proof.Machine

open Sys2Proof

theorem setLane_port (s : State) (l : Nat) (x : LaneSt) (n : Nat) : (s.setLane l x).port n = s.port n := rfl

theorem bump_port (s : State) (a n : Nat) : (s.bump a).port n = s.port n := rfl

/-- A port whose state is not DISABLED reads back what has been stored of it. -/
theorem setPort_port_on (s : State) (n : Nat) {x : PortSt} (h : x.state ≠ 0) : (s.setPort n x).port n = x :=
  setPort_port_ne s n fun heq => h (by rw [heq])

section Port

variable {s : State} {p : Fin 128} (hex : portExists s p = true)
include hex

/-! ### Negotiation and training (R386, R387) -/

section Negotiation

variable {ts : List Tech} (hstate : (s.port p).state = 1) (hrun : (s.port p).waiting = false)
include hstate hrun

theorem execAnComplete_eq :
    execAnComplete ⟨p, ts⟩ s =
      let v := modLanes s p fun l => { l with signal := true }
      .next (if !ts.contains (anTech s p (s.port p).cfg) then attemptFails v p
        else if bit (s.port p).cfg 1 then v.setPort p { s.port p with state := 2 } else portAlign v p) := by
  simp only [execAnComplete, hex, hstate, hrun, decide_true, Bool.not_false, Bool.and_self, Bool.not_true, Bool.false_eq_true, if_false]

theorem execAnComplete_meets (hmeets : anTech s p (s.port p).cfg ∈ ts) :
    execAnComplete ⟨p, ts⟩ s =
      let v := modLanes s p fun l => { l with signal := true }
      .next (if bit (s.port p).cfg 1 then v.setPort p { s.port p with state := 2 } else portAlign v p) := by
  refine (execAnComplete_eq hex hstate hrun).trans (congrArg _ (if_neg ?_))
  simp [hmeets]

theorem execAnComplete_fails (hother : anTech s p (s.port p).cfg ∉ ts) :
    execAnComplete ⟨p, ts⟩ s = .next (attemptFails (modLanes s p fun l => { l with signal := true }) p) := by
  refine (execAnComplete_eq hex hstate hrun).trans (congrArg _ (if_pos ?_))
  simp [hother]

end Negotiation

theorem execAnFail_fails (hstate : (s.port p).state = 1 ∨ (s.port p).state = 2) (hrun : (s.port p).waiting = false) :
    execAnFail p s = .next (attemptFails s p) := by
  refine congrArg _ (if_pos ?_)
  simp [hex, hstate, hrun]

theorem execAnBackoffExpire_starts (hwait : (s.port p).waiting = true) :
    execAnBackoffExpire p s =
      .next (portStart ((s.reach ((s.port p).since + 1000000 * (s.port p).backoff)).setPort p
        { s.port p with backoff := min 1280 (2 * (s.port p).backoff) }) p) := by
  simp only [execAnBackoffExpire, hex, hwait, Bool.and_self, Bool.not_true, Bool.false_eq_true, if_false]

theorem execTrainingComplete_aligns (hstate : (s.port p).state = 2) (hrun : (s.port p).waiting = false) :
    execTrainingComplete p s =
      .next (portAlign (modLanes s p fun l => { l with signal := true, cdr := true, trained := true }) p) := by
  simp only [execTrainingComplete, hex, hstate, hrun, decide_true, Bool.not_false, Bool.and_self, Bool.not_true, Bool.false_eq_true,
    if_false]

/-! ### ALIGN, HOLD and UP (R386, R388, R389, R405) -/

theorem execPortAligned_holds (hstate : (s.port p).state = 3) (hlocal : (s.port p).localFault = false)
    (hremote : (s.port p).remoteFault = false) (href : refOk s (octOf p) = true) :
    execPortAligned p s =
      .next (modLanes (s.setPort p { s.port p with state := 4, since := s.ns }) p fun l =>
        { l with signal := true, cdr := true, lock := true }) := by
  simp only [execPortAligned, hex, hstate, hlocal, hremote, href, decide_true, Bool.not_false, Bool.and_self, Bool.not_true,
    Bool.false_eq_true, if_false]

theorem execLinkUp_up (hstate : (s.port p).state = 4) (hvalid : ∀ l ∈ portLanes s p, (s.lane l).valid = true) :
    execLinkUp p s =
      .next (linkEvent ((s.reach ((s.port p).since + 1000000 * fld (s.port p).cfg 13 4)).setPort p
        { s.port p with state := 5, backoff := 10 }) p 0x98 0) := by
  have hall : ((portLanes s p).all fun l => (s.lane l).valid) = true := List.all_eq_true.mpr hvalid
  simp only [execLinkUp, hex, hstate, hall, decide_true, Bool.and_self, Bool.not_true, Bool.false_eq_true, if_false]

variable (hup : 3 ≤ (s.port p).state)
include hup

theorem execLinkFault_local : execLinkFault p .localFault s = .next (faultBack (localFaultSet s p true) p 3) := by
  simp only [execLinkFault, hex, hup, decide_true, Bool.and_self, Bool.not_true, Bool.false_eq_true, if_false]

theorem execLinkFault_remote :
    execLinkFault p .remoteFault s = .next (faultBack (s.setPort p { s.port p with remoteFault := true }) p 4) := by
  simp only [execLinkFault, hex, hup, decide_true, Bool.and_self, Bool.not_true, Bool.false_eq_true, if_false]

theorem execLinkFault_localEnd : execLinkFault p .localEnd s = .next (localFaultSet s p false) := by
  simp only [execLinkFault, hex, hup, decide_true, Bool.and_self, Bool.not_true, Bool.false_eq_true, if_false]

theorem execLinkFault_remoteEnd :
    execLinkFault p .remoteEnd s = .next (s.setPort p { s.port p with remoteFault := false }) := by
  simp only [execLinkFault, hex, hup, decide_true, Bool.and_self, Bool.not_true, Bool.false_eq_true, if_false]

end Port

/-! ### Faults (R388) -/

theorem localFaultSet_eq (s : State) (n : Nat) (on : Bool) :
    localFaultSet s n on =
      if (s.port n).localFault = on then s.setPort n { s.port n with localFault := on }
      else (s.setPort n { s.port n with localFault := on }).emit (.remoteFault n on) := by
  simp only [localFaultSet, beq_iff_eq]

theorem localFaultSet_port {s : State} {n : Nat} (on : Bool) (h : (s.port n).state ≠ 0) :
    (localFaultSet s n on).port n = { s.port n with localFault := on } := by
  have hset : (s.setPort n { s.port n with localFault := on }).port n = { s.port n with localFault := on } := setPort_port_on s n h
  rw [localFaultSet_eq]
  split
  · exact hset
  · exact hset

theorem faultBack_up {s : State} {n k : Nat} (h : (s.port n).state = 5) : faultBack s n k = portAlign (portLeave s n k) n := by
  simp [faultBack, leaveUp, h]

theorem faultBack_hold {s : State} {n k : Nat} (h : (s.port n).state = 4) : faultBack s n k = portAlign s n := by
  simp [faultBack, leaveUp, h]

theorem faultBack_align {s : State} {n k : Nat} (h : (s.port n).state < 4) : faultBack s n k = s := if_neg (Nat.not_le.mpr h)

/-! ### PORT_MODE_WRITE and PORT_ADMIN (R392 to R394, R542) -/

section Commands

variable {s : State} {r : Fin 1024} {n : Nat} {c : CmdEnt}

/-- The eight-lane mode is named for one quad of the octet alone, or a write of one quad would break up a port of eight lanes. -/
def HalfOfEight (s : State) (d : Desc) : Prop :=
  (newMode s d 0 = 4 ∧ newMode s d 1 ≠ 4) ∨ (newMode s d 0 ≠ 4 ∧ newMode s d 1 = 4) ∨ (s.mode (fld d 67 64) 0 = 4 ∧ fld d 69 68 ≠ 3)

/-- The ports that a PORT_MODE_WRITE removes: those of the quads whose mode changes. -/
def modeGone (s : State) (d : Desc) : List Nat :=
  ([0, 1].filter fun q => newMode s d q != s.mode (fld d 67 64) q).flatMap (quadPorts s (fld d 67 64))

theorem halfOfEight_iff (d : Desc) :
    ((newMode s d 0 == 4) != (newMode s d 1 == 4) || (s.mode (fld d 67 64) 0 = 4 && fld d 69 68 ≠ 3)) = true ↔ HalfOfEight s d := by
  have hxor (a b : Bool) : (a != b) = true ↔ (a = true ∧ ¬ b = true) ∨ (¬ a = true ∧ b = true) := by cases a <;> cases b <;> simp
  simp only [HalfOfEight, Bool.or_eq_true, Bool.and_eq_true, decide_eq_true_eq, hxor, beq_iff_eq, or_assoc]

theorem charged_iff (ports : List Nat) :
    (ports.any fun p => s.egCells p != 0 || s.portSegs p != 0) = true ↔ ∃ p ∈ ports, s.egCells p ≠ 0 ∨ s.portSegs p ≠ 0 := by
  simp only [List.any_eq_true, Bool.or_eq_true, bne_iff_ne]

section ModeWrite

variable (h : Handed s r n 0x98 c)
include h

theorem execPortModeWrite_no_quad (hnone : fld c.desc 69 68 = 0) : execPortModeWrite r n s = .next (s.badField r n 8) :=
  (onCmd_of_handed h _).trans (congrArg _ (if_pos hnone))

variable (hquad : fld c.desc 69 68 ≠ 0)
include hquad

theorem execPortModeWrite_half (hhalf : HalfOfEight s c.desc) : execPortModeWrite r n s = .next (s.badField r n 9) :=
  (onCmd_of_handed h _).trans (congrArg _ ((if_neg hquad).trans (if_pos ((halfOfEight_iff _).mpr hhalf))))

variable (hwhole : ¬ HalfOfEight s c.desc)
include hwhole

theorem execPortModeWrite_busy (hused : ∃ p ∈ modeGone s c.desc, s.egCells p ≠ 0 ∨ s.portSegs p ≠ 0) :
    execPortModeWrite r n s = .next (s.finish r n St.busy) :=
  (onCmd_of_handed h _).trans (congrArg _ ((if_neg hquad).trans
    ((if_neg (mt (halfOfEight_iff _).mp hwhole)).trans (if_pos ((charged_iff _).mpr hused)))))

theorem execPortModeWrite_writes (hfree : ¬ ∃ p ∈ modeGone s c.desc, s.egCells p ≠ 0 ∨ s.portSegs p ≠ 0) :
    execPortModeWrite r n s =
      let o := fld c.desc 67 64
      let u := (modeGone s c.desc).foldl portRemove s
      let v := { u with lif := { u.lif with
        modes := fput (fput u.lif.modes 0 (2 * o) (newMode s c.desc 0)) 0 (2 * o + 1) (newMode s c.desc 1) } }
      .next (((([0, 1].filter fun q => newMode s c.desc q != s.mode o q).flatMap (quadPorts v o)).foldl portCreate v).finish r n St.ok) :=
  (onCmd_of_handed h _).trans (congrArg _ ((if_neg hquad).trans
    ((if_neg (mt (halfOfEight_iff _).mp hwhole)).trans (if_neg (mt (charged_iff _).mp hfree)))))

end ModeWrite

section Admin

variable (h : Handed s r n 0x99 c)
include h

theorem execPortAdmin_no_port (hno : portExists s (fld c.desc 87 80) = false) :
    execPortAdmin r n s = .next (s.badField r n 10) := by
  refine (onCmd_of_handed h _).trans (congrArg _ (if_pos ?_))
  rw [hno]
  rfl

variable (hex : portExists s (fld c.desc 87 80) = true)
include hex

theorem execPortAdmin_enables (hon : bit c.desc 88 = true) :
    execPortAdmin r n s =
      let p := fld c.desc 87 80
      .next ((if (s.port p).state = 0 then portStart (s.setPort p { s.port p with admin := true }) p else s).finish r n St.ok) := by
  refine (onCmd_of_handed h _).trans (congrArg _ ((if_neg ?_).trans (if_pos hon)))
  simp [hex]

theorem execPortAdmin_disables (hoff : bit c.desc 88 = false) :
    execPortAdmin r n s =
      let p := fld c.desc 87 80
      let u := portOff (leaveUp s p 0) p
      .next ((u.setPort p { u.port p with
        admin := false, cause := if (s.port p).state = 0 then (s.port p).cause else 0 }).finish r n St.ok) := by
  refine (onCmd_of_handed h _).trans (congrArg _ ((if_neg ?_).trans (if_neg (Bool.eq_false_iff.mp hoff))))
  simp [hex]

end Admin

end Commands

/-! ### No fault and no refusal -/

theorem ite_answers {p : Prop} [Decidable p] (a b : State) : ∃ t, (if p then .next a else .next b : Out') = .next t := by
  split
  · exact ⟨_, rfl⟩
  · exact ⟨_, rfl⟩

theorem execLinkFault_next (p : Fin 128) (fault : FaultKind) (s : State) : ∃ t, execLinkFault p fault s = .next t := by
  unfold execLinkFault
  dsimp only
  repeat' split
  all_goals exact ⟨_, rfl⟩

end Sys2Proof.Machine

open Sys2Proof Sys2Proof.Machine

/-- Settles O56: each event of a port by the port's state, then the two commands by what their fields name. -/
theorem portStates : Obligations.PortStates := by
  unfold Obligations.PortStates
  refine ⟨fun s r n => ⟨onCmd_next s r n _ _, onCmd_next s r n _ _⟩, fun s partner => ite_answers _ _,
    fun s p => ⟨⟨_, rfl⟩, ite_answers _ _, ite_answers _ _, ite_answers _ _, ite_answers _ _⟩,
    fun s p fault => execLinkFault_next p fault s,
    fun s p hex => ⟨fun ts hstate hrun => ⟨?_, ?_, ?_⟩, ?_, ?_, ?_, ?_, ?_, ?_, ?_, ?_, ?_, ?_, ?_, ?_⟩,
    fun s r n c h => ⟨?_, ?_, ?_, ?_⟩, fun s r n c h => ⟨?_, ?_, ?_, ?_⟩⟩
  · exact fun hmeets htrain => (execAnComplete_meets hex hstate hrun hmeets).trans (congrArg _ (if_pos htrain))
  · exact fun hmeets hskip => (execAnComplete_meets hex hstate hrun hmeets).trans (congrArg _ (if_neg (Bool.eq_false_iff.mp hskip)))
  · exact fun hother => execAnComplete_fails hex hstate hrun hother
  · exact fun hstate hrun => execAnFail_fails hex hstate hrun
  · exact fun hwait => execAnBackoffExpire_starts hex hwait
  · exact fun hstate hrun => execTrainingComplete_aligns hex hstate hrun
  · exact fun hstate hlocal hremote href => execPortAligned_holds hex hstate hlocal hremote href
  · exact fun hstate hvalid => execLinkUp_up hex hstate hvalid
  · exact fun hstate => ((execLinkFault_local hex (by omega)).trans
      (congrArg _ (faultBack_up (by rw [localFaultSet_port _ (by omega), hstate])))).trans
      (congrArg (fun u => Host.Outcome.next (portAlign (portLeave u p 3) p)) (localFaultSet_eq s p true))
  · exact fun hstate => ((execLinkFault_local hex (by omega)).trans
      (congrArg _ (faultBack_hold (by rw [localFaultSet_port _ (by omega), hstate])))).trans
      (congrArg (fun u => Host.Outcome.next (portAlign u p)) (localFaultSet_eq s p true))
  · exact fun hstate => (execLinkFault_remote hex (by omega)).trans
      (congrArg _ (faultBack_up ((congrArg _ (setPort_port_on s p (by show (s.port p).state ≠ 0; omega))).trans hstate)))
  · exact fun hstate => (execLinkFault_remote hex (by omega)).trans
      (congrArg _ (faultBack_hold ((congrArg _ (setPort_port_on s p (by show (s.port p).state ≠ 0; omega))).trans hstate)))
  · exact fun hstate => ((execLinkFault_local hex (by omega)).trans
      (congrArg _ (faultBack_align (by rw [localFaultSet_port _ (by omega)]; show (s.port p).state < 4; omega)))).trans
      (congrArg Host.Outcome.next (localFaultSet_eq s p true))
  · exact fun hup => (execLinkFault_localEnd hex hup).trans (congrArg Host.Outcome.next (localFaultSet_eq s p false))
  · exact execLinkFault_remoteEnd hex
  · exact execPortModeWrite_no_quad h
  · exact execPortModeWrite_half h
  · exact execPortModeWrite_busy h
  · exact execPortModeWrite_writes h
  · exact execPortAdmin_no_port h
  · exact fun hex hon hstate => (execPortAdmin_enables h hex hon).trans (congrArg _ (congrArg (State.finish · r n St.ok) (if_pos hstate)))
  · exact fun hex hon hstate => (execPortAdmin_enables h hex hon).trans (congrArg _ (congrArg (State.finish · r n St.ok) (if_neg hstate)))
  · exact execPortAdmin_disables h

end

/-! ## Lanes, references and the rotating spares: O57 -/

section

namespace Sys2Proof.Machine

open Sys2Proof

/-! ### A lane's losses (R388, R554) -/

section Lane

variable {s : State} {l : Fin 128} {p : Nat} (hport : lanePort s l = some p)
include hport

theorem execLinkDown_up {cause : LaneLoss} (hup : 3 ≤ (s.port p).state) (hserdes : cause ≠ .alignment) :
    execLinkDown l cause s =
      .next (portStart (leaveUp ((s.setLane l (laneLost (s.lane l) cause)).bump (Reg.LIF_LANE_LOCK_LOSS_COUNT (octOf l) (slotOf l))) p
        (if cause == .signal then 1 else 2)) p) := by
  simp only [execLinkDown, hport, hup, decide_true, Bool.true_or, Bool.not_true, Bool.false_eq_true, if_false, if_true, linkLost,
    beq_iff_eq, hserdes]

theorem execLinkDown_nothing {cause : LaneLoss} (hdown : (s.port p).state < 3) (hnone : laneHad (s.lane l) cause = false) :
    execLinkDown l cause s = .next s := by
  simp only [execLinkDown, hport, hnone, Nat.not_le.mpr hdown, decide_false, Bool.or_self, Bool.not_false, if_true]

/-! ### Published delays (R402 to R405) -/

theorem execRxDelayPublish_off {marks : List Marker} (hdown : (s.port p).state < 3) : execRxDelayPublish l marks s = .next s := by
  simp only [execRxDelayPublish, hport, hdown, if_true]

section Publish

variable (hup : 3 ≤ (s.port p).state)
include hup

theorem execRxDelayPublish_no_marks :
    execRxDelayPublish l [] s =
      let v := s.reach ((s.lane l).pubAt + 128000)
      .next (v.setLane l { s.lane l with pubAt := v.ns }) := by
  simp only [execRxDelayPublish, hport, Nat.not_lt.mpr hup, if_false, List.isEmpty_nil, if_true]

theorem execRxDelayPublish_marks {marks : List Marker} (hmarks : marks ≠ []) :
    execRxDelayPublish l marks s =
      let v := s.reach ((s.lane l).pubAt + 128000)
      let u := v.setLane l { s.lane l with delay := meanDelay marks, valid := true, measured := true, pubAt := v.ns }
      .next (if (s.lane l).measured && (65536 < meanDelay marks - (s.lane l).delay || 65536 < (s.lane l).delay - meanDelay marks)
        then u.bump (Reg.LIF_DELAY_STEP_COUNT (octOf p) (slotOf p)) else u) := by
  simp only [execRxDelayPublish, hport, Nat.not_lt.mpr hup, if_false, List.isEmpty_iff, hmarks]

end Publish

end Lane

/-- A published delay lies further than 65,536 from the one before it. -/
theorem moved_iff (x : LaneSt) (m : Nat) :
    (x.measured && (65536 < m - x.delay || 65536 < x.delay - m)) = true ↔
      x.measured = true ∧ (x.delay + 65536 < m ∨ m + 65536 < x.delay) := by
  simp only [Bool.and_eq_true, Bool.or_eq_true, decide_eq_true_eq, Nat.lt_sub_iff_add_lt, Nat.add_comm]

theorem laneUnlock_locked {s : State} {l : Nat} (h : (s.lane l).cdr = true ∨ (s.lane l).lock = true) :
    laneUnlock s l =
      (s.setLane l { s.lane l with cdr := false, lock := false }).bump (Reg.LIF_LANE_LOCK_LOSS_COUNT (octOf l) (slotOf l)) :=
  if_pos (Bool.or_eq_true _ _ ▸ h)

theorem laneUnlock_free {s : State} {l : Nat} (hcdr : (s.lane l).cdr = false) (hlock : (s.lane l).lock = false) :
    laneUnlock s l = s := by
  simp only [laneUnlock, hcdr, hlock, Bool.or_self, Bool.false_eq_true, if_false]

/-! ### The Loupes (R399 to R401, R416) -/

/-- The corners of a lane's eyes are numbered four to an eye. -/
def cornerOf (e : Fin 3) (k : Fin 4) : Nat := 4 * e.val + k.val

/-- A dwell at a corner is the next of a lane of a port that is UP, and counts no more symbols than the dwell has. -/
def DwellTurn (s : State) (l : Fin 128) (p : Nat) (e : Fin 3) (k : Fin 4) (m : Nat) : Prop :=
  (s.port p).state = 5 ∧ (s.lane l).scan = none ∧ e.val < laneEyes s l ∧ (s.lane l).corner % (4 * laneEyes s l) = cornerOf e k ∧
    m ≤ 2 ^ s.rf (Reg.LIF_LOUPE_CTRL (octOf l) (slotOf l)) 20 16

/-- The errors in a dwell over which a lane's margin is low. -/
def loupeTop (s : State) (l : Nat) : Nat := 2 ^ s.rf (Reg.LIF_LOUPE_CTRL (octOf l) (slotOf l)) 15 10

/-- Time when a lane's dwell has ended. -/
def dwelt (s : State) (l : Nat) : State := s.reach ((s.lane l).dwellAt + dwellNs s l)

/-- A lane whose dwell has ended: the next corner's turn comes. -/
def dwellLane (s : State) (l i : Nat) : LaneSt :=
  { s.lane l with dwellAt := (dwelt s l).ns, corner := (i + 1) % (4 * laneEyes s l) }

/-- What a dwell over the threshold leaves in LIF_LANE_MARGIN. -/
def dwellMargin (e : Fin 3) (k : Fin 4) (m : Nat) : W32 := pack 32 [(1, 0, e.val), (3, 2, k.val), (31, 4, min m (2 ^ 28 - 1))]

theorem dwelt_rf (s : State) (l : Nat) (x : LaneSt) (a hi lo : Nat) : ((dwelt s l).setLane l x).rf a hi lo = s.rf a hi lo := by
  simp only [State.rf, State.reg, setLane_regs, dwelt, reach_regs]

/-- The threshold is read once the dwell has ended, which leaves it as it was. -/
theorem dwelt_top (s : State) (l i : Nat) :
    2 ^ ((dwelt s l).setLane l (dwellLane s l i)).rf (Reg.LIF_LOUPE_CTRL (octOf l) (slotOf l)) 15 10 = loupeTop s l := by
  rw [dwelt_rf, loupeTop]

section Dwell

variable {s : State} {l : Fin 128} {p : Nat} (hport : lanePort s l = some p) {e : Fin 3} {k : Fin 4} {m : Nat}
include hport

theorem dwell_not_turn_iff :
    (!((lanePort s l).any fun n => (s.port n).state == 5) || (s.lane l).scan.isSome || laneEyes s l ≤ e.val ||
      (s.lane l).corner % (4 * laneEyes s l) ≠ cornerOf e k ||
      2 ^ ((dwelt s l).setLane l (dwellLane s l (cornerOf e k))).rf (Reg.LIF_LOUPE_CTRL (octOf l) (slotOf l)) 20 16 < m) = true ↔
    ¬ DwellTurn s l p e k m := by
  rw [dwelt_rf, hport]
  simp only [DwellTurn, Option.any_some, Bool.or_eq_true, Bool.not_eq_true', beq_eq_false_iff_ne, decide_eq_true_eq, not_and_or,
    Nat.not_lt, Nat.not_le, or_assoc, ne_eq, ← Option.isSome_iff_ne_none]

theorem execLoupeDwell_not_turn (hno : ¬ DwellTurn s l p e k m) : execLoupeDwell l e k m s = .next s :=
  if_pos ((dwell_not_turn_iff hport).mpr hno)

variable (hturn : DwellTurn s l p e k m)
include hturn

theorem execLoupeDwell_over (hover : loupeTop s l < m) :
    execLoupeDwell l e k m s =
      let x := dwellLane s l (cornerOf e k)
      let u := ((dwelt s l).setLane l x).setLane l { x with
        margin := dwellMargin e k m, low := true, clean := if x.low then x.clean.filter (· != cornerOf e k) else [] }
      if x.low then .next u
      else .next (intRaise (lifEvent u (octOf l) 0x9A [(70, 64, l), (72, 71, e.val), (74, 73, k.val), (111, 80, min m (2 ^ 32 - 1))])
        2 (octOf l)) :=
  (if_neg (mt (dwell_not_turn_iff hport).mp (not_not.mpr hturn))).trans (if_pos ((dwelt_top s l _).symm ▸ hover))

/-- A dwell over the threshold of a lane that is not low yet marks it low and reports the corner. -/
theorem execLoupeDwell_over_first (hover : loupeTop s l < m) (hfirst : (s.lane l).low = false) :
    execLoupeDwell l e k m s =
      let x := dwellLane s l (cornerOf e k)
      .next (intRaise (lifEvent (((dwelt s l).setLane l x).setLane l { x with margin := dwellMargin e k m, low := true, clean := [] })
        (octOf l) 0x9A [(70, 64, l), (72, 71, e.val), (74, 73, k.val), (111, 80, min m (2 ^ 32 - 1))]) 2 (octOf l)) := by
  have hlow : (dwellLane s l (cornerOf e k)).low = false := hfirst
  simp only [execLoupeDwell_over hport hturn hover, hlow, Bool.false_eq_true, if_false]

/-- One of a lane that is low already spoils the corner. -/
theorem execLoupeDwell_over_again (hover : loupeTop s l < m) (hagain : (s.lane l).low = true) :
    execLoupeDwell l e k m s =
      let x := dwellLane s l (cornerOf e k)
      .next (((dwelt s l).setLane l x).setLane l { x with
        margin := dwellMargin e k m, low := true, clean := (s.lane l).clean.filter (· != cornerOf e k) }) := by
  have hlow : (dwellLane s l (cornerOf e k)).low = true := hagain
  simp only [execLoupeDwell_over hport hturn hover, hlow, if_true]
  rfl

theorem execLoupeDwell_under (hunder : m ≤ loupeTop s l) :
    execLoupeDwell l e k m s =
      let x := dwellLane s l (cornerOf e k)
      let v := (dwelt s l).setLane l x
      if x.low && m < loupeTop s l then
        let cs := if x.clean.contains (cornerOf e k) then x.clean else cornerOf e k :: x.clean
        .next (v.setLane l (if cs.length = 4 * laneEyes v l then { x with low := false, clean := [] } else { x with clean := cs }))
      else .next v := by
  refine (if_neg (mt (dwell_not_turn_iff hport).mp (not_not.mpr hturn))).trans ((if_neg ?_).trans ?_)
  · exact (dwelt_top s l _).symm ▸ Nat.not_lt.mpr hunder
  · rw [← dwelt_top s l (cornerOf e k)]
    rfl

/-- A dwell up to the threshold is only a clean corner where it is under it and the lane is low. -/
theorem execLoupeDwell_no_change (hunder : m ≤ loupeTop s l) (hno : (s.lane l).low = false ∨ m = loupeTop s l) :
    execLoupeDwell l e k m s = .next ((dwelt s l).setLane l (dwellLane s l (cornerOf e k))) := by
  refine (execLoupeDwell_under hport hturn hunder).trans (if_neg ?_)
  have hlow : (dwellLane s l (cornerOf e k)).low = (s.lane l).low := rfl
  rw [Bool.and_eq_true, decide_eq_true_eq, hlow]
  rintro ⟨hl, hlt⟩
  rcases hno with hhigh | heq
  · exact Bool.false_ne_true (hhigh.symm.trans hl)
  · exact absurd hlt (heq ▸ Nat.lt_irrefl m)

theorem execLoupeDwell_clean (hunder : m < loupeTop s l) (hlow : (s.lane l).low = true) :
    execLoupeDwell l e k m s =
      let x := dwellLane s l (cornerOf e k)
      let v := (dwelt s l).setLane l x
      let cs := if cornerOf e k ∈ (s.lane l).clean then (s.lane l).clean else cornerOf e k :: (s.lane l).clean
      .next (v.setLane l (if cs.length = 4 * laneEyes v l then { x with low := false, clean := [] } else { x with clean := cs })) := by
  have hboth : ((dwellLane s l (cornerOf e k)).low && decide (m < loupeTop s l)) = true := by
    rw [decide_eq_true hunder, Bool.and_true]
    exact hlow
  refine (execLoupeDwell_under hport hturn hunder.le).trans ((if_pos hboth).trans ?_)
  simp only [List.contains_iff_mem]
  rfl

end Dwell

/-! ### References (R554) -/

theorem execRefclkLoss_again {s : State} {o : Fin 16} (hlost : s.lif.refLost.contains o.val = true) : execRefclkLoss o s = .next s :=
  if_pos hlost

theorem execRefclkLoss_first {s : State} {o : Fin 16} (hthere : s.lif.refLost.contains o.val = false) :
    execRefclkLoss o s =
      let u := { s with lif := { s.lif with refLost := o.val :: s.lif.refLost } }
      let v := ((refOctets o).flatMap fun o => (List.range 8).map (8 * o + ·)).foldl laneUnlock u
      .next (((refOctets o).flatMap (octPorts s)).foldl
        (fun s n => if (s.port n).state < 3 then s else portStart (leaveUp s n 2) n) v) :=
  if_neg (Bool.eq_false_iff.mp hthere)

/-! ### LANE_EYE_READ (R401) -/

section EyeRead

variable {s : State} {r : Fin 1024} {n : Nat} {c : CmdEnt} {map : List W16} (hcmd : s.cmd? r n = some c) (hop : descOp c.desc = 0x9A)
include hcmd hop

section Accepted

variable (hacc : c.phase = .accepted) (hnext : s.next? r = some c) (hslot : c.slot = n)
include hacc hnext hslot

theorem execLaneEyeRead_starts {p : Nat} (hport : lanePort s (fld c.desc 70 64) = some p) (hon : (s.port p).state ≠ 0)
    (hidle : (s.lane (fld c.desc 70 64)).scan = none) :
    execLaneEyeRead r n map s =
      let l := fld c.desc 70 64
      .next ((s.modCmd r n fun c => { c with phase := .running }).setLane l { s.lane l with scan := some (r.val, n), scanAt := s.ns }) := by
  simp only [execLaneEyeRead, hcmd, hop, hacc, hnext, hslot, hport, hidle, beq_eq_false_iff_ne.mpr hon, Option.any_some, bne_self_eq_false,
    beq_self_eq_true, Option.isSome_none, Bool.or_self, ne_eq, not_true_eq_false, Bool.false_eq_true, if_false, if_true]

theorem execLaneEyeRead_no_port (hnone : lanePort s (fld c.desc 70 64) = none) :
    execLaneEyeRead r n map s = .next (s.finish r n St.busy) := by
  simp only [execLaneEyeRead, hcmd, hop, hacc, hnext, hslot, hnone, Option.any_some, bne_self_eq_false, beq_self_eq_true,
    Bool.true_or, ne_eq, not_true_eq_false, Bool.false_eq_true, if_false, if_true]

end Accepted

theorem execLaneEyeRead_ends (hrun : c.phase = .running) (hscan : (s.lane (fld c.desc 70 64)).scan = some (r.val, n)) :
    execLaneEyeRead r n map s =
      let l := fld c.desc 70 64
      .next ((((s.reach ((s.lane l).scanAt + 1024 * laneEyes s l * dwellNs s l)).setLane l { s.lane l with
        scan := none }).output c (eyeMap s l map)).finish r n St.ok) := by
  have hphase : (CmdPhase.running == CmdPhase.accepted) = false := rfl
  simp only [execLaneEyeRead, hcmd, hop, hrun, hscan, hphase, beq_self_eq_true, Bool.and_self, ne_eq, not_true_eq_false,
    Bool.false_eq_true, if_false, if_true]

end EyeRead

/-! ### The rotating spares (R411 to R417) -/

theorem spareCtrlWrite_good {s : State} {v : W32} (hopen : s.pkg.sealed = false) (hgood : 10 ≤ fld v 31 16) :
    spareCtrlWrite s v = s.setReg Reg.HLT_SPARE_CTRL (v &&& 0xFFFF3FF1) :=
  (if_neg (Bool.eq_false_iff.mp hopen)).trans (if_neg (Nat.not_lt.mpr hgood))

theorem spareCtrlWrite_bad {s : State} {v : W32} (hopen : s.pkg.sealed = false) (hbad : fld v 31 16 < 10) :
    spareCtrlWrite s v = badWrite s :=
  (if_neg (Bool.eq_false_iff.mp hopen)).trans (if_pos hbad)

section Spare

variable {s : State} {g : Fin 224}

theorem execSpareMacroStart_starts (hon : bit (s.reg Reg.HLT_SPARE_CTRL) 0 = true) (hidle : (s.spare g).phase = 0)
    (hwhole : (s.spare g).retired = none) (hdomain : s.domain (groupDomain g) = .on) :
    execSpareMacroStart g s =
      let v := s.reach ((s.spare g).since + 1000 * s.rf Reg.HLT_SPARE_CTRL 31 16)
      .next (v.setSpare g { s.spare g with phase := 1, since := v.ns }) := by
  simp only [execSpareMacroStart, hon, hidle, hwhole, hdomain, Option.isNone_none, beq_self_eq_true, decide_true, Bool.and_self, if_true]

theorem execSpareSwap_swaps (hphase : (s.spare g).phase = 1) :
    execSpareSwap g s = .next ((spareReach s g (groupWords g)).setSpare g { s.spare g with phase := 2 }) :=
  congrArg _ (if_pos hphase)

section March

variable (hphase : (s.spare g).phase = 2)
include hphase

theorem execSpareMarchDone_passes :
    execSpareMarchDone g true s = .next ((spareReach s g (11 * groupWords g + 1)).setSpare g { s.spare g with phase := 3 }) :=
  (if_neg (not_not.mpr hphase)).trans (if_pos rfl)

theorem execSpareMarchDone_fails :
    execSpareMarchDone g false s =
      let x := s.spare g
      let u := (spareReach s g (11 * groupWords g + 1)).setSpare g { x with phase := 0, retired := some x.live }
      .next (sparePass (intRaise (spareEvent { u with hlt := { u.hlt with groups := fset u.hlt.groups g.val x.live } }
        0xB0 g x.live x.passes) 0 2) g) :=
  (if_neg (not_not.mpr hphase)).trans (if_neg Bool.false_ne_true)

end March

section SwapBack

variable (hphase : (s.spare g).phase = 3)
include hphase

theorem execSpareSwapBack_next_macro (hmore : (s.spare g).live + 1 ≠ groupMacros g) :
    execSpareSwapBack g s =
      .next ((spareReach s g (12 * groupWords g + 1)).setSpare g { s.spare g with phase := 0, live := (s.spare g).live + 1 }) := by
  simp only [execSpareSwapBack, hphase, hmore, ne_eq, not_true_eq_false, if_false]

theorem execSpareSwapBack_last (hlast : (s.spare g).live + 1 = groupMacros g) :
    execSpareSwapBack g s =
      .next (sparePass ((spareReach s g (12 * groupWords g + 1)).setSpare g { s.spare g with phase := 0, live := 0 }) g) := by
  simp only [execSpareSwapBack, hphase, hlast, ne_eq, not_true_eq_false, if_false, if_true]

end SwapBack

end Spare

/-! ### No fault and no refusal -/

theorem execLaneEyeRead_next (r : Fin 1024) (n : Nat) (map : List W16) (s : State) : ∃ t, execLaneEyeRead r n map s = .next t := by
  unfold execLaneEyeRead
  dsimp only
  repeat' split
  all_goals exact ⟨_, rfl⟩

theorem execLinkDown_next (l : Fin 128) (cause : LaneLoss) (s : State) : ∃ t, execLinkDown l cause s = .next t := by
  unfold execLinkDown
  dsimp only
  repeat' split
  all_goals exact ⟨_, rfl⟩

theorem execLoupeDwell_next (l : Fin 128) (e : Fin 3) (k : Fin 4) (m : Nat) (s : State) : ∃ t, execLoupeDwell l e k m s = .next t := by
  unfold execLoupeDwell
  dsimp only
  repeat' split
  all_goals exact ⟨_, rfl⟩

theorem execRxDelayPublish_next (l : Fin 128) (marks : List Marker) (s : State) : ∃ t, execRxDelayPublish l marks s = .next t := by
  unfold execRxDelayPublish
  dsimp only
  repeat' split
  all_goals exact ⟨_, rfl⟩

theorem execSpareMarchDone_next (g : Fin 224) (ok : Bool) (s : State) : ∃ t, execSpareMarchDone g ok s = .next t := by
  unfold execSpareMarchDone
  dsimp only
  repeat' split
  all_goals exact ⟨_, rfl⟩

end Sys2Proof.Machine

open Sys2Proof Sys2Proof.Machine

/-- Settles O57: a lane's losses, delays and dwells, then references, eye reads and the steps of a test slice. -/
theorem lanesAndSpares : Obligations.LanesAndSpares := by
  unfold Obligations.LanesAndSpares
  refine ⟨fun s r n map => execLaneEyeRead_next r n map s, fun s v => ⟨_, rfl⟩, fun s l cause => execLinkDown_next l cause s,
    fun s o => ⟨ite_answers _ _, ⟨_, rfl⟩⟩, fun s l e k m => execLoupeDwell_next l e k m s,
    fun s l marks => execRxDelayPublish_next l marks s, fun s g => ⟨ite_answers _ _, ⟨_, rfl⟩, ite_answers _ _⟩,
    fun s g ok => execSpareMarchDone_next g ok s,
    fun s l p hport => ⟨?_, ?_, ?_, ?_, ?_, fun marks hmarks hup => ⟨?_, ?_⟩, fun e k m => ⟨?_, ?_, ?_, ?_, ?_⟩⟩,
    fun s o => ⟨?_, ?_, fun l => ?_, fun l => ?_, rfl⟩, fun s r n c map hcmd hop => ⟨?_, ?_, ?_⟩,
    fun s v hopen hunsealed => ⟨?_, ?_⟩, fun s g => ⟨?_, ?_, ?_, ?_, ?_, ?_⟩⟩
  · intro hstate
    refine (execLinkDown_up hport (by omega) (by decide)).trans (congrArg (fun u => Host.Outcome.next (portStart u p)) (if_pos ?_))
    rw [bump_port, setLane_port, hstate]
  · exact fun hdown hnone => execLinkDown_nothing hport hdown hnone
  · intro hstate
    refine (execLinkDown_up hport (by omega) (by decide)).trans (congrArg (fun u => Host.Outcome.next (portStart u p)) (if_neg ?_))
    rw [bump_port, setLane_port]
    omega
  · exact fun hdown marks => execRxDelayPublish_off hport hdown
  · exact fun hup => execRxDelayPublish_no_marks hport hup
  · exact fun hstill => (execRxDelayPublish_marks hport hup hmarks).trans (congrArg _ (if_neg (mt (moved_iff _ _).mp hstill)))
  · exact fun hmoved => (execRxDelayPublish_marks hport hup hmarks).trans (congrArg _ (if_pos ((moved_iff _ _).mpr hmoved)))
  · exact fun hno => execLoupeDwell_not_turn hport hno
  · exact fun hturn hover hfirst => execLoupeDwell_over_first hport hturn hover hfirst
  · exact fun hturn hover hagain => execLoupeDwell_over_again hport hturn hover hagain
  · exact fun hturn hunder hno => execLoupeDwell_no_change hport hturn hunder hno
  · exact fun hturn hunder hlow => execLoupeDwell_clean hport hturn hunder hlow
  · exact execRefclkLoss_again
  · exact execRefclkLoss_first
  · exact laneUnlock_locked
  · exact laneUnlock_free
  · exact fun p hacc hnext hslot hport hon hidle => execLaneEyeRead_starts hcmd hop hacc hnext hslot hport hon hidle
  · exact fun hacc hnext hslot hnone => execLaneEyeRead_no_port hcmd hop hacc hnext hslot hnone
  · exact fun hrun hscan => execLaneEyeRead_ends hcmd hop hrun hscan
  · exact fun hgood => (onBar_open hopen _).trans (congrArg _ (spareCtrlWrite_good hunsealed hgood))
  · exact fun hbad => (onBar_open hopen _).trans (congrArg _ (spareCtrlWrite_bad hunsealed hbad))
  · exact execSpareMacroStart_starts
  · exact execSpareSwap_swaps
  · exact execSpareMarchDone_passes
  · exact execSpareMarchDone_fails
  · exact execSpareSwapBack_next_macro
  · exact execSpareSwapBack_last

end

/-! ## Boot, roles and tickets: O58 -/

section

namespace Sys2Proof.Machine

open Sys2Proof

/-! ### The boot ROM (R342, R473, R474) -/

theorem identOk_iff (s : State) : identOk s = true ↔ s.hmk.fuses.identHash = Config.sha512 (Config.identKey s.hmk.fuses.root) := by
  rw [identOk, beq_iff_eq]

section BootRom

variable {s : State}

theorem execBootRomDone_out {ok : Bool} (h : s.hlt.shutdown = true ∨ s.hmk.boot ≠ 0) : execBootRomDone ok s = .next s := by
  refine if_pos ?_
  rcases h with hoff | hlate
  · simp [hoff]
  · simp [hlate]

variable (hout : s.pkg.inReset = false) (hup : s.hlt.shutdown = false) (hrom : s.hmk.boot = 0)
include hout hup hrom

/-- The boot ROM runs: it ends in BOOT where it passes, the random source is sound and the identity key is the fused one. -/
theorem execBootRomDone_runs (ok : Bool) :
    execBootRomDone ok s =
      let d := rngDraw s 32
      if ok && !s.hmk.rngFail && identOk s then
        .next { d.1 with hmk := { d.1.hmk with boot := 1 }, cip := { d.1.cip with storage := ofBytes 256 d.2 } }
      else .next { s.free.2 with hmk := { s.free.2.hmk with boot := 3, lastErr := s.free.1 % 256 } } := by
  refine if_neg ?_
  simp [hout, hup, hrom]

theorem execBootRomDone_boots (hrng : s.hmk.rngFail = false)
    (hident : s.hmk.fuses.identHash = Config.sha512 (Config.identKey s.hmk.fuses.root)) :
    execBootRomDone true s =
      let d := rngDraw s 32
      .next { d.1 with hmk := { d.1.hmk with boot := 1 }, cip := { d.1.cip with storage := ofBytes 256 d.2 } } := by
  refine (execBootRomDone_runs hout hup hrom true).trans (if_pos ?_)
  simp [hrng, (identOk_iff s).mpr hident]

theorem execBootRomDone_halts {ok : Bool} (hbad : ok = false ∨ s.hmk.rngFail = true ∨
    ¬ s.hmk.fuses.identHash = Config.sha512 (Config.identKey s.hmk.fuses.root)) :
    execBootRomDone ok s = .next { s.free.2 with hmk := { s.free.2.hmk with boot := 3, lastErr := s.free.1 % 256 } } := by
  refine (execBootRomDone_runs hout hup hrom ok).trans (if_neg ?_)
  rw [Bool.and_eq_true, Bool.and_eq_true, Bool.not_eq_true', identOk_iff]
  rintro ⟨⟨hok, hrng⟩, hident⟩
  rcases hbad with hfail | hfail | hfail
  · exact Bool.false_ne_true (hfail.symm.trans hok)
  · exact Bool.false_ne_true (hrng.symm.trans hfail)
  · exact hfail hident

end BootRom

section Handed

variable {s : State} {r : Fin 1024} {n : Nat} {c : CmdEnt}

/-! ### BOOT_IMAGE_LOAD (R475, R476, R478) -/

/-- The bytes of the device image that a BOOT_IMAGE_LOAD names. -/
def imageOf (c : CmdEnt) : List Byte := c.buf.take (fld c.desc 223 192)

/-- A good image is loaded: its floor is burned, its pages and firmware are taken in, and the BOOT record follows. -/
def imageBoot (s : State) (len : Nat) (b : List Byte) : State :=
  let v := imageFld b 63 48
  let secs := (imageParse len b).getD []
  let fw := imageFirmware secs
  let d := rngDraw (forAll (floorBurn s 0 v) (List.range 8) fun s k => vendorLoad s k v (imageRecs secs)) 32
  let h := { d.1.hmk with boot := 2, nonce := d.2, version := v, digest := Config.sha512 b, firmware := fw, ownDigest := Config.sha512 fw }
  auditBoot { d.1 with hmk := h } (d.2 ++ bytesLE 2 v ++ (Config.sha512 b).take 16)

section BootImage

variable (h : Handed s r n 0xB0 c)
include h

theorem execBootImageLoad_busy (hbusy : s.hmk.boot ≠ 1 ∨ s.hmk.rngFail = true) :
    execBootImageLoad r n s = .next (s.finish r n St.busy) := by
  refine (onCmd_of_handed h _).trans (congrArg _ (if_pos ?_))
  rw [Bool.or_eq_true, decide_eq_true_eq]
  exact hbusy

theorem execBootImageLoad_checks (hboot : s.hmk.boot = 1) (hrng : s.hmk.rngFail = false) :
    execBootImageLoad r n s =
      let len := fld c.desc 223 192
      let st := imageStatus s len (imageOf c)
      .next (if st = St.ok then (imageBoot s len (imageOf c)).finish r n St.ok
        else ({ s with hmk := { s.hmk with lastErr := st, attempts := satAdd 0xFFFF s.hmk.attempts 1 } }).finish r n st
          (if st = St.badField then 0xFF else 0)) := by
  refine (onCmd_of_handed h _).trans (congrArg _ ((if_neg ?_).trans (ite_not _ _ _)))
  simp [hboot, hrng]

end BootImage

/-! ### Challenges and sessions (R473, R486, R487) -/

theorem execRoleChallenge_busy (h : Handed s r n 0xB3 c) (hrng : s.hmk.rngFail = true) :
    execRoleChallenge r n s = .next (s.finish r n St.busy) :=
  (onCmd_of_handed h _).trans (congrArg _ (if_pos hrng))

theorem execRoleChallenge_draws (h : Handed s r n 0xB3 c) (hrng : s.hmk.rngFail = false) :
    execRoleChallenge r n s =
      let d := rngDraw s 32
      .next (({ d.1 with hmk := { d.1.hmk with challenges := fset s.hmk.challenges r.val (d.2, s.tmu.tick) } }.output c d.2).finish
        r n St.ok) :=
  (onCmd_of_handed h _).trans (congrArg _ (if_neg (Bool.eq_false_iff.mp hrng)))

/-! ### TICKET_EXEC (R486, R488, R489, R491) -/

/-- The token that a command brings. -/
def tokenOf (c : CmdEnt) : List Byte := c.buf.take 1152

/-- The length of a ticket: the modulus of an HSM follows that of KIK_EXPORT. -/
def ticketLen (b : List Byte) : Nat := if tokAction b = 7 then 1664 else 1152

theorem ite_bnot (b : Bool) (x y : State) : (if !b then x else y) = if b then y else x := by cases b <;> rfl

/-- A ticket ends: a refusal for want of a right joins the ring's DENIED record, and anything else has a record of its own. -/
def ticketEnd (t s : State) (r n : Nat) (c : CmdEnt) (st detail : Nat) : State :=
  if st = St.denied then (deniedAdd t r c).finish r n st else (auditAdd t (tokRecord s r c (tokenOf c) st)).finish r n st detail

theorem ticketEnd_recorded {t : State} {r n st detail : Nat} (h : st ≠ St.denied) :
    ticketEnd t s r n c st detail = (auditAdd t (tokRecord s r c (tokenOf c) st)).finish r n st detail := if_neg h

theorem ticketEnd_eq (t s : State) (r n : Nat) (c : CmdEnt) (st detail : Nat) :
    ticketEnd t s r n c st detail =
      if st = St.denied then (deniedAdd t r c).finish r n St.denied
      else (auditAdd t (tokRecord s r c (tokenOf c) st)).finish r n st detail := by
  by_cases h : st = St.denied
  · simp only [ticketEnd, h, if_true]
  · simp only [ticketEnd, h, if_false]

section Ticket

variable (h : Handed s r n 0xB6 c)
include h

theorem execTicketExec_bad (hbad : tokBad r (tokenOf c) true = true) :
    execTicketExec r n s = .next (ticketEnd s s r n c St.badField 0xFF) :=
  (onCmd_of_handed h _).trans (congrArg _ (if_pos hbad))

variable (hform : tokBad r (tokenOf c) true = false)
include hform

theorem execTicketExec_length (hlen : fld c.desc 223 192 ≠ ticketLen (tokenOf c)) :
    execTicketExec r n s = .next (ticketEnd s s r n c St.badField 24) :=
  (onCmd_of_handed h _).trans (congrArg _ ((if_neg (Bool.eq_false_iff.mp hform)).trans (if_pos hlen)))

theorem execTicketExec_checks (hlen : fld c.desc 223 192 = ticketLen (tokenOf c)) :
    execTicketExec r n s =
      let u := ticketAct (nonceSpent s r) c (tokenOf c)
      .next (if tokProved s r (tokenOf c) then ticketEnd u.1 s r n c u.2 (if u.2 = St.badField then 0xFF else 0)
        else ticketEnd (nonceSpent s r) s r n c St.authFail 0) := by
  refine (onCmd_of_handed h _).trans (congrArg _ ((if_neg (Bool.eq_false_iff.mp hform)).trans ((if_neg (not_not.mpr hlen)).trans ?_)))
  exact ite_bnot (tokProved s r (tokenOf c)) _ _

end Ticket

/-! ### CODE_KEY_LOAD (R472, R490) -/

/-- The modulus of a CODE_KEY_LOAD has the hash held for its key ID, which may be used. -/
def CodeKeyGood (s : State) (id : Nat) (m : List Byte) : Prop :=
  (id ≤ 7 ∧ makerOk s id m = true) ∨
    (0x100 ≤ id ∧ id ≤ 0x103 ∧ slotOk s s.hmk.fuses.codeKey s.hmk.fuses.revCode (id - 0x100) m = true)

theorem codeKeyGood_iff {id : Nat} {m : List Byte} (hid : id ≤ 7 ∨ (0x100 ≤ id ∧ id ≤ 0x103)) :
    (if id ≤ 7 then makerOk s id m else slotOk s s.hmk.fuses.codeKey s.hmk.fuses.revCode (id - 0x100) m) = true ↔ CodeKeyGood s id m := by
  rcases hid with hlow | ⟨hlo, hhi⟩
  · have hnot : ¬ 0x100 ≤ id := by omega
    simp only [CodeKeyGood, hlow, hnot, if_true, true_and, false_and, or_false]
  · have hnot : ¬ id ≤ 7 := by omega
    simp only [CodeKeyGood, hlo, hhi, hnot, if_false, true_and, false_and, false_or]

section CodeKey

variable (h : Handed s r n 0xB7 c)
include h

theorem execCodeKeyLoad_no_key (hlow : 7 < fld c.desc 79 64) (hno : fld c.desc 79 64 < 0x100 ∨ 0x103 < fld c.desc 79 64) :
    execCodeKeyLoad r n s = .next (s.badField r n 8) := by
  refine (onCmd_of_handed h _).trans (congrArg _ (if_pos ?_))
  simp only [Bool.not_eq_true', Bool.or_eq_false_iff, Bool.and_eq_false_iff, decide_eq_false_iff_not]
  omega

variable (hid : fld c.desc 79 64 ≤ 7 ∨ (0x100 ≤ fld c.desc 79 64 ∧ fld c.desc 79 64 ≤ 0x103))
include hid

theorem execCodeKeyLoad_checks :
    execCodeKeyLoad r n s =
      let id := fld c.desc 79 64
      let m := c.buf.take 512
      .next (if if id ≤ 7 then makerOk s id m else slotOk s s.hmk.fuses.codeKey s.hmk.fuses.revCode (id - 0x100) m then
        ({ s with hmk := { s.hmk with codeKeys := fset s.hmk.codeKeys id m } }).finish r n St.ok
        else s.finish r n St.authFail) := by
  refine (onCmd_of_handed h _).trans (congrArg _ (if_neg ?_))
  simp only [Bool.not_eq_true', Bool.or_eq_false_iff, Bool.and_eq_false_iff, decide_eq_false_iff_not]
  omega

theorem execCodeKeyLoad_loads (hgood : CodeKeyGood s (fld c.desc 79 64) (c.buf.take 512)) :
    execCodeKeyLoad r n s =
      .next (({ s with hmk := { s.hmk with codeKeys := fset s.hmk.codeKeys (fld c.desc 79 64) (c.buf.take 512) } }).finish r n St.ok) :=
  (execCodeKeyLoad_checks h hid).trans (congrArg _ (if_pos ((codeKeyGood_iff hid).mpr hgood)))

theorem execCodeKeyLoad_fails (hbad : ¬ CodeKeyGood s (fld c.desc 79 64) (c.buf.take 512)) :
    execCodeKeyLoad r n s = .next (s.finish r n St.authFail) :=
  (execCodeKeyLoad_checks h hid).trans (congrArg _ (if_neg (mt (codeKeyGood_iff hid).mp hbad)))

end CodeKey

end Handed

theorem execBootRomDone_next (ok : Bool) (s : State) : ∃ t, execBootRomDone ok s = .next t := by
  unfold execBootRomDone
  dsimp only
  repeat' split
  all_goals exact ⟨_, rfl⟩

end Sys2Proof.Machine

open Sys2Proof Sys2Proof.Machine

/-- Settles O58: the boot ROM, then the commands of Hallmark by what each checks. -/
theorem bootAndRoles : Obligations.BootAndRoles := by
  unfold Obligations.BootAndRoles
  refine ⟨fun s r n => ⟨onCmd_next s r n _ _, onCmd_next s r n _ _, onCmd_next s r n _ _, onCmd_next s r n _ _, onCmd_next s r n _ _,
      onCmd_next s r n _ _, onCmd_next s r n _ _, onCmd_next s r n _ _⟩,
    fun s ok => execBootRomDone_next ok s,
    fun s hout hup hrom => ⟨fun hrng hident => execBootRomDone_boots hout hup hrom hrng hident,
      fun ok hbad => execBootRomDone_halts hout hup hrom hbad⟩,
    fun s ok hno => execBootRomDone_out hno,
    fun s r n c => ⟨?_, ?_, ?_, ?_, ?_, ?_, ?_, ?_, ?_, ?_, ?_, ?_, ?_⟩⟩
  · exact execBootImageLoad_busy
  · exact execBootImageLoad_checks
  · exact fun h => onCmd_of_handed h _
  · exact fun h => onCmd_of_handed h _
  · exact execRoleChallenge_busy
  · exact execRoleChallenge_draws
  · exact fun h => onCmd_of_handed h _
  · exact fun h => onCmd_of_handed h _
  · exact fun h hbad => (execTicketExec_bad h hbad).trans (congrArg _ (ticketEnd_recorded (by decide)))
  · exact fun h hform hlen => (execTicketExec_length h hform hlen).trans (congrArg _ (ticketEnd_recorded (by decide)))
  · exact fun h hform hlen =>
      (execTicketExec_checks h hform hlen).trans (congrArg _ (if_congr Iff.rfl (ticketEnd_eq _ _ _ _ _ _ _) (ticketEnd_recorded (by decide))))
  · exact execCodeKeyLoad_no_key
  · exact fun h hid => ⟨execCodeKeyLoad_loads h hid, execCodeKeyLoad_fails h hid⟩

end

/-! ## The audit log, sessions and re-verification: O59 -/

section

namespace Sys2Proof.Machine

open Sys2Proof

section Handed

variable {s : State} {r : Fin 1024} {n : Nat} {c : CmdEnt}

/-! ### AUDIT_READ and AUDIT_RELEASE (R491 to R494) -/

/-- The first record that a command of the audit log names. -/
def auditFirst (c : CmdEnt) : Nat := fld c.desc 287 224

/-- The number of records that an AUDIT_READ reads. -/
def auditCount (s : State) (c : CmdEnt) : Nat := min (fld c.desc 303 288) (s.hmk.seq - auditFirst c)

/-- The SEQs of the records that an AUDIT_READ reads. -/
def auditSeqs (s : State) (c : CmdEnt) : List Nat := (List.range (auditCount s c)).map (auditFirst c + ·)

theorem auditSeqs_ge {q : Nat} (hq : q ∈ auditSeqs s c) : auditFirst c ≤ q := by
  obtain ⟨i, -, rfl⟩ := List.mem_map.mp hq
  exact Nat.le_add_right _ _

/-- A record has been released or not been written. -/
def AuditGone (s : State) (c : CmdEnt) : Prop := auditFirst c < s.hmk.released ∨ s.hmk.seq ≤ auditFirst c

theorem auditGone_iff :
    (fld c.desc 287 224 < s.hmk.released || s.hmk.seq ≤ fld c.desc 287 224) = true ↔ AuditGone s c := by
  rw [Bool.or_eq_true, decide_eq_true_eq, decide_eq_true_eq]
  rfl

theorem not_auditGone (hkept : s.hmk.released ≤ auditFirst c) (hwritten : auditFirst c < s.hmk.seq) : ¬ AuditGone s c :=
  not_or.mpr ⟨Nat.not_lt.mpr hkept, Nat.not_le.mpr hwritten⟩

theorem auditUnitOk_staged {q : Nat} (h : stagedFrom s ≤ q) : auditUnitOk s q = true := by
  simp only [auditUnitOk, h, decide_true, Bool.true_or]

section Read

variable (h : Handed s r n 0xB8 c)
include h

theorem execAuditRead_gone (hgone : AuditGone s c) : execAuditRead r n s = .next (s.finish r n St.notFound) :=
  (onCmd_of_handed h _).trans (congrArg _ (if_pos (auditGone_iff.mpr hgone)))

variable (hthere : ¬ AuditGone s c)
include hthere

theorem execAuditRead_busy (hbm : auditFirst c < stagedFrom s) (hfar : auditHbm s = false) :
    execAuditRead r n s = .next (s.finish r n St.busy) := by
  refine (onCmd_of_handed h _).trans (congrArg _ ((if_neg (mt auditGone_iff.mp hthere)).trans (if_pos ?_)))
  rw [Bool.and_eq_true, decide_eq_true_eq, hfar]
  exact ⟨hbm, rfl⟩

theorem execAuditRead_reads (hnear : stagedFrom s ≤ auditFirst c) (hok : (auditSeqs s c).all (auditUnitOk s) = true) :
    execAuditRead r n s =
      let u := ((auditSeqs s c).filter (· < stagedFrom s)).foldl (fun s q => memPost s 9 (auditAddr q) false 4) s
      .next ((u.output c ((auditSeqs s c).flatMap fun q => bytesOf (auditUnit s q))).finish r n St.ok 0
        (auditFirst c + auditCount s c - 1)) := by
  refine (onCmd_of_handed h _).trans (congrArg _ ((if_neg (mt auditGone_iff.mp hthere)).trans ((if_neg ?_).trans (if_neg ?_))))
  · rw [Bool.and_eq_true, decide_eq_true_eq]
    exact fun hread => Nat.not_lt.mpr hnear hread.1
  · rw [Bool.not_eq_true', Bool.not_eq_false]
    exact hok

/-- A read from staging posts nothing to HBM and meets no tile check. -/
theorem execAuditRead_staged (hstaged : stagedFrom s ≤ auditFirst c) :
    execAuditRead r n s =
      .next ((s.output c ((List.range (auditCount s c)).flatMap fun i => bytesOf (auditUnit s (auditFirst c + i)))).finish r n St.ok 0
        (auditFirst c + auditCount s c - 1)) := by
  have hall : (auditSeqs s c).all (auditUnitOk s) = true :=
    List.all_eq_true.mpr fun q hq => auditUnitOk_staged (hstaged.trans (auditSeqs_ge hq))
  have hnone : (auditSeqs s c).filter (· < stagedFrom s) = [] :=
    List.filter_eq_nil_iff.mpr fun q hq => by simpa using hstaged.trans (auditSeqs_ge hq)
  rw [execAuditRead_reads h hthere hstaged hall, hnone, auditSeqs, List.flatMap_map]
  rfl

end Read

section Release

variable (h : Handed s r n 0xB9 c)
include h

theorem execAuditRelease_gone (hgone : AuditGone s c) :
    execAuditRelease r n s =
      .next ((auditCmd s r c 9 St.notFound (bytesLE 8 (auditFirst c))).finish r n St.notFound) :=
  (onCmd_of_handed h _).trans (congrArg _ (if_pos (auditGone_iff.mpr hgone)))

theorem execAuditRelease_releases (hthere : ¬ AuditGone s c) :
    execAuditRelease r n s =
      let u := { s with hmk := { s.hmk with
        released := auditFirst c + 1, staging := s.hmk.staging.drop (auditFirst c + 1 - stagedFrom s) } }
      .next ((auditCmd (if auditHeld u < 445644 then { u with hmk := { u.hmk with auditArmed := true } } else u)
        r c 9 St.ok (bytesLE 8 (auditFirst c))).finish r n St.ok) :=
  (onCmd_of_handed h _).trans (congrArg _ (if_neg (mt auditGone_iff.mp hthere)))

end Release

end Handed

section Events

variable {s : State}

/-! ### Records to HBM, windows of refusals and sessions that run out (R487, R491, R492) -/

section Staged

variable {u : Unit128} {us : List Unit128} (hstaged : s.hmk.staging = u :: us)
include hstaged

theorem execAuditRecordWrite_writes (hhbm : auditHbm s = true) :
    execAuditRecordWrite s =
      .next ((memPost { s with hmk := { s.hmk with staging := us } } 9 (auditAddr (stagedFrom s)) true 4).setUnit
        (auditAddr (stagedFrom s) / 128) u) := by
  simp only [execAuditRecordWrite, hstaged, hhbm, if_true]

theorem execAuditRecordWrite_waits (hhbm : auditHbm s = false) : execAuditRecordWrite s = .next s := by
  simp only [execAuditRecordWrite, hstaged, hhbm, Bool.false_eq_true, if_false]

end Staged

theorem execDeniedRecord_without_session {r : Fin 1024} {d : Denied} (hdenied : ffind? s.hmk.denied r.val = some d)
    (hnone : (s.reach (d.since + giga)).session? r = none) :
    execDeniedRecord r s =
      let u := s.reach (d.since + giga)
      .next (auditAdd { u with hmk := { u.hmk with denied := ferase u.hmk.denied r.val } }
        { kind := 4, fn := d.fn, ring := r.val, opcode := d.opcode, status := d.status, tag := d.tag
          subject := bytesLE 4 d.opcode ++ bytesLE 4 d.count }) := by
  simp only [execDeniedRecord, hdenied, hnone, Option.map_none, Option.getD_none]

section Session

variable {r : Fin 1024} {x : Session} (hsession : ffind? s.hmk.sessions r.val = some x) (hstands : s.tmu.counting = false)
include hsession hstands

theorem execSessionExpire_stands :
    execSessionExpire r s = .next (if s.tmu.tick < x.ends then s else sessionLapse s r) := by
  simp only [execSessionExpire, hsession, hstands, Bool.false_eq_true, if_false]

omit hstands in
theorem sessionLapse_ended (hended : x.ends ≤ s.tmu.tick) :
    sessionLapse s r =
      auditAdd { s with hmk := { s.hmk with sessions := ferase s.hmk.sessions r.val } }
        { sessRecord s r (some x) with subject := bytesLE 1 2 ++ bytesLE 4 x.lasts } := by
  simp only [sessionLapse, hsession, hended, if_true]
  rfl

end Session

/-! ### Re-verification (R479, R517) -/

/-- The pages in use of the clusters that are ON which fail, with their clusters. -/
def failingPages (s : State) : List (Nat × Nat) :=
  ((List.range 8).filter fun c => s.domain (domCluster c) == .on).flatMap fun c =>
    ((usedPages (s.cluster c)).filter (pageFails s c)).map fun p => (c, p)

/-- A pass has been made: it is counted, and no mismatch is known of it yet. -/
def passStarted (s : State) : State :=
  { s with hmk := { s.hmk with passes := (s.hmk.passes + 1) % 2 ^ 32, revMiss := false, revAt := s.ns } }

/-- The end of a pass: without a mismatch the cause of Solitaire mode is cleared. -/
def passEnded (s : State) : State :=
  if s.hmk.revMiss then s else { s with hlt := { s.hlt with active := s.hlt.active.filter (· != 2) } }

/-- Time when the next pass is due. -/
def passDue (s : State) : State := s.reach (s.hmk.revAt + 1000000 * s.rf Reg.HMK_REVERIFY_CTRL 15 0)

theorem execReverifyPass_not_run (hboot : s.hmk.boot ≠ 2) : execReverifyPass s = .next s := if_pos hboot

theorem execReverifyPass_run (hboot : s.hmk.boot = 2) :
    execReverifyPass s =
      .next (passEnded (reverifyOwn ((failingPages (passDue s)).foldl (fun s e => reverifyFail s e.1 e.2) (passStarted (passDue s))))) :=
  if_neg (not_not.mpr hboot)

/-- A list without duplicates of whose members one alone contributes. -/
theorem flatMap_eq_of_unique {α β : Type} {l : List α} {f : α → List β} {c : α} (hnodup : l.Nodup) (hmem : c ∈ l)
    (hrest : ∀ k ∈ l, k ≠ c → f k = []) : l.flatMap f = f c := by
  obtain ⟨as, bs, rfl⟩ := List.append_of_mem hmem
  rw [List.nodup_append, List.nodup_cons] at hnodup
  obtain ⟨-, ⟨hcbs, -⟩, hdisjoint⟩ := hnodup
  have has : as.flatMap f = [] := List.flatMap_eq_nil_iff.mpr fun k hk =>
    hrest k (List.mem_append_left _ hk) fun heq => hdisjoint k hk c List.mem_cons_self heq
  have hbs : bs.flatMap f = [] := List.flatMap_eq_nil_iff.mpr fun k hk =>
    hrest k (List.mem_append_right _ (List.mem_cons_of_mem _ hk)) fun heq => hcbs (heq ▸ hk)
  rw [List.flatMap_append, List.flatMap_cons, has, hbs, List.nil_append, List.append_nil]

theorem mem_clusters_on {c : Nat} :
    c ∈ ((List.range 8).filter fun c => s.domain (domCluster c) == .on) ↔ c < 8 ∧ s.domain (domCluster c) = .on := by
  rw [List.mem_filter, List.mem_range, beq_iff_eq]

theorem failingPages_none (h : ∀ c < 8, s.domain (domCluster c) = .on → usedPages (s.cluster c) = []) : failingPages s = [] :=
  List.flatMap_eq_nil_iff.mpr fun c hc => by
    obtain ⟨hlt, hon⟩ := mem_clusters_on.mp hc
    rw [h c hlt hon]
    rfl

theorem failingPages_one {c p : Nat} (hc : c < 8) (hon : s.domain (domCluster c) = .on) (hpage : usedPages (s.cluster c) = [p])
    (hrest : ∀ k < 8, k ≠ c → usedPages (s.cluster k) = []) :
    failingPages s = if pageFails s c p then [(c, p)] else [] := by
  refine (flatMap_eq_of_unique (List.nodup_range.filter _) (mem_clusters_on.mpr ⟨hc, hon⟩) fun k hk hne => ?_).trans ?_
  · rw [hrest k (mem_clusters_on.mp hk).1 hne]
    rfl
  · rw [hpage]
    cases hfails : pageFails s c p with
    | true => simp [hfails]
    | false => simp [hfails]

theorem execReverifyPass_no_pages (hboot : s.hmk.boot = 2)
    (hnone : ∀ c < 8, (passDue s).domain (domCluster c) = .on → usedPages ((passDue s).cluster c) = []) :
    execReverifyPass s = .next (passEnded (reverifyOwn (passStarted (passDue s)))) := by
  rw [execReverifyPass_run hboot, failingPages_none hnone]
  rfl

theorem execReverifyPass_one_page {c p : Nat} (hboot : s.hmk.boot = 2) (hc : c < 8) (hon : (passDue s).domain (domCluster c) = .on)
    (hpage : usedPages ((passDue s).cluster c) = [p]) (hrest : ∀ k < 8, k ≠ c → usedPages ((passDue s).cluster k) = []) :
    execReverifyPass s =
      let u := passStarted (passDue s)
      .next (passEnded (reverifyOwn (if pageFails (passDue s) c p then reverifyFail u c p else u))) := by
  rw [execReverifyPass_run hboot, failingPages_one hc hon hpage hrest]
  cases pageFails (passDue s) c p with
  | true => rfl
  | false => rfl

theorem reverifyOwn_whole (h : Config.sha512 s.hmk.firmware = s.hmk.ownDigest) : reverifyOwn s = s := if_pos (beq_iff_eq.mpr h)

theorem reverifyOwn_changed (h : Config.sha512 s.hmk.firmware ≠ s.hmk.ownDigest) :
    reverifyOwn s = reverifyFail s.free.2 (s.free.1 % 256) (s.free.1 / 256 % 256) := if_neg (mt beq_iff_eq.mp h)

/-! ### The random source (R473, R519) -/

theorem execRngHealthPass_again (h : s.hmk.rngFail = true) :
    execRngHealthPass s = .next { s with hmk := { s.hmk with rngFail := false, reseeds := (s.hmk.reseeds + 1) % 2 ^ 16 } } := if_pos h

theorem execRngHealthPass_sound (h : s.hmk.rngFail = false) : execRngHealthPass s = .next s := if_neg (Bool.eq_false_iff.mp h)

/-! ### No fault and no refusal -/

theorem execAuditRecordWrite_next (s : State) : ∃ t, execAuditRecordWrite s = .next t := by
  unfold execAuditRecordWrite
  dsimp only
  repeat' split
  all_goals exact ⟨_, rfl⟩

theorem execSessionExpire_next (r : Fin 1024) (s : State) : ∃ t, execSessionExpire r s = .next t := by
  unfold execSessionExpire
  dsimp only
  split
  · exact ⟨_, rfl⟩
  · exact ⟨_, rfl⟩

theorem execDeniedRecord_next (r : Fin 1024) (s : State) : ∃ t, execDeniedRecord r s = .next t := by
  unfold execDeniedRecord
  dsimp only
  split
  · exact ⟨_, rfl⟩
  · exact ⟨_, rfl⟩

end Events

end Sys2Proof.Machine

open Sys2Proof Sys2Proof.Machine

/-- Settles O59: the commands of the audit log, then the events that Hallmark watches for. -/
theorem auditAndWatch : Obligations.AuditAndWatch := by
  unfold Obligations.AuditAndWatch
  refine ⟨fun s r n => ⟨onCmd_next s r n _ _, onCmd_next s r n _ _, onCmd_next s r n _ _⟩,
    fun s => ⟨⟨_, rfl⟩, ite_answers _ _, execAuditRecordWrite_next s, ite_answers _ _⟩,
    fun s r => ⟨execSessionExpire_next r s, execDeniedRecord_next r s⟩,
    fun s r n c => ⟨?_, ?_, ?_, ?_, ?_, ?_⟩, fun s u us hstaged => ⟨?_, ?_⟩, fun s r d hdenied hnone => ?_,
    fun s r x hsession hstands => ⟨fun hended => ?_, fun hopen => ?_⟩,
    fun s => ⟨execReverifyPass_not_run, fun hboot hnone => ?_, fun c p hboot hc hon hpage hrest => ?_, reverifyOwn_whole,
      reverifyOwn_changed, fun c p => rfl⟩,
    fun s => ⟨rfl, execRngHealthPass_again, execRngHealthPass_sound⟩⟩
  · exact execAuditRead_gone
  · exact fun h hkept hwritten hbm hfar => execAuditRead_busy h (not_auditGone hkept hwritten) hbm hfar
  · exact fun h hkept hwritten hstaged => execAuditRead_staged h (not_auditGone hkept hwritten) hstaged
  · exact execAuditRelease_gone
  · exact fun h hkept hwritten => execAuditRelease_releases h (not_auditGone hkept hwritten)
  · exact fun h => onCmd_of_handed h _
  · exact execAuditRecordWrite_writes hstaged
  · exact execAuditRecordWrite_waits hstaged
  · exact execDeniedRecord_without_session hdenied hnone
  · exact (execSessionExpire_stands hsession hstands).trans
      (congrArg _ ((if_neg (Nat.not_lt.mpr hended)).trans (sessionLapse_ended hsession hended)))
  · exact (execSessionExpire_stands hsession hstands).trans (congrArg _ (if_pos hopen))
  · exact execReverifyPass_no_pages hboot hnone
  · exact execReverifyPass_one_page hboot hc hon hpage hrest

end

/-! ## Power, temperature, the health record and Solitaire mode: O60 -/

section

namespace Sys2Proof.Machine

open Sys2Proof

/-! ### POWER_SET (R414, R501 to R503, R519) -/

/-- A POWER_SET without SHUTDOWN: the checks of R501 in order, then the transitions of the domains that do not stand in the state yet. -/
def powerSwitch (s : State) (r n : Nat) (mask : List Nat) (t : Pwr) : State :=
  if mask.any fun d => !domTakes d t then intRaise (s.badField r n 24) 0 3
  else if mask.any (domMoves s) then s
  else if mask.any fun d => !powerMet s mask t d then powerEnd s r n St.busy 0
  else
    let ds := mask.filter fun d => s.domain d != t
    if ds.isEmpty then powerEnd s r n St.ok 0
    else forAll (s.modCmd r n fun c => { c with phase := .running }) ds fun s d => domStart s t r n d

section Switch

variable {s : State} {r n : Nat} {mask : List Nat} {t : Pwr}

theorem powerSwitch_not_taken {d : Nat} (hd : d ∈ mask) (hno : domTakes d t = false) :
    powerSwitch s r n mask t = intRaise (s.badField r n 24) 0 3 :=
  if_pos (List.any_eq_true.mpr ⟨d, hd, by rw [hno]; rfl⟩)

variable (htakes : ∀ d ∈ mask, domTakes d t = true)
include htakes

theorem all_taken : ¬ (mask.any fun d => !domTakes d t) = true := by
  simpa using htakes

theorem powerSwitch_waits {d : Nat} (hd : d ∈ mask) (hmoves : domMoves s d = true) : powerSwitch s r n mask t = s :=
  (if_neg (all_taken htakes)).trans (if_pos (List.any_eq_true.mpr ⟨d, hd, hmoves⟩))

variable (hstill : ∀ d ∈ mask, domMoves s d = false)
include hstill

theorem powerSwitch_still :
    powerSwitch s r n mask t =
      if mask.any fun d => !powerMet s mask t d then powerEnd s r n St.busy 0
      else if (mask.filter fun d => s.domain d != t).isEmpty then powerEnd s r n St.ok 0
      else forAll (s.modCmd r n fun c => { c with phase := .running }) (mask.filter fun d => s.domain d != t) fun s d => domStart s t r n d := by
  refine (if_neg (all_taken htakes)).trans (if_neg ?_)
  simpa using hstill

theorem powerSwitch_busy {d : Nat} (hd : d ∈ mask) (hunmet : powerMet s mask t d = false) :
    powerSwitch s r n mask t = powerEnd s r n St.busy 0 :=
  (powerSwitch_still htakes hstill).trans (if_pos (List.any_eq_true.mpr ⟨d, hd, by rw [hunmet]; rfl⟩))

variable (hmet : ∀ d ∈ mask, powerMet s mask t d = true)
include hmet

omit htakes hstill in
theorem all_met : ¬ (mask.any fun d => !powerMet s mask t d) = true := by
  simpa using hmet

theorem powerSwitch_nothing (hthere : ∀ d ∈ mask, s.domain d = t) : powerSwitch s r n mask t = powerEnd s r n St.ok 0 := by
  refine (powerSwitch_still htakes hstill).trans ((if_neg (all_met hmet)).trans (if_pos ?_))
  rw [List.isEmpty_iff, List.filter_eq_nil_iff]
  simpa using hthere

/-- One domain that is named starts its transition. -/
theorem powerSwitch_one {d : Nat} (hone : mask = [d]) (haway : s.domain d ≠ t) :
    powerSwitch s r n mask t = domStart (s.modCmd r n fun c => { c with phase := .running }) t r n d := by
  have hstart : (mask.filter fun d => s.domain d != t) = [d] := by simp [hone, haway]
  rw [powerSwitch_still htakes hstill, if_neg (all_met hmet), hstart]
  rfl

end Switch

/-- A domain that is not ON starts its transition without losing anything. -/
theorem domStart_off {s : State} {t : Pwr} {r n d : Nat} (haway : s.domain d ≠ .on) :
    domStart s t r n d = { s with hlt := { s.hlt with moving := fset s.hlt.moving d ⟨t, r, n⟩ } } :=
  if_neg (mt beq_iff_eq.mp haway)

section Handed

variable {s : State} {r : Fin 1024} {n : Nat} {c : CmdEnt}

section PowerSet

variable (h : Handed s r n 0xD0 c)
include h

theorem execPowerSet_on (hto : fld c.desc 193 192 = 0) :
    execPowerSet r n s = .next (powerSwitch s r n (maskList 64 (fld c.desc 127 64)) .on) := by
  refine (onCmd_of_handed h _).trans (congrArg _ ?_)
  rw [hto]
  rfl

theorem execPowerSet_retain (hto : fld c.desc 193 192 = 1) :
    execPowerSet r n s = .next (powerSwitch s r n (maskList 64 (fld c.desc 127 64)) .retain) := by
  refine (onCmd_of_handed h _).trans (congrArg _ ?_)
  rw [hto]
  rfl

theorem execPowerSet_shutdown (hto : fld c.desc 193 192 = 2) (hshut : bit c.desc 194 = true) :
    execPowerSet r n s = .next (
      if fld c.desc 127 64 != 2 ^ 64 - 2 then intRaise (s.badField r n 8) 0 3
      else if (List.range 63).all fun i => sparesIdle (sparesAbandon s) (i + 1) then
        shutDown (intRaise (completeCmd ((sparesAbandon s).finish r n St.ok) r n) 0 3)
      else sparesAbandon s) := by
  refine (onCmd_of_handed h _).trans (congrArg _ ?_)
  rw [hto, hshut]
  rfl

section ShutDown

variable (hto : fld c.desc 193 192 = 2) (hshut : bit c.desc 194 = true) (hmask : fld c.desc 127 64 = 2 ^ 64 - 2)
include hto hshut hmask

theorem execPowerSet_shuts_down (hidle : ∀ i < 63, sparesIdle (sparesAbandon s) (i + 1) = true) :
    execPowerSet r n s = .next (shutDown (intRaise (completeCmd ((sparesAbandon s).finish r n St.ok) r n) 0 3)) := by
  rw [execPowerSet_shutdown h hto hshut, if_neg (mt bne_iff_ne.mp (not_not.mpr hmask)), if_pos]
  exact List.all_eq_true.mpr fun i hi => hidle i (List.mem_range.mp hi)

theorem execPowerSet_shut_waits (hbusy : ∃ i < 63, sparesIdle (sparesAbandon s) (i + 1) = false) :
    execPowerSet r n s = .next (sparesAbandon s) := by
  rw [execPowerSet_shutdown h hto hshut, if_neg (mt bne_iff_ne.mp (not_not.mpr hmask)), if_neg]
  intro hall
  obtain ⟨i, hi, hrun⟩ := hbusy
  exact Bool.false_ne_true (hrun.symm.trans (List.all_eq_true.mp hall i (List.mem_range.mpr hi)))

end ShutDown

end PowerSet

/-! ### SOLITAIRE_EXIT (R58, R356, R517, R518) -/

theorem accepted_of_handed {op : Nat} (h : Handed s r n op c) : c.phase = .accepted :=
  beq_iff_eq.mp (List.find?_some (p := fun c : CmdEnt => c.phase == .accepted) h.1)

section Exit

variable (h : Handed s r n 0xD2 c) (hcmd : s.cmd? r n = some c)
include h hcmd

theorem execSolitaireExit_checks :
    execSolitaireExit r n s =
      let u := s.modCmd r n fun c => { c with phase := .running }
      .next (if !exitAllowed s then endCmd s r n c St.busy 0 0
        else if !s.hlt.solo then endCmd s r n c St.ok 0 0
        else { u with hlt := { u.hlt with exiting := some (r.val, n) } }) := by
  have hphase : (CmdPhase.accepted == CmdPhase.running) = false := rfl
  simp only [execSolitaireExit, hcmd, accepted_of_handed h, hphase, Bool.false_and, Bool.false_eq_true, if_false]
  exact onCmd_of_handed h _

end Exit

theorem execSolitaireExit_ends (hcmd : s.cmd? r n = some c) (hrun : c.phase = .running) (hop : descOp c.desc = 0xD2) :
    execSolitaireExit r n s =
      .next (if s.hlt.exiting == some (r.val, n) then soloExit s r n c else endCmd s r n c St.busy 0 0) := by
  simp only [execSolitaireExit, hcmd, hrun, hop, beq_self_eq_true, Bool.and_self, if_true]

/-! ### KEEL_WRITE (R516) -/

section Keel

variable (h : Handed s r n 0xD3 c)
include h

theorem execKeelWrite_bad {e : BitVec 256} (he : e ∈ entriesOf 256 (fld c.desc 239 224) c.buf) (hbad : keelEntBad e = true) :
    execKeelWrite r n s = .next (endCmd s r n c St.badField 0xFF 0) :=
  (onCmd_of_handed h _).trans (congrArg _ (if_pos (List.any_eq_true.mpr ⟨e, he, hbad⟩)))

theorem execKeelWrite_one {e : BitVec 256} (hone : entriesOf 256 (fld c.desc 239 224) c.buf = [e]) (hgood : keelEntBad e = false) :
    execKeelWrite r n s =
      .next (if keelClash s (fld c.desc 223 208) e then endCmd s r n c St.exists_ 0 0
        else endCmd (keelPut s (fld c.desc 223 208) e) r n c St.ok 0 0) := by
  refine (onCmd_of_handed h _).trans (congrArg _ ((if_neg ?_).trans ?_))
  · rw [hone]
    simp [hgood]
  · rw [hone]
    simp only [List.zipIdx_cons, List.zipIdx_nil, List.foldl_cons, List.foldl_nil]
    split
    · rfl
    · rfl

end Keel

/-! ### HEALTH_RECORD_LOAD and BIST_RUN (R507, R509) -/

/-- A record is the device's own: its MAC and its IDENT. -/
def RecordOwn (s : State) (b : List Byte) : Prop := b.drop 0x140 = healthMac s (b.take 0x140) ∧ (b.drop 8).take 8 = identBytes s

theorem not_recordOwn_iff (b : List Byte) :
    ((b.drop 0x140) != healthMac s (b.take 0x140) || (b.drop 8).take 8 != identBytes s) = true ↔ ¬ RecordOwn s b := by
  rw [Bool.or_eq_true, bne_iff_ne, bne_iff_ne, RecordOwn, not_and_or]

section Record

variable (h : Handed s r n 0xD6 c)
include h

theorem execHealthRecordLoad_sealed (hsealed : s.pkg.sealed = true) : execHealthRecordLoad r n s = .next (s.finish r n St.busy) :=
  (onCmd_of_handed h _).trans (congrArg _ (if_pos hsealed))

variable (hopen : s.pkg.sealed = false)
include hopen

theorem execHealthRecordLoad_bad (hbad : healthBad (c.buf.take 384) = true) : execHealthRecordLoad r n s = .next (s.badField r n) :=
  (onCmd_of_handed h _).trans (congrArg _ ((if_neg (Bool.eq_false_iff.mp hopen)).trans (if_pos hbad)))

theorem execHealthRecordLoad_checks (hgood : healthBad (c.buf.take 384) = false) :
    execHealthRecordLoad r n s =
      let b := c.buf.take 384
      let u := forAll s (List.range 224) fun s g => groupLoad s g (recByte b (0x38 + g))
      let v := forAll u ((List.range 128).filter fun k => (natLE ((b.drop 0x118).take 16)).testBit k ||
        fget u.hlt.groups 0xFF k == 0xFE) blockQuarantine
      .next (if b.drop 0x140 = healthMac s (b.take 0x140) ∧ (b.drop 8).take 8 = identBytes s then
        { v with hlt := { v.hlt with healthLoaded := true } }.finish r n St.ok
        else s.finish r n St.authFail) := by
  refine (onCmd_of_handed h _).trans (congrArg _ ((if_neg (Bool.eq_false_iff.mp hopen)).trans
    ((if_neg (Bool.eq_false_iff.mp hgood)).trans ?_)))
  by_cases hown : RecordOwn s (c.buf.take 384)
  · exact (if_neg (mt (not_recordOwn_iff _).mp (not_not.mpr hown))).trans (if_pos hown).symm
  · exact (if_pos ((not_recordOwn_iff _).mpr hown)).trans (if_neg hown).symm

end Record

section Bist

variable {fs : BitVec 64} {ms : List (Nat × Nat)} (h : Handed s r n 0xD7 c)
include h

theorem execBistRun_busy {d : Nat} (hd : d ∈ maskList 64 (fld c.desc 127 64)) (hon : s.domain d ≠ .retain) :
    execBistRun r n fs ms s = .next (endCmd s r n c St.busy 0 0) := by
  refine (onCmd_of_handed h _).trans (congrArg _ (if_pos (List.any_eq_true.mpr ⟨d, hd, ?_⟩)))
  rw [bne_iff_ne.mpr hon, Bool.true_or]

theorem execBistRun_tests (hall : ∀ d ∈ maskList 64 (fld c.desc 127 64), s.domain d = .retain ∧ domMoves s d = false) :
    execBistRun r n fs ms s =
      let m := fld c.desc 127 64
      let ds := maskList 64 m
      let bad := ms.filter fun e => e.1 < 224 && e.2 ≤ groupMacros e.1 && ds.contains (groupDomain e.1)
      let u := forAll (bad.foldl (fun s e => bistMacro s e.1 e.2) s) ds bistLeave
      .next (endCmd (u.output c (healthRecord u)) r n c St.ok 0 (bad.foldl (fun k e => k ||| 2 ^ groupDomain e.1) (fs.toNat &&& m))) := by
  refine (onCmd_of_handed h _).trans (congrArg _ (if_neg ?_))
  simpa using hall

end Bist

end Handed

/-! ### Transitions that are done, and causes of Solitaire mode (R414, R503, R506, R511) -/

section Events

variable {s : State}

theorem others_wait_iff (u : State) (m : Moving) :
    (u.hlt.moving.any fun e => e.2.ring == m.ring && e.2.slot == m.slot) = true ↔
      ∃ e ∈ u.hlt.moving, e.2.ring = m.ring ∧ e.2.slot = m.slot := by
  simp only [List.any_eq_true, Bool.and_eq_true, beq_iff_eq]

section Arrive

variable {d : Fin 64} {m : Moving} (hmoving : ffind? s.hlt.moving d.val = some m) (hidle : m.target = .on ∨ sparesIdle s d = true)
include hmoving hidle

theorem execPowerTransitionDone_arrives :
    execPowerTransitionDone d s =
      let u := domArrive s d m.target
      .next (if u.hlt.moving.any fun e => e.2.ring == m.ring && e.2.slot == m.slot then u else powerEnd u m.ring m.slot St.ok 0) := by
  have hgo : ¬ (m.target != .on && !sparesIdle s d) = true := by
    rw [Bool.and_eq_true, bne_iff_ne, Bool.not_eq_true']
    rintro ⟨haway, hbusy⟩
    rcases hidle with hon | hrest
    · exact haway hon
    · exact Bool.false_ne_true (hbusy.symm.trans hrest)
  simp only [execPowerTransitionDone, hmoving]
  exact if_neg hgo

end Arrive

section Enter

variable {k : Fin 4} {r : Fin 1024} {n : Nat} (hcause : k.val < 3)
include hcause

theorem execSolitaireEnter_cause :
    execSolitaireEnter k r n s = .next (if causeHolds s k && !s.hlt.shutdown then soloEnter s k else s) :=
  if_neg hcause.ne

theorem execSolitaireEnter_holds (hup : s.hlt.shutdown = false) (hholds : causeHolds s k = true) :
    execSolitaireEnter k r n s = .next (soloEnter s k) := by
  refine (execSolitaireEnter_cause hcause).trans (congrArg _ (if_pos ?_))
  rw [hholds, hup]
  rfl

theorem execSolitaireEnter_nothing (hno : causeHolds s k = false) : execSolitaireEnter k r n s = .next s := by
  refine (execSolitaireEnter_cause hcause).trans (congrArg _ (if_neg ?_))
  rw [hno, Bool.false_and]
  exact Bool.false_ne_true

end Enter

/-! ### TEMP_SAMPLE (R505, R506) -/

/-- A sample is stored, with the highest readings so far. -/
def tempStored (v : State) (ts hs : List Int) : State :=
  let dt := tempPut v.hlt.dieTemp 16 ts
  let ht := tempPut v.hlt.hbmTemp 4 hs
  let peak := fun (p : Option Int) (t : Int) => some (max (p.getD t) t)
  { v with hlt := { v.hlt with
    tempAt := v.ns, dieTemp := dt, hbmTemp := ht, peakDie := if dt.isEmpty then none else peak v.hlt.peakDie (hottestOf dt 0)
    peakHbm := if ht.isEmpty then none else peak v.hlt.peakHbm (hottestOf ht 0) } }

/-- Time when the next sample is due. -/
def tempDue (s : State) : State := s.reach (s.hlt.tempAt + 100000)

/-- The thresholds act on the die's hottest reading. -/
def thermAct (s : State) (die : Int) : State := thermCrit (thermTrip (thermWarn s die) die) die

theorem execTempSample_acts {ts hs : List Int} (hout : s.pkg.inReset = false) (hsome : tempPut (tempDue s).hlt.dieTemp 16 ts ≠ []) :
    execTempSample ts hs s =
      let u := tempStored (tempDue s) ts hs
      .next (thermAct (if (tempDue s).hlt.shutdown then u else forAll u (List.range 4) stackHot)
        (hottestOf (tempPut (tempDue s).hlt.dieTemp 16 ts) 0)) :=
  (if_neg (Bool.eq_false_iff.mp hout)).trans (if_neg (mt List.isEmpty_iff.mp hsome))

end Events

/-! ### No fault and no refusal -/

theorem execSolitaireExit_next (r : Fin 1024) (n : Nat) (s : State) : ∃ t, execSolitaireExit r n s = .next t := by
  unfold execSolitaireExit
  split
  case h_1 c _ =>
    split
    · exact ⟨_, rfl⟩
    · exact onCmd_next s r n _ _
  case h_2 => exact ⟨_, rfl⟩

theorem execPowerTransitionDone_next (d : Fin 64) (s : State) : ∃ t, execPowerTransitionDone d s = .next t := by
  unfold execPowerTransitionDone
  dsimp only
  repeat' split
  all_goals exact ⟨_, rfl⟩

theorem execSolitaireEnter_next (k : Fin 4) (r : Fin 1024) (n : Nat) (s : State) : ∃ t, execSolitaireEnter k r n s = .next t := by
  unfold execSolitaireEnter
  split
  · exact onCmd_next s r n _ _
  · exact ⟨_, rfl⟩

theorem execTempSample_next (ts hs : List Int) (s : State) : ∃ t, execTempSample ts hs s = .next t := by
  unfold execTempSample
  dsimp only
  repeat' split
  all_goals exact ⟨_, rfl⟩

end Sys2Proof.Machine

open Sys2Proof Sys2Proof.Machine

/-- Settles O60: the commands of power, Solitaire mode, the keel table, the health record and BIST, then the events. -/
theorem powerHealthAndSolitaire : Obligations.PowerHealthAndSolitaire := by
  unfold Obligations.PowerHealthAndSolitaire
  have htakesOn (ds : List Nat) : ∀ d ∈ ds, domTakes d .on = true := fun _ _ => rfl
  refine ⟨fun s r n => ⟨onCmd_next s r n _ _, execSolitaireExit_next r n s, onCmd_next s r n _ _, onCmd_next s r n _ _,
      onCmd_next s r n _ _, onCmd_next s r n _ _⟩,
    fun s d => execPowerTransitionDone_next d s, fun s k r n => execSolitaireEnter_next k r n s,
    fun s r n fs ms => onCmd_next s r n _ _, fun s ts hs => execTempSample_next ts hs s,
    fun s r n c => ⟨fun h hto hstill hmet => ⟨?_, ?_⟩, ?_, ?_, ?_, ?_, fun h hto hshut hmask => ⟨?_, ?_⟩, ?_, ?_,
      fun h hcmd => ⟨?_, ?_, ?_⟩, fun hcmd hrun hop => ⟨?_, ?_⟩, ?_, ?_, ?_, ?_, ?_, ?_, ?_, fun fs ms => ⟨?_, ?_⟩⟩,
    fun s d m hmoving hidle => ⟨?_, ?_⟩, fun s k r n hcause hup => ⟨?_, ?_⟩, fun s ts hs hout _ => ⟨?_, ?_⟩⟩
  · exact fun hthere => (execPowerSet_on h hto).trans (congrArg _ (powerSwitch_nothing (htakesOn _) hstill hmet hthere))
  · exact fun d hone haway => (execPowerSet_on h hto).trans
      (congrArg _ ((powerSwitch_one (htakesOn _) hstill hmet hone haway).trans (domStart_off haway)))
  · exact fun d hd h hto hmoves => (execPowerSet_on h hto).trans (congrArg _ (powerSwitch_waits (htakesOn _) hd hmoves))
  · exact fun d hd h hto hstill hunmet => (execPowerSet_on h hto).trans (congrArg _ (powerSwitch_busy (htakesOn _) hstill hd hunmet))
  · exact fun d hd h hto hno => (execPowerSet_retain h hto).trans (congrArg _ (powerSwitch_not_taken hd hno))
  · exact fun h hto hshut hmask => (execPowerSet_shutdown h hto hshut).trans (congrArg _ (if_pos (bne_iff_ne.mpr hmask)))
  · exact execPowerSet_shuts_down h hto hshut hmask
  · exact execPowerSet_shut_waits h hto hshut hmask
  · intro d h hto hone htakes hstill hmet haway
    refine (execPowerSet_retain h hto).trans (congrArg _ (powerSwitch_one ?_ ?_ ?_ hone haway))
    · simpa [hone] using htakes
    · simpa [hone] using hstill
    · rw [hone] at hmet ⊢
      simpa using hmet
  · exact fun h => onCmd_of_handed h _
  · intro hno
    refine (execSolitaireExit_checks h hcmd).trans (congrArg _ (if_pos ?_))
    rw [hno]
    rfl
  · intro hallowed hout
    refine (execSolitaireExit_checks h hcmd).trans (congrArg _ ((if_neg ?_).trans (if_pos ?_)))
    · rw [hallowed]
      exact Bool.false_ne_true
    · rw [hout]
      rfl
  · intro hallowed hsolo
    refine (execSolitaireExit_checks h hcmd).trans (congrArg _ ((if_neg ?_).trans (if_neg ?_)))
    · rw [hallowed]
      exact Bool.false_ne_true
    · rw [hsolo]
      exact Bool.false_ne_true
  · exact fun hexit => (execSolitaireExit_ends hcmd hrun hop).trans (congrArg _ (if_pos (beq_iff_eq.mpr hexit)))
  · exact fun hother => (execSolitaireExit_ends hcmd hrun hop).trans (congrArg _ (if_neg (mt beq_iff_eq.mp hother)))
  · exact fun e he h hbad => execKeelWrite_bad h he hbad
  · exact fun e h hone hgood => execKeelWrite_one h hone hgood
  · exact fun h => onCmd_of_handed h _
  · exact fun h => onCmd_of_handed h _
  · exact execHealthRecordLoad_sealed
  · exact execHealthRecordLoad_bad
  · exact execHealthRecordLoad_checks
  · exact fun d hd h hon => execBistRun_busy h hd hon
  · exact fun h hall => execBistRun_tests h hall
  · exact fun hlast => (execPowerTransitionDone_arrives hmoving hidle).trans (congrArg _ (if_neg (mt (others_wait_iff _ _).mp
      fun ⟨e, he, hring, hslot⟩ => (hlast e he).elim (· hring) (· hslot))))
  · exact fun hwait => (execPowerTransitionDone_arrives hmoving hidle).trans (congrArg _ (if_pos ((others_wait_iff _ _).mpr hwait)))
  · exact execSolitaireEnter_holds hcause hup
  · exact execSolitaireEnter_nothing hcause
  · exact fun hdown hsome => (execTempSample_acts hout hsome).trans (congrArg _ (congrArg (thermAct · _) (if_pos hdown)))
  · exact fun hrun hsome =>
      (execTempSample_acts hout hsome).trans (congrArg _ (congrArg (thermAct · _) (if_neg (Bool.eq_false_iff.mp hrun))))

end
